-- ==== Sys2Proof/Word.lean ====
section
/-! DEFINITION. The word types and the closed name sets of the Z1: registers, guards, rounding modes, formats and the operand
shapes that the forms of R169 carry. Plain data only; every behaviour that a test could question is in Decode.lean or Machine/. -/

namespace Sys2Proof

/-- A 64-bit g register (R187). -/
abbrev Word := BitVec 64
/-- One instruction word (R165). -/
abbrev IWord := BitVec 32
/-- A 64-byte line (R79), element 0 in the low bits (R246). -/
abbrev Line := BitVec 512
/-- A block descriptor or vector tag (R79, R85). -/
abbrev Desc := BitVec 32
/-- A g register number (R176). -/
abbrev GReg := BitVec 5
/-- A p register number (R176). -/
abbrev PReg := BitVec 3
/-- A v register number (R176). -/
abbrev VReg := BitVec 4
/-- An m register number (R176). -/
abbrev MReg := BitVec 2
/-- A hardware thread number, 0..3 (R31). -/
abbrev Tid := Fin 4

/-- Logical tile coordinates (R6): x in 0..1023 and y in 0..1119 on the grid. -/
structure Coord where
  x : Nat
  y : Nat
  deriving DecidableEq, Repr, Inhabited

/-- The guard of an X form (R172): GP = 0 with NEG = 0 leaves the instruction unguarded. -/
structure Guard where
  neg : Bool
  gp : PReg
  deriving DecidableEq, Repr, Inhabited

/-- No guard. -/
def Guard.none : Guard := ⟨false, 0⟩

/-- Rounding modes 0..5 (R86). -/
inductive RMode where
  | rne | rtz | rup | rdn | rna | rsr
  deriving DecidableEq, Repr, Inhabited

/-- Line formats (R80). -/
inductive Fmt where
  | raw | fp32 | bf16 | fp16 | e4m3 | e5m2 | e2m1 | int8 | uint8 | int16 | int32 | node
  deriving DecidableEq, Repr, Inhabited

/-- Scalar format codes (R195). -/
inductive FpCode where
  | f64 | f32 | f16 | bf16 | e4m3 | e5m2 | e2m1 | i32 | u32 | i64 | u64
  deriving DecidableEq, Repr, Inhabited

/-- The floating formats of R69. -/
inductive FpFmt where
  | fp64 | fp48 | fp32 | bf16 | fp16 | e4m3 | e5m2 | e2m1
  deriving DecidableEq, Repr, Inhabited

/-- The operations of major 0x01 that exist in both forms (R190). -/
inductive AluOp where
  | add | sub | and | or | xor | andn | sll | srl | sra | rol | ror | min | max | minu | maxu
  | mul | mulh | mulhu | mulhsu | div | divu | rem | remu | addsat | subsat
  | clz | ctz | popc | sextB | sextH | sextW | zextB | zextH | zextW
  | cmpEq | cmpNe | cmpLt | cmpGe | cmpLtu | cmpGeu | tst
  deriving DecidableEq, Repr, Inhabited

/-- The conditions of CMP, CMPI and TST (R190, R194). -/
inductive Cond where
  | eq | ne | lt | ge | ltu | geu | tst
  deriving DecidableEq, Repr, Inhabited

/-- The FP ALU operations that exist in both forms (R197). -/
inductive FpOp where
  | fadd | fsub | fmul | fdiv | fsqrt | fmin | fmax | fneg | fabs | fsgnj | feq | flt | fle | funord | fclass
  deriving DecidableEq, Repr, Inhabited

/-- Second operand of an integer X form (R189): SUB = 0 or 1. -/
inductive Src2 where
  | reg (b : GReg)
  | imm (i : BitVec 32)
  deriving DecidableEq, Repr, Inhabited

/-- The operand that an L = 11 literal can replace (R171, R196, R224, R267). -/
inductive RegLit where
  | reg (r : GReg)
  | lit (v : Word)
  deriving DecidableEq, Repr, Inhabited

/-- What the FP X forms add (R196): a guard and a static rounding mode. -/
structure FpX where
  guard : Guard
  mode : Option RMode
  deriving DecidableEq, Repr, Inhabited

/-- Addressing of the X forms of LD and ST (R210). -/
inductive AddrMode where
  | off (i : BitVec 32)
  | idx (c : GReg)
  | post (i : BitVec 32)
  deriving DecidableEq, Repr, Inhabited

/-- The offset of a device operand (R214): imm32, or the literal with L = 11. -/
inductive DevOff where
  | imm (i : BitVec 32)
  | lit (v : Word)
  deriving DecidableEq, Repr, Inhabited

/-- The space of a TGT 2 operand (R214): imm16, or ge[15:0] with SUB = 1. -/
inductive SpaceSel where
  | imm (i : BitVec 16)
  | reg (e : GReg)
  deriving DecidableEq, Repr, Inhabited

/-- The target of an AMO or WAITV (R214): TGT 0, 1 or 2. -/
inductive Target where
  | loc
  | glob
  | ext (sp : SpaceSel)
  deriving DecidableEq, Repr, Inhabited

/-- The fields of LDG, STG, LDX and STX but for the space (R216). -/
structure DevArgs where
  guard : Guard
  sz : BitVec 3
  d : GReg
  a : GReg
  off : DevOff
  deriving DecidableEq, Repr, Inhabited

/-- The fields of an AMO but for its OP (R218); c is used by CAS only. -/
structure AmoArgs where
  guard : Guard
  w : Bool
  tgt : Target
  off : DevOff
  d : GReg
  a : GReg
  b : GReg
  deriving DecidableEq, Repr, Inhabited

/-- The AMO operations (R219). -/
inductive AmoOp where
  | add | and | or | xor | swap | cas | min | max | minu | maxu | fadd | fmin | fmax
  deriving DecidableEq, Repr, Inhabited

/-- The CTL word of SEND and SENDI (R224). -/
structure Ctl where
  named : Bool
  narrow : Bool
  nsucc : BitVec 3
  len : BitVec 4
  vc : BitVec 4
  entry : BitVec 10
  deriving DecidableEq, Repr, Inhabited

/-- The second source of a vector X form (R252): SUB selects v or g. -/
inductive VSrc where
  | v (b : VReg)
  | g (b : GReg)
  deriving DecidableEq, Repr, Inhabited

/-- What the X form adds to a vector arithmetic instruction (R252); `c` is the addend of major 0x22 and 0 elsewhere. -/
structure VX where
  guard : Guard
  zero : Bool
  rm : Option RMode
  e : MReg
  c : VReg
  rfmt : Option Fmt
  deriving DecidableEq, Repr, Inhabited

/-- What the X form adds to VLD and VST (R263). -/
structure VMemX where
  guard : Guard
  zero : Bool
  e : MReg
  imm : BitVec 32
  dsc : Option GReg
  deriving DecidableEq, Repr, Inhabited

/-- The element index of VEXT and VINS (R275). -/
inductive VIdx where
  | reg (b : GReg)
  | imm (i : BitVec 7)
  deriving DecidableEq, Repr, Inhabited

/-- The shared fields of MMAC, MMACT and MREC (R283), MSPL, MSPLD and MSGRAD (R316). -/
structure StreamArgs where
  guard : Guard
  a : GReg
  stride : BitVec 10
  r0 : BitVec 6
  nr1 : BitVec 6
  deriving DecidableEq, Repr, Inhabited

/-- The node classes of R329. -/
inductive NodeClass where
  | c64 | c128 | c256
  deriving DecidableEq, Repr, Inhabited

/-- The engines of a tile (R52). -/
inductive Engine where
  | matrix | vector | copy | tree
  deriving DecidableEq, Repr, Inhabited

/-- A management command (R383): the fields of its payload that the operation uses, and the agent to answer. -/
structure MgmtCmd where
  thread : Tid
  reg : BitVec 12
  seq : BitVec 32
  value : Word
  /-- The issuing agent: hart h of gallery f is 16·f + h. -/
  agent : Nat
  deriving DecidableEq, Repr, Inhabited

/-- A packet as it would lie in an inbox (R124, R369), and the sideband marks of R125. -/
structure Packet where
  word0 : Word
  word1 : Word
  payload : List Word
  /-- The system mark (R125): injected by a tile with HALL.SYS = 1. -/
  sys : Bool
  deriving DecidableEq, Repr, Inhabited

/-- The privilege modes of a gallery hart (R373). -/
inductive HartMode where
  | m | hs | u | vs | vu
  deriving DecidableEq, Repr, Inhabited

/-- The CSRs of a hart that the manual speaks of (R373, R374, R377, R417). An interrupt file is numbered as in R377: 0 M, 1 S, 2 to 5 the
guest files; `k` picks 64 of its identities. -/
inductive HartCsr where
  | mhartid | time | mstatus | sstatus | vsstatus | stimecmp | vstimecmp | satp | vsatp | hgatp
  | eidelivery (file : Nat)
  | eithreshold (file : Nat)
  | eip (file k : Nat)
  | eie (file k : Nat)
  | topei (file : Nat)
  deriving DecidableEq, Repr, Inhabited

/-- What a gallery hart does that the rest of the wafer can see: its accesses (R375), its FENCE (R162), HFENCE.GVMA and the CSRs of its
interrupts and translation, and a change of mode (R373). Its own instructions are those of another processor. `debug` is the same access
made over the RISC-V debug transport (R472): an abstract command, or a system bus access. -/
inductive HartAccess where
  | load (n : Nat)
  | store (n : Nat) (v : Word)
  | amo (op : AmoOp) (n : Nat) (v c : Word)
  | fetch
  | fence
  | hfence (vmid : Nat)
  | csrRead (r : HartCsr)
  | csrWrite (r : HartCsr) (v : Word)
  | enter (mode : HartMode)
  | debug (k : HartAccess)
  deriving DecidableEq, Repr, Inhabited

/-- A request of a PCI Express device to its IOMMU (R418): its data is little-endian, and `ro` is the Relaxed Ordering attribute (R163).
The ID-Based Ordering attribute, `ido`, is ignored. -/
structure DevReq where
  rid : BitVec 16
  addr : Word
  write : Option Nat
  bytes : Nat
  pasid : Bool
  translated : Bool
  ro : Bool
  ido : Bool
  deriving DecidableEq, Repr, Inhabited

/-- What a field's sensors read at a marker (R441): the hottest sensor in °C and the greatest block power estimate in 0.25 W. -/
structure Reading where
  field : Nat
  tmax : BitVec 8
  power : Nat
  deriving DecidableEq, Repr, Inhabited

/-- A landing, or a place of a stair that carries no logical place: its field, its stair 128·band + column (R17, R451) and its place. -/
structure Landing where
  field : Nat
  stair : Nat
  place : Nat
  deriving DecidableEq, Repr, Inhabited

/-- What Pralodun's tests find at a boot (R444, R459, R461): self-test, calibration and training are inputs of the model. `failed` are the
logical positions whose tile or router fails, `places` the failing places that carry no position, `links` the positions that a failing
link cuts off, and `ports` the edge ports whose memory training fails; `completed` says that full self-test came to its end, and
`retained` that edge memory kept its contents. -/
structure BootFindings where
  selfTestField0 : Bool
  calibrated : Bool
  completed : Bool
  failed : List Coord
  places : List Landing
  links : List Coord
  ports : List Nat
  powerCycle : Bool
  retained : Bool
  deriving DecidableEq, Repr, Inhabited

/-- A tile section of a placement record after its chunks are parsed (R64); `off` is its byte offset in the record. A chunk that the
section lacks leaves its lists empty and its registers none. -/
structure TileSection where
  off : Nat
  x : Nat
  y : Nat
  name : BitVec 32
  isram : List (Nat × IWord)
  dsram : List (Nat × BitVec 8)
  desc : List (Nat × Desc)
  cells : List (Nat × Line × Desc)
  entryBase : Option Word
  entries : List Word
  knots : List (Nat × BitVec 128)
  /-- thread; stack top, SLIM, RSBASE, RSLIM, RMODE, TCM; REDPIN flag -/
  threads : List (Tid × List Word × Bool)
  /-- channel, QMIN, QCAP -/
  qlim : List (Nat × Nat × Nat)
  vcw : Option Word
  budget : Option Word
  tileregs : List (BitVec 12 × Word)
  deriving DecidableEq, Repr, Inhabited

/-- What a placement record holds (R64), with its initial packets: position, wave and packet. -/
structure Placement where
  features : BitVec 128
  width : Nat
  height : Nat
  nlines : Nat
  kitew : BitVec 16
  rent : Nat
  tiles : List TileSection
  packets : List (Nat × Nat × Nat × Packet)
  deriving DecidableEq, Repr, Inhabited

/-- What the JTAG port shifts (R472): an unlock token, which verifies or does not; IDCODE; BYPASS with the bit shifted in; or a boundary
scan. -/
inductive JtagScan where
  | unlock (valid : Bool)
  | idcode
  | bypass (bit : Bool)
  | sample
  deriving DecidableEq, Repr, Inhabited

/-- What a remote wafer sends to a bridge (R228, R465): a packet, or a decrement packet for a name. -/
inductive Inbound where
  | packet (k : Packet)
  | decr (name : BitVec 32) (vc : BitVec 4) (addr : Word) (amount : Nat)
  deriving DecidableEq, Repr, Inhabited

/-- What a steward launches (R61, R65): the hall's tenant and the placement record, byte by byte. -/
structure LaunchOrder where
  tenant : Nat
  record : List (BitVec 8)
  deriving DecidableEq, Repr, Inhabited

end Sys2Proof
end

