-- ==== Sys2Proof/Config.lean ====
section
/-! DEFINITION. What is fixed for every Z1: the wafer's dimensions and unit counts. The opaque constants
are free values: what a module fixes or the manual leaves open. Order also varies; the agenda of State carries that. -/

namespace Sys2Proof.Config

/-- Columns of the logical grid (R14). -/
def gridW : Nat := 1024
/-- Rows of the logical grid (R14). -/
def gridH : Nat := 1120
/-- Edge memory ports (R25). -/
def edgePorts : Nat := 96
/-- PCI Express root ports (R29). -/
def rootPorts : Nat := 4
/-- Ultra Ethernet ports (R29). -/
def uePorts : Nat := 32
/-- Fields and galleries (R12). -/
def fields : Nat := 80
/-- Hop limit of a packet (R122). -/
def hopLimit : Nat := 4096
/-- Features the firmware offers (R463): bits 0..6. -/
def featuresOffered : BitVec 128 := 0x7F
/-- What JTAG IDCODE reads (R472): the manual gives no value, so it is free (DESIGN CHOICE, log 7). -/
opaque idcode : BitVec 32
/-- What a boundary scan reads of the module's pins, which are no part of this model: free (R472; DESIGN CHOICE, log 7). -/
opaque pins (n : Nat) : Word
/-- What the tests of the boot after the n-th watchdog reset find (R459, R460): free (DESIGN CHOICE, log 64). -/
opaque findings (n : Nat) : BootFindings
/-- Hart, file and interrupt identity of the MSI that a gallery raises for a call record, by field and tenant: the manual names none
(R392; DESIGN CHOICE, log 19). -/
opaque ringMsi (f t : Nat) : Nat × Nat × Nat
/-- File and interrupt identity of the MSI for a command answer, by agent (R392; DESIGN CHOICE, log 19). -/
opaque answerMsi (agent : Nat) : Nat × Nat

end Sys2Proof.Config
end

