-- ==== Sys2Proof/Syntax.lean ====
section
/-! DEFINITION. The abstract syntax: one constructor for each row of spec/opcode_table.json, in the table's order. Instruction rows
carry the fields their forms give (R169); an X form whose row is the same as its R form carries it as an `Option`. Event rows (the
machine's own steps and the outside world's) carry what names them; they act on the focus tile or on the unit they name. -/

namespace Sys2Proof

/-- One constructor per row of spec/opcode_table.json. -/
inductive Instr where
  -- Integer ALU, R form (R189, R190, R191)
  | add (d a b : GReg)
  | sub (d a b : GReg)
  | and (d a b : GReg)
  | or (d a b : GReg)
  | xor (d a b : GReg)
  | andn (d a b : GReg)
  | sll (d a b : GReg)
  | srl (d a b : GReg)
  | sra (d a b : GReg)
  | rol (d a b : GReg)
  | ror (d a b : GReg)
  | min (d a b : GReg)
  | max (d a b : GReg)
  | minu (d a b : GReg)
  | maxu (d a b : GReg)
  | mul (d a b : GReg)
  | mulh (d a b : GReg)
  | mulhu (d a b : GReg)
  | mulhsu (d a b : GReg)
  | div (d a b : GReg)
  | divu (d a b : GReg)
  | rem (d a b : GReg)
  | remu (d a b : GReg)
  | addsat (d a b : GReg)
  | subsat (d a b : GReg)
  | clz (d a : GReg)
  | ctz (d a : GReg)
  | popc (d a : GReg)
  | sextB (d a : GReg)
  | sextH (d a : GReg)
  | sextW (d a : GReg)
  | zextB (d a : GReg)
  | zextH (d a : GReg)
  | zextW (d a : GReg)
  | cmpEq (d : PReg) (a b : GReg)
  | cmpNe (d : PReg) (a b : GReg)
  | cmpLt (d : PReg) (a b : GReg)
  | cmpGe (d : PReg) (a b : GReg)
  | cmpLtu (d : PReg) (a b : GReg)
  | cmpGeu (d : PReg) (a b : GReg)
  | tst (d : PReg) (a b : GReg)
  | sel (gd : Guard) (d a : GReg) (s : Src2) (c : PReg)
  | integerAluXForm (op : AluOp) (gd : Guard) (d a : GReg) (s : Src2)
  -- Immediates and literals (R192, R193, R194)
  | addi (d a : GReg) (i : BitVec 14)
  | andi (d a : GReg) (i : BitVec 14)
  | ori (d a : GReg) (i : BitVec 14)
  | xori (d a : GReg) (i : BitVec 14)
  | li (d : GReg) (i : BitVec 14)
  | addiLiteral (d a : GReg) (v : Word)
  | andiLiteral (d a : GReg) (v : Word)
  | oriLiteral (d a : GReg) (v : Word)
  | xoriLiteral (d a : GReg) (v : Word)
  | liLiteral (d : GReg) (v : Word)
  | slli (d a : GReg) (n : BitVec 6)
  | srli (d a : GReg) (n : BitVec 6)
  | srai (d a : GReg) (n : BitVec 6)
  | rori (d a : GReg) (n : BitVec 6)
  | cmpiEq (d : PReg) (a : GReg) (k : BitVec 11)
  | cmpiNe (d : PReg) (a : GReg) (k : BitVec 11)
  | cmpiLt (d : PReg) (a : GReg) (k : BitVec 11)
  | cmpiGe (d : PReg) (a : GReg) (k : BitVec 11)
  | cmpiLtu (d : PReg) (a : GReg) (k : BitVec 11)
  | cmpiGeu (d : PReg) (a : GReg) (k : BitVec 11)
  | cmpiTst (d : PReg) (a : GReg) (k : BitVec 11)
  -- Scalar floating point (R195 to R200); f is the format code 0..3
  | fadd (f : BitVec 2) (d a b : GReg)
  | fsub (f : BitVec 2) (d a b : GReg)
  | fmul (f : BitVec 2) (d a b : GReg)
  | fdiv (f : BitVec 2) (d a b : GReg)
  | fsqrt (f : BitVec 2) (d a : GReg)
  | fmin (f : BitVec 2) (d a b : GReg)
  | fmax (f : BitVec 2) (d a b : GReg)
  | fneg (f : BitVec 2) (d a : GReg)
  | fabs (f : BitVec 2) (d a : GReg)
  | fsgnj (f : BitVec 2) (d a b : GReg)
  | fma (x : FpX) (f : BitVec 2) (d a : GReg) (b : RegLit) (c : GReg)
  | fms (x : FpX) (f : BitVec 2) (d a : GReg) (b : RegLit) (c : GReg)
  | fnma (x : FpX) (f : BitVec 2) (d a : GReg) (b : RegLit) (c : GReg)
  | feq (f : BitVec 2) (d : PReg) (a b : GReg)
  | flt (f : BitVec 2) (d : PReg) (a b : GReg)
  | fle (f : BitVec 2) (d : PReg) (a b : GReg)
  | funord (f : BitVec 2) (d : PReg) (a b : GReg)
  | fclass (f : BitVec 2) (d a : GReg)
  | fpAluXForm (op : FpOp) (x : FpX) (f : BitVec 2) (d a : GReg) (b : RegLit)
  | fcvt (u v : FpCode) (d a : GReg)
  | fround (v : FpCode) (d a : GReg)
  | fpConvertXForm (u v : FpCode) (rnd : Bool) (x : FpX) (d a : GReg)
  -- Control transfer (R202 to R207)
  | br (p : PReg) (neg hint : Bool) (off : BitVec 19)
  | jmp (off : BitVec 24)
  | call (off : BitVec 24)
  | jmpr (a : GReg)
  | callr (a : GReg)
  | ret
  | loop (a : GReg) (n : BitVec 10)
  -- Predicates (R201)
  | pand (d a b : PReg)
  | por (d a b : PReg)
  | pxor (d a b : PReg)
  | pandn (d a b : PReg)
  | pnot (d a : PReg)
  | ppack (d : GReg)
  | punpk (a : GReg)
  -- Local loads and stores (R210, R211)
  | ld (sz : BitVec 3) (d a : GReg) (off : BitVec 11)
  | st (sz : BitVec 3) (d a : GReg) (off : BitVec 11)
  | ldXForm (gd : Guard) (sz : BitVec 3) (d a : GReg) (m : AddrMode)
  | stXForm (gd : Guard) (sz : BitVec 3) (d a : GReg) (m : AddrMode)
  -- Global and edge accesses, atomics, WAITV (R214 to R223)
  | ldg (x : DevArgs)
  | stg (x : DevArgs)
  | ldx (x : DevArgs) (sp : SpaceSel)
  | stx (x : DevArgs) (sp : SpaceSel)
  | amoAdd (x : AmoArgs)
  | amoAnd (x : AmoArgs)
  | amoOr (x : AmoArgs)
  | amoXor (x : AmoArgs)
  | amoSwap (x : AmoArgs)
  | amoCas (x : AmoArgs) (c : GReg)
  | amoMin (x : AmoArgs)
  | amoMax (x : AmoArgs)
  | amoMinu (x : AmoArgs)
  | amoMaxu (x : AmoArgs)
  | amoFadd (x : AmoArgs)
  | amoFmin (x : AmoArgs)
  | amoFmax (x : AmoArgs)
  | waitv (x : AmoArgs) (c : GReg)
  | waitvArm (port : Option Nat)
  | waitvWake (port : Option Nat)
  | waitvTimeout (port : Option Nat)
  -- Stack, CSR, counters (R209, R212, R213, R237)
  | alloc (m : BitVec 14)
  | free (m : BitVec 14)
  | csrr (d : GReg) (csr : BitVec 12)
  | csrw (d a : GReg) (csr : BitVec 12)
  | csrs (d a : GReg) (csr : BitVec 12)
  | csrc (d a : GReg) (csr : BitVec 12)
  | pwinWrite (w : BitVec 2) (v : Word)
  | vcwWrite (v : BitVec 32)
  | waitc (l s c t : BitVec 4)
  -- Messages, records, copies (R224 to R234)
  | send (gd : Guard) (a b c : GReg) (ctl : Ctl)
  | sendi (gd : Guard) (a b c : GReg) (e : RegLit) (ctl : Ctl)
  | fwd (gd : Guard) (a : GReg) (named : Bool) (vc : BitVec 3) (entry : BitVec 10)
  | post (gd : Guard) (a b : GReg) (named : Bool) (vc : BitVec 4) (amount : BitVec 8)
  | cset (gd : Guard) (d : PReg) (a b c : GReg) (i : BitVec 32)
  | cread (gd : Guard) (d a : GReg) (i : BitVec 32)
  | cpy (gd : Guard) (tag : BitVec 6) (d a b : GReg) (dsc : Option GReg)
  | cpyxG (gd : Guard) (tag : BitVec 6) (space : BitVec 16) (d a b : GReg) (dsc : Option GReg)
  | cpyxP (gd : Guard) (tag : BitVec 6) (space : BitVec 16) (d a b : GReg) (dsc : Option GReg)
  | copyComplete (tag : BitVec 6)
  | publ (gd : Guard) (w : BitVec 2)
  -- Tag waits (R235, R236)
  | wtagAny (a : GReg)
  | wtagAll (a : GReg)
  | ftag (d a : GReg)
  | ftagC (d a : GReg)
  | tclr (a : GReg)
  | wtagAnyLiteral (m : Word)
  | wtagAllLiteral (m : Word)
  | ftagLiteral (d : GReg) (m : Word)
  | ftagCLiteral (d : GReg) (m : Word)
  | tclrLiteral (m : Word)
  | wtagWake
  -- Fences and system instructions (R238 to R245)
  | fence (scope : BitVec 3)
  | loopf
  | done
  | doneXForm (gd : Guard)
  | yield (a : GReg)
  | yieldXForm (gd : Guard) (a : GReg)
  | halt
  | brk
  | brkXForm (gd : Guard) (code : BitVec 16)
  | trap (gd : Guard) (a b : GReg) (cause : BitVec 8)
  | redpin (d a : GReg)
  | perf (d a : GReg)
  | scall (gd : Guard) (d a b : GReg) (len : BitVec 2) (entry : BitVec 10)
  | scallReply
  -- Vector integer (R255)
  | vadd (x : Option VX) (d a : VReg) (b : VSrc)
  | vsub (x : Option VX) (d a : VReg) (b : VSrc)
  | vadds (x : Option VX) (d a : VReg) (b : VSrc)
  | vsubs (x : Option VX) (d a : VReg) (b : VSrc)
  | vmul (x : Option VX) (d a : VReg) (b : VSrc)
  | vmulh (x : Option VX) (d a : VReg) (b : VSrc)
  | vmin (x : Option VX) (d a : VReg) (b : VSrc)
  | vmax (x : Option VX) (d a : VReg) (b : VSrc)
  | vand (x : Option VX) (d a : VReg) (b : VSrc)
  | vor (x : Option VX) (d a : VReg) (b : VSrc)
  | vxor (x : Option VX) (d a : VReg) (b : VSrc)
  | vsll (x : Option VX) (d a : VReg) (b : VSrc)
  | vsrl (x : Option VX) (d a : VReg) (b : VSrc)
  | vsra (x : Option VX) (d a : VReg) (b : VSrc)
  | vabs (x : Option VX) (d a : VReg)
  | vcmpEq (x : Option VX) (d : MReg) (a : VReg) (b : VSrc)
  | vcmpNe (x : Option VX) (d : MReg) (a : VReg) (b : VSrc)
  | vcmpLt (x : Option VX) (d : MReg) (a : VReg) (b : VSrc)
  | vcmpLe (x : Option VX) (d : MReg) (a : VReg) (b : VSrc)
  -- Vector floating point (R256)
  | vfadd (x : Option VX) (d a : VReg) (b : VSrc)
  | vfsub (x : Option VX) (d a : VReg) (b : VSrc)
  | vfmul (x : Option VX) (d a : VReg) (b : VSrc)
  | vfdiv (x : Option VX) (d a : VReg) (b : VSrc)
  | vfsqrt (x : Option VX) (d a : VReg)
  | vfmin (x : Option VX) (d a : VReg) (b : VSrc)
  | vfmax (x : Option VX) (d a : VReg) (b : VSrc)
  | vfneg (x : Option VX) (d a : VReg)
  | vfabs (x : Option VX) (d a : VReg)
  | vfcmpEq (x : Option VX) (d : MReg) (a : VReg) (b : VSrc)
  | vfcmpLt (x : Option VX) (d : MReg) (a : VReg) (b : VSrc)
  | vfcmpLe (x : Option VX) (d : MReg) (a : VReg) (b : VSrc)
  | vfcmpUnord (x : Option VX) (d : MReg) (a : VReg) (b : VSrc)
  | vfma (x : Option VX) (d a : VReg) (b : VSrc)
  | vfms (x : Option VX) (d a : VReg) (b : VSrc)
  | vfnma (x : Option VX) (d a : VReg) (b : VSrc)
  -- Conversion and block quantisation (R257 to R261)
  | vcvt (gd : Guard) (rm : Option RMode) (d a : VReg) (part : BitVec 3) (fmt : Fmt)
  | vqnt (gd : Guard) (rm : Option RMode) (d a : VReg) (xv : Bool) (fmt : Fmt)
  | vdqnt (gd : Guard) (rm : Option RMode) (d a : VReg) (fmt : Fmt)
  -- Reductions and permutes (R262)
  | vrsum (x : Option VX) (d a : VReg)
  | vrmax (x : Option VX) (d a : VReg)
  | vrmin (x : Option VX) (d a : VReg)
  | vperm (x : Option VX) (d a b : VReg)
  | vslup (x : Option VX) (d a : VReg) (b : GReg)
  | vsldn (x : Option VX) (d a : VReg) (b : GReg)
  | vrev (x : Option VX) (d a : VReg)
  -- Vector memory, random numbers, moments (R263 to R274)
  | vld (x : Option VMemX) (d : VReg) (a b : GReg)
  | vst (x : Option VMemX) (d : VReg) (a b : GReg)
  | vrng (gd : Guard) (d : VReg) (a b : GReg) (c : RegLit)
  | vsrnd (gd : Guard) (d e : VReg) (a b : GReg) (c : RegLit) (w : BitVec 6) (part : BitVec 3) (fmt : Fmt)
  | vdrop (gd : Guard) (rm : Option RMode) (d e : VReg) (a b : GReg) (c : RegLit) (p : BitVec 32)
  | vopt (x : Option (Guard × Option RMode)) (a : GReg)
  -- Moves, extraction, masks (R275)
  | vext (x : Option Guard) (d : GReg) (a : VReg) (b : VIdx)
  | vins (x : Option Guard) (d : VReg) (a : GReg) (b : VIdx)
  | vbcast (gd : Guard) (d : VReg) (a : GReg) (fmt : Fmt)
  | vtag (x : Option Guard) (d : GReg) (a : VReg)
  | vsett (x : Option Guard) (d : VReg) (a : GReg)
  | vmov (x : Option Guard) (d a : VReg)
  | mand (x : Option Guard) (d a b : MReg)
  | mor (x : Option Guard) (d a b : MReg)
  | mxor (x : Option Guard) (d a b : MReg)
  | mandn (x : Option Guard) (d a b : MReg)
  | mnot (x : Option Guard) (d a : MReg)
  | mpop (x : Option Guard) (d : GReg) (a : MReg)
  | mset (x : Option Guard) (d : MReg) (a : GReg)
  | mget (x : Option Guard) (d : GReg) (a : MReg)
  -- The cell array (R279 to R305)
  | mldb (gd : Guard) (a : GReg) (p0 np1 : BitVec 7)
  | mldbS (gd : Guard) (a c : GReg) (p0 np1 : BitVec 7)
  | mstb (gd : Guard) (tag : BitVec 6) (a : GReg) (p0 np1 : BitVec 7)
  | mprog (gd : Guard) (a : GReg) (comb : BitVec 2) (init : BitVec 3)
  | mmac (x : StreamArgs) (imode : Bool) (p0 np1 : BitVec 7)
  | mmact (x : StreamArgs) (imode : Bool) (p0 np1 : BitVec 7)
  | mrec (x : StreamArgs) (init : Bool) (p0 : BitVec 7)
  | acz (gd : Guard) (r0 nr1 : BitVec 6) (fill : BitVec 2)
  | acld (gd : Guard) (tag : BitVec 6) (a : GReg) (r0 nr1 : BitVec 6)
  | acst (gd : Guard) (tag : BitVec 6) (a : GReg) (r0 nr1 : BitVec 6) (sc : BitVec 8) (imode : Bool) (rm : Option RMode) (fmt : Fmt)
  | acmv (gd : Guard) (tag : BitVec 6) (r0 s nr1 : BitVec 6)
  | mgang (gd : Guard) (acc imode : Bool) (stride : BitVec 10) (a b c : GReg) (p0 np1 : BitVec 7) (r0 : BitVec 6)
  | gangJoin
  | gangDone
  | gangTimeout
  | gangAbort
  -- Spline cells (R316 to R323)
  | mknot (gd : Guard) (a : GReg) (k0 nk1 : BitVec 4)
  | mspl (x : StreamArgs)
  | mspld (x : StreamArgs) (c : GReg)
  | msgrad (x : StreamArgs) (init : Bool) (tag : BitVec 6) (b c : GReg)
  | mrefine (gd : Guard) (k0 nk1 : BitVec 4)
  -- The tree unit (R337 to R352)
  | tsel (d a b : GReg)
  | tselXForm (gd : Guard) (d a b : GReg)
  | tnew (gd : Guard) (cls : NodeClass) (d a b c : GReg)
  | tnewLink (gd : Guard) (a b c : GReg)
  | texp (gd : Guard) (back flip : Bool) (a b c e : GReg)
  | tback (gd : Guard) (flip : Bool) (a b c : GReg)
  | tabort (a b : GReg)
  | tabortXForm (gd : Guard) (clr : Bool) (a b : GReg)
  | troot (a b : GReg)
  | trootXForm (gd : Guard) (a b : GReg)
  | tfree (gd : Guard) (a : GReg)
  | tfreeKeep (gd : Guard) (a : GReg)
  | tfreeInit (gd : Guard) (cls : NodeClass) (a : GReg)
  | tstat (gd : Guard) (sel : BitVec 2) (d a b : GReg)
  | tleaf (gd : Guard) (d a b c e : GReg)
  -- Events inside a tile
  | engineStart (e : Engine)
  | engineConfirmation (e : Engine)
  | engineCompletion (e : Engine)
  | packetArrival
  | inboxAccept (vc : BitVec 4)
  | dispatch
  | handlerBudget
  | writeQueueAccept
  | writeQueueWriteBack
  | remoteRead
  | answerArrival
  | deferredFault
  | trapRecord
  | reportInjection
  | injection
  | seekAnswer (vc : BitVec 4)
  | seekUnresolved (vc : BitVec 4)
  | routerForward (k : Nat)
  | nameTableAgeing
  | holdNotice (port : Nat)
  | releaseNotice (port : Nat)
  | scrub (line : Nat)
  | tileTimerFire
  | sliceTimerFire
  -- Management commands at the focus tile (R383) and their answers
  | read (c : MgmtCmd)
  | write (c : MgmtCmd)
  | resume (c : MgmtCmd)
  | redirect (c : MgmtCmd)
  | kill (c : MgmtCmd)
  | haltCommand (c : MgmtCmd)
  | step (c : MgmtCmd)
  | union (c : MgmtCmd)
  | nameWrite (c : MgmtCmd)
  | commandAnswer (agent : Nat)
  | commandTimeout (agent : Nat)
  -- Galleries: hart accesses, event queues, call rings (f is the field index)
  | tileWindowAccess (agent : Nat) (addr : Nat) (k : HartAccess)
  | hartTimerCompare (agent : Nat)
  | hallFlagUnionClear (f hall : Nat) (mask : BitVec 6)
  | eventQueueWrite (f : Nat)
  | eventQueueHeadWrite (f q : Nat) (ovf : Bool) (v : Word)
  | callRecord (f t : Nat)
  | dispatchRead (f h : Nat)
  | serviceSliceExpiry (f h : Nat)
  | complete (f h : Nat) (v : Word)
  | completionSend (f : Nat)
  | switch (f t : Nat)
  | ready (f t : Nat)
  | retire (f t : Nat)
  | fail (f t : Nat)
  | callTimeout (f t : Nat)
  | switchWindowTimeout (f t : Nat)
  -- Edge ports, IOMMUs, devices (port 0..95 edge; 96 + c root port c)
  | translationWalk (port : Nat)
  | faultReportRepeat (port : Nat)
  | retry (c : MgmtCmd)
  | deny (c : MgmtCmd)
  | shoot (agent : Nat) (v : Word)
  | shootAcknowledgement (agent : Nat) (receiver : Nat)
  | deviceRequest (c : Nat) (r : DevReq)
  | bridgeOutbound (p : Nat)
  | bridgeInbound (p : Nat) (j : Nat) (ep : BitVec 32) (k : Inbound)
  -- Tenancy and pre-emption
  | park (c : MgmtCmd)
  | quiescenceComplete
  | preemptTimeout
  | unpark (c : MgmtCmd)
  | query (c : MgmtCmd)
  | hallop (c : MgmtCmd)
  | balloonDiversion
  | balloonEntryAck
  | redelivery
  | tctlWrite (f : Nat) (v : Word)
  | tokenRefill (f : Nat)
  -- Clocks and repair
  | frameMarker (missed : List Coord) (readings : List Reading)
  | missingMarker
  | clockRaise (f : Nat)
  | stretch (f : Nat)
  | delayLineRemeasure (skewed : List (Coord × Bool))
  | pulseWindowClose (f : Nat) (silent : List Coord)
  | repair (c : MgmtCmd)
  | shiftStep
  | kiteLineRebuild (hall nlines : Nat)
  -- Bring-up, ports and checkpoint
  | launch (hall : Nat) (order : LaunchOrder)
  | initialPacketWave (hall : Nat)
  | boot (b : BootFindings)
  | bootWatchdog
  | bootOk
  | tftpStatusRead
  | tftpBankWrite (bankB : Bool) (image : List (BitVec 8))
  | featureAccept (hi : Bool) (v : Word)
  | checkpointGo
  | checkpointWriting
  | checkpointDone
  | powerFail
  | overTemperature
  | jtagUnlock (scan : JtagScan)
  | serviceHartsHalted (f t : Nat) (old : Bool)
  | forwardedRequest (port : Nat)
  | deviceCompletion (c : Nat) (v : Option Line)
  deriving DecidableEq, Repr, Inhabited

end Sys2Proof
end

