-- ==== Sys2Proof/WellFormed.lean ====
section
/-! DEFINITION. Well-formed instructions: the limits that R174 step 5 and the instruction chapters put on fields that the types of
Syntax.lean do not already bound. The decoder answers only well-formed instructions; an event is well formed when it names a unit
that exists. -/

namespace Sys2Proof

/-- Unary integer operations: b must be 0 (R189). -/
def AluOp.isUnary : AluOp → Bool
  | .clz | .ctz | .popc | .sextB | .sextH | .sextW | .zextB | .zextH | .zextW => true
  | _ => false

/-- Operations that name a p register in d (R189). -/
def AluOp.isCmp : AluOp → Bool
  | .cmpEq | .cmpNe | .cmpLt | .cmpGe | .cmpLtu | .cmpGeu | .tst => true
  | _ => false

/-- FP operations with b = 0 (R197). -/
def FpOp.isUnary : FpOp → Bool
  | .fsqrt | .fneg | .fabs | .fclass => true
  | _ => false

/-- FP operations that name a p register in d (R197). -/
def FpOp.isCmp : FpOp → Bool
  | .feq | .flt | .fle | .funord => true
  | _ => false

/-- Integer format codes (R195). -/
def FpCode.isInt : FpCode → Bool
  | .i32 | .u32 | .i64 | .u64 => true
  | _ => false

/-- Formats a line can hold numbers in (R80, R82 step 4). -/
def Fmt.isNumeric : Fmt → Bool
  | .raw | .node => false
  | _ => true

/-- The integer formats of R80. -/
def Fmt.isInt : Fmt → Bool
  | .int8 | .uint8 | .int16 | .int32 => true
  | _ => false

/-- Width in bits of FP ALU format code f (R195). -/
def fpWidth (f : BitVec 2) : Nat := if f = 0 then 64 else if f = 1 then 32 else 16

/-- Literal bits above the format's width must be 0 (R196). -/
def RegLit.fits (f : BitVec 2) : RegLit → Bool
  | .reg _ => true
  | .lit v => decide (v.toNat < 2 ^ fpWidth f)

/-- The conversions that exist (R199). -/
def cvtOk (u v : FpCode) : Bool := u != v && !(u.isInt && v.isInt)

/-- The CTL limits of R224. -/
def Ctl.wf (c : Ctl) : Bool :=
  c.len != 0 && decide (c.nsucc.toNat ≤ 4) && decide (8 * c.nsucc.toNat ≤ 16 * c.len.toNat) &&
  (decide (c.vc.toNat ≤ 7) || (c.vc == 12 && !c.named))

/-- The R form takes v registers only (R252). -/
def srcOk (x : Option VX) : VSrc → Bool
  | .v _ => true
  | .g _ => x.isSome

/-- X forms without rounding: SRM, RM and c unused (R252, R255). -/
def VX.intOk (x : Option VX) : Bool := x.all fun v => v.rm == none && v.c == 0
/-- X forms of compares and permutes: no rounding and no result format (R255, R262). -/
def VX.cmpOk (x : Option VX) : Bool := x.all fun v => v.rm == none && v.c == 0 && v.rfmt == none
/-- X forms of floating instructions with two sources (R256). -/
def VX.fpOk (x : Option VX) : Bool := x.all fun v => v.c == 0
/-- X forms of reductions: ZERO must be 0 (R262). -/
def VX.redOk (x : Option VX) : Bool := x.all fun v => v.c == 0 && !v.zero

/-- An index from imm32 exists in the X form only (R275). -/
def VIdx.ok (x : Option Guard) : VIdx → Bool
  | .reg _ => true
  | .imm _ => x.isSome

/-- Instruction rows: the field limits. Event rows: the unit exists. A unary operation takes no literal: the X form of R189 with SUB = 1 and
the form of R196 with L = 11 are refused for it, whatever the literal's value, which the manual does not settle (DESIGN CHOICE, log 27). -/
def Instr.wf : Instr → Bool
  | .integerAluXForm op _ d _ s =>
    (!op.isUnary || s == .reg 0) && (!op.isCmp || decide (d.toNat < 8))
  | .fma _ f _ _ b _ | .fms _ f _ _ b _ | .fnma _ f _ _ b _ => b.fits f
  | .fpAluXForm op _ f d _ b => b.fits f && (!op.isUnary || b == .reg 0) && (!op.isCmp || decide (d.toNat < 8))
  | .fcvt u v _ _ => cvtOk u v
  | .fround v _ _ => !v.isInt
  | .fpConvertXForm u v rnd _ _ _ => if rnd then u == v && !v.isInt else cvtOk u v
  | .loop _ n => n != 0
  | .ld sz _ _ _ => sz != 7
  | .st sz _ _ _ => decide (sz.toNat < 4)
  | .ldXForm _ sz d a m => sz != 7 && (match m with | .post _ => d != a | _ => true)
  | .stXForm _ sz _ _ _ => decide (sz.toNat < 4)
  | .ldg x | .ldx x _ => x.sz != 7
  | .stg x | .stx x _ => decide (x.sz.toNat < 4)
  | .alloc m | .free m => m != 0
  | .send _ _ _ _ c => c.wf
  | .sendi _ _ _ _ _ c => c.wf && c.len == 1
  | .post _ _ _ _ vc amount => amount != 0 && (decide (vc.toNat ≤ 7) || vc == 13)
  | .fence s => decide (s.toNat < 6)
  | .trap _ _ _ c => decide (1 ≤ c.toNat ∧ c.toNat ≤ 0x1C)
  | .vadd x _ _ b | .vsub x _ _ b | .vadds x _ _ b | .vsubs x _ _ b | .vmul x _ _ b | .vmulh x _ _ b
  | .vmin x _ _ b | .vmax x _ _ b | .vand x _ _ b | .vor x _ _ b | .vxor x _ _ b | .vsll x _ _ b
  | .vsrl x _ _ b | .vsra x _ _ b => VX.intOk x && srcOk x b
  | .vabs x _ _ => VX.intOk x
  | .vcmpEq x _ _ b | .vcmpNe x _ _ b | .vcmpLt x _ _ b | .vcmpLe x _ _ b
  | .vfcmpEq x _ _ b | .vfcmpLt x _ _ b | .vfcmpLe x _ _ b | .vfcmpUnord x _ _ b => VX.cmpOk x && srcOk x b
  | .vfadd x _ _ b | .vfsub x _ _ b | .vfmul x _ _ b | .vfdiv x _ _ b | .vfmin x _ _ b | .vfmax x _ _ b =>
    VX.fpOk x && srcOk x b
  | .vfsqrt x _ _ | .vfneg x _ _ | .vfabs x _ _ => VX.fpOk x
  | .vfma x _ _ b | .vfms x _ _ b | .vfnma x _ _ b => srcOk x b
  | .vcvt _ _ _ _ _ f | .vdqnt _ _ _ _ f => f.isNumeric
  | .vqnt _ _ _ _ xv f => f.isNumeric && (!xv || f == .e2m1)
  | .vrsum x _ _ | .vrmax x _ _ | .vrmin x _ _ => VX.redOk x
  | .vperm x _ _ _ | .vslup x _ _ _ | .vsldn x _ _ _ | .vrev x _ _ => VX.cmpOk x
  | .vst x _ _ _ => x.all fun v => !v.zero
  | .vsrnd _ _ _ _ _ _ w _ f => decide (w.toNat ≤ 32) && f.isNumeric
  | .vext x _ _ b => b.ok x
  | .vins x _ _ b => b.ok x
  | .mprog _ _ comb init => comb != 3 && decide (4 ≤ init.toNat)
  | .acz _ _ _ fill => fill != 3
  | .msgrad x _ _ _ _ => x.r0 == 0
  | .acst _ _ _ _ _ sc imode rm f =>
    f != .node && sc != 0xFF && (!(f.isInt || f == .raw) || sc == 0x7F) && (f != .raw || (!imode && rm == none))
  | .holdNotice p | .releaseNotice p => decide (p < 96)
  | .commandAnswer g | .commandTimeout g | .hartTimerCompare g | .shoot g _ => decide (g < 1280)
  | .tileWindowAccess g _ _ => decide (g < 1280)
  | .hallFlagUnionClear f h _ => decide (f < 80 ∧ h < 64)
  | .eventQueueWrite f | .completionSend f | .tokenRefill f | .clockRaise f | .stretch f | .tctlWrite f _ => decide (f < 80)
  | .pulseWindowClose f _ => decide (f < 80)
  | .eventQueueHeadWrite f q _ _ => decide (f < 80 ∧ q ≤ 64)
  | .callRecord f t | .switch f t | .ready f t | .retire f t | .fail f t | .callTimeout f t | .switchWindowTimeout f t =>
    decide (f < 80 ∧ t < 16)
  | .serviceHartsHalted f t _ => decide (f < 80 ∧ t < 16)
  | .dispatchRead f h | .serviceSliceExpiry f h | .complete f h _ => decide (f < 80 ∧ h < 4)
  | .translationWalk p | .forwardedRequest p => decide (p < 100)
  | .faultReportRepeat p => decide (p < 96)
  | .shootAcknowledgement g r => decide (g < 1280 ∧ r < 180)
  | .deviceRequest c _ | .deviceCompletion c _ => decide (c < 4)
  | .bridgeOutbound p => decide (p < 32)
  | .bridgeInbound p j _ _ => decide (p < 32 ∧ j < 4096)
  | .kiteLineRebuild h n => decide (h < 64 ∧ 1 ≤ n ∧ n ≤ 4)
  | .launch h o => decide (h < 144 ∧ o.tenant < 16)
  | .initialPacketWave h => decide (h < 144)
  | _ => true

end Sys2Proof
end

