-- ==== Sys2Proof/Decode.lean ====
section
/-! DEFINITION. Instruction decoding (R165 to R176) and the encoder. Decoding is total: it answers a well-formed instruction or the
reason for the ILLEGAL_INSN of R174 steps 1 to 5. Only instruction rows have words; an event encodes to none. -/

namespace Sys2Proof

/-- Why words are no instruction; every one is the ILLEGAL_INSN of R174. -/
inductive DecodeErr where
  | outOfWords | illegalMajor | illegalLength | reservedFn | badField
  deriving DecidableEq, Repr, Inhabited

/-! ### Code tables -/

def RMode.code : RMode → BitVec 3
  | .rne => 0 | .rtz => 1 | .rup => 2 | .rdn => 3 | .rna => 4 | .rsr => 5
def RMode.ofCode (b : BitVec 3) : Option RMode :=
  if b = 0 then some .rne else if b = 1 then some .rtz else if b = 2 then some .rup else if b = 3 then some .rdn
  else if b = 4 then some .rna else if b = 5 then some .rsr else none

/-- The static-mode fields of R196 and R252: select bit above the mode. -/
def rmBits : Option RMode → BitVec 4
  | none => 0
  | some m => 1#1 ++ m.code
def rmOf (b : BitVec 4) : Option (Option RMode) :=
  if b = 0 then some none
  else if b.extractLsb' 3 1 = 1 then (RMode.ofCode (b.extractLsb' 0 3)).map some else none

/-- The FMT codes of R80. -/
def Fmt.code : Fmt → BitVec 8
  | .raw => 0x00 | .fp32 => 0x01 | .bf16 => 0x02 | .fp16 => 0x03 | .e4m3 => 0x04 | .e5m2 => 0x05 | .e2m1 => 0x06
  | .int8 => 0x07 | .uint8 => 0x08 | .int16 => 0x09 | .int32 => 0x0A | .node => 0x10
def Fmt.all : List Fmt := [.raw, .fp32, .bf16, .fp16, .e4m3, .e5m2, .e2m1, .int8, .uint8, .int16, .int32, .node]
def Fmt.ofCode (c : BitVec 8) : Option Fmt := Fmt.all.find? fun f => f.code == c

/-- The scalar format codes of R195. -/
def FpCode.code : FpCode → BitVec 4
  | .f64 => 0 | .f32 => 1 | .f16 => 2 | .bf16 => 3 | .e4m3 => 4 | .e5m2 => 5 | .e2m1 => 6
  | .i32 => 8 | .u32 => 9 | .i64 => 10 | .u64 => 11
def FpCode.all : List FpCode := [.f64, .f32, .f16, .bf16, .e4m3, .e5m2, .e2m1, .i32, .u32, .i64, .u64]
def FpCode.ofCode (c : BitVec 4) : Option FpCode := FpCode.all.find? fun f => f.code == c

/-- The fn codes of major 0x01 (R190). -/
def AluOp.fn : AluOp → BitVec 9
  | .add => 0x000 | .sub => 0x001 | .and => 0x002 | .or => 0x003 | .xor => 0x004 | .andn => 0x005
  | .sll => 0x006 | .srl => 0x007 | .sra => 0x008 | .rol => 0x009 | .ror => 0x00A
  | .min => 0x00B | .max => 0x00C | .minu => 0x00D | .maxu => 0x00E
  | .mul => 0x010 | .mulh => 0x011 | .mulhu => 0x012 | .mulhsu => 0x013
  | .div => 0x014 | .divu => 0x015 | .rem => 0x016 | .remu => 0x017 | .addsat => 0x018 | .subsat => 0x019
  | .clz => 0x020 | .ctz => 0x021 | .popc => 0x022 | .sextB => 0x023 | .sextH => 0x024 | .sextW => 0x025
  | .zextB => 0x026 | .zextH => 0x027 | .zextW => 0x028
  | .cmpEq => 0x030 | .cmpNe => 0x031 | .cmpLt => 0x032 | .cmpGe => 0x033 | .cmpLtu => 0x034 | .cmpGeu => 0x035
  | .tst => 0x036
def AluOp.all : List AluOp :=
  [.add, .sub, .and, .or, .xor, .andn, .sll, .srl, .sra, .rol, .ror, .min, .max, .minu, .maxu, .mul, .mulh, .mulhu, .mulhsu,
   .div, .divu, .rem, .remu, .addsat, .subsat, .clz, .ctz, .popc, .sextB, .sextH, .sextW, .zextB, .zextH, .zextW,
   .cmpEq, .cmpNe, .cmpLt, .cmpGe, .cmpLtu, .cmpGeu, .tst]
def AluOp.ofFn (c : BitVec 9) : Option AluOp := AluOp.all.find? fun o => o.fn == c

/-- The operation codes fn[8:3] of major 0x09 (R197), without the FMA family. -/
def FpOp.code : FpOp → BitVec 6
  | .fadd => 0x00 | .fsub => 0x01 | .fmul => 0x02 | .fdiv => 0x03 | .fsqrt => 0x04 | .fmin => 0x05 | .fmax => 0x06
  | .fneg => 0x07 | .fabs => 0x08 | .fsgnj => 0x09 | .feq => 0x10 | .flt => 0x11 | .fle => 0x12 | .funord => 0x13
  | .fclass => 0x14
def FpOp.all : List FpOp :=
  [.fadd, .fsub, .fmul, .fdiv, .fsqrt, .fmin, .fmax, .fneg, .fabs, .fsgnj, .feq, .flt, .fle, .funord, .fclass]
def FpOp.ofCode (c : BitVec 6) : Option FpOp := FpOp.all.find? fun o => o.code == c

/-- The OP codes of R219. -/
def AmoOp.code : AmoOp → BitVec 5
  | .add => 0 | .and => 1 | .or => 2 | .xor => 3 | .swap => 4 | .cas => 5 | .min => 6 | .max => 7 | .minu => 8 | .maxu => 9
  | .fadd => 0xA | .fmin => 0xB | .fmax => 0xC
def AmoOp.all : List AmoOp := [.add, .and, .or, .xor, .swap, .cas, .min, .max, .minu, .maxu, .fadd, .fmin, .fmax]
def AmoOp.ofCode (c : BitVec 5) : Option AmoOp := AmoOp.all.find? fun o => o.code == c

def NodeClass.code : NodeClass → BitVec 2
  | .c64 => 0 | .c128 => 1 | .c256 => 2
def NodeClass.ofCode (c : BitVec 2) : Option NodeClass :=
  if c = 0 then some .c64 else if c = 1 then some .c128 else if c = 2 then some .c256 else none

/-! ### Fields (R169) -/

def wL (w : IWord) : BitVec 2 := w.extractLsb' 0 2
def wMaj (w : IWord) : BitVec 6 := w.extractLsb' 2 6
def wD (w : IWord) : BitVec 5 := w.extractLsb' 8 5
def wA (w : IWord) : BitVec 5 := w.extractLsb' 13 5
def wB (w : IWord) : BitVec 5 := w.extractLsb' 18 5
def wFn (w : IWord) : BitVec 9 := w.extractLsb' 23 9
def wImm14 (w : IWord) : BitVec 14 := w.extractLsb' 18 14
def wImm16 (w : IWord) : BitVec 16 := w.extractLsb' 16 16
def wGuard (w : IWord) : Guard := ⟨w.extractLsb' 15 1 == 1, w.extractLsb' 12 3⟩
def wSub (w : IWord) : BitVec 2 := w.extractLsb' 10 2
def wE (w : IWord) : BitVec 5 := w.extractLsb' 5 5
def wC (w : IWord) : BitVec 5 := w.extractLsb' 0 5

def lo4 (r : BitVec 5) : BitVec 4 := r.extractLsb' 0 4
def lo3 (r : BitVec 5) : BitVec 3 := r.extractLsb' 0 3
def lo2 (r : BitVec 5) : BitVec 2 := r.extractLsb' 0 2
/-- A v register number (R176). -/
def is4 (r : BitVec 5) : Bool := decide (r.toNat < 16)
/-- A p register number (R176). -/
def is3 (r : BitVec 5) : Bool := decide (r.toNat < 8)
/-- An m register number (R176). -/
def is2 (r : BitVec 5) : Bool := decide (r.toNat < 4)

/-- R174 step 5: unused fields zero and the chapter's limits kept. -/
def fin (ok : Bool) (i : Instr) : Except DecodeErr Instr := if ok && i.wf then .ok i else .error .badField

/-- The fields of an instruction in X form (R169), with the literal of R166. -/
structure XF where
  fn : BitVec 9
  b : BitVec 5
  a : BitVec 5
  d : BitVec 5
  imm16 : BitVec 16
  gd : Guard
  sub : BitVec 2
  e : BitVec 5
  c : BitVec 5
  imm32 : BitVec 32
  lit : Option Word

def XF.of (w0 w1 w2 w3 w4 : IWord) : XF :=
  ⟨wFn w0, wB w0, wA w0, wD w0, wImm16 w1, wGuard w1, wSub w1, wE w1, wC w1, w2, if wL w0 = 3 then some (w4 ++ w3) else none⟩

/-- The lengths each major permits (R173): R/I/M/B/J/W with L 00, literal 01, X 10, X with literal 11. -/
def permits (maj : BitVec 6) (l : BitVec 2) : Bool :=
  let m := maj.toNat
  match l.toNat with
  | 0 => decide ((1 ≤ m ∧ m ≤ 0x11) ∨ (0x15 ≤ m ∧ m ≤ 0x17) ∨ (0x1B ≤ m ∧ m ≤ 0x1D) ∨ m = 0x20 ∨ m = 0x21 ∨ m = 0x22 ∨
      m = 0x23 ∨ m = 0x24 ∨ m = 0x25 ∨ m = 0x27 ∨ m = 0x28 ∨ m = 0x35)
  | 1 => decide ((2 ≤ m ∧ m ≤ 8) ∨ m = 0x1B)
  | 2 => decide (m = 1 ∨ m = 9 ∨ m = 0xA ∨ (0x10 ≤ m ∧ m ≤ 0x14) ∨ (0x18 ≤ m ∧ m ≤ 0x1A) ∨ m = 0x1D ∨ (0x20 ≤ m ∧ m ≤ 0x28) ∨
      (0x30 ≤ m ∧ m ≤ 0x35))
  | _ => decide (m = 9 ∨ (0x12 ≤ m ∧ m ≤ 0x14) ∨ m = 0x18 ∨ m = 0x26)

/-- Majors 0x00, 0x3F and the reserved ones (R173). -/
def majorOk (maj : BitVec 6) : Bool :=
  let m := maj.toNat
  decide ((1 ≤ m ∧ m ≤ 0x1D) ∨ (0x20 ≤ m ∧ m ≤ 0x28) ∨ (0x30 ≤ m ∧ m ≤ 0x35))

/-! ### 32-bit forms and their literals -/

/-- The R form of an integer ALU operation (R190). -/
def aluInstr (op : AluOp) (d a b : BitVec 5) : Instr :=
  match op with
  | .add => .add d a b | .sub => .sub d a b | .and => .and d a b | .or => .or d a b | .xor => .xor d a b
  | .andn => .andn d a b | .sll => .sll d a b | .srl => .srl d a b | .sra => .sra d a b | .rol => .rol d a b
  | .ror => .ror d a b | .min => .min d a b | .max => .max d a b | .minu => .minu d a b | .maxu => .maxu d a b
  | .mul => .mul d a b | .mulh => .mulh d a b | .mulhu => .mulhu d a b | .mulhsu => .mulhsu d a b
  | .div => .div d a b | .divu => .divu d a b | .rem => .rem d a b | .remu => .remu d a b
  | .addsat => .addsat d a b | .subsat => .subsat d a b
  | .clz => .clz d a | .ctz => .ctz d a | .popc => .popc d a | .sextB => .sextB d a | .sextH => .sextH d a
  | .sextW => .sextW d a | .zextB => .zextB d a | .zextH => .zextH d a | .zextW => .zextW d a
  | .cmpEq => .cmpEq (lo3 d) a b | .cmpNe => .cmpNe (lo3 d) a b | .cmpLt => .cmpLt (lo3 d) a b
  | .cmpGe => .cmpGe (lo3 d) a b | .cmpLtu => .cmpLtu (lo3 d) a b | .cmpGeu => .cmpGeu (lo3 d) a b
  | .tst => .tst (lo3 d) a b

/-- The R form of an FP ALU operation (R197). -/
def fpInstr (op : FpOp) (f : BitVec 2) (d a b : BitVec 5) : Instr :=
  match op with
  | .fadd => .fadd f d a b | .fsub => .fsub f d a b | .fmul => .fmul f d a b | .fdiv => .fdiv f d a b
  | .fsqrt => .fsqrt f d a | .fmin => .fmin f d a b | .fmax => .fmax f d a b | .fneg => .fneg f d a
  | .fabs => .fabs f d a | .fsgnj => .fsgnj f d a b | .feq => .feq f (lo3 d) a b | .flt => .flt f (lo3 d) a b
  | .fle => .fle f (lo3 d) a b | .funord => .funord f (lo3 d) a b | .fclass => .fclass f d a

/-- Shift-immediate (R193) and compare-immediate (R194), by imm14. -/
def decodeShiftImm (d a : BitVec 5) (i : BitVec 14) : Except DecodeErr Instr :=
  let n : BitVec 6 := i.extractLsb' 0 6
  let k : BitVec 2 := i.extractLsb' 6 2
  fin (i.extractLsb' 8 6 == 0)
    (if k = 0 then .slli d a n else if k = 1 then .srli d a n else if k = 2 then .srai d a n else .rori d a n)

def decodeCmpImm (d a : BitVec 5) (i : BitVec 14) : Except DecodeErr Instr :=
  let k : BitVec 11 := i.extractLsb' 0 11
  let p := lo3 d
  match (i.extractLsb' 11 3).toNat with
  | 0 => fin (is3 d) (.cmpiEq p a k) | 1 => fin (is3 d) (.cmpiNe p a k) | 2 => fin (is3 d) (.cmpiLt p a k)
  | 3 => fin (is3 d) (.cmpiGe p a k) | 4 => fin (is3 d) (.cmpiLtu p a k) | 5 => fin (is3 d) (.cmpiGeu p a k)
  | 6 => fin (is3 d) (.cmpiTst p a k) | _ => .error .reservedFn

/-- Major 0x0A: kind, destination and source codes in fn (R199). -/
def decodeCvt (fn : BitVec 9) : Option (Bool × FpCode × FpCode) :=
  match FpCode.ofCode (fn.extractLsb' 4 4), FpCode.ofCode (fn.extractLsb' 0 4) with
  | some u, some v => some (fn.extractLsb' 8 1 == 1, u, v)
  | _, _ => none

def decodePred (fn : BitVec 9) (d a b : BitVec 5) : Except DecodeErr Instr :=
  match fn.toNat with
  | 0 => fin (is3 d && is3 a && is3 b) (.pand (lo3 d) (lo3 a) (lo3 b))
  | 1 => fin (is3 d && is3 a && is3 b) (.por (lo3 d) (lo3 a) (lo3 b))
  | 2 => fin (is3 d && is3 a && is3 b) (.pxor (lo3 d) (lo3 a) (lo3 b))
  | 3 => fin (is3 d && is3 a && is3 b) (.pandn (lo3 d) (lo3 a) (lo3 b))
  | 4 => fin (is3 d && is3 a && b == 0) (.pnot (lo3 d) (lo3 a))
  | 8 => fin (a == 0 && b == 0) (.ppack d)
  | 9 => fin (d == 0 && b == 0) (.punpk a)
  | _ => .error .reservedFn

/-- Major 0x0C (R202, R206). -/
def decodeJump (fn : BitVec 9) (d a b : BitVec 5) : Except DecodeErr Instr :=
  match fn.toNat with
  | 0 => fin (d == 0 && b == 0) (.jmpr a)
  | 1 => fin (d == 0 && b == 0) (.callr a)
  | 2 => fin (d == 0 && a == 0 && b == 0) .ret
  | 3 => fin true (.loop a (b ++ d))
  | _ => .error .reservedFn

/-- Major 0x16 (R212). -/
def decodeCsr (d a : BitVec 5) (i : BitVec 14) : Except DecodeErr Instr :=
  let c : BitVec 12 := i.extractLsb' 0 12
  match (i.extractLsb' 12 2).toNat with
  | 0 => fin (a == 0) (.csrr d c)
  | 1 => fin true (.csrw d a c)
  | 2 => fin true (.csrs d a c)
  | _ => fin true (.csrc d a c)

/-- Major 0x1B (R235); the mask is ga, or the literal. -/
def decodeTag (fn : BitVec 9) (d a b : BitVec 5) (lit : Option Word) : Except DecodeErr Instr :=
  let z := b == 0 && (lit.isNone || a == 0)
  match fn.toNat, lit with
  | 0, none => fin (z && d == 0) (.wtagAny a) | 0, some m => fin (z && d == 0) (.wtagAnyLiteral m)
  | 1, none => fin (z && d == 0) (.wtagAll a) | 1, some m => fin (z && d == 0) (.wtagAllLiteral m)
  | 2, none => fin z (.ftag d a) | 2, some m => fin z (.ftagLiteral d m)
  | 3, none => fin z (.ftagC d a) | 3, some m => fin z (.ftagCLiteral d m)
  | 4, none => fin (z && d == 0) (.tclr a) | 4, some m => fin (z && d == 0) (.tclrLiteral m)
  | _, _ => .error .reservedFn

/-- Major 0x1D with L = 00 (R239). -/
def decodeSys (fn : BitVec 9) (d a b : BitVec 5) : Except DecodeErr Instr :=
  match fn.toNat with
  | 0 => fin (d == 0 && a == 0 && b == 0) .done
  | 1 => fin (d == 0 && b == 0) (.yield a)
  | 2 => fin (d == 0 && a == 0 && b == 0) .halt
  | 3 => fin (d == 0 && a == 0 && b == 0) .brk
  | 5 => fin (b == 0) (.redpin d a)
  | 6 => fin (b == 0) (.perf d a)
  | 4 | 7 => .error .illegalLength
  | _ => .error .reservedFn

/-- Vector majors with L = 00 (R252). -/
def decodeVecR (maj : Nat) (fn : BitVec 9) (d a b : BitVec 5) : Except DecodeErr Instr :=
  let vd := lo4 d; let va := lo4 a; let vb : VSrc := .v (lo4 b); let md := lo2 d; let ma := lo2 a; let mb := lo2 b
  let v3 := is4 d && is4 a && is4 b; let v2 := is4 d && is4 a && b == 0; let c3 := is2 d && is4 a && is4 b
  let m3 := is2 d && is2 a && is2 b
  match maj, fn.toNat with
  | 0x20, 0x00 => fin v3 (.vadd none vd va vb) | 0x20, 0x01 => fin v3 (.vsub none vd va vb)
  | 0x20, 0x02 => fin v3 (.vadds none vd va vb) | 0x20, 0x03 => fin v3 (.vsubs none vd va vb)
  | 0x20, 0x04 => fin v3 (.vmul none vd va vb) | 0x20, 0x05 => fin v3 (.vmulh none vd va vb)
  | 0x20, 0x06 => fin v3 (.vmin none vd va vb) | 0x20, 0x07 => fin v3 (.vmax none vd va vb)
  | 0x20, 0x08 => fin v3 (.vand none vd va vb) | 0x20, 0x09 => fin v3 (.vor none vd va vb)
  | 0x20, 0x0A => fin v3 (.vxor none vd va vb) | 0x20, 0x0B => fin v3 (.vsll none vd va vb)
  | 0x20, 0x0C => fin v3 (.vsrl none vd va vb) | 0x20, 0x0D => fin v3 (.vsra none vd va vb)
  | 0x20, 0x0E => fin v2 (.vabs none vd va)
  | 0x20, 0x10 => fin c3 (.vcmpEq none md va vb) | 0x20, 0x11 => fin c3 (.vcmpNe none md va vb)
  | 0x20, 0x12 => fin c3 (.vcmpLt none md va vb) | 0x20, 0x13 => fin c3 (.vcmpLe none md va vb)
  | 0x21, 0x00 => fin v3 (.vfadd none vd va vb) | 0x21, 0x01 => fin v3 (.vfsub none vd va vb)
  | 0x21, 0x02 => fin v3 (.vfmul none vd va vb) | 0x21, 0x03 => fin v3 (.vfdiv none vd va vb)
  | 0x21, 0x04 => fin v2 (.vfsqrt none vd va)
  | 0x21, 0x05 => fin v3 (.vfmin none vd va vb) | 0x21, 0x06 => fin v3 (.vfmax none vd va vb)
  | 0x21, 0x07 => fin v2 (.vfneg none vd va) | 0x21, 0x08 => fin v2 (.vfabs none vd va)
  | 0x21, 0x10 => fin c3 (.vfcmpEq none md va vb) | 0x21, 0x11 => fin c3 (.vfcmpLt none md va vb)
  | 0x21, 0x12 => fin c3 (.vfcmpLe none md va vb) | 0x21, 0x13 => fin c3 (.vfcmpUnord none md va vb)
  | 0x22, 0x00 => fin v3 (.vfma none vd va vb) | 0x22, 0x01 => fin v3 (.vfms none vd va vb)
  | 0x22, 0x02 => fin v3 (.vfnma none vd va vb)
  | 0x24, 0x00 => fin v2 (.vrsum none vd va) | 0x24, 0x01 => fin v2 (.vrmax none vd va)
  | 0x24, 0x02 => fin v2 (.vrmin none vd va) | 0x24, 0x08 => fin v3 (.vperm none vd va (lo4 b))
  | 0x24, 0x09 => fin (is4 d && is4 a) (.vslup none vd va b) | 0x24, 0x0A => fin (is4 d && is4 a) (.vsldn none vd va b)
  | 0x24, 0x0B => fin v2 (.vrev none vd va)
  | 0x25, 0x00 => fin (is4 d) (.vld none vd a b) | 0x25, 0x01 => fin (is4 d) (.vst none vd a b)
  | 0x27, 0x00 => fin (d == 0 && b == 0) (.vopt none a)
  | 0x28, 0x00 => fin (is4 a) (.vext none d va (.reg b)) | 0x28, 0x01 => fin (is4 d) (.vins none vd a (.reg b))
  | 0x28, 0x02 => .error .illegalLength
  | 0x28, 0x03 => fin (is4 a && b == 0) (.vtag none d va) | 0x28, 0x04 => fin (is4 d && b == 0) (.vsett none vd a)
  | 0x28, 0x05 => fin v2 (.vmov none vd va)
  | 0x28, 0x08 => fin m3 (.mand none md ma mb) | 0x28, 0x09 => fin m3 (.mor none md ma mb)
  | 0x28, 0x0A => fin m3 (.mxor none md ma mb) | 0x28, 0x0B => fin m3 (.mandn none md ma mb)
  | 0x28, 0x0C => fin (is2 d && is2 a && b == 0) (.mnot none md ma)
  | 0x28, 0x0D => fin (is2 a && b == 0) (.mpop none d ma) | 0x28, 0x0E => fin (is2 d && b == 0) (.mset none md a)
  | 0x28, 0x0F => fin (is2 a && b == 0) (.mget none d ma)
  | 0x23, _ => .error .illegalLength
  | _, _ => .error .reservedFn

/-- Instructions of one word, and those of one word with a literal (L = 00, 01). -/
noncomputable def decodeShort (w : IWord) (lit : Option Word) : Except DecodeErr Instr :=
  let fn := wFn w; let b := wB w; let a := wA w; let d := wD w; let i := wImm14 w
  let off11 : BitVec 11 := w.extractLsb' 21 11
  let sz : BitVec 3 := w.extractLsb' 18 3
  match (wMaj w).toNat, lit with
  | 0x01, none =>
    match AluOp.ofFn fn with
    | some op => fin ((!op.isUnary || b == 0) && (!op.isCmp || is3 d)) (aluInstr op d a b)
    | none => if fn = 0x40 then .error .illegalLength else .error .reservedFn
  | 0x02, none => fin true (.addi d a i) | 0x02, some v => fin (i == 0) (.addiLiteral d a v)
  | 0x03, none => fin true (.andi d a i) | 0x03, some v => fin (i == 0) (.andiLiteral d a v)
  | 0x04, none => fin true (.ori d a i) | 0x04, some v => fin (i == 0) (.oriLiteral d a v)
  | 0x05, none => fin true (.xori d a i) | 0x05, some v => fin (i == 0) (.xoriLiteral d a v)
  | 0x06, none => decodeShiftImm d a i
  | 0x07, none => decodeCmpImm d a i
  | 0x06, some _ | 0x07, some _ => .error .illegalLength
  | 0x08, none => fin (a == 0) (.li d i) | 0x08, some v => fin (a == 0 && i == 0) (.liLiteral d v)
  | 0x09, none =>
    match FpOp.ofCode (fn.extractLsb' 3 6) with
    | some op => if fn.extractLsb' 2 1 = 1 then .error .reservedFn
        else fin ((!op.isUnary || b == 0) && (!op.isCmp || is3 d)) (fpInstr op (fn.extractLsb' 0 2) d a b)
    | none => if (fn.extractLsb' 3 6).toNat ∈ [0xA, 0xB, 0xC] then .error .illegalLength else .error .reservedFn
  | 0x0A, none =>
    match decodeCvt fn with
    | some (true, u, v) => fin (b == 0 && u == v) (.fround v d a)
    | some (false, u, v) => fin (b == 0) (.fcvt u v d a)
    | none => .error .reservedFn
  | 0x0B, none => fin true (.br (w.extractLsb' 8 3) (w.extractLsb' 11 1 == 1) (w.extractLsb' 12 1 == 1) (w.extractLsb' 13 19))
  | 0x0C, none => decodeJump fn d a b
  | 0x0D, none => fin true (.call (w.extractLsb' 8 24))
  | 0x0E, none => fin true (.jmp (w.extractLsb' 8 24))
  | 0x0F, none => decodePred fn d a b
  | 0x10, none => fin true (.ld sz d a off11)
  | 0x11, none => fin true (.st sz d a off11)
  | 0x15, none =>
    if a = 0 then fin (d == 0) (.alloc i) else if a = 1 then fin (d == 0) (.free i) else .error .reservedFn
  | 0x16, none => decodeCsr d a i
  | 0x17, none => fin (w.extractLsb' 24 8 == 0)
      (.waitc (w.extractLsb' 8 4) (w.extractLsb' 12 4) (w.extractLsb' 16 4) (w.extractLsb' 20 4))
  | 0x1B, l => decodeTag fn d a b l
  | 0x1C, none =>
    if fn = 8 then fin (d == 0 && a == 0 && b == 0) .loopf
    else if fn.toNat < 6 then fin (d == 0 && a == 0 && b == 0) (.fence (fn.extractLsb' 0 3)) else .error .reservedFn
  | 0x1D, none => decodeSys fn d a b
  | 0x35, none =>
    match fn.toNat with
    | 0 => fin true (.tsel d a b)
    | 5 => fin (d == 0) (.tabort a b)
    | 6 => fin (d == 0) (.troot a b)
    | 1 | 2 | 3 | 4 | 7 | 8 | 9 => .error .illegalLength
    | _ => .error .reservedFn
  | m, none => decodeVecR m fn d a b
  | _, some _ => .error .illegalLength

/-! ### X forms -/

/-- SUB = 0 names gb, SUB = 1 the immediate with b = 0 (R189); the other field is unused and zero. -/
def src2Of (x : XF) : Option Src2 :=
  if x.sub = 0 then (if x.imm32 = 0 then some (.reg x.b) else none)
  else if x.sub = 1 then (if x.b = 0 then some (.imm x.imm32) else none) else none

/-- Guard and static mode of an FP X form; imm16[15:4], SUB and e are 0 (R196). An operation that never rounds takes a static mode as well,
which changes nothing (DEDUCED, log 28). -/
def fpXOf (x : XF) : Option FpX :=
  if x.imm16.extractLsb' 4 12 = 0 ∧ x.sub = 0 ∧ x.e = 0 ∧ x.imm32 = 0 then
    (rmOf (x.imm16.extractLsb' 0 4)).map fun m => ⟨x.gd, m⟩
  else none

/-- Operand b of an FP X form: gb, or the literal with b = 0 (R196). -/
def fpBOf (x : XF) : Option RegLit :=
  match x.lit with
  | none => some (.reg x.b)
  | some v => if x.b = 0 then some (.lit v) else none

def decodeFpX (x : XF) : Except DecodeErr Instr :=
  let f : BitVec 2 := x.fn.extractLsb' 0 2
  if x.fn.extractLsb' 2 1 = 1 then .error .reservedFn else
  match fpXOf x, fpBOf x with
  | some fx, some b =>
    match (x.fn.extractLsb' 3 6).toNat with
    | 0xA => fin true (.fma fx f x.d x.a b x.c)
    | 0xB => fin true (.fms fx f x.d x.a b x.c)
    | 0xC => fin true (.fnma fx f x.d x.a b x.c)
    | _ =>
      match FpOp.ofCode (x.fn.extractLsb' 3 6) with
      | some op => if op.isUnary && x.lit.isSome then .error .illegalLength else fin (x.c == 0) (.fpAluXForm op fx f x.d x.a b)
      | none => .error .reservedFn
  | _, _ => .error .badField

/-- The device offset (R214): imm32, or the literal with imm32 = 0. -/
def devOffOf (x : XF) : Option DevOff :=
  match x.lit with
  | none => some (.imm x.imm32)
  | some v => if x.imm32 = 0 then some (.lit v) else none

/-- The space of a TGT 2 operand (R214). -/
def spaceOf (x : XF) : Option SpaceSel :=
  if x.sub = 0 then (if x.e = 0 then some (.imm x.imm16) else none)
  else if x.sub = 1 then (if x.imm16 = 0 then some (.reg x.e) else none) else none

/-- TGT 0, 1 and 2 (R214). -/
def targetOf (x : XF) (t : BitVec 2) : Option Target :=
  if t = 2 then (spaceOf x).map .ext
  else if t = 3 then none
  else if x.sub = 0 ∧ x.imm16 = 0 ∧ x.e = 0 then (if t = 0 then some .loc else some .glob) else none

def decodeDev (x : XF) : Except DecodeErr Instr :=
  let k := (x.fn.extractLsb' 6 3).toNat
  let sz : BitVec 3 := x.fn.extractLsb' 0 3
  if k ≥ 4 ∨ x.fn.extractLsb' 3 3 ≠ 0 ∨ sz = 7 ∨ ((k = 1 ∨ k = 3) ∧ sz.toNat ≥ 4) then .error .reservedFn else
  match devOffOf x with
  | none => .error .badField
  | some off =>
    let v : DevArgs := ⟨x.gd, sz, x.d, x.a, off⟩
    let z := x.b == 0 && x.c == 0
    match k with
    | 0 => fin (z && x.sub == 0 && x.imm16 == 0 && x.e == 0) (.ldg v)
    | 1 => fin (z && x.sub == 0 && x.imm16 == 0 && x.e == 0) (.stg v)
    | 2 => match spaceOf x with | some s => fin z (.ldx v s) | none => .error .badField
    | _ => match spaceOf x with | some s => fin z (.stx v s) | none => .error .badField

/-- The instruction of an AMO operation (R219). -/
def amoInstr (op : AmoOp) (v : AmoArgs) (c : GReg) : Instr :=
  match op with
  | .add => .amoAdd v | .and => .amoAnd v | .or => .amoOr v | .xor => .amoXor v | .swap => .amoSwap v | .cas => .amoCas v c
  | .min => .amoMin v | .max => .amoMax v | .minu => .amoMinu v | .maxu => .amoMaxu v
  | .fadd => .amoFadd v | .fmin => .amoFmin v | .fmax => .amoFmax v

def amoArgsOf (x : XF) : Option AmoArgs :=
  match devOffOf x, targetOf x (x.fn.extractLsb' 0 2) with
  | some off, some t => some ⟨x.gd, x.fn.extractLsb' 2 1 == 1, t, off, x.d, x.a, x.b⟩
  | _, _ => none

def decodeAmo (x : XF) : Except DecodeErr Instr :=
  match AmoOp.ofCode (x.fn.extractLsb' 4 5) with
  | none => .error .reservedFn
  | some op =>
    if x.fn.extractLsb' 3 1 = 1 ∨ x.fn.extractLsb' 0 2 = 3 then .error .reservedFn else
    match amoArgsOf x with
    | some v => fin (op == .cas || x.c == 0) (amoInstr op v x.c)
    | none => .error .badField

def decodeWaitv (x : XF) : Except DecodeErr Instr :=
  if x.fn.extractLsb' 3 6 ≠ 0 ∨ x.fn.extractLsb' 0 2 = 3 then .error .reservedFn else
  match amoArgsOf x with
  | some v => fin true (.waitv v x.c)
  | none => .error .badField

def ctlOf (i : BitVec 32) : Ctl :=
  ⟨i.extractLsb' 22 1 == 1, i.extractLsb' 21 1 == 1, i.extractLsb' 18 3, i.extractLsb' 14 4, i.extractLsb' 10 4, i.extractLsb' 0 10⟩

def decodeMsg (x : XF) : Except DecodeErr Instr :=
  let z := x.d == 0 && x.sub == 0 && x.imm16 == 0
  let i := x.imm32
  match x.fn.toNat, x.lit with
  | 0, none => fin (z && x.e == 0 && i.extractLsb' 23 9 == 0) (.send x.gd x.a x.b x.c (ctlOf i))
  | 1, none => fin (z && i.extractLsb' 23 9 == 0) (.sendi x.gd x.a x.b x.c (.reg x.e) (ctlOf i))
  | 1, some v => fin (z && x.e == 0 && i.extractLsb' 23 9 == 0) (.sendi x.gd x.a x.b x.c (.lit v) (ctlOf i))
  | 2, none => fin (z && x.b == 0 && x.c == 0 && x.e == 0 && i.extractLsb' 23 9 == 0 && i.extractLsb' 14 8 == 0 &&
      i.extractLsb' 13 1 == 0) (.fwd x.gd x.a (i.extractLsb' 22 1 == 1) (i.extractLsb' 10 3) (i.extractLsb' 0 10))
  | 3, none => fin (z && x.c == 0 && x.e == 0 && i.extractLsb' 23 9 == 0 && i.extractLsb' 14 8 == 0 && i.extractLsb' 8 2 == 0)
      (.post x.gd x.a x.b (i.extractLsb' 22 1 == 1) (i.extractLsb' 10 4) (i.extractLsb' 0 8))
  | 0, some _ | 2, some _ | 3, some _ => .error .illegalLength
  | _, _ => .error .reservedFn

/-- The descriptor register of a copy or a vector access: SUB = 1 names gc (R231, R263). -/
def dscOf (x : XF) : Option (Option GReg) :=
  if x.sub = 0 then (if x.c = 0 then some none else none) else if x.sub = 1 then some (some x.c) else none

def decodeCopy (x : XF) : Except DecodeErr Instr :=
  let tag : BitVec 6 := x.imm32.extractLsb' 0 6
  let z := x.e == 0 && x.imm32.extractLsb' 6 26 == 0
  match x.fn.toNat, dscOf x with
  | 0, some ds => fin (z && x.imm16 == 0) (.cpy x.gd tag x.d x.a x.b ds)
  | 1, some ds => fin z (.cpyxG x.gd tag x.imm16 x.d x.a x.b ds)
  | 2, some ds => fin z (.cpyxP x.gd tag x.imm16 x.d x.a x.b ds)
  | 3, some none => fin (z && x.d == 0 && x.a == 0 && x.b == 0 && x.imm16 == 0 && x.sub == 0 && x.imm32.extractLsb' 2 30 == 0)
      (.publ x.gd (x.imm32.extractLsb' 0 2))
  | _, _ => if x.fn.toNat < 4 then .error .badField else .error .reservedFn

def decodeSysX (x : XF) : Except DecodeErr Instr :=
  let z := x.c == 0 && x.e == 0 && x.sub == 0
  let i := x.imm32
  match x.fn.toNat with
  | 0 => fin (z && x.d == 0 && x.a == 0 && x.b == 0 && x.imm16 == 0 && i == 0) (.doneXForm x.gd)
  | 1 => fin (z && x.d == 0 && x.b == 0 && x.imm16 == 0 && i == 0) (.yieldXForm x.gd x.a)
  | 3 => fin (z && x.d == 0 && x.a == 0 && x.b == 0 && i == 0) (.brkXForm x.gd x.imm16)
  | 4 => fin (z && x.d == 0 && x.imm16.extractLsb' 8 8 == 0 && i == 0) (.trap x.gd x.a x.b (x.imm16.extractLsb' 0 8))
  | 7 => fin (z && x.imm16.extractLsb' 2 14 == 0 && i.extractLsb' 10 22 == 0)
      (.scall x.gd x.d x.a x.b (x.imm16.extractLsb' 0 2) (i.extractLsb' 0 10))
  | 2 | 5 | 6 => .error .illegalLength
  | _ => .error .reservedFn

/-- Words 1 and 2 of a vector X form (R252): the shared layout. -/
def vxOf (x : XF) : Option VX :=
  if x.imm16.extractLsb' 5 11 = 0 ∧ is2 x.e ∧ is4 x.c ∧ x.imm32.extractLsb' 9 23 = 0 then
    match rmOf (x.imm16.extractLsb' 0 4) with
    | none => none
    | some rm =>
      let v (rf : Option Fmt) : VX := ⟨x.gd, x.imm16.extractLsb' 4 1 == 1, rm, lo2 x.e, lo4 x.c, rf⟩
      if x.imm32.extractLsb' 8 1 = 1 then (Fmt.ofCode (x.imm32.extractLsb' 0 8)).map fun f => v (some f)
      else if x.imm32 = 0 then some (v none) else none
  else none

/-- The second vector source (R252): SUB. -/
def vsrcOf (x : XF) : Option VSrc :=
  if x.sub = 0 then (if is4 x.b then some (.v (lo4 x.b)) else none) else if x.sub = 1 then some (.g x.b) else none

/-- Two-source vector instructions of majors 0x20 to 0x22, by fn. -/
def vec2Instr (maj fn : Nat) (x : Option VX) (d : BitVec 5) (a : VReg) (b : VSrc) : Option (Bool × Instr) :=
  let vd := lo4 d; let md := lo2 d
  match maj, fn with
  | 0x20, 0x00 => some (is4 d, .vadd x vd a b) | 0x20, 0x01 => some (is4 d, .vsub x vd a b)
  | 0x20, 0x02 => some (is4 d, .vadds x vd a b) | 0x20, 0x03 => some (is4 d, .vsubs x vd a b)
  | 0x20, 0x04 => some (is4 d, .vmul x vd a b) | 0x20, 0x05 => some (is4 d, .vmulh x vd a b)
  | 0x20, 0x06 => some (is4 d, .vmin x vd a b) | 0x20, 0x07 => some (is4 d, .vmax x vd a b)
  | 0x20, 0x08 => some (is4 d, .vand x vd a b) | 0x20, 0x09 => some (is4 d, .vor x vd a b)
  | 0x20, 0x0A => some (is4 d, .vxor x vd a b) | 0x20, 0x0B => some (is4 d, .vsll x vd a b)
  | 0x20, 0x0C => some (is4 d, .vsrl x vd a b) | 0x20, 0x0D => some (is4 d, .vsra x vd a b)
  | 0x20, 0x10 => some (is2 d, .vcmpEq x md a b) | 0x20, 0x11 => some (is2 d, .vcmpNe x md a b)
  | 0x20, 0x12 => some (is2 d, .vcmpLt x md a b) | 0x20, 0x13 => some (is2 d, .vcmpLe x md a b)
  | 0x21, 0x00 => some (is4 d, .vfadd x vd a b) | 0x21, 0x01 => some (is4 d, .vfsub x vd a b)
  | 0x21, 0x02 => some (is4 d, .vfmul x vd a b) | 0x21, 0x03 => some (is4 d, .vfdiv x vd a b)
  | 0x21, 0x05 => some (is4 d, .vfmin x vd a b) | 0x21, 0x06 => some (is4 d, .vfmax x vd a b)
  | 0x21, 0x10 => some (is2 d, .vfcmpEq x md a b) | 0x21, 0x11 => some (is2 d, .vfcmpLt x md a b)
  | 0x21, 0x12 => some (is2 d, .vfcmpLe x md a b) | 0x21, 0x13 => some (is2 d, .vfcmpUnord x md a b)
  | 0x22, 0x00 => some (is4 d, .vfma x vd a b) | 0x22, 0x01 => some (is4 d, .vfms x vd a b)
  | 0x22, 0x02 => some (is4 d, .vfnma x vd a b)
  | _, _ => none

/-- One-source vector instructions with the shared X layout, by fn. -/
def vec1Instr (maj fn : Nat) (x : Option VX) (d a : VReg) : Option Instr :=
  match maj, fn with
  | 0x20, 0x0E => some (.vabs x d a)
  | 0x21, 0x04 => some (.vfsqrt x d a) | 0x21, 0x07 => some (.vfneg x d a) | 0x21, 0x08 => some (.vfabs x d a)
  | 0x24, 0x00 => some (.vrsum x d a) | 0x24, 0x01 => some (.vrmax x d a) | 0x24, 0x02 => some (.vrmin x d a)
  | 0x24, 0x0B => some (.vrev x d a)
  | _, _ => none

def decodeVecX (maj : Nat) (x : XF) : Except DecodeErr Instr :=
  let fn := x.fn.toNat
  match vec1Instr maj fn none 0 0 with
  | some _ =>
    match vxOf x with
    | some v =>
      match vec1Instr maj fn (some v) (lo4 x.d) (lo4 x.a) with
      | some i => fin (is4 x.d && is4 x.a && x.b == 0 && x.sub == 0) i
      | none => .error .reservedFn
    | none => .error .badField
  | none =>
    match vec2Instr maj fn none 0 0 (.v 0) with
    | some _ =>
      match vxOf x, vsrcOf x with
      | some v, some b =>
        match vec2Instr maj fn (some v) x.d (lo4 x.a) b with
        | some (ok, i) => fin (ok && is4 x.a) i
        | none => .error .reservedFn
      | _, _ => .error .badField
    | none =>
      match maj, fn, vxOf x with
      | 0x24, 0x08, some v => fin (is4 x.d && is4 x.a && is4 x.b && x.sub == 0) (.vperm (some v) (lo4 x.d) (lo4 x.a) (lo4 x.b))
      | 0x24, 0x09, some v => fin (is4 x.d && is4 x.a && x.sub == 0) (.vslup (some v) (lo4 x.d) (lo4 x.a) x.b)
      | 0x24, 0x0A, some v => fin (is4 x.d && is4 x.a && x.sub == 0) (.vsldn (some v) (lo4 x.d) (lo4 x.a) x.b)
      | 0x24, 0x08, none | 0x24, 0x09, none | 0x24, 0x0A, none => .error .badField
      | _, _, _ => .error .reservedFn

/-- Major 0x23 (R257). -/
def decodeVecCvt (x : XF) : Except DecodeErr Instr :=
  if x.fn.toNat ≥ 3 then .error .reservedFn else
  match rmOf (x.imm16.extractLsb' 0 4), Fmt.ofCode (x.imm32.extractLsb' 0 8) with
  | some rm, some f =>
    let z := x.imm16.extractLsb' 4 12 == 0 && x.sub == 0 && x.b == 0 && x.c == 0 && x.e == 0 && is4 x.d && is4 x.a
    match x.fn.toNat with
    | 0 => fin (z && x.imm32.extractLsb' 11 21 == 0) (.vcvt x.gd rm (lo4 x.d) (lo4 x.a) (x.imm32.extractLsb' 8 3) f)
    | 1 => fin (z && x.imm32.extractLsb' 12 20 == 0 && x.imm32.extractLsb' 8 3 == 0)
        (.vqnt x.gd rm (lo4 x.d) (lo4 x.a) (x.imm32.extractLsb' 11 1 == 1) f)
    | _ => fin (z && x.imm32.extractLsb' 8 24 == 0) (.vdqnt x.gd rm (lo4 x.d) (lo4 x.a) f)
  | _, _ => .error .badField

/-- Major 0x25 in X form (R263). -/
def decodeVecMem (x : XF) : Except DecodeErr Instr :=
  if x.fn.toNat ≥ 2 then .error .reservedFn else
  match dscOf x with
  | none => .error .badField
  | some ds =>
    let v : VMemX := ⟨x.gd, x.imm16.extractLsb' 4 1 == 1, lo2 x.e, x.imm32, ds⟩
    let z := x.imm16.extractLsb' 5 11 == 0 && x.imm16.extractLsb' 0 4 == 0 && is2 x.e && is4 x.d
    if x.fn = 0 then fin z (.vld (some v) (lo4 x.d) x.a x.b) else fin z (.vst (some v) (lo4 x.d) x.a x.b)

/-- Major 0x26 (R267). -/
def decodeVecRng (x : XF) : Except DecodeErr Instr :=
  if x.fn.toNat ≥ 3 then .error .reservedFn else
  let base : Option RegLit := match x.lit with
    | none => some (.reg x.c)
    | some v => if x.c = 0 then some (.lit v) else none
  match base with
  | none => .error .badField
  | some c =>
    match x.fn.toNat with
    | 0 => fin (x.imm16 == 0 && x.imm32 == 0 && x.e == 0 && x.sub == 0 && is4 x.d) (.vrng x.gd (lo4 x.d) x.a x.b c)
    | 1 =>
      match Fmt.ofCode (x.imm32.extractLsb' 0 8) with
      | some f => fin (x.imm16.extractLsb' 6 10 == 0 && x.imm32.extractLsb' 11 21 == 0 && x.sub == 0 && is4 x.d && is4 x.e)
          (.vsrnd x.gd (lo4 x.d) (lo4 x.e) x.a x.b c (x.imm16.extractLsb' 0 6) (x.imm32.extractLsb' 8 3) f)
      | none => .error .badField
    | _ =>
      match rmOf (x.imm16.extractLsb' 0 4) with
      | some rm => fin (x.imm16.extractLsb' 4 12 == 0 && x.sub == 0 && is4 x.d && is4 x.e)
          (.vdrop x.gd rm (lo4 x.d) (lo4 x.e) x.a x.b c x.imm32)
      | none => .error .badField

/-- Majors 0x27 and 0x28 in X form (R271, R275). -/
def decodeVecMove (maj : Nat) (x : XF) : Except DecodeErr Instr :=
  let g := some x.gd
  let z := x.imm16 == 0 && x.e == 0 && x.c == 0 && x.sub == 0 && x.imm32 == 0
  let idx : Option VIdx :=
    if x.sub = 0 then (if x.imm32 = 0 then some (.reg x.b) else none)
    else if x.sub = 1 then
      (if x.b = 0 ∧ x.imm32.extractLsb' 7 25 = 0 then some (.imm (x.imm32.extractLsb' 0 7)) else none)
    else none
  let zi := x.imm16 == 0 && x.e == 0 && x.c == 0
  match maj, x.fn.toNat with
  | 0x27, 0x00 =>
    match rmOf (x.imm16.extractLsb' 0 4) with
    | some rm => fin (x.imm16.extractLsb' 4 12 == 0 && x.d == 0 && x.b == 0 && x.e == 0 && x.c == 0 && x.sub == 0 &&
        x.imm32 == 0) (.vopt (some (x.gd, rm)) x.a)
    | none => .error .badField
  | 0x28, 0x00 => match idx with | some i => fin (zi && is4 x.a) (.vext g x.d (lo4 x.a) i) | none => .error .badField
  | 0x28, 0x01 => match idx with | some i => fin (zi && is4 x.d) (.vins g (lo4 x.d) x.a i) | none => .error .badField
  | 0x28, 0x02 =>
    match Fmt.ofCode (x.imm32.extractLsb' 0 8) with
    | some f => fin (zi && x.sub == 0 && x.b == 0 && is4 x.d && x.imm32.extractLsb' 8 24 == 1) (.vbcast x.gd (lo4 x.d) x.a f)
    | none => .error .badField
  | 0x28, 0x03 => fin (z && is4 x.a && x.b == 0) (.vtag g x.d (lo4 x.a))
  | 0x28, 0x04 => fin (z && is4 x.d && x.b == 0) (.vsett g (lo4 x.d) x.a)
  | 0x28, 0x05 => fin (z && is4 x.d && is4 x.a && x.b == 0) (.vmov g (lo4 x.d) (lo4 x.a))
  | 0x28, 0x08 => fin (z && is2 x.d && is2 x.a && is2 x.b) (.mand g (lo2 x.d) (lo2 x.a) (lo2 x.b))
  | 0x28, 0x09 => fin (z && is2 x.d && is2 x.a && is2 x.b) (.mor g (lo2 x.d) (lo2 x.a) (lo2 x.b))
  | 0x28, 0x0A => fin (z && is2 x.d && is2 x.a && is2 x.b) (.mxor g (lo2 x.d) (lo2 x.a) (lo2 x.b))
  | 0x28, 0x0B => fin (z && is2 x.d && is2 x.a && is2 x.b) (.mandn g (lo2 x.d) (lo2 x.a) (lo2 x.b))
  | 0x28, 0x0C => fin (z && is2 x.d && is2 x.a && x.b == 0) (.mnot g (lo2 x.d) (lo2 x.a))
  | 0x28, 0x0D => fin (z && is2 x.a && x.b == 0) (.mpop g x.d (lo2 x.a))
  | 0x28, 0x0E => fin (z && is2 x.d && x.b == 0) (.mset g (lo2 x.d) x.a)
  | 0x28, 0x0F => fin (z && is2 x.a && x.b == 0) (.mget g x.d (lo2 x.a))
  | _, _ => .error .reservedFn

/-- Majors 0x30 to 0x34 (R279, R283, R316, R291, R300). -/
noncomputable def decodeMat (maj : Nat) (x : XF) : Except DecodeErr Instr :=
  let i := x.imm32
  let p0 : BitVec 7 := i.extractLsb' 24 7
  let np1 : BitVec 7 := i.extractLsb' 17 7
  let ld := x.sub == 0 && x.b == 0 && x.d == 0 && x.e == 0
  let stride : BitVec 10 := x.imm16.extractLsb' 0 10
  let str : StreamArgs := ⟨x.gd, x.a, stride, i.extractLsb' 11 6, i.extractLsb' 5 6⟩
  let init := x.imm16.extractLsb' 10 1 == 1
  let z31 := x.sub == 0 && x.b == 0 && x.c == 0 && x.d == 0 && x.e == 0 && x.imm16.extractLsb' 11 5 == 0 && i.extractLsb' 0 5 == 0
  let imode := i.extractLsb' 31 1 == 1
  let tag33 : BitVec 6 := x.imm16.extractLsb' 0 6
  let r033 : BitVec 6 := i.extractLsb' 26 6
  let nr33 : BitVec 6 := i.extractLsb' 20 6
  let z33 := x.sub == 0 && x.b == 0 && x.c == 0 && x.d == 0 && x.e == 0 && x.imm16.extractLsb' 6 2 == 0
  let z32 := x.sub == 0 && x.d == 0 && x.e == 0 && x.imm16.extractLsb' 11 5 == 0 && i.extractLsb' 0 5 == 0 && i.extractLsb' 23 1 == 0
  match maj, x.fn.toNat with
  | 0x30, 0 => fin (ld && x.c == 0 && x.imm16 == 0 && i.extractLsb' 31 1 == 0 && i.extractLsb' 0 17 == 0) (.mldb x.gd x.a p0 np1)
  | 0x30, 1 => fin (ld && x.imm16 == 0 && i.extractLsb' 31 1 == 0 && i.extractLsb' 0 17 == 0) (.mldbS x.gd x.a x.c p0 np1)
  | 0x30, 2 => fin (ld && x.c == 0 && x.imm16.extractLsb' 6 10 == 0 && i.extractLsb' 31 1 == 0 && i.extractLsb' 0 17 == 0)
      (.mstb x.gd tag33 x.a p0 np1)
  | 0x30, 3 => fin (ld && x.c == 0 && x.imm16 == 0 && i.extractLsb' 5 27 == 0)
      (.mprog x.gd x.a (i.extractLsb' 0 2) (i.extractLsb' 2 3))
  | 0x31, 0 => fin (z31 && !init) (.mmac str imode p0 np1)
  | 0x31, 1 => fin (z31 && !init) (.mmact str imode p0 np1)
  | 0x31, 2 => fin (z31 && !imode && np1 == 0) (.mrec str init p0)
  | 0x32, 0 => fin (z32 && x.b == 0 && x.c == 0 && x.imm16 == 0 && i.extractLsb' 0 24 == 0)
      (.mknot x.gd x.a (i.extractLsb' 28 4) (i.extractLsb' 24 4))
  | 0x32, 1 => fin (z32 && x.b == 0 && x.c == 0 && !init && i.extractLsb' 17 15 == 0) (.mspl str)
  | 0x32, 2 => fin (z32 && x.b == 0 && !init && i.extractLsb' 17 15 == 0) (.mspld str x.c)
  | 0x32, 3 => fin (z32 && i.extractLsb' 24 8 == 0 && i.extractLsb' 11 6 == 0) (.msgrad str init (i.extractLsb' 17 6) x.b x.c)
  | 0x32, 4 => fin (z32 && x.a == 0 && x.b == 0 && x.c == 0 && x.imm16 == 0 && i.extractLsb' 0 24 == 0)
      (.mrefine x.gd (i.extractLsb' 28 4) (i.extractLsb' 24 4))
  | 0x33, 0 => fin (z33 && x.a == 0 && x.imm16 == 0 && i.extractLsb' 2 18 == 0) (.acz x.gd r033 nr33 (i.extractLsb' 0 2))
  | 0x33, 1 => fin (z33 && x.imm16.extractLsb' 8 8 == 0 && i.extractLsb' 0 20 == 0) (.acld x.gd tag33 x.a r033 nr33)
  | 0x33, 2 =>
    match rmOf (i.extractLsb' 9 4), Fmt.ofCode (i.extractLsb' 0 8) with
    | some rm, some f => fin (z33 && i.extractLsb' 14 6 == 0 && i.extractLsb' 8 1 == 0)
        (.acst x.gd tag33 x.a r033 nr33 (x.imm16.extractLsb' 8 8) (i.extractLsb' 13 1 == 1) rm f)
    | _, _ => .error .badField
  | 0x33, 3 => fin (z33 && x.a == 0 && x.imm16.extractLsb' 8 8 == 0 && i.extractLsb' 0 14 == 0)
      (.acmv x.gd tag33 r033 (i.extractLsb' 14 6) nr33)
  | 0x34, 0 => fin (x.sub == 0 && x.d == 0 && x.e == 0 && x.imm16.extractLsb' 11 5 == 0 && i.extractLsb' 0 11 == 0)
      (.mgang x.gd init imode stride x.a x.b x.c p0 np1 (i.extractLsb' 11 6))
  | _, _ => .error .reservedFn

/-- Major 0x35 in X form (R337). -/
noncomputable def decodeTree (x : XF) : Except DecodeErr Instr :=
  let m := x.imm16
  let z := x.imm32 == 0
  let s0 := x.sub == 0
  match x.fn.toNat with
  | 0 => fin (z && s0 && x.c == 0 && x.e == 0 && m == 0) (.tselXForm x.gd x.d x.a x.b)
  | 1 =>
    match NodeClass.ofCode (m.extractLsb' 0 2) with
    | some k => fin (z && s0 && x.e == 0 && m.extractLsb' 2 14 == 0) (.tnew x.gd k x.d x.a x.b x.c)
    | none => .error .badField
  | 2 => fin (z && s0 && x.d == 0 && x.e == 0 && m == 0) (.tnewLink x.gd x.a x.b x.c)
  | 3 => fin (z && s0 && x.d == 0 && m.extractLsb' 2 14 == 0)
      (.texp x.gd (m.extractLsb' 0 1 == 1) (m.extractLsb' 1 1 == 1) x.a x.b x.c x.e)
  | 4 => fin (z && s0 && x.d == 0 && x.e == 0 && m.extractLsb' 2 14 == 0 && m.extractLsb' 0 1 == 0)
      (.tback x.gd (m.extractLsb' 1 1 == 1) x.a x.b x.c)
  | 5 => fin (z && s0 && x.d == 0 && x.e == 0 && x.c == 0 && m.extractLsb' 1 15 == 0)
      (.tabortXForm x.gd (m.extractLsb' 0 1 == 1) x.a x.b)
  | 6 => fin (z && s0 && x.d == 0 && x.e == 0 && x.c == 0 && m == 0) (.trootXForm x.gd x.a x.b)
  | 7 =>
    let t := z && x.d == 0 && x.b == 0 && x.c == 0 && x.e == 0
    if x.sub = 0 then fin (t && m == 0) (.tfree x.gd x.a)
    else if x.sub = 1 then fin (t && m == 0) (.tfreeKeep x.gd x.a)
    else if x.sub = 2 then
      match NodeClass.ofCode (m.extractLsb' 0 2) with
      | some k => fin (t && m.extractLsb' 2 14 == 0) (.tfreeInit x.gd k x.a)
      | none => .error .badField
    else .error .badField
  | 8 => fin (z && s0 && x.c == 0 && x.e == 0 && m.extractLsb' 2 14 == 0) (.tstat x.gd (m.extractLsb' 0 2) x.d x.a x.b)
  | 9 => fin (z && s0 && m == 0) (.tleaf x.gd x.d x.a x.b x.c x.e)
  | _ => .error .reservedFn

/-- Instructions of three words without, or five with, a literal (L = 10, 11). -/
noncomputable def decodeX (maj : Nat) (x : XF) : Except DecodeErr Instr :=
  match maj with
  | 0x01 =>
    if x.imm16 = 0 ∧ x.e = 0 then
      match src2Of x with
      | none => .error .badField
      | some s =>
        if x.fn = 0x40 then fin (is3 x.c) (.sel x.gd x.d x.a s (lo3 x.c))
        else match AluOp.ofFn x.fn with
          | some op => fin (x.c == 0) (.integerAluXForm op x.gd x.d x.a s)
          | none => .error .reservedFn
    else if x.fn = 0x40 ∨ (AluOp.ofFn x.fn).isSome then .error .badField else .error .reservedFn
  | 0x09 => decodeFpX x
  | 0x0A =>
    match decodeCvt x.fn, fpXOf x with
    | some (r, u, v), some fx => fin (x.b == 0 && x.c == 0) (.fpConvertXForm u v r fx x.d x.a)
    | none, _ => .error .reservedFn
    | _, none => .error .badField
  | 0x10 | 0x11 =>
    if x.fn.extractLsb' 3 6 ≠ 0 then .error .reservedFn else
    let sz : BitVec 3 := x.fn.extractLsb' 0 3
    let z := x.b == 0 && x.e == 0 && x.imm16 == 0
    let m : Option AddrMode :=
      if x.sub = 0 then (if x.c = 0 then some (.off x.imm32) else none)
      else if x.sub = 1 then (if x.imm32 = 0 then some (.idx x.c) else none)
      else if x.sub = 2 then (if x.c = 0 then some (.post x.imm32) else none) else none
    match m with
    | some m => fin z (if maj = 0x10 then .ldXForm x.gd sz x.d x.a m else .stXForm x.gd sz x.d x.a m)
    | none => .error .badField
  | 0x12 => decodeDev x
  | 0x13 => decodeAmo x
  | 0x14 => decodeWaitv x
  | 0x18 => decodeMsg x
  | 0x19 =>
    let z := x.e == 0 && x.sub == 0 && x.imm16 == 0
    match x.fn.toNat with
    | 0 => fin (z && is3 x.d) (.cset x.gd (lo3 x.d) x.a x.b x.c x.imm32)
    | 1 => fin (z && x.b == 0 && x.c == 0) (.cread x.gd x.d x.a x.imm32)
    | _ => .error .reservedFn
  | 0x1A => decodeCopy x
  | 0x1D => decodeSysX x
  | 0x20 | 0x21 | 0x22 | 0x24 => decodeVecX maj x
  | 0x23 => decodeVecCvt x
  | 0x25 => decodeVecMem x
  | 0x26 => decodeVecRng x
  | 0x27 | 0x28 => decodeVecMove maj x
  | 0x35 => decodeTree x
  | m => decodeMat m x

/-- The decoder over five fetched words; words past the instruction's length are not looked at. R174 steps 2 to 5. -/
noncomputable def decode (w0 w1 w2 w3 w4 : IWord) : Except DecodeErr Instr :=
  if !majorOk (wMaj w0) then .error .illegalMajor
  else if !permits (wMaj w0) (wL w0) then .error .illegalLength
  else if wL w0 = 0 then decodeShort w0 none
  else if wL w0 = 1 then decodeShort w0 (some (w2 ++ w1))
  else decodeX (wMaj w0).toNat (XF.of w0 w1 w2 w3 w4)

/-- Words of an instruction by its length field (R165). -/
def lengthOf (w0 : IWord) : Nat :=
  if wL w0 = 0 then 1 else if wL w0 = 3 then 5 else 3

/-- The word at the head of little-endian bytes (R3). -/
def word32 (b0 b1 b2 b3 : BitVec 8) : IWord := b3 ++ b2 ++ b1 ++ b0

/-- The words of a byte string, lowest address first; a rest of fewer than four bytes is left out. -/
def toWords : List (BitVec 8) → List IWord
  | b0 :: b1 :: b2 :: b3 :: r => word32 b0 b1 b2 b3 :: toWords r
  | _ => []

/-- Decoding any bytes: an instruction with its length in words, or the reason there is none (R168 for too few words). -/
noncomputable def decodeBytes (bs : List (BitVec 8)) : Except DecodeErr (Instr × Nat) :=
  match toWords bs with
  | [] => .error .outOfWords
  | w0 :: r =>
    if (w0 :: r).length < lengthOf w0 then .error .outOfWords
    else (decode w0 (r.getD 0 0) (r.getD 1 0) (r.getD 2 0) (r.getD 3 0)).map fun i => (i, lengthOf w0)

/-- The four bytes of a word, lowest address first (R3). -/
def wordBytes (w : IWord) : List (BitVec 8) :=
  [w.extractLsb' 0 8, w.extractLsb' 8 8, w.extractLsb' 16 8, w.extractLsb' 24 8]

/-- The five words of an instruction whose first nbits bits are w, the rest zero: the first word in the low bits. -/
def tableWords (nbits w : Nat) : List IWord :=
  let v : BitVec 160 := BitVec.ofNat 160 (w % 2 ^ nbits)
  [v.extractLsb' 0 32, v.extractLsb' 32 32, v.extractLsb' 64 32, v.extractLsb' 96 32, v.extractLsb' 128 32]

/-- What the decoder reads from an instruction whose bits are w (bit 0 the least significant bit of the first word). -/
noncomputable def decodeTableWord (nbits w : Nat) : Option Instr :=
  match decodeBytes ((tableWords nbits w).flatMap wordBytes) with
  | .ok (i, _) => some i
  | .error _ => none

/-! ### The encoder -/

def rWord (maj : BitVec 6) (l : BitVec 2) (fn : BitVec 9) (d a b : BitVec 5) : IWord := fn ++ b ++ a ++ d ++ maj ++ l
def iWord (maj : BitVec 6) (l : BitVec 2) (d a : BitVec 5) (i : BitVec 14) : IWord := i ++ a ++ d ++ maj ++ l
def mWord (maj : BitVec 6) (sz : BitVec 3) (d a : BitVec 5) (off : BitVec 11) : IWord := off ++ sz ++ a ++ d ++ maj ++ 0#2
def xWord1 (gd : Guard) (imm16 : BitVec 16) (sub : BitVec 2) (e c : BitVec 5) : IWord :=
  imm16 ++ BitVec.ofBool gd.neg ++ gd.gp ++ sub ++ e ++ c
def litWords (v : Word) : List IWord := [v.extractLsb' 0 32, v.extractLsb' 32 32]

def ext5 {n : Nat} (r : BitVec n) : BitVec 5 := r.setWidth 5
def bit1 (b : Bool) : BitVec 1 := BitVec.ofBool b

/-- An X form without a literal. -/
def xf (maj : BitVec 6) (fn : BitVec 9) (gd : Guard) (d a b : BitVec 5) (imm16 : BitVec 16) (sub : BitVec 2) (e c : BitVec 5)
    (imm32 : BitVec 32) : List IWord :=
  [rWord maj 2 fn d a b, xWord1 gd imm16 sub e c, imm32]
/-- An X form with a literal. -/
def xl (maj : BitVec 6) (fn : BitVec 9) (gd : Guard) (d a b : BitVec 5) (imm16 : BitVec 16) (sub : BitVec 2) (e c : BitVec 5)
    (imm32 : BitVec 32) (v : Word) : List IWord :=
  [rWord maj 3 fn d a b, xWord1 gd imm16 sub e c, imm32] ++ litWords v

def encAlu (op : AluOp) (d a b : BitVec 5) : List IWord := [rWord 0x01 0 op.fn d a b]
def encFp (op : FpOp) (f : BitVec 2) (d a b : BitVec 5) : List IWord := [rWord 0x09 0 (op.code ++ 0#1 ++ f) d a b]
def encFpX (code : BitVec 6) (x : FpX) (f : BitVec 2) (d a : BitVec 5) (b : RegLit) (c : BitVec 5) : List IWord :=
  match b with
  | .reg r => xf 0x09 (code ++ 0#1 ++ f) x.guard d a r ((rmBits x.mode).setWidth 16) 0 0 c 0
  | .lit v => xl 0x09 (code ++ 0#1 ++ f) x.guard d a 0 ((rmBits x.mode).setWidth 16) 0 0 c 0 v
def encSrc2 (fn : BitVec 9) (gd : Guard) (d a : BitVec 5) (s : Src2) (c : BitVec 5) : List IWord :=
  match s with
  | .reg b => xf 0x01 fn gd d a b 0 0 0 c 0
  | .imm i => xf 0x01 fn gd d a 0 0 1 0 c i
def encMode (fn : BitVec 9) (maj : BitVec 6) (gd : Guard) (d a : BitVec 5) : AddrMode → List IWord
  | .off i => xf maj fn gd d a 0 0 0 0 0 i
  | .idx c => xf maj fn gd d a 0 0 1 0 c 0
  | .post i => xf maj fn gd d a 0 0 2 0 0 i
/-- imm16, SUB and e of a device operand (R214). -/
def targetFields : Target → BitVec 16 × BitVec 2 × BitVec 5
  | .loc | .glob => (0, 0, 0)
  | .ext (.imm i) => (i, 0, 0)
  | .ext (.reg e) => (0, 1, e)
def targetCode : Target → BitVec 2
  | .loc => 0 | .glob => 1 | .ext _ => 2
def encDevice (maj : BitVec 6) (fn : BitVec 9) (gd : Guard) (t : Target) (off : DevOff) (d a b c : BitVec 5) : List IWord :=
  match off with
  | .imm i => xf maj fn gd d a b (targetFields t).1 (targetFields t).2.1 (targetFields t).2.2 c i
  | .lit v => xl maj fn gd d a b (targetFields t).1 (targetFields t).2.1 (targetFields t).2.2 c 0 v
def encDev (kind : BitVec 3) (t : Target) (x : DevArgs) : List IWord :=
  encDevice 0x12 (kind ++ 0#3 ++ x.sz) x.guard t x.off x.d x.a 0 0
def encAmo (op : AmoOp) (x : AmoArgs) (c : BitVec 5) : List IWord :=
  encDevice 0x13 (op.code ++ 0#1 ++ bit1 x.w ++ targetCode x.tgt) x.guard x.tgt x.off x.d x.a x.b c
def ctlBits (c : Ctl) : BitVec 32 := 0#9 ++ bit1 c.named ++ bit1 c.narrow ++ c.nsucc ++ c.len ++ c.vc ++ c.entry
def encDsc : Option GReg → BitVec 2 × BitVec 5
  | none => (0, 0)
  | some c => (1, c)
/-- imm16 and imm32 of a vector X form (R252). -/
def vxImm16 (v : VX) : BitVec 16 := 0#11 ++ bit1 v.zero ++ rmBits v.rm
def vxImm32 (v : VX) : BitVec 32 :=
  match v.rfmt with
  | none => 0
  | some f => 0#23 ++ 1#1 ++ f.code
def encVec2 (maj : BitVec 6) (fn : BitVec 9) (x : Option VX) (d a : BitVec 5) (b : VSrc) : List IWord :=
  match x, b with
  | none, .v r => [rWord maj 0 fn d a (ext5 r)]
  | none, .g r => [rWord maj 0 fn d a r]
  | some v, .v r => xf maj fn v.guard d a (ext5 r) (vxImm16 v) 0 (ext5 v.e) (ext5 v.c) (vxImm32 v)
  | some v, .g r => xf maj fn v.guard d a r (vxImm16 v) 1 (ext5 v.e) (ext5 v.c) (vxImm32 v)
def encVec1 (maj : BitVec 6) (fn : BitVec 9) (x : Option VX) (d a b : BitVec 5) : List IWord :=
  match x with
  | none => [rWord maj 0 fn d a b]
  | some v => xf maj fn v.guard d a b (vxImm16 v) 0 (ext5 v.e) (ext5 v.c) (vxImm32 v)
def encVMem (fn : BitVec 9) (x : Option VMemX) (d : VReg) (a b : BitVec 5) : List IWord :=
  match x with
  | none => [rWord 0x25 0 fn (ext5 d) a b]
  | some v => xf 0x25 fn v.guard (ext5 d) a b (0#11 ++ bit1 v.zero ++ 0#4) (encDsc v.dsc).1 (ext5 v.e) (encDsc v.dsc).2 v.imm
def encVcvt (fn : BitVec 9) (gd : Guard) (rm : Option RMode) (d a : VReg) (i : BitVec 32) : List IWord :=
  xf 0x23 fn gd (ext5 d) (ext5 a) 0 ((rmBits rm).setWidth 16) 0 0 0 i
def encRng (fn : BitVec 9) (gd : Guard) (d : VReg) (a b e : BitVec 5) (c : RegLit) (imm16 : BitVec 16) (i : BitVec 32) : List IWord :=
  match c with
  | .reg r => xf 0x26 fn gd (ext5 d) a b imm16 0 e r i
  | .lit v => xl 0x26 fn gd (ext5 d) a b imm16 0 e 0 i v
def encMove (fn : BitVec 9) (x : Option Guard) (d a b : BitVec 5) : List IWord :=
  match x with
  | none => [rWord 0x28 0 fn d a b]
  | some g => xf 0x28 fn g d a b 0 0 0 0 0
def encIdx (fn : BitVec 9) (x : Option Guard) (d a : BitVec 5) (i : VIdx) : List IWord :=
  match x, i with
  | none, .reg b => [rWord 0x28 0 fn d a b]
  | some g, .reg b => xf 0x28 fn g d a b 0 0 0 0 0
  | some g, .imm k => xf 0x28 fn g d a 0 0 1 0 0 (k.setWidth 32)
  | none, .imm _ => []
def planes (p0 np1 : BitVec 7) : BitVec 32 := 0#1 ++ p0 ++ np1 ++ 0#17
def encStream (maj : BitVec 6) (fn : BitVec 9) (x : StreamArgs) (bit10 : Bool) (b c : BitVec 5) (hi : BitVec 15) : List IWord :=
  xf maj fn x.guard 0 x.a b (0#5 ++ bit1 bit10 ++ x.stride) 0 0 c (hi ++ x.r0 ++ x.nr1 ++ 0#5)
def encAcc (fn : BitVec 9) (gd : Guard) (a : BitVec 5) (sc : BitVec 8) (tag r0 nr1 s : BitVec 6) (lo : BitVec 14) : List IWord :=
  xf 0x33 fn gd 0 a 0 (sc ++ 0#2 ++ tag) 0 0 0 (r0 ++ nr1 ++ s ++ lo)
def encTree (fn : BitVec 9) (gd : Guard) (d a b c e : BitVec 5) (sub : BitVec 2) (m : BitVec 16) : List IWord :=
  xf 0x35 fn gd d a b m sub e c 0
def encTag (fn : BitVec 9) (d a : BitVec 5) : List IWord := [rWord 0x1B 0 fn d a 0]
def encTagLit (fn : BitVec 9) (d : BitVec 5) (m : Word) : List IWord := rWord 0x1B 1 fn d 0 0 :: litWords m
def encSh (k : BitVec 2) (d a : BitVec 5) (n : BitVec 6) : List IWord := [iWord 0x06 0 d a (0#6 ++ k ++ n)]
def encCmpi (c : BitVec 3) (d : PReg) (a : BitVec 5) (k : BitVec 11) : List IWord := [iWord 0x07 0 (ext5 d) a (c ++ k)]
def encCopy (fn : BitVec 9) (gd : Guard) (tag : BitVec 6) (sp : BitVec 16) (d a b : BitVec 5) (ds : Option GReg) : List IWord :=
  xf 0x1A fn gd d a b sp (encDsc ds).1 0 (encDsc ds).2 (tag.setWidth 32)

/-- The words of a well-formed instruction (R165 to R172 and the minor tables); an event has none. -/
def encode : Instr → List IWord
  | .add d a b => encAlu .add d a b | .sub d a b => encAlu .sub d a b | .and d a b => encAlu .and d a b
  | .or d a b => encAlu .or d a b | .xor d a b => encAlu .xor d a b | .andn d a b => encAlu .andn d a b
  | .sll d a b => encAlu .sll d a b | .srl d a b => encAlu .srl d a b | .sra d a b => encAlu .sra d a b
  | .rol d a b => encAlu .rol d a b | .ror d a b => encAlu .ror d a b | .min d a b => encAlu .min d a b
  | .max d a b => encAlu .max d a b | .minu d a b => encAlu .minu d a b | .maxu d a b => encAlu .maxu d a b
  | .mul d a b => encAlu .mul d a b | .mulh d a b => encAlu .mulh d a b | .mulhu d a b => encAlu .mulhu d a b
  | .mulhsu d a b => encAlu .mulhsu d a b | .div d a b => encAlu .div d a b | .divu d a b => encAlu .divu d a b
  | .rem d a b => encAlu .rem d a b | .remu d a b => encAlu .remu d a b | .addsat d a b => encAlu .addsat d a b
  | .subsat d a b => encAlu .subsat d a b
  | .clz d a => encAlu .clz d a 0 | .ctz d a => encAlu .ctz d a 0 | .popc d a => encAlu .popc d a 0
  | .sextB d a => encAlu .sextB d a 0 | .sextH d a => encAlu .sextH d a 0 | .sextW d a => encAlu .sextW d a 0
  | .zextB d a => encAlu .zextB d a 0 | .zextH d a => encAlu .zextH d a 0 | .zextW d a => encAlu .zextW d a 0
  | .cmpEq d a b => encAlu .cmpEq (ext5 d) a b | .cmpNe d a b => encAlu .cmpNe (ext5 d) a b
  | .cmpLt d a b => encAlu .cmpLt (ext5 d) a b | .cmpGe d a b => encAlu .cmpGe (ext5 d) a b
  | .cmpLtu d a b => encAlu .cmpLtu (ext5 d) a b | .cmpGeu d a b => encAlu .cmpGeu (ext5 d) a b
  | .tst d a b => encAlu .tst (ext5 d) a b
  | .sel gd d a s c => encSrc2 0x40 gd d a s (ext5 c)
  | .integerAluXForm op gd d a s => encSrc2 op.fn gd d a s 0
  | .addi d a i => [iWord 0x02 0 d a i] | .andi d a i => [iWord 0x03 0 d a i] | .ori d a i => [iWord 0x04 0 d a i]
  | .xori d a i => [iWord 0x05 0 d a i] | .li d i => [iWord 0x08 0 d 0 i]
  | .addiLiteral d a v => iWord 0x02 1 d a 0 :: litWords v | .andiLiteral d a v => iWord 0x03 1 d a 0 :: litWords v
  | .oriLiteral d a v => iWord 0x04 1 d a 0 :: litWords v | .xoriLiteral d a v => iWord 0x05 1 d a 0 :: litWords v
  | .liLiteral d v => iWord 0x08 1 d 0 0 :: litWords v
  | .slli d a n => encSh 0 d a n | .srli d a n => encSh 1 d a n | .srai d a n => encSh 2 d a n | .rori d a n => encSh 3 d a n
  | .cmpiEq d a k => encCmpi 0 d a k | .cmpiNe d a k => encCmpi 1 d a k | .cmpiLt d a k => encCmpi 2 d a k
  | .cmpiGe d a k => encCmpi 3 d a k | .cmpiLtu d a k => encCmpi 4 d a k | .cmpiGeu d a k => encCmpi 5 d a k
  | .cmpiTst d a k => encCmpi 6 d a k
  | .fadd f d a b => encFp .fadd f d a b | .fsub f d a b => encFp .fsub f d a b | .fmul f d a b => encFp .fmul f d a b
  | .fdiv f d a b => encFp .fdiv f d a b | .fsqrt f d a => encFp .fsqrt f d a 0 | .fmin f d a b => encFp .fmin f d a b
  | .fmax f d a b => encFp .fmax f d a b | .fneg f d a => encFp .fneg f d a 0 | .fabs f d a => encFp .fabs f d a 0
  | .fsgnj f d a b => encFp .fsgnj f d a b
  | .fma x f d a b c => encFpX 0x0A x f d a b c | .fms x f d a b c => encFpX 0x0B x f d a b c
  | .fnma x f d a b c => encFpX 0x0C x f d a b c
  | .feq f d a b => encFp .feq f (ext5 d) a b | .flt f d a b => encFp .flt f (ext5 d) a b
  | .fle f d a b => encFp .fle f (ext5 d) a b | .funord f d a b => encFp .funord f (ext5 d) a b
  | .fclass f d a => encFp .fclass f d a 0
  | .fpAluXForm op x f d a b => encFpX op.code x f d a b 0
  | .fcvt u v d a => [rWord 0x0A 0 (0#1 ++ u.code ++ v.code) d a 0]
  | .fround v d a => [rWord 0x0A 0 (1#1 ++ v.code ++ v.code) d a 0]
  | .fpConvertXForm u v r x d a => xf 0x0A (bit1 r ++ u.code ++ v.code) x.guard d a 0 ((rmBits x.mode).setWidth 16) 0 0 0 0
  | .br p neg hint off => [off ++ bit1 hint ++ bit1 neg ++ p ++ 0x0B#6 ++ 0#2]
  | .jmp off => [off ++ 0x0E#6 ++ 0#2] | .call off => [off ++ 0x0D#6 ++ 0#2]
  | .jmpr a => [rWord 0x0C 0 0 0 a 0] | .callr a => [rWord 0x0C 0 1 0 a 0] | .ret => [rWord 0x0C 0 2 0 0 0]
  | .loop a n => [rWord 0x0C 0 3 (n.extractLsb' 0 5) a (n.extractLsb' 5 5)]
  | .pand d a b => [rWord 0x0F 0 0 (ext5 d) (ext5 a) (ext5 b)] | .por d a b => [rWord 0x0F 0 1 (ext5 d) (ext5 a) (ext5 b)]
  | .pxor d a b => [rWord 0x0F 0 2 (ext5 d) (ext5 a) (ext5 b)] | .pandn d a b => [rWord 0x0F 0 3 (ext5 d) (ext5 a) (ext5 b)]
  | .pnot d a => [rWord 0x0F 0 4 (ext5 d) (ext5 a) 0]
  | .ppack d => [rWord 0x0F 0 8 d 0 0] | .punpk a => [rWord 0x0F 0 9 0 a 0]
  | .ld sz d a off => [mWord 0x10 sz d a off] | .st sz d a off => [mWord 0x11 sz d a off]
  | .ldXForm gd sz d a m => encMode (0#6 ++ sz) 0x10 gd d a m | .stXForm gd sz d a m => encMode (0#6 ++ sz) 0x11 gd d a m
  | .ldg x => encDev 0 .glob x | .stg x => encDev 1 .glob x | .ldx x s => encDev 2 (.ext s) x | .stx x s => encDev 3 (.ext s) x
  | .amoAdd x => encAmo .add x 0 | .amoAnd x => encAmo .and x 0 | .amoOr x => encAmo .or x 0 | .amoXor x => encAmo .xor x 0
  | .amoSwap x => encAmo .swap x 0 | .amoCas x c => encAmo .cas x c | .amoMin x => encAmo .min x 0
  | .amoMax x => encAmo .max x 0 | .amoMinu x => encAmo .minu x 0 | .amoMaxu x => encAmo .maxu x 0
  | .amoFadd x => encAmo .fadd x 0 | .amoFmin x => encAmo .fmin x 0 | .amoFmax x => encAmo .fmax x 0
  | .waitv x c => encDevice 0x14 (0#6 ++ bit1 x.w ++ targetCode x.tgt) x.guard x.tgt x.off x.d x.a x.b c
  | .alloc m => [iWord 0x15 0 0 0 m] | .free m => [iWord 0x15 0 0 1 m]
  | .csrr d c => [iWord 0x16 0 d 0 (0#2 ++ c)] | .csrw d a c => [iWord 0x16 0 d a (1#2 ++ c)]
  | .csrs d a c => [iWord 0x16 0 d a (2#2 ++ c)] | .csrc d a c => [iWord 0x16 0 d a (3#2 ++ c)]
  | .waitc l s c t => [0#8 ++ t ++ c ++ s ++ l ++ 0x17#6 ++ 0#2]
  | .send gd a b c k => xf 0x18 0 gd 0 a b 0 0 0 c (ctlBits k)
  | .sendi gd a b c (.reg e) k => xf 0x18 1 gd 0 a b 0 0 e c (ctlBits k)
  | .sendi gd a b c (.lit v) k => xl 0x18 1 gd 0 a b 0 0 0 c (ctlBits k) v
  | .fwd gd a named vc entry => xf 0x18 2 gd 0 a 0 0 0 0 0 (0#9 ++ bit1 named ++ 0#8 ++ 0#1 ++ vc ++ entry)
  | .post gd a b named vc amount => xf 0x18 3 gd 0 a b 0 0 0 0 (0#9 ++ bit1 named ++ 0#8 ++ vc ++ 0#2 ++ amount)
  | .cset gd d a b c i => xf 0x19 0 gd (ext5 d) a b 0 0 0 c i | .cread gd d a i => xf 0x19 1 gd d a 0 0 0 0 0 i
  | .cpy gd tag d a b ds => encCopy 0 gd tag 0 d a b ds | .cpyxG gd tag sp d a b ds => encCopy 1 gd tag sp d a b ds
  | .cpyxP gd tag sp d a b ds => encCopy 2 gd tag sp d a b ds
  | .publ gd w => xf 0x1A 3 gd 0 0 0 0 0 0 0 (w.setWidth 32)
  | .wtagAny a => encTag 0 0 a | .wtagAll a => encTag 1 0 a | .ftag d a => encTag 2 d a | .ftagC d a => encTag 3 d a
  | .tclr a => encTag 4 0 a | .wtagAnyLiteral m => encTagLit 0 0 m | .wtagAllLiteral m => encTagLit 1 0 m
  | .ftagLiteral d m => encTagLit 2 d m | .ftagCLiteral d m => encTagLit 3 d m | .tclrLiteral m => encTagLit 4 0 m
  | .fence s => [rWord 0x1C 0 (0#6 ++ s) 0 0 0] | .loopf => [rWord 0x1C 0 8 0 0 0]
  | .done => [rWord 0x1D 0 0 0 0 0] | .doneXForm gd => xf 0x1D 0 gd 0 0 0 0 0 0 0 0
  | .yield a => [rWord 0x1D 0 1 0 a 0] | .yieldXForm gd a => xf 0x1D 1 gd 0 a 0 0 0 0 0 0
  | .halt => [rWord 0x1D 0 2 0 0 0] | .brk => [rWord 0x1D 0 3 0 0 0] | .brkXForm gd code => xf 0x1D 3 gd 0 0 0 code 0 0 0 0
  | .trap gd a b c => xf 0x1D 4 gd 0 a b (c.setWidth 16) 0 0 0 0
  | .redpin d a => [rWord 0x1D 0 5 d a 0] | .perf d a => [rWord 0x1D 0 6 d a 0]
  | .scall gd d a b len entry => xf 0x1D 7 gd d a b (len.setWidth 16) 0 0 0 (entry.setWidth 32)
  | .vadd x d a b => encVec2 0x20 0x00 x (ext5 d) (ext5 a) b | .vsub x d a b => encVec2 0x20 0x01 x (ext5 d) (ext5 a) b
  | .vadds x d a b => encVec2 0x20 0x02 x (ext5 d) (ext5 a) b | .vsubs x d a b => encVec2 0x20 0x03 x (ext5 d) (ext5 a) b
  | .vmul x d a b => encVec2 0x20 0x04 x (ext5 d) (ext5 a) b | .vmulh x d a b => encVec2 0x20 0x05 x (ext5 d) (ext5 a) b
  | .vmin x d a b => encVec2 0x20 0x06 x (ext5 d) (ext5 a) b | .vmax x d a b => encVec2 0x20 0x07 x (ext5 d) (ext5 a) b
  | .vand x d a b => encVec2 0x20 0x08 x (ext5 d) (ext5 a) b | .vor x d a b => encVec2 0x20 0x09 x (ext5 d) (ext5 a) b
  | .vxor x d a b => encVec2 0x20 0x0A x (ext5 d) (ext5 a) b | .vsll x d a b => encVec2 0x20 0x0B x (ext5 d) (ext5 a) b
  | .vsrl x d a b => encVec2 0x20 0x0C x (ext5 d) (ext5 a) b | .vsra x d a b => encVec2 0x20 0x0D x (ext5 d) (ext5 a) b
  | .vabs x d a => encVec1 0x20 0x0E x (ext5 d) (ext5 a) 0
  | .vcmpEq x d a b => encVec2 0x20 0x10 x (ext5 d) (ext5 a) b | .vcmpNe x d a b => encVec2 0x20 0x11 x (ext5 d) (ext5 a) b
  | .vcmpLt x d a b => encVec2 0x20 0x12 x (ext5 d) (ext5 a) b | .vcmpLe x d a b => encVec2 0x20 0x13 x (ext5 d) (ext5 a) b
  | .vfadd x d a b => encVec2 0x21 0x00 x (ext5 d) (ext5 a) b | .vfsub x d a b => encVec2 0x21 0x01 x (ext5 d) (ext5 a) b
  | .vfmul x d a b => encVec2 0x21 0x02 x (ext5 d) (ext5 a) b | .vfdiv x d a b => encVec2 0x21 0x03 x (ext5 d) (ext5 a) b
  | .vfsqrt x d a => encVec1 0x21 0x04 x (ext5 d) (ext5 a) 0
  | .vfmin x d a b => encVec2 0x21 0x05 x (ext5 d) (ext5 a) b | .vfmax x d a b => encVec2 0x21 0x06 x (ext5 d) (ext5 a) b
  | .vfneg x d a => encVec1 0x21 0x07 x (ext5 d) (ext5 a) 0 | .vfabs x d a => encVec1 0x21 0x08 x (ext5 d) (ext5 a) 0
  | .vfcmpEq x d a b => encVec2 0x21 0x10 x (ext5 d) (ext5 a) b | .vfcmpLt x d a b => encVec2 0x21 0x11 x (ext5 d) (ext5 a) b
  | .vfcmpLe x d a b => encVec2 0x21 0x12 x (ext5 d) (ext5 a) b
  | .vfcmpUnord x d a b => encVec2 0x21 0x13 x (ext5 d) (ext5 a) b
  | .vfma x d a b => encVec2 0x22 0x00 x (ext5 d) (ext5 a) b | .vfms x d a b => encVec2 0x22 0x01 x (ext5 d) (ext5 a) b
  | .vfnma x d a b => encVec2 0x22 0x02 x (ext5 d) (ext5 a) b
  | .vcvt gd rm d a part f => encVcvt 0 gd rm d a (0#21 ++ part ++ f.code)
  | .vqnt gd rm d a xv f => encVcvt 1 gd rm d a (0#20 ++ bit1 xv ++ 0#3 ++ f.code)
  | .vdqnt gd rm d a f => encVcvt 2 gd rm d a (f.code.setWidth 32)
  | .vrsum x d a => encVec1 0x24 0x00 x (ext5 d) (ext5 a) 0 | .vrmax x d a => encVec1 0x24 0x01 x (ext5 d) (ext5 a) 0
  | .vrmin x d a => encVec1 0x24 0x02 x (ext5 d) (ext5 a) 0
  | .vperm x d a b => encVec1 0x24 0x08 x (ext5 d) (ext5 a) (ext5 b)
  | .vslup x d a b => encVec1 0x24 0x09 x (ext5 d) (ext5 a) b | .vsldn x d a b => encVec1 0x24 0x0A x (ext5 d) (ext5 a) b
  | .vrev x d a => encVec1 0x24 0x0B x (ext5 d) (ext5 a) 0
  | .vld x d a b => encVMem 0 x d a b | .vst x d a b => encVMem 1 x d a b
  | .vrng gd d a b c => encRng 0 gd d a b 0 c 0 0
  | .vsrnd gd d e a b c w part f => encRng 1 gd d a b (ext5 e) c (w.setWidth 16) (0#21 ++ part ++ f.code)
  | .vdrop gd rm d e a b c p => encRng 2 gd d a b (ext5 e) c ((rmBits rm).setWidth 16) p
  | .vopt none a => [rWord 0x27 0 0 0 a 0]
  | .vopt (some (g, rm)) a => xf 0x27 0 g 0 a 0 ((rmBits rm).setWidth 16) 0 0 0 0
  | .vext x d a i => encIdx 0 x d (ext5 a) i | .vins x d a i => encIdx 1 x (ext5 d) a i
  | .vbcast gd d a f => xf 0x28 2 gd (ext5 d) a 0 0 0 0 0 (0#23 ++ 1#1 ++ f.code)
  | .vtag x d a => encMove 3 x d (ext5 a) 0 | .vsett x d a => encMove 4 x (ext5 d) a 0
  | .vmov x d a => encMove 5 x (ext5 d) (ext5 a) 0
  | .mand x d a b => encMove 8 x (ext5 d) (ext5 a) (ext5 b) | .mor x d a b => encMove 9 x (ext5 d) (ext5 a) (ext5 b)
  | .mxor x d a b => encMove 0xA x (ext5 d) (ext5 a) (ext5 b) | .mandn x d a b => encMove 0xB x (ext5 d) (ext5 a) (ext5 b)
  | .mnot x d a => encMove 0xC x (ext5 d) (ext5 a) 0 | .mpop x d a => encMove 0xD x d (ext5 a) 0
  | .mset x d a => encMove 0xE x (ext5 d) a 0 | .mget x d a => encMove 0xF x d (ext5 a) 0
  | .mldb gd a p0 np1 => xf 0x30 0 gd 0 a 0 0 0 0 0 (planes p0 np1)
  | .mldbS gd a c p0 np1 => xf 0x30 1 gd 0 a 0 0 0 0 c (planes p0 np1)
  | .mstb gd tag a p0 np1 => xf 0x30 2 gd 0 a 0 (tag.setWidth 16) 0 0 0 (planes p0 np1)
  | .mprog gd a comb init => xf 0x30 3 gd 0 a 0 0 0 0 0 (0#27 ++ init ++ comb)
  | .mmac x im p0 np1 => encStream 0x31 0 x false 0 0 (bit1 im ++ p0 ++ np1)
  | .mmact x im p0 np1 => encStream 0x31 1 x false 0 0 (bit1 im ++ p0 ++ np1)
  | .mrec x init p0 => encStream 0x31 2 x init 0 0 (0#1 ++ p0 ++ 0#7)
  | .acz gd r0 nr1 fill => encAcc 0 gd 0 0 0 r0 nr1 0 (0#12 ++ fill)
  | .acld gd tag a r0 nr1 => encAcc 1 gd a 0 tag r0 nr1 0 0
  | .acst gd tag a r0 nr1 sc im rm f => encAcc 2 gd a sc tag r0 nr1 0 (bit1 im ++ rmBits rm ++ 0#1 ++ f.code)
  | .acmv gd tag r0 s nr1 => encAcc 3 gd 0 0 tag r0 nr1 s 0
  | .mgang gd acc im stride a b c p0 np1 r0 =>
    xf 0x34 0 gd 0 a b (0#5 ++ bit1 acc ++ stride) 0 0 c (bit1 im ++ p0 ++ np1 ++ r0 ++ 0#11)
  | .mknot gd a k0 nk1 => xf 0x32 0 gd 0 a 0 0 0 0 0 (k0 ++ nk1 ++ 0#24)
  | .mspl x => encStream 0x32 1 x false 0 0 0 | .mspld x c => encStream 0x32 2 x false 0 c 0
  | .msgrad x init tag b c => encStream 0x32 3 { x with r0 := 0 } init b c (0#9 ++ tag)
  | .mrefine gd k0 nk1 => xf 0x32 4 gd 0 0 0 0 0 0 0 (k0 ++ nk1 ++ 0#24)
  | .tsel d a b => [rWord 0x35 0 0 d a b] | .tselXForm gd d a b => encTree 0 gd d a b 0 0 0 0
  | .tnew gd k d a b c => encTree 1 gd d a b c 0 0 (k.code.setWidth 16)
  | .tnewLink gd a b c => encTree 2 gd 0 a b c 0 0 0
  | .texp gd back flip a b c e => encTree 3 gd 0 a b c e 0 (0#14 ++ bit1 flip ++ bit1 back)
  | .tback gd flip a b c => encTree 4 gd 0 a b c 0 0 (0#14 ++ bit1 flip ++ 0#1)
  | .tabort a b => [rWord 0x35 0 5 0 a b] | .tabortXForm gd clr a b => encTree 5 gd 0 a b 0 0 0 (0#15 ++ bit1 clr)
  | .troot a b => [rWord 0x35 0 6 0 a b] | .trootXForm gd a b => encTree 6 gd 0 a b 0 0 0 0
  | .tfree gd a => encTree 7 gd 0 a 0 0 0 0 0 | .tfreeKeep gd a => encTree 7 gd 0 a 0 0 0 1 0
  | .tfreeInit gd k a => encTree 7 gd 0 a 0 0 0 2 (k.code.setWidth 16)
  | .tstat gd sel d a b => encTree 8 gd d a b 0 0 0 (sel.setWidth 16)
  | .tleaf gd d a b c e => encTree 9 gd d a b c e 0 0
  | _ => []

/-- Words of the instruction: what the program counter moves past (R165). -/
def Instr.len (i : Instr) : Nat := (encode i).length

end Sys2Proof
end

