-- ==== Sys2Proof/Machine/State.lean ====
section
/-! DEFINITION. The state of the Z1 as plain data: the whole wafer, seen with one tile and one of its threads in focus. Everything the
spec gives the machine is a field here; the behaviour is in the other files of Machine/. Collections of like units are association
lists in which an absent key stands for the unit's reset value (for memory: for the byte of `Memory.blank`). -/

namespace Sys2Proof.Machine

/-- Why the machine stops. -/
inductive Fault where
  /-- Raised by `step` when the wafer has no power (R470, R473): nothing happens any more. Safe: no behaviour is claimed. -/
  | unpowered
  deriving DecidableEq, Repr, Inhabited

/-- Why an instruction has no meaning here. -/
inductive Refusal where
  /-- Raised by `exec` for an instruction without a meaning; safe. No arm of `exec` uses it. -/
  | notModelled (mnemonic : String)
  deriving DecidableEq, Repr, Inhabited

/-- Thread states in the order of their codes in R385. -/
inductive TState where
  | free | run | waitv | wtag | pgwait | stop | halt | saved
  deriving DecidableEq, Repr, Inhabited

/-- The hardware loop (R206, R208). -/
structure LoopSt where
  active : Bool
  last : BitVec 12
  start : BitVec 12
  count : BitVec 32
  deriving DecidableEq, Repr, Inhabited

/-- The outstanding-operation counters (R55). -/
structure Outc where
  loads : Nat
  stores : Nat
  copies : Nat
  tops : Nat
  deriving DecidableEq, Repr, Inhabited

/-- What started the handler (R41): nothing, a packet in `n` cells from cell `c0`, or the codelet record at an address. -/
inductive Work where
  | none
  | packet (c0 n : Nat)
  | codelet (addr : Nat)
  deriving DecidableEq, Repr, Inhabited

/-- What a trap or report record carries (R386). -/
structure TrapInfo where
  cause : BitVec 8
  pc : BitVec 12
  faddr : Word
  op0 : Word
  op1 : Word
  op2 : Word
  op3 : Word
  deriving DecidableEq, Repr, Inhabited

/-- An access by a party that can be answered: a thread's request by number, a copy's line, or a gallery hart. -/
structure Who where
  src : Coord
  tid : Tid
  id : Nat
  /-- Gallery hart that asked, for tile-window accesses (R375). -/
  agent : Option Nat
  deriving DecidableEq, Repr, Inhabited

/-- What an outstanding request of a thread will do when it is answered (R217, R219, R222, R232). -/
inductive PendKind where
  | load (d : GReg) (sz : BitVec 3)
  | store
  | amo (d : GReg) (ret : Bool)
  | waitv (d : GReg)
  | copy (op : Nat) (line : Nat) (n : Nat)
  | leaf (d : GReg) (k : BitVec 32)
  deriving DecidableEq, Repr, Inhabited

/-- An outstanding request of a thread. -/
structure Pend where
  id : Nat
  kind : PendKind
  space : BitVec 16
  off : Word
  /-- Word index of the instruction that issued it (R215, operand 1). -/
  ipc : BitVec 12
  /-- The store entered a side log and is not yet replayed (R149, FENCE.S). -/
  logged : Bool
  /-- Held at a port on a translation fault (R217). -/
  held : Bool
  /-- A local AMO in the tile's own write queue (R220). -/
  loc : Bool
  deriving DecidableEq, Repr, Inhabited

/-- Wait of a thread in WAITV, WTAG or PGWAIT, or in RUN for an SCALL's reply. -/
inductive Wait where
  | none
  | waitv (id words : Nat)
  | wtag (all : Bool) (mask : Word) (words : Nat)
  | pgwait
  | scall (d : GReg) (reply : Option Word)
  deriving DecidableEq, Repr, Inhabited

/-- A record or notice of a thread waiting to be sent (R164, R386): its KIND and contents. -/
structure RecordOut where
  kind : BitVec 2
  info : TrapInfo
  /-- The record of a deferred fault, whose operand 2 is completed as it is sent (R215). -/
  deferred : Bool
  deriving DecidableEq, Repr, Inhabited

/-- A hardware thread (R31, R32): its registers, its private CSRs, the handler it runs and what it waits for. -/
structure Thread where
  state : TState
  /-- One bit more than R385's PC, for the run-off index 4096 of R168. -/
  pc : BitVec 13
  g : Vector Word 32
  p : BitVec 8
  v : Vector Line 16
  vtag : Vector Desc 16
  m : Vector Word 4
  rmode : Word
  fflags : Word
  tcm : Bool
  srseq : Word
  slim : Word
  rsp : Word
  rsbase : Word
  rslim : Word
  /-- The return store, oldest first (R203); RASD is its length. -/
  rstore : List (BitVec 12)
  entry : Word
  outc : Outc
  loop : LoopSt
  cycles : Nat
  stackTop : Word
  work : Work
  fwdUsed : Bool
  /-- The pin as REDPIN recorded it, the pin in force, and whether this handler recorded an unpin (R244). -/
  pinRec : Bool
  pinNow : Bool
  unpinned : Bool
  /-- g registers with an answer pending (R423, 0x5D0). -/
  pending : BitVec 32
  pends : List Pend
  deferred : Option TrapInfo
  further : Nat
  wait : Wait
  record : Option RecordOut
  /-- Cause with which the thread entered STOP or HALT, for RESUME (R389): resume past the instruction of this many words. -/
  resumeSkip : Nat
  /-- The next instruction issues once without the BKPT match (R472). -/
  skipBkpt : Bool
  /-- Stopped by a BKPT match (R389). -/
  atBkpt : Bool
  /-- One instruction of a STEP is executing (R383). -/
  stepping : Bool
  /-- State saved by a park (R423), while `state` is `saved`. -/
  savedAs : TState
  /-- The model's own scheduling mark: the instruction at pc was not ready (log 3). -/
  stalled : Bool
  /-- Wait events that the instruction at pc has counted already: each counts once for an instruction (R54). -/
  noted : List (BitVec 8)
  /-- Arrival number at which a local operation that found no room reached the write queue, with its PC (R474). -/
  turnAt : Option (Nat × BitVec 13)
  deriving DecidableEq, Repr, Inhabited

/-! ### Packets, requests and answers -/

/-- A request to a tile, an edge port or a root port (R214 to R222, R232). -/
inductive ReqKind where
  | load (n : Nat)
  | store (n : Nat) (v : Word)
  | amo (op : AmoOp) (n : Nat) (s c : Word) (ret : Bool)
  | waitv (n : Nat) (expect : Word) (tmo : Option Word)
  | readLines (n : Nat)
  | writeLine (l : Line) (d : Desc)
  /-- The leaf record of R346: entry index of the record address, its two words, and the batch count to decrement. -/
  | leaf (w0 w1 : Word)
  deriving DecidableEq, Repr, Inhabited

structure Req where
  who : Who
  kind : ReqKind
  space : BitVec 16
  off : Word
  hall : BitVec 6
  sys : Bool
  /-- Physical address of a translated request, and whether it replays a side-log entry (R409, R414). -/
  fwd : Option (Nat × Bool)
  deriving DecidableEq, Repr, Inhabited

/-- The answer to a request. -/
inductive AnsVal where
  | value (v : Word)
  | ack
  | lines (ls : List (Line × Desc))
  | refuse (cause : BitVec 8)
  /-- The request is held on a translation fault (R217). -/
  | held
  /-- The store was logged; acknowledged (R411). -/
  | logged
  /-- A logged store was replayed, or discarded with this cause (R414). -/
  | drained (cause : Option (BitVec 8))
  deriving DecidableEq, Repr, Inhabited

structure Ans where
  who : Who
  val : AnsVal
  /-- Floating-point flags of a floating AMO (R219). -/
  flags : BitVec 6
  deriving DecidableEq, Repr, Inhabited

/-- A record of R386 as the eight payload words, and the hall's marks that pick its queue. -/
structure Record where
  words : List Word
  /-- queue of R390, or none: by the record's own HID and SYS -/
  queue : Option Nat
  deriving DecidableEq, Repr, Inhabited

/-- A call record (R242). -/
structure CallRec where
  src : Coord
  tid : Tid
  hall : BitVec 6
  callId : BitVec 32
  centry : BitVec 10
  len : BitVec 2
  words : List Word
  deriving DecidableEq, Repr, Inhabited

/-- The parameters that MGANG's members must share (R301): operation fields and operand registers as read at issue. -/
structure GangOp where
  /-- CELLMODE.MODE was 0 as the engine started the operation (R278). -/
  weights : Bool
  acc : Bool
  imode : Bool
  stride : Nat
  a : Word
  p0 : Nat
  np : Nat
  r0 : Nat
  b : Word
  c : Word
  deriving DecidableEq, Repr, Inhabited

/-- Messages on the links. -/
inductive Msg where
  | packet (p : Packet)
  | decr (addr : Word) (amount : Nat)
  | req (r : Req)
  | ans (a : Ans)
  | record (r : Record)
  | call (c : CallRec)
  | scallReply (tid : Tid) (w : Word)
  /-- A message flooded over kite line 0 to find the bearer of its name (R131); `came` is the tree neighbour it came from. -/
  | seek (m : Msg) (came : Option Coord)
  | seekAnswer (name : BitVec 32)
  /-- A member's join, and an abort to a member: each names the member's operation by its number. -/
  | gangJoin (tid : Tid) (seq : Nat) (op : GangOp)
  | gangAbort (cause : BitVec 8) (who : Coord) (seq : Nat)
  /-- HALLOP relayed to a child, and a child's answer (R431). -/
  | hallop (c : MgmtCmd) (parent : Coord)
  | hallAnswer (kid : Coord) (w : Word)
  | cmdAnswer (agent : Nat) (status : BitVec 8) (seq : BitVec 32) (value : Word)
  /-- A management command on its way to a tile or a port: its OP and payload (R383). -/
  | command (op : BitVec 8) (c : MgmtCmd)
  /-- A hold or release notice of an edge port (R411). -/
  | hold (port : Nat) (on : Bool)
  /-- A shoot-down on its way to a receiver, and its acknowledgement (R415, R416). -/
  | shoot (agent : Nat) (v : Word)
  | shootAck (agent receiver : Nat)
  deriving DecidableEq, Repr, Inhabited

/-- Where a message goes. -/
inductive Dest where
  | tile (c : Coord)
  | port (p : Nat)
  | ue (p : Nat)
  | gallery (f : Nat)
  deriving DecidableEq, Repr, Inhabited

/-- A router input that holds flits of a message (R134): the router's position, the input (0 north, 1 east, 2 south, 3 west, 4 local)
and how many of the message's flits stand there. -/
structure Hop where
  c : Coord
  dir : Nat
  n : Nat
  deriving DecidableEq, Repr, Inhabited

/-- A message in the mesh (R120 to R131): where its head is, where it goes and its sideband. -/
structure Flight where
  msg : Msg
  vc : BitVec 4
  pos : Coord
  dest : Dest
  src : Coord
  srcName : BitVec 32
  /-- The destination name of a named packet, which the destination tile must bear (R130). -/
  name : Option (BitVec 32)
  hall : BitVec 6
  sys : Bool
  hops : Nat
  /-- The router inputs that its flits occupy, the head's first (R134); none for a message that enters no link (R118). -/
  trail : List Hop
  /-- Flits still at the port it entered by. -/
  left : Nat
  /-- Order of its head's arrival where it stands. -/
  stamp : Nat
  deriving DecidableEq, Repr, Inhabited

/-- Destination as the sender gives it, before injection (R130). -/
inductive Addr where
  | name (n : BitVec 32)
  | dest (d : Dest)
  deriving DecidableEq, Repr, Inhabited

/-- What a thread in RUN waits for until its message has entered (R225, R229, R240): nothing; the retirement of a SEND, SENDI or POST, or of
a FWD, of n words; at DONE, a firing of a successor; or the last of them, after which the cells from c0 are free and the handler ends. -/
inductive Entered where
  | no
  | sent (n : Nat)
  | fwd (n : Nat)
  | fire
  | last (c0 : Nat)
  deriving DecidableEq, Repr, Inhabited

/-- A message at the injection port (R229), and what its thread waits for. -/
structure Inj where
  tid : Option Tid
  vc : BitVec 4
  addr : Addr
  msg : Msg
  entered : Entered
  deriving DecidableEq, Repr, Inhabited

/-! ### Engine operations -/

/-- A local copy-engine operand or a device one (R231). -/
inductive CopyKind where
  | loc (dst src : Nat)
  | get (dst : Nat) (space : BitVec 16) (off : Word)
  | put (src : Nat) (space : BitVec 16) (off : Word)
  deriving DecidableEq, Repr, Inhabited

/-- A copy that the copy engine is working on (R232). -/
structure CopyRec where
  id : Nat
  tid : Tid
  tag : BitVec 6
  kind : CopyKind
  n : Nat
  dsc : Option Desc
  ipc : BitVec 12
  /-- Lines already sent or moved, and lines complete. -/
  next : Nat
  complete : Nat
  failed : Bool
  /-- The windows as they stood at the copy's first bank access, once it has made one: one half serves all of it (R114). -/
  pwin : Option (Vector Word 4)
  /-- The destination's windows as its first line was accepted there (R114). -/
  far : Option (Vector Word 4)
  deriving DecidableEq, Repr, Inhabited

/-- State restored when an engine operation traps at confirmation (R53, R251). -/
structure Checkpoint where
  g : Vector Word 32
  p : BitVec 8
  pc : BitVec 12
  fflags : Word
  srseq : Word
  loop : LoopSt
  deriving DecidableEq, Repr, Inhabited

/-- A vector source: a register of the thread, or a broadcast scalar as read at issue (R252). -/
inductive VOpd where
  | v (r : VReg)
  | s (w : Word)
  deriving DecidableEq, Repr, Inhabited

inductive IntVOp where
  | add | sub | adds | subs | mul | mulh | min | max | and | or | xor | sll | srl | sra | abs
  deriving DecidableEq, Repr, Inhabited
inductive CmpVOp where
  | eq | ne | lt | le | feq | flt | fle | funord
  deriving DecidableEq, Repr, Inhabited
inductive FpVOp where
  | fadd | fsub | fmul | fdiv | fsqrt | fmin | fmax | fneg | fabs | fma | fms | fnma
  deriving DecidableEq, Repr, Inhabited
inductive RedVOp where
  | sum | max | min
  deriving DecidableEq, Repr, Inhabited
inductive PermVOp where
  | perm | slup | sldn | rev
  deriving DecidableEq, Repr, Inhabited
inductive MaskVOp where
  | and | or | xor | andn | not | set
  deriving DecidableEq, Repr, Inhabited

/-- What an X form adds, resolved at issue: ZERO, rounding mode, mask register, addend register, result format (R252). -/
structure VMod where
  zero : Bool
  mode : RMode
  e : MReg
  c : VReg
  rfmt : Option Fmt
  deriving DecidableEq, Repr, Inhabited

/-- Operations of the vector engine with their g operands read at issue (R246 to R276). VEXT, VTAG, MPOP and MGET, which return a value
to a g register, wait for the engine before they issue (R54) and so never stand in its queue. -/
inductive VecOp where
  | int (o : IntVOp) (x : VMod) (d a : VReg) (b : VOpd)
  | cmp (o : CmpVOp) (x : VMod) (d : MReg) (a : VReg) (b : VOpd)
  | fp (o : FpVOp) (x : VMod) (d a : VReg) (b : VOpd)
  | cvt (mode : RMode) (d a : VReg) (part : BitVec 3) (fmt : Fmt)
  | qnt (mode : RMode) (d a : VReg) (xv : Bool) (fmt : Fmt)
  | dqnt (mode : RMode) (d a : VReg) (fmt : Fmt)
  | red (o : RedVOp) (x : VMod) (d a : VReg)
  | perm (o : PermVOp) (x : VMod) (d a b : VReg) (n : Word)
  | ld (zero : Bool) (e : MReg) (d : VReg) (ea : Nat) (dsc : Option Desc)
  | st (e : MReg) (d : VReg) (ea : Nat) (dsc : Option Desc)
  | rng (d : VReg) (seed keys base : Word)
  | srnd (d e : VReg) (seed keys base : Word) (w : BitVec 6) (part : BitVec 3) (fmt : Fmt)
  | drop (mode : RMode) (d e : VReg) (seed keys base : Word) (p : BitVec 32)
  | opt (mode : RMode) (ea : Nat)
  | ins (d : VReg) (w : Word) (idx : Nat)
  | bcast (d : VReg) (w : Word) (fmt : Fmt)
  | sett (d : VReg) (w : Desc)
  | mov (d a : VReg)
  | mask (o : MaskVOp) (d a b : MReg) (w : Word)
  deriving DecidableEq, Repr, Inhabited

/-- Operations of the matrix engine (R279 to R290, R293, R300, R310 to R323). -/
inductive MatOp where
  | ldb (ea : Nat) (mask : Option Nat) (p0 np : Nat)
  | prog (w : Word) (comb : BitVec 2) (init : BitVec 3)
  | mac (t : Bool) (imode : Bool) (ea : Nat) (rows stride : Nat) (r0 : Nat) (p0 np : Nat)
  | mrec (init : Bool) (ea : Nat) (rows stride : Nat) (r0 : Nat) (p0 : Nat)
  | acz (r0 n : Nat) (fill : BitVec 2)
  | gang (op : GangOp)
  | knot (ea : Nat) (k0 n : Nat)
  | spl (ea : Nat) (rows stride : Nat) (r0 : Nat)
  | spld (ea : Nat) (rows stride : Nat) (r0 : Nat) (c : Nat)
  | refine (k0 n : Nat)
  deriving DecidableEq, Repr, Inhabited

/-- Copy-engine operations other than the copies of R232 (R282, R294 to R296, R321). -/
inductive CopOp where
  | copy (c : CopyRec)
  | stb (tag : BitVec 6) (ea : Nat) (p0 np : Nat)
  | acld (tag : BitVec 6) (ea : Nat) (r0 n : Nat)
  | acst (tag : BitVec 6) (ea : Nat) (r0 n : Nat) (sc : BitVec 8) (imode : Bool) (mode : RMode) (fmt : Fmt)
  | acmv (tag : BitVec 6) (r0 s n : Nat)
  | msgrad (init : Bool) (tag : BitVec 6) (ea : Nat) (rows stride : Nat) (r0 : Nat) (b c : Nat)
  deriving DecidableEq, Repr, Inhabited

/-- Operations of the tree unit with their g operands (R341 to R352). -/
inductive TreeOp where
  | sel (d : GReg) (a b : Word)
  | new (cls : NodeClass) (d : GReg) (a b c : Word)
  | link (a b c : Word)
  | exp (back flip : Bool) (a b c e : Word)
  | back (flip : Bool) (a b c : Word)
  | abort (clr : Bool) (a b : Word)
  | root (a b : Word)
  | free (keep : Bool) (a : Word)
  | init (cls : NodeClass) (a : Word)
  | stat (sel : BitVec 2) (d : GReg) (a b : Word)
  | leaf (d : GReg) (a b c e : Word)
  deriving DecidableEq, Repr, Inhabited

inductive EOp where
  | vec (o : VecOp)
  | mat (o : MatOp)
  | cop (o : CopOp)
  | tree (o : TreeOp)
  deriving DecidableEq, Repr, Inhabited

/-- A write an engine operation will make when it completes. -/
inductive Eff where
  | g (d : GReg) (w : Word)
  | v (d : VReg) (l : Line) (t : Desc)
  | m (d : MReg) (w : Word)
  | line (addr : Nat) (l : Line) (t : Desc)
  /-- a whole line at an address as the program gave it: the write is the operation's first bank access, which picks its half (R114) -/
  | lateLine (addr : Nat) (l : Line) (t : Desc)
  /-- the bits of a line that the mask marks; a descriptor for it; POISON -/
  | merge (addr : Nat) (mask l : Line) (d : Option Desc) (poison : Bool)
  | acc (i : Nat) (w : BitVec 48)
  | cst (i : Nat) (w : BitVec 32)
  | prog (w : Word) (comb : BitVec 2) (init : BitVec 3)
  | knot (i : Nat) (w : BitVec 128)
  | treepool (w : Word)
  | send (i : Inj)
  /-- a value returned to a g register, with which the instruction of n words at the thread's PC retires (R54) -/
  | ret (d : GReg) (w : Word) (n : Nat)
  /-- the leaf record of R346: destination register, space-0 offset, handle and step, user data -/
  | leaf (d : GReg) (off : Word) (w0 w1 : Word)
  deriving DecidableEq, Repr, Inhabited

/-- What an engine operation found when it read its sources: the trap it takes, or its flags and writes. -/
inductive Result where
  | trap (t : TrapInfo)
  | ok (flags : BitVec 6) (effs : List Eff)
  deriving DecidableEq, Repr, Inhabited

/-- An operation in a tile's engine queues (R52). -/
structure QOp where
  seq : Nat
  tid : Tid
  eng : Engine
  op : EOp
  ipc : BitVec 12
  words : Nat
  tcm : Bool
  rmode : Word
  srseq : Word
  ck : Checkpoint
  /-- DONE bit of its tag before it was issued, which a discarded operation gets back (R53). -/
  tagWas : Bool
  /-- Executing; then what it found. -/
  started : Bool
  result : Option Result
  confirmed : Bool
  deriving DecidableEq, Repr, Inhabited

/-! ### The tile -/

/-- An operation in the write queue (R474). -/
inductive WOp where
  | store (addr n : Nat) (v : Word)
  | line (addr : Nat) (l : Line) (d : Desc)
  | merge (addr : Nat) (mask l : Line) (d : Option Desc) (poison : Bool)
  | amo (op : AmoOp) (addr n : Nat) (s c : Word) (ret : Bool) (who : Who) (loc : Bool)
  | decr (addr : Word) (amount : Nat) (hall : BitVec 6) (sys : Bool)
  | leaf (addr : Nat) (w0 w1 : Word) (who : Who)
  deriving DecidableEq, Repr, Inhabited

/-- A write-queue entry: the line it holds, the merged operations in arrival order, and whether the line has been read. -/
structure WEntry where
  line : Nat
  ops : List WOp
  wasRead : Bool
  deriving DecidableEq, Repr, Inhabited

/-- A WAITV monitor (R222): the word's local address at a tile, as its requester gave it, or its physical address at a port. -/
structure Monitor where
  addr : Nat
  n : Nat
  who : Who
  deadline : Option Nat
  hit : Option Word
  deriving DecidableEq, Repr, Inhabited

/-- A run of inbox cells (R136): first cell, length, channel, and the marks of the packet it holds (R35, R382). -/
structure CellRun where
  c0 : Nat
  n : Nat
  vc : BitVec 4
  foreign : Bool
  /-- The packet is waiting for dispatch (checked), or still to be checked. -/
  checked : Bool
  held : Bool
  sys : Bool
  src : Coord
  deriving DecidableEq, Repr, Inhabited

/-- What a router remembers of its arbitration (R134): the channel served last at each output, and the input served last at each
output and channel. -/
structure Router where
  lastVc : List (Nat × Nat)
  lastIn : List ((Nat × Nat) × Nat)
  deriving DecidableEq, Repr, Inhabited

/-- A name-table entry (R129) in one of the four ways of its set. -/
structure NameEntry where
  name : BitVec 32
  at_ : Coord
  hall : BitVec 6
  sys : Bool
  age : Nat
  way : Nat
  deriving DecidableEq, Repr, Inhabited

/-- A join that has arrived at its origin (R301): the member, its thread and operation, and the tick of the arrival. -/
structure Join where
  c : Coord
  tid : Tid
  seq : Nat
  op : GangOp
  tick : Word
  deriving DecidableEq, Repr, Inhabited

/-- Parts of the gang protocol at a tile (R301 to R304). At the origin: the joins that have arrived and the member operations that have
reported done. At a member: that its gang has committed. -/
structure GangSt where
  joins : List Join
  dones : List (Coord × Nat)
  committed : Bool
  deriving DecidableEq, Repr, Inhabited

/-- What an entry of the balloon's ring keeps beside its words (R125, R429): where its packet came from, and the sideband's system and
decrement marks. -/
structure Diverted where
  src : Coord
  sys : Bool
  decr : Bool
  deriving DecidableEq, Repr, Inhabited

/-- A HALLOP in progress at a tile (R431): its command, the parent it came from, the children's answers in child order, and its own
inner command's status once that is complete. -/
structure HallWait where
  cmd : MgmtCmd
  parent : Option Coord
  kids : List (Coord × Option Word)
  own : Option (BitVec 8)
  deriving DecidableEq, Repr, Inhabited

/-- The tile's CSRs of 0x100 to 0x1FF that are plain storage. -/
structure TileRegs where
  tags : Word
  name : Word
  hall : Word
  treepool : Word
  treecfga : Word
  treecfgb : Word
  treereg : Word
  cellmode : Word
  pwin : Vector Word 4
  parent : Vector Word 4
  kitew : Word
  timer : Word
  perfsel : Word
  perf : Vector Word 4
  deriving DecidableEq, Repr, Inhabited

/-- The privileged tile registers of 0x200 to 0x3FF. -/
structure PrivRegs where
  entrybase : Word
  budget : Word
  vcw : Word
  hallmap : Word
  spaces : Word
  trapdest : Word
  pctx : Word
  balloon : Word
  balptr : Word
  toke : Word
  tokm : Word
  slice : Word
  /-- QMIN and QCAP of R135; USED is counted from the inbox. -/
  qlim : Vector Word 16
  bkpt : Vector Word 4
  watch : Vector Word 4
  rtex : Vector Word 16
  deriving DecidableEq, Repr, Inhabited

/-- A compute tile. -/
structure Tile where
  threads : Vector Thread 4
  r : TileRegs
  pr : PrivRegs
  /-- Busy tags (R56). -/
  busy : Word
  /-- TICKS less the wafer's tick: the ticks that the tile counted of its own account, less the markers it missed (R445). -/
  lag : Word
  /-- φ less the φ of a tile of the field that received the last marker (R445). -/
  extra : Int
  prow : Nat
  absent : Bool
  -- stores without local addresses
  acc : List (Nat × BitVec 48)
  cst : List (Nat × BitVec 32)
  uprog : Word
  comb : BitVec 2
  init : BitVec 3
  knots : List (Nat × BitVec 128)
  -- inbox and dispatch
  runs : List CellRun
  lastCell : Nat
  ring : List Nat
  /-- Addresses of the overflow chain, head first (R48); their links are in memory. -/
  chain : List Nat
  credits : Vector Nat 8
  window : List Bool
  lastFromRing : Bool
  dispatchOn : Bool
  -- counts of R35, R47, R49, R83, R388
  dropped : Nat
  late : Nat
  droppedRecords : Nat
  softCount : Nat
  -- engines
  ops : List QOp
  copies : List CopyRec
  rr : Vector (Fin 4) 4
  -- memory side
  wq : List WEntry
  /-- Writes to the hidden halves of windows, by address and length, which are performed at the publish that exposes them (R139). -/
  hidden : List (Nat × Nat)
  monitors : List Monitor
  arms : List Req
  -- injection port and router
  inj : List Inj
  injRR : Fin 4
  holds : List Nat
  seeks : List (BitVec 4 × Inj)
  /-- Messages of the port whose charge waits for tokens (R436): at most one of a class. -/
  tokenWaits : List Inj
  names : List NameEntry
  router : Router
  -- reports and records
  /-- Reports awaiting injection (R388), with the gallery when it is not TRAPDEST's. -/
  reports : List (Option Nat × List Word)
  lost : Nat
  -- gang
  gang : GangSt
  -- park, balloon, timer
  parkCmd : Option MgmtCmd
  /-- LCYC as the last quiescence began (R419, R421). -/
  parkFrom : Word
  /-- Ring entries written and not yet acknowledged (R428), and what all entries in the ring keep beside their words, oldest first. -/
  balWait : Nat
  balSrc : List Diverted
  hallop : Option HallWait
  deriving DecidableEq, Repr, Inhabited

/-! ### Units outside the tiles -/

/-- A TLB entry (R410): combined (key a space) or stage 2 (key 0x8000 + tenant). -/
structure TlbEntry where
  key : BitVec 16
  size : Nat
  page : Nat
  out : Nat
  /-- The page's IPA, for the report of a permission fault (R412), in units of 2^19. -/
  ipa : Nat
  r : Bool
  w : Bool
  deriving DecidableEq, Repr, Inhabited

/-- The first fault of a granule that still waits, as it was reported (R412). -/
structure Waiting where
  req : Req
  code : Nat
  ipa : Nat
  /-- Tick of the last report. -/
  tick : Word
  deriving DecidableEq, Repr, Inhabited

/-- A RETRY or DENY in progress at a port (R413, R414): its granule and command, the requests that other ports have still to perform, and
the held requests to serve after them. -/
structure Replay where
  space : BitVec 16
  gran : Nat
  cmd : MgmtCmd
  sent : List Req
  held : List Req
  deriving DecidableEq, Repr, Inhabited

/-- An edge memory port (0 to 95) or a root port with its IOMMU (96 to 99) (R403, R409 to R414, R418). -/
structure Port where
  sptbase : Word
  ttbase : Word
  dtbase : Word
  tlb : List TlbEntry
  /-- Side log and held requests, oldest first. A returning AMO stands in the log in its place and is a held request (R157, R220). -/
  log : List Req
  held : List Req
  /-- First faults reported, one for each granule that waits. -/
  reported : List Waiting
  replays : List Replay
  onHold : List Coord
  monitors : List Monitor
  /-- Translated operations that the port has taken and not completed (R139, R163): WAITVs to arm, and operations of its device or
  expander, posted writes among them until they are committed. -/
  devOps : List Req
  /-- Posted writes committed to the link, in order (R139). -/
  sent : List Req
  /-- Requests of the devices below that wait for a side log, or behind one that does (R163, R418). -/
  below : List DevReq
  /-- Device requests to the port's own PCI Express space, with their addresses; the reads among them wait for completions. -/
  peer : List (DevReq × Nat)
  /-- Completions to the devices below: requester ID and the data, or none for Unsupported Request (R418). -/
  returned : List (BitVec 16 × Option Nat)
  deriving DecidableEq, Repr, Inhabited

/-- An Ultra Ethernet port (R465). -/
structure UePort where
  brsel : BitVec 12
  table : List (Nat × Word × Word)
  discarded : Nat
  /-- Traffic handed to the transport: remote endpoint, sender index, message with its remote name (R465). -/
  sent : List (BitVec 32 × Nat × BitVec 32 × Msg)
  deriving DecidableEq, Repr, Inhabited

/-- An event queue (R390). -/
structure EvQueue where
  base : Word
  cfg : Word
  tail : Word
  head : Word
  otail : Word
  ohead : Word
  lost : Word
  deriving DecidableEq, Repr, Inhabited

inductive SlotSt where
  | free | queued | taken
  deriving DecidableEq, Repr, Inhabited

/-- A slot of a call ring (R394, R399): state, generation, acceptance number and the tick it was taken. -/
structure Slot where
  st : SlotSt
  gen : BitVec 32
  order : Nat
  taken : Word
  deriving DecidableEq, Repr, Inhabited

/-- A call-ring port (R395). -/
structure Ring where
  gen : BitVec 32
  weight : Nat
  credit : Nat
  swin : Bool
  failed : Bool
  old : Bool
  en : Bool
  rbase : Word
  halls : Word
  calltmo : Word
  swtmo : Word
  swOpened : Word
  svcmask : Vector Word 16
  slots : List (Nat × Slot)
  accepted : Nat
  deriving DecidableEq, Repr, Inhabited

/-- A service hart's registers (R397). -/
structure SvcHart where
  gensel : Bool
  slice : Word
  dispatch : Word
  serving : Option Nat
  since : Word
  excluded : Bool
  deriving DecidableEq, Repr, Inhabited

/-- A management command port (R385). -/
structure CmdPort where
  mdest : Word
  mw0 : Word
  mw1 : Word
  status : BitVec 8
  seq : BitVec 32
  mval : Word
  /-- Tick at which an unanswered command was sent, and its SEQ. -/
  waiting : Option (Word × BitVec 32)
  /-- Shoot-down acknowledgements still to come (R415). -/
  shoots : List Nat
  shootSeq : BitVec 32
  shootVal : Word
  deriving DecidableEq, Repr, Inhabited

/-- An interrupt file (R377), an incoming MSI controller: delivery, threshold, and the identities pending and enabled. -/
structure IntFile where
  delivery : Bool
  threshold : Nat
  eip : List Nat
  eie : List Nat
  deriving DecidableEq, Repr, Inhabited

/-- A G-stage TLB entry of a hart (R416, R417): VMID, guest page and its size as a power of two, output page, permissions. -/
structure GEntry where
  vmid : Nat
  bits : Nat
  page : Nat
  out : Nat
  r : Bool
  w : Bool
  x : Bool
  deriving DecidableEq, Repr, Inhabited

/-- A gallery hart as the rest of the wafer sees it (R373 to R377, R417). -/
structure Hart where
  mode : HartMode
  satp : Word
  vsatp : Word
  hgatp : Word
  /-- mstatus, of which sstatus shows the S-level fields, and vsstatus: the fields that an access consults (R417). -/
  mstatus : Word
  vsstatus : Word
  mtimecmp : Word
  stimecmp : Word
  vstimecmp : Word
  /-- Timer interrupts pending: M, S and VS level (R374). -/
  mtip : Bool
  stip : Bool
  vstip : Bool
  files : List (Nat × IntFile)
  gtlb : List GEntry
  /-- Stores to tiles and devices that have not been acknowledged (R162), and the load or atomic that the hart waits for. -/
  stores : List Nat
  load : Option Nat
  /-- A FENCE waits for the stores. -/
  fencing : Bool
  /-- The command port whose answer completes the hart's store of MW1 (R385). -/
  awaiting : Option Nat
  /-- What the last access returned, and whether it raised an access or page fault. -/
  value : Word
  fault : Bool
  /-- The flash bank whose image was loaded into it (R459), B = true. -/
  image : Option Bool
  deriving DecidableEq, Repr, Inhabited

/-- A COMPLETE that waits to be sent (R398): tenant, slot, status, and the writing hart with its earlier stores. -/
structure Completion where
  tenant : Nat
  slot : Nat
  status : BitVec 8
  agent : Nat
  stores : List Nat
  deriving DecidableEq, Repr, Inhabited

/-- A gallery (R376). -/
structure Gallery where
  harts : List (Nat × Hart)
  queues : List (Nat × EvQueue)
  rings : List (Nat × Ring)
  svc : List (Nat × SvcHart)
  cmd : List (Nat × CmdPort)
  completions : List Completion
  /-- As a tile's `lag` and `extra` (R445). -/
  lag : Word
  extra : Int
  deriving DecidableEq, Repr, Inhabited

/-- A shift wave (R452): its stair, the failed physical place, the place to move next, the lost position, the tiles it parked, and
the REPAIR to answer. -/
structure Wave where
  stair : Nat
  failed : Nat
  place : Nat
  lost : Coord
  held : List Coord
  cmd : Option MgmtCmd
  deriving DecidableEq, Repr, Inhabited

/-- A field's controller: clocks, repair, tenancy (R437, R440, R450) and what the governor counts. -/
structure Field where
  fclk : Word
  fgov : Word
  fslow : Word
  stairsel : Word
  stairs : List (Nat × Word)
  tpool : Word
  tctl : Word
  tten : Vector Word 16
  /-- What this period's refill gave tenant t, in the places of EREF and MREF, which show it in the next period (R437). -/
  given : Vector Word 16
  periods : Nat
  /-- LCYC at which TCTL.EN was set (R438). -/
  tstart : Word
  /-- TOKE and TOKM of the field's tiles that are otherwise at reset. -/
  bToke : Word
  bTokm : Word
  lcyc : Word
  /-- φ of a tile that received the last marker (R445). -/
  phase : Nat
  misses : List (Coord × Nat)
  /-- Tiles whose third miss fell in a checkpoint, after which they fail (R448, R471). -/
  doomed : List Coord
  /-- Pulse windows closed so far (R447). -/
  closed : Nat
  /-- Greatest block power estimate, in 0.25 W, and the markers for which the throttle and the release conditions have held (R441). -/
  power : Nat
  hotTicks : Nat
  coolTicks : Nat
  /-- LCYC at the last droop (R441). -/
  stretchFrom : Word
  /-- Crossings with a delay-line correction pending (R444). -/
  corrections : List Coord
  /-- Cycles run since the last pulse (R446). -/
  cyclesRun : Nat
  /-- SLOW_k of the pulse windows k that are open, oldest first (R446, R447). -/
  slows : List Nat
  waves : List Wave
  deriving DecidableEq, Repr, Inhabited

/-- What a complete checkpoint image holds beside the bytes of its slots (R468): SEQ and WTIME of its headers, the rest of the tiles' saved
state, the flits in the mesh, and what waits at the ports (log 23). -/
structure Image where
  seq : BitVec 32
  time : Word
  features : BitVec 128
  tiles : List (Coord × Tile)
  bad : List Nat
  net : List Flight
  ports : List (Nat × Port)
  deriving DecidableEq, Repr, Inhabited

/-- Registers of field 0 and the boot and checkpoint state (R457 to R470). -/
structure Boot where
  bootst : Word
  boottmo : Word
  featacc : BitVec 128
  accWritten : Bool × Bool
  ckctl : Word
  cktime : Word
  /-- GO has been written and no tile has been parked for it yet; the tiles that it parked. -/
  goPending : Bool
  ckParked : List Coord
  /-- A boot has written the exception entries round the galleries (R16, R121). -/
  mapped : Bool
  minimal : Option (BitVec 8)
  /-- The one-time fuses (R458): the digest of the Seore public key, and MINVER. -/
  keyDigest : BitVec 512
  minVer : BitVec 32
  /-- Every byte of the flash, its banks and its logs among them (R457). -/
  flash : List Host.Cell
  /-- The field log's records as Pralodun works with them (R459, R462). -/
  flog : List Word
  tftpStatus : Option Word
  /-- What Pralodun has printed on the UART (R30, R461). -/
  uart : List (BitVec 8)
  /-- The debug transport is enabled, and what the JTAG data register holds (R472). -/
  jtag : Bool
  jtagData : Word
  /-- Wafer resets so far that the boot watchdog made: the model's own number, which picks the findings of the boot that follows (log 64). -/
  resets : Nat
  powered : Bool
  /-- Tick at which the power-fail supervisor wrote GO (R470). -/
  failAt : Option Word
  /-- The image that every port header calls COMPLETE (R468, R470). -/
  image : Option Image
  deriving DecidableEq, Repr, Inhabited

/-- What the steward keeps of a hall (R61, R64 to R66, R133): its rectangle is that of the tiles whose HALL names it (R381). `stale`
asks for new kite lines after a repair; `waves` are the initial packets still to inject; `rejected` is the offset of R65. -/
structure Hall where
  bridge : Bool
  nlines : Nat
  kitew : BitVec 16
  rent : Nat
  rebuilds : Nat
  stale : Bool
  waves : List (Nat × Nat × Nat × Packet)
  rejected : Option Nat
  /-- Its tenant, and its steward, which is fixed as it is created (R380). -/
  tenant : Nat
  steward : Option Nat
  deriving DecidableEq, Repr, Inhabited

/-- The whole machine. -/
structure State where
  /-- Focus: the tile whose record is `tile`, and the thread that issues next. -/
  foc : Coord
  tid : Tid
  tile : Tile
  /-- The other tiles that are not at their reset value. -/
  tiles : List (Coord × Tile)
  /-- Every byte of the wafer and of its edge memory, by the 48-bit physical address of R375 and R404 (DESIGN CHOICE,
  log 2). -/
  mem : List Host.Cell
  /-- Block descriptors by physical line number (R79). -/
  desc : List (Nat × Desc)
  /-- Physical 8-byte words with an uncorrectable error that no read has found, and with a soft error (R83, R109). -/
  bad : List Nat
  soft : List Nat
  net : List Flight
  halls : List (Nat × Hall)
  ports : List (Nat × Port)
  ues : List (Nat × UePort)
  galleries : List (Nat × Gallery)
  fields : List (Nat × Field)
  boot : Boot
  /-- Reports on their way from units that are not tiles: gallery and record (R131, R412, R454). -/
  unitReports : List (Nat × Record)
  /-- Wafer ticks (R445). -/
  wtime : Word
  /-- Flag unions of the halls (R92, R376). -/
  hallFlags : List (Nat × BitVec 6)
  /-- Flag unions of the blocks (R92), by 70·bx + by. -/
  blockFlags : List (Nat × BitVec 6)
  /-- What happens next, before anything the machine does by itself: an event, or the next instruction of a thread (log 3). -/
  agenda : List (Coord × Tid × Option Instr)
  /-- The next step is the machine's own, if it has one to take (log 3). -/
  turn : Bool
  /-- The model's own numbers: next request, next engine operation, acceptance order (log 3). -/
  nextId : Nat
  nextSeq : Nat
  deriving DecidableEq, Repr

/-! ### Reset -/

/-- A thread after wafer reset. The manual gives no reset value for PC, g, p, m, v and their tags, nor for SLIM, RSBASE, RSLIM and the
stack top before a placement: they are 0, but for p0 and m0, which read as ones (DESIGN CHOICE, log 1). A placement whose section has no
THREADS chunk leaves the last four as they were. -/
def Thread.reset : Thread where
  state := .free
  pc := 0
  g := Vector.replicate 32 0
  p := 1
  v := Vector.replicate 16 0
  vtag := Vector.replicate 16 0
  m := #v[BitVec.allOnes 64, 0, 0, 0]
  rmode := 0x1F00
  fflags := 0
  tcm := false
  srseq := 0
  slim := 0
  rsp := 0
  rsbase := 0
  rslim := 0
  rstore := []
  entry := 0
  outc := ⟨0, 0, 0, 0⟩
  loop := ⟨false, 0, 0, 0⟩
  cycles := 0
  stackTop := 0
  work := .none
  fwdUsed := false
  pinRec := false
  pinNow := false
  unpinned := false
  pending := 0
  pends := []
  deferred := none
  further := 0
  wait := .none
  record := none
  resumeSkip := 0
  skipBkpt := false
  atBkpt := false
  stepping := false
  savedAs := .free
  stalled := false
  noted := []
  turnAt := none

def TileRegs.reset : TileRegs where
  tags := 0
  name := 0
  hall := 0x80
  treepool := 0
  treecfga := 0x3F8000003FC00000
  treecfgb := 0
  treereg := 0
  cellmode := 0
  pwin := Vector.replicate 4 0
  parent := Vector.replicate 4 0
  kitew := 1
  timer := 0
  perfsel := 0
  perf := Vector.replicate 4 0

/-- Reset of the privileged registers in a tile of field f. -/
def PrivRegs.reset (f : Nat) : PrivRegs where
  entrybase := 0
  budget := 65536
  vcw := 0x11111111
  hallmap := 0
  spaces := 0
  trapdest := BitVec.ofNat 64 (0xFF000001 + 0x10000 * f)
  pctx := 0
  balloon := 0
  balptr := 0
  toke := 0x0400000000000000
  tokm := 0x0400000000000000
  slice := 0
  qlim := (Vector.replicate 16 (0x1000000 : Word)).set 14 0x1000010 |>.set 15 0x1000010
  bkpt := Vector.replicate 4 0
  watch := Vector.replicate 4 0
  rtex := Vector.replicate 16 0

/-- A tile at (x, y) after a wafer reset, every stair intact (R13, R21). -/
def Tile.reset (c : Coord) : Tile where
  threads := Vector.replicate 4 Thread.reset
  r := TileRegs.reset
  pr := PrivRegs.reset (8 * (c.y / 112) + c.x / 128)
  busy := 0
  lag := 0
  extra := 0
  prow := 29 * (c.y % 112 / 28) + c.y % 112 % 28
  absent := false
  acc := []
  cst := []
  uprog := 0
  comb := 0
  init := 4
  knots := []
  runs := []
  lastCell := 255
  ring := []
  chain := []
  credits := Vector.replicate 8 1
  window := []
  lastFromRing := false
  dispatchOn := true
  dropped := 0
  late := 0
  droppedRecords := 0
  softCount := 0
  ops := []
  copies := []
  rr := Vector.replicate 4 0
  wq := []
  hidden := []
  monitors := []
  arms := []
  inj := []
  injRR := 0
  holds := []
  seeks := []
  tokenWaits := []
  names := []
  router := ⟨[], []⟩
  reports := []
  lost := 0
  gang := ⟨[], [], false⟩
  parkCmd := none
  parkFrom := 0
  balWait := 0
  balSrc := []
  hallop := none

def Port.reset : Port := ⟨0, 0, 0, [], [], [], [], [], [], [], [], [], [], [], []⟩
def UePort.reset : UePort := ⟨0, [], 0, []⟩
def EvQueue.reset : EvQueue := ⟨0, 0, 0, 0, 0, 0, 0⟩
def Slot.reset : Slot := ⟨.free, 0, 0, 0⟩
def Ring.reset : Ring := ⟨0, 1, 1, false, false, false, false, 0, 0, 0, 0x100000, 0, Vector.replicate 16 0, [], 0⟩
def SvcHart.reset : SvcHart := ⟨false, 0, 0, none, 0, false⟩
def CmdPort.reset : CmdPort := ⟨0, 0, 0, 0, 0, 0, none, [], 0, 0⟩
def IntFile.reset : IntFile := ⟨false, 0, [], []⟩
/-- A hart after reset: in M-mode, with its translation registers and, since the manual gives them no reset value, its timer compares at 0
(DESIGN CHOICE, log 1). -/
def Hart.reset : Hart where
  mode := .m
  satp := 0
  vsatp := 0
  hgatp := 0
  mstatus := 0
  vsstatus := 0
  mtimecmp := 0
  stimecmp := 0
  vstimecmp := 0
  mtip := false
  stip := false
  vstip := false
  files := []
  gtlb := []
  stores := []
  load := none
  fencing := false
  awaiting := none
  value := 0
  fault := false
  image := none
def Gallery.reset : Gallery := ⟨[], [], [], [], [], [], 0, 0⟩
def Field.reset : Field :=
  ⟨0x1414, 0x00A45A5F, 0x1000, 0, [], 0, 0, Vector.replicate 16 0, Vector.replicate 16 0, 0, 0, 0x0400000000000000, 0x0400000000000000, 0, 0, [], [],
   0, 0, 0, 0, 0, [], 0, [], []⟩
/-- The fuses of a module and the contents of its flash are no part of a wafer reset: 0, and erased (DESIGN CHOICE, log 7). -/
def Boot.reset : Boot where
  bootst := 0
  boottmo := 16384
  featacc := 0
  accWritten := (false, false)
  ckctl := 0
  cktime := 0
  goPending := false
  ckParked := []
  mapped := false
  minimal := none
  keyDigest := 0
  minVer := 0
  flash := []
  flog := []
  tftpStatus := none
  uart := []
  jtag := false
  jtagData := 0
  resets := 0
  powered := true
  failAt := none
  image := none
def Hall.reset : Hall := ⟨false, 1, 1, 0, 0, false, [], none, 0, none⟩

/-- The machine after wafer reset: every unit at its reset value, nothing in flight, and nothing on the agenda. -/
def State.reset : State where
  foc := ⟨0, 0⟩
  tid := 0
  tile := Tile.reset ⟨0, 0⟩
  tiles := []
  mem := []
  desc := []
  bad := []
  soft := []
  net := []
  halls := []
  ports := []
  ues := []
  galleries := []
  fields := []
  boot := Boot.reset
  unitReports := []
  wtime := 0
  hallFlags := []
  blockFlags := []
  agenda := []
  turn := false
  nextId := 0
  nextSeq := 0

end Sys2Proof.Machine
end

