-- ==== Sys2Proof/Machine/Ops.lean ====
section
/-! DEFINITION. The named operations over the state: tables, memory, tiles, threads, taking a trap and returning from one, retirement,
reports, the local address checks, and the descriptors and check bits of lines. -/

namespace Sys2Proof.Machine

/-- What every meaning answers. -/
abbrev Out := Host.Outcome State Fault Refusal

/-! ### Tables -/

/-- Value at a key of a strictly rising table; `blank` gives what an absent key reads as. -/
def Tab.get {β : Type} (blank : Nat → β) : List (Nat × β) → Nat → β
  | [], k => blank k
  | (a, v) :: r, k => if k < a then blank k else if k = a then v else Tab.get blank r k

/-- Puts a value at a key, keeping keys rising and listing no blank value. -/
def Tab.set {β : Type} [DecidableEq β] (blank : Nat → β) : List (Nat × β) → Nat → β → List (Nat × β)
  | [], k, v => if v = blank k then [] else [(k, v)]
  | (a, w) :: r, k, v =>
    if k < a then (if v = blank k then (a, w) :: r else (k, v) :: (a, w) :: r)
    else if k = a then (if v = blank k then r else (k, v) :: r)
    else (a, w) :: Tab.set blank r k v

/-- The canonical form: keys strictly rising, no blank value listed. -/
def Tab.wf {β : Type} [DecidableEq β] (blank : Nat → β) : List (Nat × β) → Bool
  | [] => true
  | [(a, v)] => v != blank a
  | (a, v) :: (b, w) :: r => v != blank a && decide (a < b) && Tab.wf blank ((b, w) :: r)

/-- A unit by number; an absent one is at its reset value. -/
def unitGet {α β : Type} [DecidableEq α] (d : β) (l : List (α × β)) (k : α) : β :=
  match l with
  | [] => d
  | (a, v) :: r => if a = k then v else unitGet d r k

def unitSet {α β : Type} [DecidableEq α] (l : List (α × β)) (k : α) (v : β) : List (α × β) :=
  match l with
  | [] => [(k, v)]
  | (a, w) :: r => if a = k then (k, v) :: r else (a, w) :: unitSet r k v

/-! ### Places -/

/-- Field index 8·fy + fx (R12, R21). -/
def fieldOf (c : Coord) : Nat := 8 * (c.y / 112) + c.x / 128
/-- Block number 70·bx + by (R17). -/
def blockOf (c : Coord) : Nat := 70 * (c.x / 16) + c.y / 16
/-- Gallery sites (R15). -/
def isGallery (c : Coord) : Bool :=
  decide (56 ≤ c.x % 128 ∧ c.x % 128 ≤ 71 ∧ 56 ≤ c.y % 112 ∧ c.y % 112 ≤ 71)
/-- The coordinate holds a site of the logical grid (R14). -/
def onGrid (c : Coord) : Bool := decide (c.x < Config.gridW ∧ c.y < Config.gridH)
/-- The coordinate is a compute position (R14, R20). -/
def isCompute (c : Coord) : Bool := onGrid c && !isGallery c

/-- An RTEX entry (R121). -/
def rtexWord (resp : Bool) (port x0 x1 y0 y1 : Nat) : Word :=
  BitVec.ofNat 64 (2 ^ 63 + (if resp then 2 ^ 62 else 2 ^ 61) + port * 2 ^ 58 + x0 * 2 ^ 44 + x1 * 2 ^ 33 + y0 * 2 ^ 22 + y1 * 2 ^ 11)

/-- The entries that Pralodun writes at boot into a router on a gallery's boundary, which route round it as those of R455 route round an
absent position (R16, R122). -/
def galleryRtex (c : Coord) : List Word :=
  let gx := 128 * (c.x / 128) + 56
  let gy := 112 * (c.y / 112) + 56
  let cols := decide (gx ≤ c.x ∧ c.x ≤ gx + 15)
  let rows := decide (gy ≤ c.y ∧ c.y ≤ gy + 15)
  let north := c.y + 1 == gy
  let south := c.y == gy + 16
  let west := c.x + 1 == gx
  let east := c.x == gx + 16
  let q := rtexWord false
  let r := rtexWord true
  let square (f : Nat → Nat → Nat → Nat → Nat → Word) (port : Nat) : Word := f port gx (gx + 15) gy (gy + 15)
  let req : List Word :=
    if rows && west then [square q 1, q 2 gx 1023 (gy + 16) 1119, q 0 gx 1023 0 (gy + 15)]
    else if rows && east then [square q 3, q 2 0 (gx + 15) (gy + 16) 1119, q 0 0 (gx + 15) 0 (gy + 15)]
    else if cols && north then [q 1 gx (gx + 15) (gy + 16) 1119]
    else if cols && south then [q 1 gx (gx + 15) 0 (gy - 1)]
    else if east && north then [q 2 gx (gx + 15) (gy + 16) 1119]
    else if east && south then [q 0 gx (gx + 15) 0 (gy - 1)]
    else []
  let rsp : List Word :=
    if cols && north then [square r 2, r 1 (gx + 16) 1023 gy 1119, r 3 0 (gx + 15) gy 1119]
    else if cols && south then [square r 0, r 1 (gx + 16) 1023 0 (gy + 15), r 3 0 (gx + 15) 0 (gy + 15)]
    else if rows && west then [r 2 (gx + 16) 1023 gy (gy + 15)]
    else if rows && east then [r 2 0 (gx - 1) gy (gy + 15)]
    else if south && west then [r 1 (gx + 16) 1023 gy (gy + 15)]
    else if south && east then [r 3 0 (gx - 1) gy (gy + 15)]
    else []
  req ++ rsp

/-- RTEX0..RTEX15 from a list of entries. -/
def rtexOf (l : List Word) : Vector Word 16 := Vector.ofFn fun i : Fin 16 => l.getD i.val 0

/-- cat(x, y, 0) of R6 with x at [31:21] and y at [20:10] (R224). -/
def coordDest (c : Coord) : BitVec 32 := BitVec.ofNat 32 (c.x * 2 ^ 21 + c.y * 2 ^ 10)
def coordOfDest (d : BitVec 32) : Coord := ⟨(d.extractLsb' 21 11).toNat, (d.extractLsb' 10 11).toNat⟩

/-! ### Memory -/

/-- Physical address of a tile's local address (R116, R375). The shadow bank, which has no local address, is kept from 0x4_0000. -/
def tileBase (c : Coord) : Nat := 0x800000000000 + c.x * 2 ^ 31 + c.y * 2 ^ 20
/-- Where the model keeps the shadow bank (R22). -/
def shadowBase (c : Coord) : Nat := tileBase c + 0x40000

/-- What a byte that nothing has written reads as: erased instruction SRAM 0xFF, everything else 0 (R66; DESIGN CHOICE, log 2). -/
def Memory.blank (k : Nat) : BitVec 8 :=
  if 0x800000000000 ≤ k ∧ k < 0x840000000000 ∧ 0x10000 ≤ k % 2 ^ 20 ∧ k % 2 ^ 20 < 0x14000 then 0xFF else 0

/-- Memory in its one canonical form. -/
abbrev Memory.wf (m : List Host.Cell) : Bool := Tab.wf Memory.blank m

def descBlank (_ : Nat) : Desc := 0

def Memory.read (m : List Host.Cell) (k : Nat) : BitVec 8 := Tab.get Memory.blank m k
def Memory.write (m : List Host.Cell) (k : Nat) (v : BitVec 8) : List Host.Cell := Tab.set Memory.blank m k v

/-- n bytes from k, little-endian (R3). -/
def Memory.readN (m : List Host.Cell) (k : Nat) : Nat → Nat
  | 0 => 0
  | n + 1 => (Memory.read m k).toNat + 256 * Memory.readN m (k + 1) n

/-- Writes the low n bytes of v at k, little-endian. -/
def Memory.writeN (m : List Host.Cell) (k : Nat) : Nat → Nat → List Host.Cell
  | 0, _ => m
  | n + 1, v => Memory.writeN (Memory.write m k (BitVec.ofNat 8 v)) (k + 1) n (v / 256)

def State.load (s : State) (k n : Nat) : Word := BitVec.ofNat 64 (Memory.readN s.mem k n)
def State.store (s : State) (k n : Nat) (v : Word) : State := { s with mem := Memory.writeN s.mem k n v.toNat }
def State.loadLine (s : State) (k : Nat) : Line := BitVec.ofNat 512 (Memory.readN s.mem k 64)
def State.storeLine (s : State) (k : Nat) (l : Line) : State := { s with mem := Memory.writeN s.mem k 64 l.toNat }

/-- Descriptor of the line that holds physical address k (R79). -/
def State.descAt (s : State) (k : Nat) : Desc := Tab.get descBlank s.desc (k / 64)
def State.setDesc (s : State) (k : Nat) (d : Desc) : State := { s with desc := Tab.set descBlank s.desc (k / 64) d }

def dPoison (d : Desc) : Bool := d.getLsbD 26
def dValid (d : Desc) : Bool := d.getLsbD 25
def dTcm (d : Desc) : Bool := d.getLsbD 24
def dExtra (d : Desc) : BitVec 8 := d.extractLsb' 16 8
def dScale (d : Desc) : BitVec 8 := d.extractLsb' 8 8
def dFmt (d : Desc) : BitVec 8 := d.extractLsb' 0 8
/-- Reserved bits clear and FMT assigned (R82 step 2). -/
def dLegal (d : Desc) : Bool := d.extractLsb' 27 5 == 0 && (Fmt.ofCode (dFmt d)).isSome
/-- A descriptor with VALID = 1 (R85). -/
def mkDesc (f : Fmt) (scale extra : BitVec 8) (tcm : Bool) : Desc :=
  (0x02000000 : Desc) ||| (if tcm then 0x01000000 else 0) ||| (extra.zeroExtend 32 <<< 16) ||| (scale.zeroExtend 32 <<< 8) |||
    f.code.zeroExtend 32

/-- Some 8-byte word of the n bytes at k has an uncorrectable error (R83). -/
def State.isBad (s : State) (k n : Nat) : Bool := s.bad.any fun w => decide (k / 8 ≤ w ∧ w ≤ (k + n - 1) / 8)
/-- Expander memory has no descriptors (R467). -/
def hasDesc (k : Nat) : Bool := !decide (0x100000000000 ≤ k ∧ k < 0x800000000000)
/-- A read that finds an uncorrectable error sets the line's POISON (R83), where there is a descriptor (R467). -/
def State.poison (s : State) (k : Nat) : State := if hasDesc k then s.setDesc k (s.descAt k ||| 0x04000000) else s
/-- The line is poisoned, or the bytes read are uncorrectable: the read's outcome under R82, R83 and R211. -/
def State.damaged (s : State) (k n : Nat) : Bool := (hasDesc k && dPoison (s.descAt k)) || s.isBad k n
/-- Sets POISON where a read found an uncorrectable word (R83). -/
def State.markBad (s : State) (k n : Nat) : State := if s.isBad k n then s.poison k else s
/-- Check bits after a store (R83): a whole word is new; a narrower store of a bad word sets POISON and leaves it bad. -/
def State.storeChecked (s : State) (k n : Nat) (v : Word) : State :=
  let s1 := s.store k n v
  if s.isBad k n then (if n = 8 then { s1 with bad := s.bad.filter (· != k / 8) } else s1.poison k) else s1
/-- A whole-line write with its descriptor renews the line's check bits and POISON (R83). -/
def State.writeLine (s : State) (k : Nat) (l : Line) (d : Desc) : State :=
  { (s.storeLine k l).setDesc k d with bad := s.bad.filter fun w => decide (w / 8 ≠ k / 64) }

/-! ### Tiles and threads -/

/-- A tile that is not listed: at reset, but for the token buckets that its field's refills have filled (R438) and the exception entries
that a boot wrote (R121). -/
def State.blankTile (s : State) (c : Coord) : Tile :=
  let x := unitGet Field.reset s.fields (fieldOf c)
  let t := Tile.reset c
  { t with pr := { t.pr with toke := x.bToke, tokm := x.bTokm, rtex := if s.boot.mapped then rtexOf (galleryRtex c) else t.pr.rtex } }
def State.tileAt (s : State) (c : Coord) : Tile :=
  if c = s.foc then s.tile else unitGet (s.blankTile c) s.tiles c
def State.setTileAt (s : State) (c : Coord) (t : Tile) : State :=
  if c = s.foc then { s with tile := t } else { s with tiles := unitSet s.tiles c t }
def State.mapTileAt (s : State) (c : Coord) (f : Tile → Tile) : State := s.setTileAt c (f (s.tileAt c))
def State.mapTile (s : State) (f : Tile → Tile) : State := { s with tile := f s.tile }

/-- Brings tile c and thread t into focus. -/
def State.focus (s : State) (c : Coord) (t : Tid) : State :=
  if c = s.foc then { s with tid := t }
  else { s with foc := c, tid := t, tile := unitGet (s.blankTile c) s.tiles c, tiles := unitSet s.tiles s.foc s.tile }

def Tile.th (t : Tile) (i : Tid) : Thread := t.threads[i]
def Tile.setTh (t : Tile) (i : Tid) (h : Thread) : Tile := { t with threads := t.threads.set i h }
def Tile.mapTh (t : Tile) (i : Tid) (f : Thread → Thread) : Tile := t.setTh i (f (t.th i))
/-- The thread in focus. -/
def State.th (s : State) : Thread := s.tile.threads[s.tid]
def State.setTh (s : State) (h : Thread) : State := { s with tile := { s.tile with threads := s.tile.threads.set s.tid h } }
def State.mapTh (s : State) (f : Thread → Thread) : State := s.setTh (f s.th)

/-- g0 reads 0 (R176). -/
def Thread.gr (t : Thread) (r : GReg) : Word := if r = 0 then 0 else t.g[r.toNat]
/-- A write to g0 is discarded (R176). -/
def Thread.setG (t : Thread) (r : GReg) (w : Word) : Thread := if r = 0 then t else { t with g := t.g.set r.toNat w }
/-- p0 reads true (R176). -/
def Thread.pr (t : Thread) (r : PReg) : Bool := r == 0 || t.p.getLsbD r.toNat
def bitSet8 (w : BitVec 8) (i : Nat) (b : Bool) : BitVec 8 :=
  if b then w ||| ((1 : BitVec 8) <<< i) else w &&& ~~~((1 : BitVec 8) <<< i)
/-- A write to p0 is discarded (R176). -/
def Thread.setP (t : Thread) (r : PReg) (b : Bool) : Thread := if r = 0 then t else { t with p := bitSet8 t.p r.toNat b }
/-- m0 reads all ones (R176). -/
def Thread.mr (t : Thread) (r : MReg) : Word := if r = 0 then BitVec.allOnes 64 else t.m[r.toNat]
def Thread.setM (t : Thread) (r : MReg) (w : Word) : Thread := if r = 0 then t else { t with m := t.m.set r.toNat w }
def Thread.setV (t : Thread) (r : VReg) (l : Line) (d : Desc) : Thread :=
  { t with v := t.v.set r.toNat l, vtag := t.vtag.set r.toNat d }

def State.gr (s : State) (r : GReg) : Word := s.th.gr r
def State.pr (s : State) (r : PReg) : Bool := s.th.pr r
def State.setG (s : State) (r : GReg) (w : Word) : State := s.setTh (s.th.setG r w)
def State.setP (s : State) (r : PReg) (b : Bool) : State := s.setTh (s.th.setP r b)

/-- Physical address of a local address of the focus tile. -/
def State.pa (s : State) (a : Nat) : Nat := tileBase s.foc + a

/-! ### Units -/

def State.port (s : State) (i : Nat) : Port := unitGet Port.reset s.ports i
def State.setPort (s : State) (i : Nat) (p : Port) : State := { s with ports := unitSet s.ports i p }
def State.ue (s : State) (i : Nat) : UePort := unitGet UePort.reset s.ues i
def State.setUe (s : State) (i : Nat) (p : UePort) : State := { s with ues := unitSet s.ues i p }
def State.gallery (s : State) (f : Nat) : Gallery := unitGet Gallery.reset s.galleries f
def State.setGallery (s : State) (f : Nat) (g : Gallery) : State := { s with galleries := unitSet s.galleries f g }
/-- A gallery hart by its mhartid (R373). -/
def State.hartAt (s : State) (agent : Nat) : Hart := unitGet Hart.reset (s.gallery (agent / 16)).harts (agent % 16)
def State.setHartAt (s : State) (agent : Nat) (h : Hart) : State :=
  let g := s.gallery (agent / 16)
  s.setGallery (agent / 16) { g with harts := unitSet g.harts (agent % 16) h }
def State.field (s : State) (f : Nat) : Field := unitGet Field.reset s.fields f
def State.setField (s : State) (f : Nat) (x : Field) : State := { s with fields := unitSet s.fields f x }
def State.hallOf (s : State) (h : Nat) : Hall := unitGet Hall.reset s.halls h

def State.setHall (s : State) (h : Nat) (x : Hall) : State := { s with halls := unitSet s.halls h x }

/-- HALL.SYS and HALL.HID of a tile (R128). -/
def Tile.sys (t : Tile) : Bool := t.r.hall.getLsbD 7
def Tile.hid (t : Tile) : BitVec 6 := t.r.hall.extractLsb' 0 6

/-- The tiles that are listed, the focus first. -/
def State.listed (s : State) : List (Coord × Tile) := (s.foc, s.tile) :: s.tiles.filter (·.1 != s.foc)
/-- The compute positions of hall h: those whose HALL names it (R381). -/
def State.hallTiles (s : State) (h : Nat) : List Coord :=
  (s.listed.filter fun (c, t) => !t.sys && t.hid.toNat == h && isCompute c).map (·.1)
def minOf (d : Nat) (l : List Nat) : Nat := match l with
  | [] => d
  | a :: r => r.foldl Nat.min a
/-- First column and row of hall h's rectangle of blocks, and its width and height in tiles (R18). -/
def State.hallBox (s : State) (h : Nat) : Nat × Nat × Nat × Nat :=
  let l := s.hallTiles h
  let x0 := minOf 0 (l.map (·.x)) / 16
  let y0 := minOf 0 (l.map (·.y)) / 16
  let x1 := (l.map (·.x)).foldl Nat.max 0 / 16
  let y1 := (l.map (·.y)).foldl Nat.max 0 / 16
  if l.isEmpty then (0, 0, 0, 0) else (16 * x0, 16 * y0, 16 * (x1 + 1 - x0), 16 * (y1 + 1 - y0))
/-- The gallery nearest to hall h's centre, in doubled coordinates (R380). -/
def State.nearestGallery (s : State) (h : Nat) : Nat :=
  let (x, y, w, n) := s.hallBox h
  let d (f : Nat) : Int :=
    let dx : Int := (2 * x + w : Int) - (256 * (f % 8) + 128)
    let dy : Int := (2 * y + n : Int) - (224 * (f / 8) + 128)
    dx * dx + dy * dy
  (List.range Config.fields).foldl (fun b f => if d f < d b then f else b) 0
/-- Field index of the hall's steward, as it was fixed when the hall was created (R380). -/
def State.stewardOf (s : State) (h : Nat) : Nat := (s.hallOf h).steward.getD (s.nearestGallery h)

/-- Gallery of a tile's steward: its hall's, or for a system tile its field's own (R19, R380). -/
def State.tileSteward (s : State) (c : Coord) : Nat :=
  let t := s.tileAt c
  if t.sys then fieldOf c else s.stewardOf t.hid.toNat

/-- COORD of a tile (R21). -/
def coordReg (c : Coord) (prow : Nat) : Word :=
  BitVec.ofNat 64 (prow * 2 ^ 32 + fieldOf c * 2 ^ 22 + c.x * 2 ^ 11 + c.y)

/-- Adds n to every performance counter that selects the event (R245). -/
def Tile.count (t : Tile) (event : BitVec 8) (n : Word) : Tile :=
  let sel (i : Nat) : Word := if t.r.perfsel.extractLsb' (8 * i) 8 = event then n else 0
  if event = 0 then t
  else { t with r := { t.r with perf := #v[t.r.perf[0] + sel 0, t.r.perf[1] + sel 1, t.r.perf[2] + sel 2, t.r.perf[3] + sel 3] } }

/-- PCTX.STATE: 0 LIVE, 1 QUIESCING, 2 PARKED, 3 RESTORING (R419). -/
def Tile.pstate (t : Tile) : Nat := (t.pr.pctx.extractLsb' 0 3).toNat
/-- The balloon takes what would enter the local port (R427). -/
def Tile.diverting (t : Tile) : Bool :=
  t.pstate != 0 || t.balWait != 0 || t.pr.balptr.extractLsb' 32 32 != t.pr.balptr.extractLsb' 0 32

/-! ### Traps -/

namespace Cause
def illegal : BitVec 8 := 0x01
def priv : BitVec 8 := 0x02
def misalign : BitVec 8 := 0x03
def sramBound : BitVec 8 := 0x04
def hallViolation : BitVec 8 := 0x05
def pageLoad : BitVec 8 := 0x06
def pageStore : BitVec 8 := 0x07
def noncanon : BitVec 8 := 0x08
def offsetWrap : BitVec 8 := 0x09
def stackLimit : BitVec 8 := 0x0A
def returnUnderflow : BitVec 8 := 0x0B
def topcode : BitVec 8 := 0x0C
def formatMismatch : BitVec 8 := 0x0D
def ecc : BitVec 8 := 0x0E
def budget : BitVec 8 := 0x0F
def entryInvalid : BitVec 8 := 0x10
def poolEmpty : BitVec 8 := 0x11
def treeState : BitVec 8 := 0x12
def knotInvalid : BitVec 8 := 0x13
def fpTrap : BitVec 8 := 0x14
def divZero : BitVec 8 := 0x15
def scallFault : BitVec 8 := 0x16
def breakpoint : BitVec 8 := 0x17
def watch : BitVec 8 := 0x18
def matrixShape : BitVec 8 := 0x19
def tagInvalid : BitVec 8 := 0x1A
def gangAbort : BitVec 8 := 0x1B
def preemptTimeout : BitVec 8 := 0x1C
def tileLost : BitVec 8 := 0x20
def tileAbsent : BitVec 8 := 0x21
def blockLost : BitVec 8 := 0x22
def tileUnreached : BitVec 8 := 0x23
end Cause

/-- The thread's PC as the 12-bit word index of records (R386). A fetch at 4,096 (R168) shows as 0, the field having no more bits
(DEDUCED, log 26). -/
def Thread.pc12 (t : Thread) : BitVec 12 := t.pc.setWidth 12

/-- TAKING A TRAP (R32, R386): the thread enters STOP with its PC at the instruction and its record to be sent when R164 allows.
Registers, memory and loop state keep what they held (R207). -/
def Thread.trap (t : Thread) (i : TrapInfo) : Thread :=
  { t with state := .stop, record := some ⟨0, i, false⟩, resumeSkip := 0, wait := .none, stepping := false, stalled := false,
           atBkpt := false }

/-- A trap of the focus thread at its PC, with faulting address and operand values. -/
def State.trapWith (s : State) (cause : BitVec 8) (faddr op0 op1 op2 op3 : Word) : State :=
  s.mapTh fun t => t.trap ⟨cause, t.pc12, faddr, op0, op1, op2, op3⟩
def State.trap (s : State) (cause : BitVec 8) (faddr : Word) : State := s.trapWith cause faddr 0 0 0 0

/-- RETURN FROM A TRAP (R389): RUN at the saved PC, past the instruction for TRAP, BRK and HALT, with the cycle count at 0 (R383). A HALT
that holds a loop's END word resumes past it with the loop as it stood: R243 names the following instruction, and no rule applies the repeat
of R207 there (DESIGN CHOICE, log 70). -/
def Thread.resume (t : Thread) : Thread :=
  { t with state := .run, pc := t.pc + BitVec.ofNat 13 t.resumeSkip, resumeSkip := 0, cycles := 0, skipBkpt := t.atBkpt, atBkpt := false,
           stalled := false, noted := [], turnAt := none }

/-- Instruction word at an index; 0 beyond word 4095 (R165, R175). -/
def State.iword (s : State) (i : Nat) : IWord :=
  if i < 4096 then (s.load (s.pa (0x10000 + 4 * i)) 4).setWidth 32 else 0

/-- ILLEGAL_INSN with the instruction's words as operands (R175). -/
def State.trapIllegal (s : State) : State :=
  let i := s.th.pc.toNat
  let w0 := s.iword i
  let long := wL w0 != 0
  s.trapWith Cause.illegal (BitVec.ofNat 64 (0x10000 + 4 * i)) (w0.zeroExtend 64)
    (if long then (s.iword (i + 1)).zeroExtend 64 else 0) (if long then (s.iword (i + 2)).zeroExtend 64 else 0)
    (if wL w0 = 3 then s.iword (i + 4) ++ s.iword (i + 3) else 0)

/-! ### Retirement -/

/-- The thread enters HALT and sends a notice (KIND 2) with its PC (R243, R383). -/
def Thread.halted (t : Thread) (skip : Nat) : Thread :=
  { t with state := .halt, record := some ⟨2, ⟨0, t.pc12, 0, 0, 0, 0, 0⟩, false⟩, resumeSkip := skip, wait := .none, stepping := false,
           stalled := false, atBkpt := false }
/-- The instruction of a STEP has retired: HALT again (R383). -/
def Thread.stepped (t : Thread) : Thread := if t.stepping then t.halted 0 else t

/-- The PC and loop state after an instruction of n words that transfers nothing (R165, R207). -/
def Thread.next (t : Thread) (n : Nat) : Thread :=
  let pc := t.pc.toNat
  if t.loop.active && decide (pc ≤ t.loop.last.toNat ∧ t.loop.last.toNat < pc + n) then
    if t.loop.count.toNat > 1 then { t with pc := t.loop.start.setWidth 13, loop := { t.loop with count := t.loop.count - 1 } }
    else { t with pc := t.pc + BitVec.ofNat 13 n, loop := { t.loop with active := false, count := 0 } }
  else { t with pc := t.pc + BitVec.ofNat 13 n }

/-- The marks of the instruction at the PC end with it (log 3). -/
def Thread.moved (t : Thread) : Thread := { t with stalled := false, noted := [], turnAt := none }

/-- Retirement to the following instruction. -/
def Thread.advance (t : Thread) (n : Nat) : Thread := (t.next n).moved.stepped

/-- A taken transfer ends the loop when its target lies outside the body (R207). -/
def Thread.goto (t : Thread) (target : BitVec 12) : Thread :=
  let inside := decide (t.loop.start.toNat ≤ target.toNat ∧ target.toNat ≤ t.loop.last.toNat)
  { t with pc := target.setWidth 13,
           loop := if t.loop.active && !inside then { t.loop with active := false, count := 0 } else t.loop }

/-- Retirement to a target. -/
def Thread.transfer (t : Thread) (target : BitVec 12) : Thread := (t.goto target).moved.stepped

/-- Cycles in each frame now in force: MCUR, or floor(4·MCUR/5) while stretched (R439, R441). -/
def Field.perFrame (x : Field) : Nat :=
  let m := (x.fclk.extractLsb' 8 5).toNat
  if x.fclk.getLsbD 16 then 4 * m / 5 else m

/-- Phase that a whole frame of the field adds (R445). -/
def Field.framePhase (x : Field) : Nat := x.perFrame * (65536 / x.perFrame)
/-- Cycles that the frame still holds at the rate in force, whatever rates it has run at (R439, R441). -/
def Field.remaining (x : Field) : Nat := (x.framePhase - x.phase) / (65536 / x.perFrame)
/-- One cycle of a field: LCYC (R106), φ (R445) and what SLOW counts (R446). -/
def Field.cycle (x : Field) : Field :=
  { x with lcyc := x.lcyc + 1, phase := x.phase + 65536 / x.perFrame, cyclesRun := x.cyclesRun + 1 }

/-- One cycle of the focus thread: its handler's count (R45), its field's counts, and the events 0x01 (R245). -/
def State.cycle (s : State) : State :=
  let f := fieldOf s.foc
  ((s.setField f (s.field f).cycle).mapTile (·.count 0x01 1)).mapTh fun t => { t with cycles := t.cycles + 1 }

/-- A retired instruction counts event 0x02 and takes a cycle (DESIGN CHOICE, log 5); a STEP ends after it (R383). -/
def State.retired (s : State) : State := (s.mapTile (·.count 0x02 1)).cycle

/-- Retires an instruction of n words that transfers nothing. -/
def State.retire (s : State) (n : Nat) : State := (s.mapTh (·.advance n)).retired
/-- Retires a taken transfer. -/
def State.jump (s : State) (target : BitVec 12) : State := (s.mapTh (·.transfer target)).retired

/-- The instruction cannot go on yet: it stays at its PC and is tried again after the machine has moved (DESIGN CHOICE,
log 3). -/
def State.stall (s : State) : State := s.cycle.mapTh fun t => { t with stalled := true }
/-- A stall each cycle of which counts as an event (R245). -/
def State.stallEach (s : State) (event : BitVec 8) : State := (s.mapTile (·.count event 1)).stall
/-- A stall that its instruction counts once as an event (R54, R245). -/
def State.stallOn (s : State) (event : BitVec 8) : State :=
  if s.th.noted.contains event then s.stall
  else ((s.mapTile (·.count event 1)).mapTh fun t => { t with noted := event :: t.noted }).stall

/-- The guard of an X form (R172). -/
def guardHolds (gd : Guard) (t : Thread) : Bool := t.pr gd.gp != gd.neg
/-- A failed guard retires the instruction with no effect (R172). -/
def guarded (gd : Guard) (n : Nat) (s : State) (k : State → Out) : Out :=
  if guardHolds gd s.th then k s else .next (s.retire n)
/-- Waits in RUN until the condition holds. -/
def whenReady (c : Bool) (s : State) (k : State → Out) : Out := if c then k s else .next s.stall

/-! ### Publishable windows and the local address checks -/

def pwinEn (w : Word) : Bool := w.getLsbD 63
def pwinVis (w : Word) : Bool := w.getLsbD 62
def pwinLines (w : Word) : Nat := (w.extractLsb' 20 10).toNat
def pwinB (w : Word) : Nat := (w.extractLsb' 10 10).toNat
def pwinA (w : Word) : Nat := (w.extractLsb' 0 10).toNat

/-- How a window treats a line (R113). -/
inductive WinHit where
  | out | nominal (a b : Nat) | bRange
  deriving DecidableEq, Repr, Inhabited

/-- The window that the line index lies in: for the nominal range, the lines of the visible and the hidden half. -/
def Tile.window_ (t : Tile) (line : Nat) : WinHit :=
  t.r.pwin.toList.foldr (fun w acc =>
    if !pwinEn w then acc
    else if pwinA w ≤ line ∧ line < pwinA w + pwinLines w then
      let b := pwinB w + (line - pwinA w)
      if pwinVis w then .nominal b line else .nominal line b
    else if pwinB w ≤ line ∧ line < pwinB w + pwinLines w then .bRange else acc) .out

/-- The entry table's range (R33), which is empty with COUNT = 0. -/
def Tile.entryBase (t : Tile) : Nat := 64 * (t.pr.entrybase.extractLsb' 6 10).toNat
def Tile.entryCount (t : Tile) : Nat := (t.pr.entrybase.extractLsb' 16 11).toNat
def Tile.inEntries (t : Tile) (a n : Nat) : Bool :=
  decide (0 < t.entryCount ∧ t.entryBase < a + n ∧ a < t.entryBase + 8 * t.entryCount)

/-- Local address at which a read of data SRAM is served: the visible half of a window; none in a B range (R113). -/
def Tile.readAddr (t : Tile) (a : Nat) : Option Nat :=
  match t.window_ (a / 64) with
  | .out => some a
  | .nominal v _ => some (64 * v + a % 64)
  | .bRange => none
/-- Local address of an engine or copy write to data SRAM: the hidden half; none in a B range (R113). -/
def Tile.writeAddr (t : Tile) (a : Nat) : Option Nat :=
  match t.window_ (a / 64) with
  | .out => some a
  | .nominal _ h => some (64 * h + a % 64)
  | .bRange => none

/-- The n bytes at a lie in the thread's own packet's cells (R44). -/
def Thread.ownCells (t : Thread) (a n : Nat) : Bool :=
  match t.work with
  | .packet c0 k => decide (0x20000 ≤ a ∧ (a - 32 * c0 - 0x20000) + n ≤ 32 * k ∧ 32 * c0 + 0x20000 ≤ a) ||
      decide (0x20000 ≤ a ∧ a + n ≤ 0x22000 ∧ (a - 0x20000 + 0x2000 - 32 * c0) % 0x2000 + n ≤ 32 * k)
  | _ => false
/-- Local address of an inbox byte: an address above the pool's end continues at its first cell (R44). -/
def poolAddr (a : Nat) : Nat := 0x20000 + (a - 0x20000) % 0x2000

/-- A thread LD of n bytes (R103, R104, R44, R113): where it is served, or refused. -/
def State.loadAddr (s : State) (a n : Nat) : Option Nat :=
  if a + n ≤ 0x10000 then s.tile.readAddr a
  else if 0x10000 ≤ a ∧ a + n ≤ 0x14000 then some a
  else if s.th.ownCells a n then some (poolAddr a)
  else none
/-- A thread ST or AMO of n bytes (R104, R33, R113). -/
def State.storeOk (s : State) (a n : Nat) : Bool :=
  decide (a + n ≤ 0x10000) && !s.tile.inEntries a n && s.tile.window_ (a / 64) == .out

/-- A write-queue entry holds the line: thread accesses to it wait (R142). -/
def Tile.wqHolds (t : Tile) (a : Nat) : Bool := t.wq.any fun e => e.line == a / 64

/-- A WATCH register matches the access (R472). -/
def State.watched (s : State) (a n : Nat) (isLoad : Bool) : Bool :=
  s.tile.pr.watch.toList.any fun w =>
    let k := (w.extractLsb' 24 4).toNat
    let base := (w.extractLsb' 0 20).toNat / 2 ^ k * 2 ^ k
    w.getLsbD 63 && w.getLsbD (if isLoad then 62 else 61) && w.getLsbD (56 + s.tid.val) &&
      decide (base < a + n ∧ a < base + 2 ^ k)

/-! ### Records and reports (R386, R388) -/

/-- The eight words of a record, with LOST 0. -/
def recordWords (sys : Bool) (hid : BitVec 6) (entry : BitVec 16) (kind : BitVec 2) (tid : Nat) (i : TrapInfo) (coord time : Word) :
    List Word :=
  let w0 : Word := (0 : BitVec 9) ++ BitVec.ofBool sys ++ hid ++ entry ++ (0 : BitVec 4) ++ i.pc ++ (0 : BitVec 4) ++ kind ++
    BitVec.ofNat 2 tid ++ i.cause
  [w0, i.faddr, i.op0, i.op1, i.op2, i.op3, coord, time]

/-- A record of tile c, formed at wafer tick w. -/
def Tile.recordOf (w : Word) (t : Tile) (c : Coord) (entry : BitVec 16) (kind : BitVec 2) (tid : Nat) (i : TrapInfo) : List Word :=
  recordWords t.sys t.hid entry kind tid i (coordReg c t.prow) (w + t.lag)

/-- A report enters the tile's buffer of eight, or is dropped and counted (R388). -/
def Tile.pushReport (t : Tile) (dst : Option Nat) (ws : List Word) : Tile :=
  if t.reports.length < 8 then { t with reports := t.reports ++ [(dst, ws)] }
  else { t.count 0x0C 1 with lost := t.lost + 1 }

/-- A report that no thread issued (R388). -/
def Tile.report (w : Word) (t : Tile) (c : Coord) (cause : BitVec 8) (faddr op0 op1 : Word) : Tile :=
  t.pushReport none (t.recordOf w c 0 1 0 ⟨cause, 0, faddr, op0, op1, 0, 0⟩)

/-- Gallery whose trap receiver a tile's TRAPDEST names (R378, R381). -/
def Tile.trapGallery (t : Tile) : Nat := (t.pr.trapdest.extractLsb' 16 8).toNat

/-- A report made by a router, port or controller about the tile at c, sent to that tile's steward (R122, R130, R131). -/
def State.unitReport (s : State) (c : Coord) (cause : BitVec 8) (op0 op1 op2 : Word) : State :=
  let t := s.tileAt c
  let ws := recordWords t.sys t.hid 0 1 0 ⟨cause, 0, 0, op0, op1, op2, 0⟩ (coordReg c t.prow) (s.wtime + t.lag)
  { s with unitReports := s.unitReports ++ [(s.tileSteward c, ⟨ws, none⟩)] }

end Sys2Proof.Machine
end

