-- ==== Sys2Proof/Machine/Fp.lean ====
section
/-! DEFINITION. Numbers: the formats of R69 to R75, exact values, the six roundings of R86 to R95, conversions R88 and R89, and the
generator G of R96. Values are exact until one rounding at the end (R87). -/

namespace Sys2Proof.Machine

/-- Flag bits [5:0] of FFLAGS (R90). -/
abbrev Flags := BitVec 6
def fNX : Flags := 0x01
def fUF : Flags := 0x02
def fOF : Flags := 0x04
def fDZ : Flags := 0x08
def fNV : Flags := 0x10
def fSR : Flags := 0x20

/-- A decoded value: (−1)^s · m · 2^e, plus less than one unit of 2^e when `st`; m = 0 is a signed zero. -/
inductive FpVal where
  | nan (sig : Bool)
  | inf (s : Bool)
  | fin (s : Bool) (m : Nat) (e : Int) (st : Bool)
  deriving DecidableEq, Repr, Inhabited

/-- A rounding mode with the random integer r of w bits for mode 5 (R94). -/
structure Rounding where
  mode : RMode
  r : Nat
  w : Nat
  deriving DecidableEq, Repr, Inhabited

def rneMode : Rounding := ⟨.rne, 0, 32⟩

/-! ### Formats -/

/-- Fraction bits, exponent bits, bias (R69). -/
def fpParams : FpFmt → Nat × Nat × Nat
  | .fp64 => (52, 11, 1023)
  | .fp48 => (37, 10, 511)
  | .fp32 => (23, 8, 127)
  | .bf16 => (7, 8, 127)
  | .fp16 => (10, 5, 15)
  | .e4m3 => (3, 4, 7)
  | .e5m2 => (2, 5, 15)
  | .e2m1 => (1, 2, 1)

/-- Significand and exponent of the largest finite value (R69, R73). -/
def fpMax (f : FpFmt) (tcm : Bool) : Nat × Int :=
  let (fb, eb, bias) := fpParams f
  match f with
  | .e4m3 => if tcm then (15, 4) else (14, 5)
  | .e5m2 => if tcm then (7, 13) else (6, 14)
  | .e2m1 => (3, 1)
  | _ => (2 ^ (fb + 1) - 1, (2 ^ eb : Nat) - 2 - (bias : Int) - fb)

/-- The format has infinities (R73). -/
def fpHasInf (f : FpFmt) (tcm : Bool) : Bool :=
  match f with
  | .e4m3 | .e5m2 => tcm
  | .e2m1 => false
  | _ => true

/-- Canonical NaN (R71); E2M1 has none and writes 0 (R88). -/
def fpNaN : FpFmt → Nat
  | .fp64 => 0x7FF8000000000000
  | .fp48 => 0x7FF000000000
  | .fp32 => 0x7FC00000
  | .bf16 => 0x7FC0
  | .fp16 => 0x7E00
  | .e4m3 | .e5m2 => 0x7F
  | .e2m1 => 0

def fpWidthOf (f : FpFmt) : Nat := (fpParams f).1 + (fpParams f).2.1 + 1
def fpSignBit (f : FpFmt) (s : Bool) : Nat := if s then 2 ^ ((fpParams f).1 + (fpParams f).2.1) else 0

/-- Infinity of a format that has one. -/
def fpInf (f : FpFmt) (s : Bool) : Nat := (2 ^ (fpParams f).2.1 - 1) * 2 ^ (fpParams f).1 + fpSignBit f s

/-- Decodes the low bits of a word (R70 to R75). Code 0b1000 of E2M1 decodes to +0 here (R195); lines give it EXTRA (R84). -/
def fpDecode (f : FpFmt) (tcm : Bool) (w : Nat) : FpVal :=
  let (fb, eb, bias) := fpParams f
  let s := w / 2 ^ (fb + eb) % 2 == 1
  let e := w / 2 ^ fb % 2 ^ eb
  let fr := w % 2 ^ fb
  let top := 2 ^ eb - 1
  let sub : FpVal := .fin s fr (1 - (bias : Int) - fb) false
  let norm : FpVal := .fin s (2 ^ fb + fr) ((e : Int) - bias - fb) false
  match f with
  | .e2m1 => if e = 0 then (if s ∧ fr = 0 then .fin false 0 0 false else sub) else norm
  | .e4m3 => if e = 0 then sub else if e = top then
      (if fr = 7 then .nan false else if tcm then (if fr = 0 then .inf s else .nan false) else norm) else norm
  | .e5m2 => if e = 0 then sub else if e = top then
      (if fr = 3 then .nan false else if tcm then (if fr = 0 then .inf s else .nan false) else norm) else norm
  | _ => if e = 0 then sub else if e = top then (if fr = 0 then .inf s else .nan (fr < 2 ^ (fb - 1))) else norm

/-! ### Rounding -/

/-- Bits in a natural number. -/
def bitLen (m : Nat) : Nat := if m = 0 then 0 else Nat.log2 m + 1

/-- Trailing zeros, at most the fuel. -/
def trailZeros : Nat → Nat → Nat
  | 0, _ => 0
  | n + 1, m => if m % 2 = 1 then 0 else 1 + trailZeros n (m / 2)

/-- The discarded field of R93 for a remainder of `sh` bits: d and D. -/
def srField (rem sh : Nat) (st : Bool) : Nat × Nat :=
  let tz := trailZeros sh rem
  if !st && decide (sh - tz ≤ 64) then (sh - tz, rem / 2 ^ tz)
  else if sh ≤ 64 then (64, rem * 2 ^ (64 - sh) ||| 1)
  else (64, rem / 2 ^ (sh - 64) ||| 1)

/-- The magnitude m·2^e (plus sticky) in units of 2^q: the rounded integer, whether inexact, and SRSHORT (R86, R93, R94). -/
def roundMag (s : Bool) (m : Nat) (e : Int) (st : Bool) (q : Int) (rm : Rounding) : Nat × Bool × Bool :=
  if q ≤ e then (m * 2 ^ (e - q).toNat, st, false)
  else
    let sh := (q - e).toNat
    let keep := m / 2 ^ sh
    let rem := m % 2 ^ sh
    let half := 2 ^ sh / 2
    let inexact := rem != 0 || st
    let above := decide (half < rem) || (rem == half && st)
    let tie := rem == half && !st
    match rm.mode with
    | .rne => (if above || (tie && keep % 2 == 1) then keep + 1 else keep, inexact, false)
    | .rna => (if above || tie then keep + 1 else keep, inexact, false)
    | .rtz => (keep, inexact, false)
    | .rup => (if inexact && !s then keep + 1 else keep, inexact, false)
    | .rdn => (if inexact && s then keep + 1 else keep, inexact, false)
    | .rsr =>
      if !inexact then (keep, false, false)
      else
        let (d, D) := srField rem sh st
        let short := decide (rm.w < d)
        let rp := if short then rm.r * 2 ^ (d - rm.w) else rm.r / 2 ^ (rm.w - d)
        (if D + rp ≥ 2 ^ d then keep + 1 else keep, true, short)

/-- Overflow goes to infinity under the mode (R87). -/
def ovfToInf (s : Bool) : RMode → Bool
  | .rne | .rna | .rsr => true
  | .rtz => false
  | .rup => !s
  | .rdn => s

/-- Encodes significand n at exponent q; n < 2^(f+1) + 1. -/
def fpEncode (f : FpFmt) (s : Bool) (n : Nat) (q : Int) : Nat :=
  let (fb, _, bias) := fpParams f
  let (n, q) := if n ≥ 2 ^ (fb + 1) then (n / 2, q + 1) else (n, q)
  let mag := if n < 2 ^ fb then n else (q + fb + bias).toNat * 2 ^ fb + (n - 2 ^ fb)
  if f = .e2m1 ∧ mag = 0 then 0 else mag + fpSignBit f s

/-- The largest finite value's encoding. -/
def fpMaxBits (f : FpFmt) (tcm s : Bool) : Nat :=
  let (n, q) := fpMax f tcm
  fpEncode f s n q

/-- rnd(v, F, m) of R87, with R88 for formats without infinity: the bits and the flags. -/
def fpRound (f : FpFmt) (tcm : Bool) (rm : Rounding) (v : FpVal) : Nat × Flags :=
  match v with
  | .nan _ => (fpNaN f, if f = .e2m1 then fNV else 0)
  | .inf s => if fpHasInf f tcm then (fpInf f s, 0) else (fpMaxBits f tcm s, fNV)
  | .fin s m e st =>
    if m = 0 ∧ !st then (fpEncode f s 0 0, 0)
    else
      let (fb, _, bias) := fpParams f
      let emin : Int := 1 - bias
      let ex : Int := e + bitLen m - 1
      let q : Int := (if ex < emin then emin else ex) - fb
      let (n, inexact, short) := roundMag s m e st q rm
      let (mx, mq) := fpMax f tcm
      let tooBig := if q ≥ mq then decide (mx < n * 2 ^ (q - mq).toNat) else decide (mx * 2 ^ (mq - q).toNat < n)
      let sr : Flags := if short then fSR else 0
      if tooBig then
        (if fpHasInf f tcm && ovfToInf s rm.mode then fpInf f s else fpMaxBits f tcm s, fOF ||| fNX ||| sr)
      else (fpEncode f s n q, (if inexact then (if ex < emin then fUF ||| fNX else fNX) else 0) ||| sr)

/-! ### Exact operations -/

/-- Some operand is a signalling NaN (R71). -/
def FpVal.isSig : FpVal → Bool
  | .nan b => b
  | _ => false
def FpVal.isNaN : FpVal → Bool
  | .nan _ => true
  | _ => false
def sigFlag (b : Bool) : Flags := if b then fNV else 0

def FpVal.neg : FpVal → FpVal
  | .nan b => .nan b
  | .inf s => .inf (!s)
  | .fin s m e st => .fin (!s) m e st

/-- Exact scaling by a power of two (R81). -/
def FpVal.scale (k : Int) : FpVal → FpVal
  | .fin s m e st => .fin s m (e + k) st
  | v => v

/-- Exact sum of two finite values; a zero sum of opposite values is −0 under mode 3 (R87). -/
def addFin (rdn : Bool) (s1 : Bool) (m1 : Nat) (e1 : Int) (s2 : Bool) (m2 : Nat) (e2 : Int) : FpVal :=
  let e := min e1 e2
  let a : Int := (m1 * 2 ^ (e1 - e).toNat : Nat)
  let b : Int := (m2 * 2 ^ (e2 - e).toNat : Nat)
  let t := (if s1 then -a else a) + (if s2 then -b else b)
  if t = 0 then .fin (if m1 = 0 ∧ m2 = 0 ∧ s1 = s2 then s1 else rdn) 0 0 false
  else .fin (t < 0) t.natAbs e false

def fpAddV (rdn : Bool) (x y : FpVal) : FpVal × Flags :=
  match x, y with
  | .nan a, .nan b => (.nan false, sigFlag (a || b))
  | .nan a, _ => (.nan false, sigFlag a)
  | _, .nan b => (.nan false, sigFlag b)
  | .inf a, .inf b => if a = b then (.inf a, 0) else (.nan false, fNV)
  | .inf a, _ => (.inf a, 0)
  | _, .inf b => (.inf b, 0)
  | .fin s1 m1 e1 _, .fin s2 m2 e2 _ => (addFin rdn s1 m1 e1 s2 m2 e2, 0)

def fpMulV (x y : FpVal) : FpVal × Flags :=
  match x, y with
  | .nan a, .nan b => (.nan false, sigFlag (a || b))
  | .nan a, _ => (.nan false, sigFlag a)
  | _, .nan b => (.nan false, sigFlag b)
  | .inf a, .inf b => (.inf (a != b), 0)
  | .inf a, .fin s m _ _ => if m = 0 then (.nan false, fNV) else (.inf (a != s), 0)
  | .fin s m _ _, .inf b => if m = 0 then (.nan false, fNV) else (.inf (s != b), 0)
  | .fin s1 m1 e1 _, .fin s2 m2 e2 _ => (.fin (s1 != s2) (m1 * m2) (e1 + e2) false, 0)

/-- a·b + c with one rounding to come; an infinity times a zero raises NV whatever c holds (R197). -/
def fpFmaV (rdn : Bool) (x y z : FpVal) : FpVal × Flags :=
  let (p, f) := fpMulV x y
  let (r, g) := fpAddV rdn p z
  (r, f ||| g)

/-- Quotient to 192 bits and a sticky bit: more than any rounding of R87 to R94 looks at. -/
def fpDivV (x y : FpVal) : FpVal × Flags :=
  match x, y with
  | .nan a, .nan b => (.nan false, sigFlag (a || b))
  | .nan a, _ => (.nan false, sigFlag a)
  | _, .nan b => (.nan false, sigFlag b)
  | .inf _, .inf _ => (.nan false, fNV)
  | .inf a, .fin s _ _ _ => (.inf (a != s), 0)
  | .fin s _ _ _, .inf b => (.fin (s != b) 0 0 false, 0)
  | .fin s1 m1 e1 _, .fin s2 m2 e2 _ =>
    if m2 = 0 then (if m1 = 0 then (.nan false, fNV) else (.inf (s1 != s2), fDZ))
    else if m1 = 0 then (.fin (s1 != s2) 0 0 false, 0)
    else
      let k := 192 + bitLen m2
      (.fin (s1 != s2) (m1 * 2 ^ k / m2) (e1 - e2 - k) (m1 * 2 ^ k % m2 != 0), 0)

/-- floor(√n) by binary digits, `k` of them. -/
def isqrt : Nat → Nat → Nat
  | 0, _ => 0
  | k + 1, n =>
    let r := 2 * isqrt k (n / 4)
    if (r + 1) * (r + 1) ≤ n then r + 1 else r

def fpSqrtV (x : FpVal) : FpVal × Flags :=
  match x with
  | .nan a => (.nan false, sigFlag a)
  | .inf s => if s then (.nan false, fNV) else (.inf false, 0)
  | .fin s m e _ =>
    if m = 0 then (.fin s 0 0 false, 0)
    else if s then (.nan false, fNV)
    else
      let k : Nat := 400 + (if (e % 2 : Int) = 0 then 0 else 1)
      let n := m * 2 ^ k
      let r := isqrt (bitLen n / 2 + 1) n
      (.fin false r ((e - k) / 2) (r * r != n), 0)

/-- Numeric comparison of values that are not NaN; −0 equals +0. -/
def fpLtV (x y : FpVal) : Bool :=
  match x, y with
  | .inf a, .inf b => a && !b
  | .inf a, _ => a
  | _, .inf b => !b
  | .fin s1 m1 e1 _, .fin s2 m2 e2 _ =>
    let e := min e1 e2
    let a : Int := (m1 * 2 ^ (e1 - e).toNat : Nat)
    let b : Int := (m2 * 2 ^ (e2 - e).toNat : Nat)
    decide ((if s1 then -a else a) < (if s2 then -b else b))
  | _, _ => false
def fpEqV (x y : FpVal) : Bool := !x.isNaN && !y.isNaN && !fpLtV x y && !fpLtV y x

def FpVal.sign : FpVal → Bool
  | .nan _ => false
  | .inf s => s
  | .fin s _ _ _ => s

/-- FMIN or FMAX: 0 picks the first operand, 1 the second, 2 the canonical NaN; −0 < +0 (R198). -/
def fpMinMaxPick (isMax : Bool) (x y : FpVal) : Nat :=
  if x.isNaN then (if y.isNaN then 2 else 1)
  else if y.isNaN then 0
  else
    let less := fpLtV x y || (fpEqV x y && x.sign && !y.sign)
    if isMax then (if less then 1 else 0) else (if less then 0 else 1)

def fpMinMaxFlags (x y : FpVal) : Flags := sigFlag (x.isSig || y.isSig)

/-! ### Conversions -/

/-- Float to integer under R89, between lo and hi. -/
def fpToInt (lo hi : Int) (rm : Rounding) (v : FpVal) : Int × Flags :=
  match v with
  | .nan _ => (0, fNV)
  | .inf s => (if s then lo else hi, fNV)
  | .fin s m e st =>
    let (n, inexact, short) := roundMag s m e st 0 rm
    let t : Int := if s then -(n : Int) else n
    let sr : Flags := if short then fSR else 0
    if t < lo then (lo, fNV ||| sr) else if hi < t then (hi, fNV ||| sr) else (t, (if inexact then fNX else 0) ||| sr)

def intVal (t : Int) : FpVal := .fin (t < 0) t.natAbs 0 false

/-- FROUND (R200): an integral value in the same format. -/
def fpIntegral (rm : Rounding) (v : FpVal) : FpVal × Flags :=
  match v with
  | .nan a => (.nan false, sigFlag a)
  | .inf s => (.inf s, 0)
  | .fin s m e st =>
    if m = 0 then (.fin s 0 0 false, 0)
    else
      let (n, inexact, short) := roundMag s m e st 0 rm
      (.fin s n 0 false, (if inexact then fNX else 0) ||| if short then fSR else 0)

/-! ### The generator (R96) -/

def genMix (z : BitVec 32) : BitVec 32 :=
  let z := z ^^^ (z >>> 16)
  let z := z * 0x4F1BBCDD
  let z := z ^^^ (z >>> 15)
  let z := z * 0x2C9A7E63
  z ^^^ (z >>> 16)

/-- G(seed, tensor, step, index). -/
def gen (seed : Word) (tensor step : BitVec 32) (index : Word) : BitVec 32 :=
  let s0 : BitVec 32 := seed.extractLsb' 0 32
  let s1 : BitVec 32 := seed.extractLsb' 32 32
  let r (a b k : BitVec 32) : BitVec 32 × BitVec 32 :=
    let a' := genMix (a + k + b)
    (a', b ^^^ a'.rotateLeft 13)
  let a0 := index.extractLsb' 0 32 ^^^ tensor
  let b0 := index.extractLsb' 32 32 ^^^ step
  let (a1, b1) := r a0 b0 s0
  let (a2, b2) := r a1 b1 s1
  let (a3, b3) := r a2 b2 (s0 ^^^ 0xA5A55A5A)
  (r a3 b3 (s1 ^^^ 0x3C3CC3C3)).1

/-- The random integer of a scalar stochastic rounding (R95). -/
def scalarRounding (rmode srseq : Word) (mode : RMode) : Rounding :=
  let w := (rmode.extractLsb' 8 5).toNat + 1
  ⟨mode, (gen 0 (rmode.extractLsb' 32 32) 0 srseq).toNat / 2 ^ (32 - w), w⟩

/-- RMODE.MODE as a mode; a CSR write never leaves 6 or 7 there (R86). -/
def rmodeMode (rmode : Word) : RMode := (RMode.ofCode (rmode.extractLsb' 0 3)).getD .rne

end Sys2Proof.Machine
end

