-- ==== Sys2Proof/Machine/Flags.lean ====
section
/-! DEFINITION. FFLAGS: raising flags, the FP_TRAP of R91, and the sticky unions of blocks and halls (R90 to R92). -/

namespace Sys2Proof.Machine

/-- An enabled flag is among those raised; SRSHORT has no enable (R91). -/
def flagTraps (fflags : Word) (f : Flags) : Bool := (fflags.extractLsb' 8 5 &&& f.extractLsb' 0 5) != 0

/-- Feeds the unions of a tile's block and hall with bits that went from 0 to 1 (R92). -/
def State.feedUnions (s : State) (c : Coord) (new : Flags) : State :=
  if new = 0 then s
  else
    let t := s.tileAt c
    let b := blockOf c
    let s1 := { s with blockFlags := unitSet s.blockFlags b (unitGet 0 s.blockFlags b ||| new) }
    if t.sys then s1
    else { s1 with hallFlags := unitSet s1.hallFlags t.hid.toNat (unitGet 0 s1.hallFlags t.hid.toNat ||| new) }

/-- ORs flags into the FFLAGS of thread i of tile c (R90, R219). -/
def State.orFlags (s : State) (c : Coord) (i : Tid) (f : Flags) : State :=
  let old : Flags := ((s.tileAt c).th i).fflags.extractLsb' 0 6
  (s.mapTileAt c fun t => t.mapTh i fun h => { h with fflags := h.fflags ||| f.zeroExtend 64 }).feedUnions c (f &&& ~~~old)

/-- Flags that an operation raises after later operations of its thread took their checkpoints belong to those checkpoints too (R53). -/
def QOp.flagged (f : Flags) (o : QOp) : QOp := if o.confirmed then o else { o with ck := { o.ck with fflags := o.ck.fflags ||| f.zeroExtend 64 } }
def State.orFlagsLate (s : State) (c : Coord) (i : Tid) (f : Flags) : State :=
  (s.orFlags c i f).mapTileAt c fun t => { t with ops := t.ops.map fun o => if o.tid = i then o.flagged f else o }

/-- Raises flags of a scalar instruction of the focus thread, or traps FP_TRAP with the flags as operand 0 (R90, R91). -/
def raising (f : Flags) (s : State) (k : State → Out) : Out :=
  if flagTraps s.th.fflags f then .next (s.trapWith Cause.fpTrap 0 (f.zeroExtend 64) 0 0 0)
  else k (s.orFlags s.foc s.tid f)

end Sys2Proof.Machine
end

