-- ==== Sys2Proof/Machine/Operands.lean ====
section
/-! DEFINITION. Operand forms: second operands, immediates, effective addresses, the thread's own loads and stores of local memory
(R189, R192, R210, R211, R214), and the writes that wake a monitor (R222). -/

namespace Sys2Proof.Machine

/-- SUB = 0 or 1 of the integer X form (R189). -/
def src2Val (s : State) : Src2 → Word
  | .reg b => s.gr b
  | .imm i => i.signExtend 64

/-- A register or the literal that replaces it (R171). -/
def regLitVal (s : State) : RegLit → Word
  | .reg r => s.gr r
  | .lit v => v

/-- Words of an X form whose operand may be a literal (R165). -/
def regLitWords : RegLit → Nat
  | .reg _ => 3
  | .lit _ => 5
def devOffWords : DevOff → Nat
  | .imm _ => 3
  | .lit _ => 5

/-- Access size in bytes, and whether a load sign-extends (R170). -/
def szBytes (sz : BitVec 3) : Nat := 2 ^ (sz.toNat % 4)
def szSigned (sz : BitVec 3) : Bool := decide (4 ≤ sz.toNat)

/-- zext or sext of the low n bytes (R170, R211). -/
def extend (sz : BitVec 3) (w : Word) : Word :=
  let n := 8 * szBytes sz
  if szSigned sz then ((w <<< (64 - n)).sshiftRight (64 - n)) else (w <<< (64 - n)) >>> (64 - n)

/-- Effective address of the M form (R210): exact. -/
def mEa (s : State) (a : GReg) (off : BitVec 11) (sz : BitVec 3) : Int := (s.gr a).toNat + off.toInt * szBytes sz
/-- Effective address of the X form (R210). -/
def xEa (s : State) (a : GReg) (sz : BitVec 3) : AddrMode → Int
  | .off i => (s.gr a).toNat + i.toInt
  | .idx c => (s.gr a).toNat + (s.gr c).toNat * szBytes sz
  | .post _ => (s.gr a).toNat
/-- Post-increment of the base (R210, R211). -/
def xPost (s : State) (a : GReg) : AddrMode → State
  | .post i => s.setG a (s.gr a + i.signExtend 64)
  | _ => s

/-- Device offset of R214, exact: ga is unsigned, the offset signed. -/
def devOff (s : State) (a : GReg) : DevOff → Int
  | .imm i => (s.gr a).toNat + i.toInt
  | .lit v => (s.gr a).toNat + v.toInt

/-- The space of a TGT 2 operand (R214). -/
def spaceVal (s : State) : SpaceSel → BitVec 16
  | .imm i => i
  | .reg e => (s.gr e).extractLsb' 0 16

/-- Static mode of the encoding, else RMODE.MODE (R86). -/
def modeOf (s : State) : Option RMode → RMode
  | some m => m
  | none => rmodeMode s.th.rmode

/-- A monitor of a word that stands at address b takes the word's new value when the n bytes at a touch it, once. -/
def Monitor.fire (m : Monitor) (b a n : Nat) (w : Word) : Monitor :=
  if decide (b < a + n ∧ a < b + m.n) && m.hit.isNone then { m with hit := some w } else m

/-- Where a word of the tile's local storage is read: in data SRAM, in the visible half of a window (R113). -/
def Tile.wordAt (t : Tile) (a : Nat) : Nat := if a < 0x10000 then (t.readAddr a).getD a else a
/-- The line belongs to the hidden half of an enabled window (R113). -/
def Tile.hiddenLine (t : Tile) (line : Nat) : Bool :=
  t.r.pwin.toList.any fun w =>
    let lo := if pwinVis w then pwinA w else pwinB w
    pwinEn w && decide (lo ≤ line ∧ line < lo + pwinLines w)

/-- The monitors of tile c that a write of n bytes at a performs on, with the values after it (R222). -/
def State.fired (s : State) (c : Coord) (t : Tile) (a n : Nat) : List Monitor :=
  t.monitors.map fun m => m.fire (t.wordAt m.addr) a n (s.load (tileBase c + t.wordAt m.addr) m.n)

/-- A write of n bytes at local address a of tile c: it fires the monitors of the words it touches (R222), or, in the hidden half of a
window, it is performed at the publish (R139). -/
def State.notify (s : State) (c : Coord) (a n : Nat) : State :=
  let t := s.tileAt c
  if t.hiddenLine (a / 64) then s.setTileAt c { t with hidden := (t.hidden.filter (· != (a, n))) ++ [(a, n)] }
  else if t.monitors.isEmpty then s
  else s.setTileAt c { t with monitors := s.fired c t a n }

/-- A store of n bytes to data SRAM of tile c (R83, R222). -/
def State.tileStore (s : State) (c : Coord) (a n : Nat) (v : Word) : State :=
  (s.storeChecked (tileBase c + a) n v).notify c a n
/-- A whole-line write to data SRAM or the cell store of tile c (R83, R222). -/
def State.tileWriteLine (s : State) (c : Coord) (a : Nat) (l : Line) (d : Desc) : State :=
  (s.writeLine (tileBase c + a) l d).notify c a 64

/-- Merges bits into a line of tile c, with the check bits and POISON that R83 gives. -/
def State.mergeLine (s : State) (c : Coord) (a : Nat) (mask l : Line) (d : Option Desc) (poison : Bool) : State :=
  let k := tileBase c + a
  let full (i : Nat) : Bool := mask.extractLsb' (64 * i) 64 == BitVec.allOnes 64
  let part (i : Nat) : Bool := !full i && mask.extractLsb' (64 * i) 64 != 0
  let isBad (i : Nat) : Bool := s.bad.contains (k / 8 + i)
  let found := poison || (List.range 8).any fun i => part i && isBad i
  let old := s.descAt k
  let new : Desc := match d with
    | some x => if mask = BitVec.allOnes 512 then x else x ||| (old &&& 0x04000000)
    | none => old
  let s1 := (s.storeLine k ((s.loadLine k &&& ~~~mask) ||| (l &&& mask))).setDesc k (if found then new ||| 0x04000000 else new)
  let s2 : State := { s1 with bad := s1.bad.filter fun w => !((List.range 8).any fun i => w == k / 8 + i && full i) }
  (List.range 64).foldl (fun (s : State) i =>
    if mask.extractLsb' (8 * i) 8 != 0 then s.notify c (a + i) 1 else s) s2

/-- The address checks of R211 for an access of n bytes at ea, in their order; `ok` is the range check of R104, R33, R44 and R113
and `k` the access at a checked address. -/
def localAddr (s : State) (ea : Int) (n : Nat) (ok : Nat → Bool) (k : Nat → Out) : Out :=
  if ea < 0 ∨ 0xFFFFF < ea then .next (s.trap Cause.sramBound (BitVec.ofInt 64 ea))
  else
    let a := ea.toNat
    if a % n ≠ 0 then .next (s.trap Cause.misalign (BitVec.ofNat 64 a))
    else if !ok a then .next (s.trap Cause.sramBound (BitVec.ofNat 64 a))
    else k a

/-- The checks of a thread LD, ST or local AMO: WATCH comes after the address checks and before any ECC check (R472). -/
def checkedAddr (s : State) (ea : Int) (n : Nat) (isLoad : Bool) (ok : Nat → Bool) (k : Nat → Out) : Out :=
  localAddr s ea n ok fun a => if s.watched a n isLoad then .next (s.trap Cause.watch (BitVec.ofNat 64 a)) else k a

/-- A thread LD (R211): the value to `k`, or the trap. A write-queue entry that holds the line is waited for (R142). -/
def loading (s : State) (ea : Int) (n : Nat) (k : Word → Out) : Out :=
  checkedAddr s ea n true (fun a => (s.loadAddr a n).isSome) fun a =>
    let b := (s.loadAddr a n).getD a
    if s.tile.wqHolds b then .next s.stall
    else if s.damaged (s.pa b) n then
      .next ((s.markBad (s.pa b) n).trap Cause.ecc (BitVec.ofNat 64 a))
    else k (s.load (s.pa b) n)

/-- A thread ST (R211): the state after the store to `k`, or the trap. -/
def storing (s : State) (ea : Int) (n : Nat) (v : Word) (k : State → Out) : Out :=
  checkedAddr s ea n false (fun a => s.storeOk a n) fun a =>
    if s.tile.wqHolds a then .next s.stall else k (s.tileStore s.foc a n v)

end Sys2Proof.Machine
end

