-- ==== Sys2Proof/Machine/Alu.lean ====
section
/-! DEFINITION. Integer arithmetic: majors 0x01 to 0x08 (R189 to R194). -/

namespace Sys2Proof.Machine

/-- Leading zeros (R190). -/
def clz64 (a : Word) : Nat := 64 - bitLen a.toNat
/-- Trailing zeros, 64 for zero (R190). -/
def ctz64 (a : Word) : Nat := trailZeros 64 a.toNat
/-- Set bits among the low n. -/
def popCount (a : Word) : Nat → Nat
  | 0 => 0
  | n + 1 => popCount a n + if a.getLsbD n then 1 else 0

/-- Saturation to −2^63 .. 2^63 − 1 (R190). -/
def sat64 (t : Int) : Word :=
  BitVec.ofInt 64 (if t < -(2 ^ 63) then -(2 ^ 63) else if 2 ^ 63 - 1 < t then 2 ^ 63 - 1 else t)

/-- The result of an operation of major 0x01 that writes a g register (R190); division by zero is checked before. -/
def alu (op : AluOp) (a b : Word) : Word :=
  let n := b.toNat % 64
  match op with
  | .add => a + b
  | .sub => a - b
  | .and => a &&& b
  | .or => a ||| b
  | .xor => a ^^^ b
  | .andn => a &&& ~~~b
  | .sll => a <<< n
  | .srl => a >>> n
  | .sra => a.sshiftRight n
  | .rol => a.rotateLeft n
  | .ror => a.rotateRight n
  | .min => if a.slt b then a else b
  | .max => if a.slt b then b else a
  | .minu => if a.ult b then a else b
  | .maxu => if a.ult b then b else a
  | .mul => a * b
  | .mulh => BitVec.ofInt 64 (a.toInt * b.toInt / 2 ^ 64)
  | .mulhu => BitVec.ofNat 64 (a.toNat * b.toNat / 2 ^ 64)
  | .mulhsu => BitVec.ofInt 64 (a.toInt * (b.toNat : Int) / 2 ^ 64)
  | .div => a.sdiv b
  | .divu => a / b
  | .rem => a.srem b
  | .remu => a % b
  | .addsat => sat64 (a.toInt + b.toInt)
  | .subsat => sat64 (a.toInt - b.toInt)
  | .clz => BitVec.ofNat 64 (clz64 a)
  | .ctz => BitVec.ofNat 64 (ctz64 a)
  | .popc => BitVec.ofNat 64 (popCount a 64)
  | .sextB => (a.setWidth 8).signExtend 64
  | .sextH => (a.setWidth 16).signExtend 64
  | .sextW => (a.setWidth 32).signExtend 64
  | .zextB => (a.setWidth 8).zeroExtend 64
  | .zextH => (a.setWidth 16).zeroExtend 64
  | .zextW => (a.setWidth 32).zeroExtend 64
  | _ => 0

/-- The comparisons and TST (R190). -/
def aluCond (op : AluOp) (a b : Word) : Bool :=
  match op with
  | .cmpEq => a == b
  | .cmpNe => a != b
  | .cmpLt => a.slt b
  | .cmpGe => !a.slt b
  | .cmpLtu => a.ult b
  | .cmpGeu => !a.ult b
  | _ => a &&& b != 0

def aluDivides (op : AluOp) : Bool := op == .div || op == .divu || op == .rem || op == .remu

/-- gd := op(a, b) in an instruction of n words; DIV_ZERO carries the operands (R191). -/
def aluG (op : AluOp) (d : GReg) (a b : Word) (n : Nat) (s : State) : Out :=
  if aluDivides op && b == 0 then .next (s.trapWith Cause.divZero 0 a b 0 0)
  else .next ((s.setG d (alu op a b)).retire n)

/-- pd := the comparison (R190). -/
def aluP (op : AluOp) (d : PReg) (a b : Word) (n : Nat) (s : State) : Out :=
  .next ((s.setP d (aluCond op a b)).retire n)

/-- ADD (R190). -/
def execAdd (d a b : GReg) (s : State) : Out := aluG .add d (s.gr a) (s.gr b) 1 s
/-- SUB (R190). -/
def execSub (d a b : GReg) (s : State) : Out := aluG .sub d (s.gr a) (s.gr b) 1 s
/-- AND (R190). -/
def execAnd (d a b : GReg) (s : State) : Out := aluG .and d (s.gr a) (s.gr b) 1 s
/-- OR (R190). -/
def execOr (d a b : GReg) (s : State) : Out := aluG .or d (s.gr a) (s.gr b) 1 s
/-- XOR (R190). -/
def execXor (d a b : GReg) (s : State) : Out := aluG .xor d (s.gr a) (s.gr b) 1 s
/-- ANDN (R190). -/
def execAndn (d a b : GReg) (s : State) : Out := aluG .andn d (s.gr a) (s.gr b) 1 s
/-- SLL (R190). -/
def execSll (d a b : GReg) (s : State) : Out := aluG .sll d (s.gr a) (s.gr b) 1 s
/-- SRL (R190). -/
def execSrl (d a b : GReg) (s : State) : Out := aluG .srl d (s.gr a) (s.gr b) 1 s
/-- SRA (R190). -/
def execSra (d a b : GReg) (s : State) : Out := aluG .sra d (s.gr a) (s.gr b) 1 s
/-- ROL (R190). -/
def execRol (d a b : GReg) (s : State) : Out := aluG .rol d (s.gr a) (s.gr b) 1 s
/-- ROR (R190). -/
def execRor (d a b : GReg) (s : State) : Out := aluG .ror d (s.gr a) (s.gr b) 1 s
/-- MIN (R190). -/
def execMin (d a b : GReg) (s : State) : Out := aluG .min d (s.gr a) (s.gr b) 1 s
/-- MAX (R190). -/
def execMax (d a b : GReg) (s : State) : Out := aluG .max d (s.gr a) (s.gr b) 1 s
/-- MINU (R190). -/
def execMinu (d a b : GReg) (s : State) : Out := aluG .minu d (s.gr a) (s.gr b) 1 s
/-- MAXU (R190). -/
def execMaxu (d a b : GReg) (s : State) : Out := aluG .maxu d (s.gr a) (s.gr b) 1 s
/-- MUL (R190). -/
def execMul (d a b : GReg) (s : State) : Out := aluG .mul d (s.gr a) (s.gr b) 1 s
/-- MULH (R190). -/
def execMulh (d a b : GReg) (s : State) : Out := aluG .mulh d (s.gr a) (s.gr b) 1 s
/-- MULHU (R190). -/
def execMulhu (d a b : GReg) (s : State) : Out := aluG .mulhu d (s.gr a) (s.gr b) 1 s
/-- MULHSU (R190). -/
def execMulhsu (d a b : GReg) (s : State) : Out := aluG .mulhsu d (s.gr a) (s.gr b) 1 s
/-- DIV (R190). -/
def execDiv (d a b : GReg) (s : State) : Out := aluG .div d (s.gr a) (s.gr b) 1 s
/-- DIVU (R190). -/
def execDivu (d a b : GReg) (s : State) : Out := aluG .divu d (s.gr a) (s.gr b) 1 s
/-- REM (R190). -/
def execRem (d a b : GReg) (s : State) : Out := aluG .rem d (s.gr a) (s.gr b) 1 s
/-- REMU (R190). -/
def execRemu (d a b : GReg) (s : State) : Out := aluG .remu d (s.gr a) (s.gr b) 1 s
/-- ADDSAT (R190). -/
def execAddsat (d a b : GReg) (s : State) : Out := aluG .addsat d (s.gr a) (s.gr b) 1 s
/-- SUBSAT (R190). -/
def execSubsat (d a b : GReg) (s : State) : Out := aluG .subsat d (s.gr a) (s.gr b) 1 s
/-- CLZ (R190). -/
def execClz (d a : GReg) (s : State) : Out := aluG .clz d (s.gr a) 0 1 s
/-- CTZ (R190). -/
def execCtz (d a : GReg) (s : State) : Out := aluG .ctz d (s.gr a) 0 1 s
/-- POPC (R190). -/
def execPopc (d a : GReg) (s : State) : Out := aluG .popc d (s.gr a) 0 1 s
/-- SEXTB (R190). -/
def execSextB (d a : GReg) (s : State) : Out := aluG .sextB d (s.gr a) 0 1 s
/-- SEXTH (R190). -/
def execSextH (d a : GReg) (s : State) : Out := aluG .sextH d (s.gr a) 0 1 s
/-- SEXTW (R190). -/
def execSextW (d a : GReg) (s : State) : Out := aluG .sextW d (s.gr a) 0 1 s
/-- ZEXTB (R190). -/
def execZextB (d a : GReg) (s : State) : Out := aluG .zextB d (s.gr a) 0 1 s
/-- ZEXTH (R190). -/
def execZextH (d a : GReg) (s : State) : Out := aluG .zextH d (s.gr a) 0 1 s
/-- ZEXTW (R190). -/
def execZextW (d a : GReg) (s : State) : Out := aluG .zextW d (s.gr a) 0 1 s
/-- CMPEQ (R190). -/
def execCmpEq (d : PReg) (a b : GReg) (s : State) : Out := aluP .cmpEq d (s.gr a) (s.gr b) 1 s
/-- CMPNE (R190). -/
def execCmpNe (d : PReg) (a b : GReg) (s : State) : Out := aluP .cmpNe d (s.gr a) (s.gr b) 1 s
/-- CMPLT (R190). -/
def execCmpLt (d : PReg) (a b : GReg) (s : State) : Out := aluP .cmpLt d (s.gr a) (s.gr b) 1 s
/-- CMPGE (R190). -/
def execCmpGe (d : PReg) (a b : GReg) (s : State) : Out := aluP .cmpGe d (s.gr a) (s.gr b) 1 s
/-- CMPLTU (R190). -/
def execCmpLtu (d : PReg) (a b : GReg) (s : State) : Out := aluP .cmpLtu d (s.gr a) (s.gr b) 1 s
/-- CMPGEU (R190). -/
def execCmpGeu (d : PReg) (a b : GReg) (s : State) : Out := aluP .cmpGeu d (s.gr a) (s.gr b) 1 s
/-- TST (R190). -/
def execTst (d : PReg) (a b : GReg) (s : State) : Out := aluP .tst d (s.gr a) (s.gr b) 1 s

/-- SEL (R190): X form only. -/
def execSel (gd : Guard) (d a : GReg) (b : Src2) (c : PReg) (s : State) : Out :=
  guarded gd 3 s fun s => .next ((s.setG d (if s.pr c then s.gr a else src2Val s b)).retire 3)

/-- The X form of major 0x01 (R189). -/
def execIntegerAluXForm (op : AluOp) (gd : Guard) (d a : GReg) (b : Src2) (s : State) : Out :=
  guarded gd 3 s fun s =>
    if op.isCmp then aluP op (d.setWidth 3) (s.gr a) (src2Val s b) 3 s
    else aluG op d (s.gr a) (if op.isUnary then 0 else src2Val s b) 3 s

/-- ADDI (R192). -/
def execAddi (d a : GReg) (i : BitVec 14) (s : State) : Out := aluG .add d (s.gr a) (i.signExtend 64) 1 s
/-- ANDI (R192). -/
def execAndi (d a : GReg) (i : BitVec 14) (s : State) : Out := aluG .and d (s.gr a) (i.signExtend 64) 1 s
/-- ORI (R192). -/
def execOri (d a : GReg) (i : BitVec 14) (s : State) : Out := aluG .or d (s.gr a) (i.signExtend 64) 1 s
/-- XORI (R192). -/
def execXori (d a : GReg) (i : BitVec 14) (s : State) : Out := aluG .xor d (s.gr a) (i.signExtend 64) 1 s
/-- LI (R192). -/
def execLi (d : GReg) (i : BitVec 14) (s : State) : Out := .next ((s.setG d (i.signExtend 64)).retire 1)
/-- ADDI with a literal (R192). -/
def execAddiLiteral (d a : GReg) (v : Word) (s : State) : Out := aluG .add d (s.gr a) v 3 s
/-- ANDI with a literal (R192). -/
def execAndiLiteral (d a : GReg) (v : Word) (s : State) : Out := aluG .and d (s.gr a) v 3 s
/-- ORI with a literal (R192). -/
def execOriLiteral (d a : GReg) (v : Word) (s : State) : Out := aluG .or d (s.gr a) v 3 s
/-- XORI with a literal (R192). -/
def execXoriLiteral (d a : GReg) (v : Word) (s : State) : Out := aluG .xor d (s.gr a) v 3 s
/-- LI with a literal (R192). -/
def execLiLiteral (d : GReg) (v : Word) (s : State) : Out := .next ((s.setG d v).retire 3)
/-- SLLI (R193). -/
def execSlli (d a : GReg) (n : BitVec 6) (s : State) : Out := aluG .sll d (s.gr a) (n.zeroExtend 64) 1 s
/-- SRLI (R193). -/
def execSrli (d a : GReg) (n : BitVec 6) (s : State) : Out := aluG .srl d (s.gr a) (n.zeroExtend 64) 1 s
/-- SRAI (R193). -/
def execSrai (d a : GReg) (n : BitVec 6) (s : State) : Out := aluG .sra d (s.gr a) (n.zeroExtend 64) 1 s
/-- RORI (R193). -/
def execRori (d a : GReg) (n : BitVec 6) (s : State) : Out := aluG .ror d (s.gr a) (n.zeroExtend 64) 1 s
/-- CMPI.EQ (R194). -/
def execCmpiEq (d : PReg) (a : GReg) (k : BitVec 11) (s : State) : Out := aluP .cmpEq d (s.gr a) (k.signExtend 64) 1 s
/-- CMPI.NE (R194). -/
def execCmpiNe (d : PReg) (a : GReg) (k : BitVec 11) (s : State) : Out := aluP .cmpNe d (s.gr a) (k.signExtend 64) 1 s
/-- CMPI.LT (R194). -/
def execCmpiLt (d : PReg) (a : GReg) (k : BitVec 11) (s : State) : Out := aluP .cmpLt d (s.gr a) (k.signExtend 64) 1 s
/-- CMPI.GE (R194). -/
def execCmpiGe (d : PReg) (a : GReg) (k : BitVec 11) (s : State) : Out := aluP .cmpGe d (s.gr a) (k.signExtend 64) 1 s
/-- CMPI.LTU (R194). -/
def execCmpiLtu (d : PReg) (a : GReg) (k : BitVec 11) (s : State) : Out := aluP .cmpLtu d (s.gr a) (k.signExtend 64) 1 s
/-- CMPI.GEU (R194). -/
def execCmpiGeu (d : PReg) (a : GReg) (k : BitVec 11) (s : State) : Out := aluP .cmpGeu d (s.gr a) (k.signExtend 64) 1 s
/-- CMPI.TST (R194). -/
def execCmpiTst (d : PReg) (a : GReg) (k : BitVec 11) (s : State) : Out := aluP .tst d (s.gr a) (k.signExtend 64) 1 s

end Sys2Proof.Machine
end

