-- ==== Sys2Proof/Machine/Csr.lean ====
section
/-! DEFINITION. Control registers (R212, R213): the map, reads, the checks of a write and its effect; the PWIN write of R112 and the VCW
write of R38. The management plane (R385) uses the same map. -/

namespace Sys2Proof.Machine

/-- Writable, write-one-to-clear and read-only named bits of a register; every other bit is reserved (R7, R213). -/
structure CsrInfo where
  rw : Word
  w1c : Word
  ro : Word
  deriving DecidableEq, Repr, Inhabited

def allBits : Word := BitVec.allOnes 64

/-- The register map of 0x000 to 0x1FF; none for an unassigned number. -/
def csrInfo (n : Nat) : Option CsrInfo :=
  if n = 0x000 then some ⟨0xFFFFFFFF00001F07, 0, 0⟩
  else if n = 0x001 then some ⟨0x1F3F, 0, 0⟩
  else if n = 0x002 then some ⟨1, 0, 0⟩
  else if n = 0x003 then some ⟨allBits, 0, 0⟩
  else if n = 0x004 then some ⟨0xFFF0, 0, 0⟩
  else if n = 0x005 then some ⟨0x1FFF8, 0, 0⟩
  else if n = 0x006 then some ⟨0x1FFF8, 0, 0⟩
  else if n = 0x007 then some ⟨0xFFF8, 0, 0⟩
  else if 0x008 ≤ n ∧ n ≤ 0x00C then some ⟨0, 0, allBits⟩
  else if n = 0x100 ∨ n = 0x101 ∨ (0x103 ≤ n ∧ n ≤ 0x106) then some ⟨0, 0, allBits⟩
  else if n = 0x107 then some ⟨allBits, 0, 0⟩
  else if n = 0x108 then some ⟨0xFFFFFFFF, 0, 0⟩
  else if n = 0x109 then some ⟨0x7FFFFFFFFFF, 0, 0⟩
  else if n = 0x10A then some ⟨3, 0, 0⟩
  else if 0x10C ≤ n ∧ n ≤ 0x10F then some ⟨0x800000003FFFFFFF, 0, 0x4000000000000000⟩
  else if 0x120 ≤ n ∧ n ≤ 0x124 then some ⟨0, 0, allBits⟩
  else if n = 0x125 then some ⟨0x9FFFFFFFFFFFFFFF, 0x4000000000000000, 0⟩
  else if n = 0x130 then some ⟨0xFFFFFFFF, 0, 0⟩
  else if 0x131 ≤ n ∧ n ≤ 0x134 then some ⟨allBits, 0, 0⟩
  else none

/-- Assigned numbers of 0x200 to 0x3FF. -/
def isPrivCsr (n : Nat) : Bool :=
  decide ((0x200 ≤ n ∧ n ≤ 0x20A) ∨ n = 0x20C ∨ (0x210 ≤ n ∧ n ≤ 0x227) ∨ (0x240 ≤ n ∧ n ≤ 0x24F))

/-- Values that a map or rule forbids in an RW field (R86, R203, R278, R335, R245, R288). -/
def csrValueOk (n : Nat) (w : Word) : Bool :=
  if n = 0x000 then decide ((w.extractLsb' 0 3).toNat ≤ 5)
  else if n = 0x005 then decide (w.toNat ≤ 0x10000)
  else if n = 0x109 then decide ((w.extractLsb' 22 4).toNat ≤ 10 ∧ (w.extractLsb' 26 4).toNat ≤ 10 ∧ (w.extractLsb' 30 10).toNat ≤ 1020)
  else if n = 0x10A then w.extractLsb' 0 2 != 3
  else if n = 0x130 then
    decide ((w.extractLsb' 0 8).toNat ≤ 12 ∧ (w.extractLsb' 8 8).toNat ≤ 12 ∧ (w.extractLsb' 16 8).toNat ≤ 12 ∧ (w.extractLsb' 24 8).toNat ≤ 12)
  else true

/-- Cells held by packets of channel c (R135). -/
def Tile.used (t : Tile) (c : Nat) : Nat := ((t.runs.filter fun r => r.vc.toNat == c).map (·.n)).sum

def getV4 (v : Vector Word 4) (i : Nat) : Word := v.toList.getD i 0
def getV16 (v : Vector Word 16) (i : Nat) : Word := v.toList.getD i 0
def setV4 (v : Vector Word 4) (i : Nat) (w : Word) : Vector Word 4 := v.setIfInBounds i w
def setV16 (v : Vector Word 16) (i : Nat) (w : Word) : Vector Word 16 := v.setIfInBounds i w

def outcWord (o : Outc) : Word := BitVec.ofNat 64 (o.tops * 2 ^ 48 + o.copies * 2 ^ 32 + o.stores * 2 ^ 16 + o.loads)
def loopWord (l : LoopSt) : Word := BitVec.ofBool l.active ++ (0 : BitVec 7) ++ l.last ++ l.start ++ l.count

/-- Per-thread registers 0x000 to 0x00C. -/
def Thread.csr (t : Thread) (i : Tid) (n : Nat) : Option Word :=
  match n with
  | 0x000 => some t.rmode
  | 0x001 => some t.fflags
  | 0x002 => some (if t.tcm then 1 else 0)
  | 0x003 => some t.srseq
  | 0x004 => some t.slim
  | 0x005 => some t.rsp
  | 0x006 => some t.rsbase
  | 0x007 => some t.rslim
  | 0x008 => some (BitVec.ofNat 64 t.rstore.length)
  | 0x009 => some (BitVec.ofNat 64 i.val)
  | 0x00A => some t.entry
  | 0x00B => some (outcWord t.outc)
  | 0x00C => some (loopWord t.loop)
  | _ => none

/-- Tile registers, privileged ones included. -/
def Tile.csr (w : Word) (t : Tile) (c : Coord) (n : Nat) : Option Word :=
  if n = 0x100 then some t.r.tags
  else if n = 0x101 then some (w + t.lag)
  else if n = 0x103 then some t.r.name
  else if n = 0x104 then some (coordReg c t.prow)
  else if n = 0x105 then some t.r.hall
  else if n = 0x106 then some t.r.treepool
  else if n = 0x107 then some t.r.treecfga
  else if n = 0x108 then some t.r.treecfgb
  else if n = 0x109 then some t.r.treereg
  else if n = 0x10A then some t.r.cellmode
  else if 0x10C ≤ n ∧ n ≤ 0x10F then some (getV4 t.r.pwin (n - 0x10C))
  else if 0x120 ≤ n ∧ n ≤ 0x123 then some (getV4 t.r.parent (n - 0x120))
  else if n = 0x124 then some t.r.kitew
  else if n = 0x125 then some t.r.timer
  else if n = 0x130 then some t.r.perfsel
  else if 0x131 ≤ n ∧ n ≤ 0x134 then some (getV4 t.r.perf (n - 0x131))
  else if n = 0x200 then some t.pr.entrybase
  else if n = 0x201 then some t.pr.budget
  else if n = 0x202 then some t.pr.vcw
  else if n = 0x203 then some t.pr.hallmap
  else if n = 0x204 then some t.pr.spaces
  else if n = 0x205 then some t.pr.trapdest
  else if n = 0x206 then some t.pr.pctx
  else if n = 0x207 then some t.pr.balloon
  else if n = 0x208 then some t.pr.balptr
  else if n = 0x209 then some t.pr.toke
  else if n = 0x20A then some t.pr.tokm
  else if n = 0x20C then some t.pr.slice
  else if 0x210 ≤ n ∧ n ≤ 0x21F then some (getV16 t.pr.qlim (n - 0x210) ||| BitVec.ofNat 64 (t.used (n - 0x210) * 2 ^ 32))
  else if 0x220 ≤ n ∧ n ≤ 0x223 then some (getV4 t.pr.bkpt (n - 0x220))
  else if 0x224 ≤ n ∧ n ≤ 0x227 then some (getV4 t.pr.watch (n - 0x224))
  else if 0x240 ≤ n ∧ n ≤ 0x24F then some (getV16 t.pr.rtex (n - 0x240))
  else none

/-- What thread i of tile c reads (R212); none for an unassigned number. -/
def readCsr (w : Word) (t : Tile) (c : Coord) (i : Tid) (n : Nat) : Option Word :=
  if n < 0x100 then (t.th i).csr i n else t.csr w c n

/-- Stores a per-thread register whose value has been checked. -/
def Thread.putCsr (t : Thread) (n : Nat) (w : Word) : Thread :=
  match n with
  | 0x000 => { t with rmode := w }
  | 0x001 => { t with fflags := w }
  | 0x002 => { t with tcm := w.getLsbD 0 }
  | 0x003 => { t with srseq := w }
  | 0x004 => { t with slim := w }
  | 0x005 => { t with rsp := w }
  | 0x006 => { t with rsbase := w }
  | 0x007 => { t with rslim := w }
  | _ => t

/-- Stores a tile register of 0x100 to 0x1FF whose value has been checked. -/
def TileRegs.put (r : TileRegs) (n : Nat) (w : Word) : TileRegs :=
  if n = 0x106 then { r with treepool := w }
  else if n = 0x107 then { r with treecfga := w }
  else if n = 0x108 then { r with treecfgb := w }
  else if n = 0x109 then { r with treereg := w }
  else if n = 0x10A then { r with cellmode := w }
  else if 0x10C ≤ n ∧ n ≤ 0x10F then { r with pwin := setV4 r.pwin (n - 0x10C) w }
  else if n = 0x125 then { r with timer := w }
  else if n = 0x130 then { r with perfsel := w }
  else if 0x131 ≤ n ∧ n ≤ 0x134 then { r with perf := setV4 r.perf (n - 0x131) w }
  else r

/-- Line ranges [a, a + n) and [b, b + m) overlap; an empty one overlaps nothing. -/
def overlap (a n b m : Nat) : Bool := decide (0 < n ∧ 0 < m ∧ a < b + m ∧ b < a + n)

/-- The checks of R112 on a PWIN write with EN = 1; the reserved bits are checked with R213. -/
def pwinOk (t : Tile) (i : Nat) (w : Word) : Bool :=
  let a := pwinA w; let b := pwinB w; let n := pwinLines w
  let tableLo := t.entryBase / 64
  let tableN := (8 * t.entryCount + 63) / 64
  !pwinEn w ||
    (n != 0 && decide (a + n ≤ 1024 ∧ b + n ≤ 1024) && !overlap a n b n && !overlap a n tableLo tableN && !overlap b n tableLo tableN &&
      (List.range 4).all fun j =>
        let o := getV4 t.r.pwin j
        j == i || !pwinEn o || !(overlap a n (pwinA o) (pwinLines o) || overlap a n (pwinB o) (pwinLines o) ||
          overlap b n (pwinA o) (pwinLines o) || overlap b n (pwinB o) (pwinLines o)))

/-- The PWIN write itself (R112): VIS := 0 when the window is enabled. -/
def Tile.pwinPut (t : Tile) (i : Nat) (w : Word) : Tile :=
  let old := getV4 t.r.pwin i
  let vis : Word := if pwinEn w then 0 else old &&& 0x4000000000000000
  { t with r := { t.r with pwin := setV4 t.r.pwin i ((w &&& 0xBFFFFFFFFFFFFFFF) ||| vis) } }

/-- The value a CSR write leaves, or none when R213 step 3 refuses it. `w` are the bits written, `mask` where they are written. -/
def csrNext (n : Nat) (f : CsrInfo) (old w mask : Word) : Option Word :=
  if f.rw ||| f.w1c = 0 then some old
  else if w &&& mask &&& ~~~(f.rw ||| f.w1c ||| f.ro) != 0 then none
  else
    let kept := old &&& ~~~(f.rw &&& mask) &&& ~~~(f.w1c &&& mask &&& w)
    let v := kept ||| (w &&& f.rw &&& mask)
    if csrValueOk n v then some v else none

/-- A CSR write by the focus thread: gd := old, register := bits `w` where `mask` (R212, R213). -/
def csrWrite (d : GReg) (n : Nat) (w mask : Word) (s : State) : Out :=
  match readCsr s.wtime s.tile s.foc s.tid n, csrInfo n with
  | some old, some f =>
    match csrNext n f old w mask with
    | none => .next s.trapIllegal
    | some v =>
      if f.rw ||| f.w1c = 0 then .next ((s.setG d old).retire 1)
      else if n < 0x100 then
        let s1 := s.mapTh (·.putCsr n v)
        let s2 := if n = 0x001 then s1.feedUnions s.foc (v.extractLsb' 0 6 &&& ~~~old.extractLsb' 0 6) else s1
        .next ((s2.setG d old).retire 1)
      else if 0x10C ≤ n ∧ n ≤ 0x10F then
        if !pwinOk s.tile (n - 0x10C) v then .next s.trapIllegal
        else whenReady (s.tile.ops.isEmpty && s.tile.copies.isEmpty) s fun s =>
          .next (((s.mapTile (·.pwinPut (n - 0x10C) v)).setG d old).retire 1)
      else .next (((s.mapTile fun t => { t with r := t.r.put n v }).setG d old).retire 1)
  | some _, none => .next (s.trap Cause.priv 0)
  | none, _ => .next s.trapIllegal

/-- CSRR (R212). -/
def execCsrr (d : GReg) (csr : BitVec 12) (s : State) : Out :=
  match readCsr s.wtime s.tile s.foc s.tid csr.toNat with
  | some w => .next ((s.setG d w).retire 1)
  | none => .next s.trapIllegal
/-- CSRW (R212). -/
def execCsrw (d a : GReg) (csr : BitVec 12) (s : State) : Out := csrWrite d csr.toNat (s.gr a) allBits s
/-- CSRS (R212): with a = 0 it writes nothing. -/
def execCsrs (d a : GReg) (csr : BitVec 12) (s : State) : Out :=
  if a = 0 then execCsrr d csr s else csrWrite d csr.toNat (s.gr a) (s.gr a) s
/-- CSRC (R212): with a = 0 it writes nothing. -/
def execCsrc (d a : GReg) (csr : BitVec 12) (s : State) : Out :=
  if a = 0 then execCsrr d csr s else csrWrite d csr.toNat 0 (s.gr a) s

/-- PWIN_WRITE (R112): a checked write reaches its window once every engine operation and copy of the tile is complete. -/
def execPwinWrite (w : BitVec 2) (v : Word) (s : State) : Out :=
  if s.tile.ops.isEmpty && s.tile.copies.isEmpty && pwinOk s.tile w.toNat v then .next (s.mapTile (·.pwinPut w.toNat v)) else .next s

/-- A VCW write refills every credit and empties the record of dispatches (R38). -/
def Tile.vcwPut (t : Tile) (v : BitVec 32) : Tile :=
  { t with pr := { t.pr with vcw := v.zeroExtend 64 },
           credits := Vector.ofFn fun i => (v.extractLsb' (4 * i.val) 4).toNat, window := [], lastFromRing := false }
/-- VCW_WRITE (R38). -/
def execVcwWrite (v : BitVec 32) (s : State) : Out := .next (s.mapTile (·.vcwPut v))

end Sys2Proof.Machine
end

