-- ==== Sys2Proof/Machine/Home.lean ====
section
/-! DEFINITION. A tile's memory as its home keeps it (R137): the bank array together with the write queue, in which an accepted
operation is performed before it is applied (R139, R153, R474); atomics (R219), and codelet records (R34, R46 to R49). -/

namespace Sys2Proof.Machine

/-! ### Atomics and the queue -/

/-- Low 8·n bits of a word. -/
def lowBytes (n : Nat) (w : Word) : Word := if n < 8 then w &&& BitVec.ofNat 64 (2 ^ (8 * n) - 1) else w

/-- A word of n bytes read as signed. -/
def signedBytes (n : Nat) (w : Word) : Int := if n = 4 then (w.setWidth 32).toInt else w.toInt

/-- The new value of the word and the flags (R219). -/
def amoApply (op : AmoOp) (n : Nat) (m s c : Word) : Word × Flags :=
  let F : FpFmt := if n = 4 then .fp32 else .fp64
  let s := lowBytes n s
  let c := lowBytes n c
  let x := fpDecode F false m.toNat
  let y := fpDecode F false s.toNat
  let pick (isMax : Bool) : Word × Flags :=
    let k := fpMinMaxPick isMax x y
    (if k = 0 then m else if k = 1 then s else BitVec.ofNat 64 (fpNaN F), fpMinMaxFlags x y)
  match op with
  | .add => (lowBytes n (m + s), 0)
  | .and => (m &&& s, 0)
  | .or => (m ||| s, 0)
  | .xor => (m ^^^ s, 0)
  | .swap => (s, 0)
  | .cas => (if m = c then s else m, 0)
  | .min => (if signedBytes n s < signedBytes n m then s else m, 0)
  | .max => (if signedBytes n m < signedBytes n s then s else m, 0)
  | .minu => (if s.toNat < m.toNat then s else m, 0)
  | .maxu => (if m.toNat < s.toNat then s else m, 0)
  | .fadd =>
    let (v, f) := fpAddV false x y
    let (w, g) := fpRound F false rneMode v
    (BitVec.ofNat 64 w, f ||| g)
  | .fmin => pick false
  | .fmax => pick true

/-- An AMO on the word at physical address k (R219): memory after it, with the old value and the flags; none where the word is damaged
and so left unchanged (R220). -/
def State.amoAt (s : State) (k : Nat) (op : AmoOp) (n : Nat) (x y : Word) : Option (Word × Word × Flags) :=
  if s.damaged k n then none
  else
    let m := s.load k n
    let (v, fl) := amoApply op n m x y
    some (m, v, fl)

/-- The write queue can take an operation on the line at once (R474). -/
def Tile.wqFree (t : Tile) (a : Nat) : Bool := t.wqHolds a || decide (t.wq.length < 16)

/-- Adds an operation to the entry holding its line, else to a free entry (R153). -/
def wqMerge (wq : List WEntry) (line : Nat) (o : WOp) : List WEntry :=
  match wq with
  | [] => [⟨line, [o], false⟩]
  | e :: r => if e.line = line then { e with ops := e.ops ++ [o] } :: r else e :: wqMerge r line o

/-- A store of n bytes that the tile's own hardware makes: behind the operations of an entry that holds the line (R140), else in the
array. -/
def State.homeStore (s : State) (c : Coord) (a n : Nat) (v : Word) : State :=
  let t := s.tileAt c
  if t.wqHolds a then s.setTileAt c { t with wq := wqMerge t.wq (a / 64) (.store a n v) } else s.tileStore c a n v
/-- A whole-line write by an engine or a copy, in the same order (R140). -/
def State.homeLine (s : State) (c : Coord) (a : Nat) (l : Line) (d : Desc) : State :=
  let t := s.tileAt c
  if t.wqHolds a then s.setTileAt c { t with wq := wqMerge t.wq (a / 64) (.line a l d) } else s.tileWriteLine c a l d
/-- A masked write of an engine, in the same order. -/
def State.homeMerge (s : State) (c : Coord) (a : Nat) (mask l : Line) (d : Option Desc) (poison : Bool) : State :=
  let t := s.tileAt c
  if t.wqHolds a then s.setTileAt c { t with wq := wqMerge t.wq (a / 64) (.merge a mask l d poison) } else s.mergeLine c a mask l d poison

/-! ### Entries -/

/-- The eight bytes of entry e of tile c (R34). -/
def State.entryAt (s : State) (c : Coord) (e : Nat) : Word := s.load (tileBase c + (s.tileAt c).entryBase + 8 * e) 8
/-- A read of entry e of tile c that finds it uncorrectable sets its line's POISON (R83). -/
def State.markEntry (s : State) (c : Coord) (e : Nat) : State := s.markBad (tileBase c + (s.tileAt c).entryBase + 8 * e) 8
def entryEn (w : Word) : Bool := w.getLsbD 32
def entrySerial (w : Word) : Bool := w.getLsbD 33
def entryXhall (w : Word) : Bool := w.getLsbD 34
def entryVc (w : Word) (c : Nat) : Bool := w.getLsbD (48 + c)
def entryIaddr (w : Word) : BitVec 12 := w.extractLsb' 0 12

/-- Entry e admits channel c (R35: index, EN and VCMASK). -/
def State.entryOk (s : State) (c : Coord) (e vc : Nat) : Bool :=
  decide (e < (s.tileAt c).entryCount) && entryEn (s.entryAt c e) && entryVc (s.entryAt c e) vc

/-! ### Records -/

def recCount (w : Word) : Nat := (w.extractLsb' 0 16).toNat
def recEntry (w : Word) : Nat := (w.extractLsb' 16 10).toNat
def recQd (w : Word) : Bool := w.getLsbD 26
/-- Word 0 with COUNT replaced, and with its bit QD, OVF or RAN (R46). -/
def recCountTo (w : Word) (n : Nat) : Word := (w &&& 0xFFFFFFFFFFFF0000) ||| BitVec.ofNat 64 (n % 65536)
def recBit (b : Nat) (v : Bool) (w : Word) : Word := if v then w ||| ((1 : Word) <<< b) else w &&& ~~~((1 : Word) <<< b)
def recQdTo (v : Bool) (w : Word) : Word := recBit 26 v w
def recOvfTo (v : Bool) (w : Word) : Word := recBit 27 v w
def recRanTo (v : Bool) (w : Word) : Word := recBit 28 v w

/-- Queues a record whose count reached zero: onto the ring, or at the tail of the overflow chain (R47). -/
def State.queueRecord (s : State) (c : Coord) (a : Nat) (w : Word) : State :=
  let t := s.tileAt c
  let w1 := recRanTo false (recQdTo true (recCountTo w 0))
  if t.ring.length < 64 ∧ t.chain.isEmpty then
    (s.tileStore c a 8 w1).mapTileAt c fun t => { t with ring := t.ring ++ [a] }
  else
    let s1 := s.tileStore c a 8 (recOvfTo true (recCountTo w1 0xFFFF))
    let s2 := match t.chain.getLast? with
      | some b => s1.homeStore c b 2 (BitVec.ofNat 64 (a / 16))
      | none => s1
    s2.mapTileAt c fun t => { t with chain := t.chain ++ [a] }

/-- A late decrement is dropped and counted (R47). -/
def Tile.lateDecr (t : Tile) : Tile := { t.count 0x07 1 with late := t.late + 1 }

/-- A decrement of d arriving at tile c for the record at addr (R47, R83). -/
def State.decrement (s : State) (c : Coord) (addr : Word) (d : Nat) : State :=
  let t := s.tileAt c
  let a := addr.toNat
  if a % 16 ≠ 0 then s.setTileAt c (t.report s.wtime c Cause.misalign addr 0 0)
  else if 65536 ≤ a ∨ t.inEntries a 16 then s.setTileAt c (t.report s.wtime c Cause.sramBound addr 0 0)
  else if s.damaged (tileBase c + a) 8 then (s.poison (tileBase c + a)).setTileAt c (t.report s.wtime c Cause.ecc addr 0 0)
  else
    let w := s.load (tileBase c + a) 8
    if recQd w ∨ recCount w = 0 then s.setTileAt c t.lateDecr
    else if d < recCount w then s.tileStore c a 8 (w - BitVec.ofNat 64 d)
    else s.queueRecord c a w

/-! ### The entry's copy (R153) -/

/-- The append of a leaf record (R346): the state after it and the index, or the refusal's cause. -/
def State.leafAppend (s : State) (c : Coord) (b : Nat) (w0 w1 : Word) : State × Except (BitVec 8) Word :=
  let k := tileBase c + b
  if s.damaged k 64 then (s.markBad k 64, .error Cause.ecc)
  else
    let i := (s.load (k + 16) 4).toNat
    let cap := (s.load (k + 20) 2).toNat
    let a := b + 64 + 16 * i
    if cap ≤ i ∨ 0x10000 < a + 16 then (s, .error Cause.treeState)
    else
      let s1 := ((s.homeStore c a 8 w0).homeStore c (a + 8) 8 w1).tileStore c (b + 16) 4 (BitVec.ofNat 64 (i + 1))
      (s1.decrement c (BitVec.ofNat 64 b) 1, .ok (BitVec.ofNat 64 i))

/-- What an operation of the queue does to memory. -/
def State.applyMem (s : State) (c : Coord) : WOp → State
  | .store a n v => s.tileStore c a n v
  | .line a l d => s.tileWriteLine c a l d
  | .merge a mask l d p => s.mergeLine c a mask l d p
  | .amo op a n x y _ _ _ => match s.amoAt (tileBase c + a) op n x y with
    | some (_, v, _) => s.tileStore c a n v
    | none => s
  | .decr addr d _ _ => s.decrement c addr d
  | .leaf b w0 w1 _ => (s.leafAppend c b w0 w1).1

/-- The state whose memory shows the line of local address a as its home has it: the array's, or the entry's copy with every accepted
operation applied in arrival order (R140, R153). -/
def State.seen (s : State) (c : Coord) (a : Nat) : State :=
  match (s.tileAt c).wq.find? (·.line == a / 64) with
  | none => s
  | some e => e.ops.foldl (fun (s : State) o => s.applyMem c o)
      (s.mapTileAt c fun t => { t with wq := t.wq.filter (·.line != a / 64) })

/-- The state whose memory shows every line of tile c as its home has it: what an engine operation reads (R140, R147). -/
def State.settled (s : State) (c : Coord) : State := (s.tileAt c).wq.foldl (fun (x : State) e => x.seen c (64 * e.line)) s

/-- A line with its descriptor, POISON set when a word of it is uncorrectable (R82, R83). -/
def State.takeLine (s : State) (k : Nat) : Line × Desc :=
  (s.loadLine k, if s.isBad k 64 then s.descAt k ||| 0x04000000 else s.descAt k)

/-- A read of n bytes at local address a of tile c, as its home has them, that finds an uncorrectable word sets POISON (R83, R153). -/
def State.markSeen (s : State) (c : Coord) (a n : Nat) : State :=
  if (s.seen c a).isBad (tileBase c + a) n then s.poison (tileBase c + a) else s

/-- Word 0 of the record at a, and its replacement by the tile's own hardware, in the order of acceptance. -/
def State.recAt (s : State) (c : Coord) (a : Nat) : Word := (s.seen c a).load (tileBase c + a) 8

/-- The head of the overflow chain moves into the ring's tail, with OVF and COUNT cleared (R48). -/
def State.chainAdvance (s : State) (c : Coord) : State :=
  match (s.tileAt c).chain with
  | a :: rest =>
    (s.homeStore c a 8 (recOvfTo false (recCountTo (s.recAt c a) 0))).mapTileAt c fun t => { t with ring := t.ring ++ [a], chain := rest }
  | [] => s

end Sys2Proof.Machine
end

