-- ==== Sys2Proof/Machine/Request.lean ====
section
/-! DEFINITION. Requests beyond the thread's own bank slots: device addresses and their checks (R116, R214), LDG, STG, LDX, STX
(R217), atomics (R218 to R220) and WAITV (R221, R222), as they issue. -/

namespace Sys2Proof.Machine

/-! ### The injection port -/

/-- A message of thread i of tile c enters the injection port (R229). -/
def State.push (s : State) (c : Coord) (i : Inj) : State := s.mapTileAt c fun t => { t with inj := t.inj ++ [i] }

/-- A request of a copy, which the copy engine makes for its thread (R232). -/
def Msg.isCopy : Msg → Bool
  | .req r => match r.kind with
    | .readLines _ | .writeLine _ _ => true
    | _ => false
  | _ => false
/-- The injection port takes a message of the focus thread: it holds none of the thread's own that has yet to leave (R123, R229). -/
def State.portFree (s : State) : Bool := !(s.tile.inj.any fun i => i.tid == some s.tid && !i.msg.isCopy)
/-- A message of the thread at the port is the effect of its instruction, which ends as the message enters (R225, R240). -/
def Tile.offering (t : Tile) (i : Tid) : Bool := t.inj.any fun x => x.tid == some i && x.entered != .no
/-- The focus thread stays in RUN until its message has entered (R225, R240). -/
def State.offered (s : State) : Bool := s.tile.offering s.tid

/-! ### Device addresses -/

/-- The coordinate and local address of a space-0 offset (R116). -/
def offCoord (off : Word) : Coord := ⟨(off.extractLsb' 31 11).toNat, (off.extractLsb' 20 11).toNat⟩
def offLocal (off : Word) : Nat := (off.extractLsb' 0 20).toNat
/-- The space-0 offset of a tile's local address (R116). -/
def spaceOff (c : Coord) (a : Nat) : Word := BitVec.ofNat 64 (c.x * 2 ^ 31 + c.y * 2 ^ 20 + a)

/-- A translated space that SPACES lists (R402). -/
def Tile.listed (t : Tile) (sp : BitVec 16) : Bool :=
  let base := (t.pr.spaces.extractLsb' 0 15).toNat
  let i := sp.toNat - base
  decide (1 ≤ sp.toNat ∧ sp.toNat ≤ 0x7FFF ∧ base ≤ sp.toNat ∧ i ≤ 7) && t.pr.spaces.getLsbD (16 + i)

/-- Local addresses a .. a + n − 1 lie in one range of R103. -/
def inOneRange (a n : Nat) : Bool :=
  decide (a + n ≤ 0x10000 ∨ (0x10000 ≤ a ∧ a + n ≤ 0x14000) ∨ (0x20000 ≤ a ∧ a + n ≤ 0x22000) ∨ (0x30000 ≤ a ∧ a + n ≤ 0x34000))

/-- The first failing check of R116 for n bytes at (space, off); `tgt2` marks a translated target, which space 0 is not (R214).
`align` is the alignment asked for in space 0. -/
def deviceFault (t : Tile) (tgt2 : Bool) (sp : BitVec 16) (off : Int) (n align : Nat) : Option (BitVec 8) :=
  if (if sp = 0 then tgt2 else !t.listed sp) then some Cause.noncanon
  else if off < 0 ∨ (2 ^ 64 : Int) < off + n ∨ (2 ^ 64 : Int) ≤ off then some Cause.offsetWrap
  else if sp ≠ 0 then none
  else
    let o := off.toNat
    if 2 ^ 42 ≤ o then some Cause.noncanon
    else if o % align ≠ 0 then some Cause.misalign
    else if n ≠ 0 ∧ !inOneRange (o % 2 ^ 20) n then some Cause.sramBound
    else none

/-- The entry port of a granule (R409). -/
def entryPort (sp : BitVec 16) (off : Word) : Nat := (gen 0 (sp.zeroExtend 32) 3 (off >>> 19)).toNat % 96

/-- Where a request goes: the tile of a space-0 offset, or the granule's entry port (R217, R409). -/
def reqDest (sp : BitVec 16) (off : Word) : Dest := if sp = 0 then .tile (offCoord off) else .port (entryPort sp off)
def reqVc (sp : BitVec 16) : BitVec 4 := if sp = 0 then 8 else 10

/-- A thread's request leaves: it is numbered, remembered until its answer, and enters the injection port (R217). -/
def State.request (s : State) (kind : ReqKind) (pk : PendKind) (sp : BitVec 16) (off : Word) : State :=
  let who : Who := ⟨s.foc, s.tid, s.nextId, none⟩
  let r : Req := ⟨who, kind, sp, off, s.tile.hid, s.tile.sys, none⟩
  let p : Pend := ⟨s.nextId, pk, sp, off, s.th.pc12, false, false, false⟩
  let s1 := { s with nextId := s.nextId + 1 }
  (s1.mapTh fun t => { t with pends := t.pends ++ [p] }).push s.foc ⟨some s.tid, reqVc sp, .dest (reqDest sp off), .req r, .no⟩

/-- LOADS or STORES rises by one; a load marks its destination pending (R55, R217). -/
def Thread.addLoad (t : Thread) (d : GReg) : Thread :=
  { t with outc := { t.outc with loads := t.outc.loads + 1 },
           pending := if d = 0 then t.pending else t.pending ||| ((1 : BitVec 32) <<< d.toNat) }
def Thread.addStore (t : Thread) : Thread := { t with outc := { t.outc with stores := t.outc.stores + 1 } }

/-- Forms and checks a device address, then continues with the offset (R214, R116). -/
def deviceAccess (s : State) (tgt2 : Bool) (sp : BitVec 16) (off : Int) (n : Nat) (k : Word → Out) : Out :=
  match deviceFault s.tile tgt2 sp off n n with
  | some c => .next (s.trap c (BitVec.ofInt 64 off))
  | none => k (BitVec.ofInt 64 off)

/-- LDG and LDX (R217). -/
def remoteLoad (x : DevArgs) (tgt2 : Bool) (sp : State → BitVec 16) (s : State) : Out :=
  let n := devOffWords x.off
  guarded x.guard n s fun s =>
    deviceAccess s tgt2 (sp s) (devOff s x.a x.off) (szBytes x.sz) fun off =>
      whenReady (decide (s.th.outc.loads < 16) && s.portFree) s fun s =>
        .next (((s.request (.load (szBytes x.sz)) (.load x.d x.sz) (sp s) off).mapTh (·.addLoad x.d)).retire n)

/-- STG and STX (R217): the low bytes of gd. -/
def remoteStore (x : DevArgs) (tgt2 : Bool) (sp : State → BitVec 16) (s : State) : Out :=
  let n := devOffWords x.off
  guarded x.guard n s fun s =>
    deviceAccess s tgt2 (sp s) (devOff s x.a x.off) (szBytes x.sz) fun off =>
      whenReady (decide (s.th.outc.stores < 16) && s.portFree) s fun s =>
        .next (((s.request (.store (szBytes x.sz) (s.gr x.d)) .store (sp s) off).mapTh (·.addStore)).retire n)

/-- LDG (R216, R217). -/
def execLdg (x : DevArgs) (s : State) : Out := remoteLoad x false (fun _ => 0) s
/-- STG (R216, R217). -/
def execStg (x : DevArgs) (s : State) : Out := remoteStore x false (fun _ => 0) s
/-- LDX (R216, R217). -/
def execLdx (x : DevArgs) (sp : SpaceSel) (s : State) : Out := remoteLoad x true (fun s => spaceVal s sp) s
/-- STX (R216, R217). -/
def execStx (x : DevArgs) (sp : SpaceSel) (s : State) : Out := remoteStore x true (fun s => spaceVal s sp) s

/-! ### Atomics -/

/-- The head flit stands in the crossing buffer of a link between fields (R443). -/
def Flight.buffered (f : Flight) : Bool := f.trail.head?.any fun h => decide (8 ≤ h.dir)

/-- The head flit has been received where it stands. -/
def Flight.present (f : Flight) : Bool :=
  match f.trail with
  | [] => true
  | h :: _ => decide (0 < h.n ∧ h.dir < 8)

/-- The message waits at the local port of tile c. -/
def Flight.atTile (f : Flight) (c : Coord) : Bool := f.present && f.pos == c && f.dest == .tile c

/-- Its last flit has been received where its head stands (R474). -/
def Flight.whole (f : Flight) : Bool := f.left == 0 && decide (f.trail.length ≤ 1)

/-- The message that arrived first among those of a list. -/
def firstOf (l : List Flight) : Option Flight :=
  l.foldl (fun o f => match o with
    | some g => if f.stamp < g.stamp then some f else o
    | none => some f) none
/-- The message at the head of a channel at tile c's port: packets and decrements stay in the order of their arrival (R51, R127). -/
def State.channelHead (s : State) (c : Coord) (vc : BitVec 4) : Option Flight :=
  firstOf (s.net.filter fun f => f.atTile c && f.vc == vc && (match f.msg with
    | .packet _ | .decr _ _ => true
    | _ => false))
/-- The request or decrement has reached the inbound port of tile c whole, and none of its user channel stands before it (R51, R474); on a
user channel the balloon may take it instead (R427). -/
def State.atInbound (s : State) (c : Coord) (f : Flight) : Bool :=
  f.atTile c && f.whole && (f.vc == 8 || f.vc == 13 || (decide (s.channelHead c f.vc = some f) && !(s.tileAt c).diverting))

/-- Arrival number of the focus thread's local operation at the write queue: when it first found no room, else now (R474). -/
def Thread.turnOf (t : Thread) : Option Nat :=
  match t.state, t.turnAt with
  | .run, some (k, pc) => if pc = t.pc then some k else none
  | _, _ => none
def State.myTurn (s : State) : Nat := s.th.turnOf.getD s.nextSeq
/-- A request that the write queue takes, as opposed to a read (R474). -/
def ReqKind.writes : ReqKind → Bool
  | .store _ _ | .amo _ _ _ _ _ | .writeLine _ _ | .leaf _ _ => true
  | _ => false
/-- The message is one for the write queue. -/
def Msg.queued : Msg → Bool
  | .decr _ _ => true
  | .req r => r.kind.writes
  | _ => false
/-- A local operation on a line may enter the write queue: it has room, and nothing that reached it earlier still waits (R474). -/
def State.queueTurn (s : State) (a : Nat) : Bool :=
  s.tile.wqFree a && !(s.net.any fun f => s.atInbound s.foc f && f.msg.queued && decide (f.stamp < s.myTurn)) &&
    (List.finRange 4).all fun j => match (s.tile.th j).turnOf with
      | some k => decide (s.myTurn ≤ k)
      | none => true
/-- The local operation waits in its turn, its thread in RUN (R474). -/
def State.stallTurn (s : State) : State :=
  match s.th.turnOf with
  | some _ => s.stall
  | none => (({ s with nextSeq := s.nextSeq + 1 } : State).mapTh fun t => { t with turnAt := some (s.nextSeq, t.pc) }).stall
def inTurn (a : Nat) (s : State) (k : State → Out) : Out := if s.queueTurn a then k s else .next s.stallTurn

/-- A returning AMO counts in LOADS, another in STORES (R219). -/
def Thread.addAmo (t : Thread) (d : GReg) : Thread := if d = 0 then t.addStore else t.addLoad d
def Thread.amoRoom (t : Thread) (d : GReg) : Bool := if d = 0 then decide (t.outc.stores < 16) else decide (t.outc.loads < 16)

/-- An AMO as it issues (R218, R220): a local one enters the write queue, where it is performed (R139): one that returns nothing is
acknowledged at once, with its flags. Another leaves as a request. -/
def amo (op : AmoOp) (x : AmoArgs) (c : GReg) (s : State) : Out :=
  let n := devOffWords x.off
  let k := if x.w then 8 else 4
  let ret := x.d != 0
  let kind (s : State) : ReqKind := .amo op k (s.gr x.b) (s.gr c) ret
  let remote (tgt2 : Bool) (sp : BitVec 16) (s : State) : Out :=
    deviceAccess s tgt2 sp (devOff s x.a x.off) k fun off =>
      whenReady (s.th.amoRoom x.d && s.portFree) s fun s =>
        .next (((s.request (kind s) (.amo x.d ret) sp off).mapTh (·.addAmo x.d)).retire n)
  guarded x.guard n s fun s =>
    match x.tgt with
    | .glob => remote false 0 s
    | .ext sp => remote true (spaceVal s sp) s
    | .loc =>
      checkedAddr s (devOff s x.a x.off) k false (fun a => s.storeOk a k) fun a =>
        whenReady (s.th.amoRoom x.d) s fun s => inTurn a s fun s =>
          let who : Who := ⟨s.foc, s.tid, s.nextId, none⟩
          let p : Pend := ⟨s.nextId, .amo x.d ret, 0, BitVec.ofNat 64 a, s.th.pc12, false, false, true⟩
          let o : WOp := .amo op a k (s.gr x.b) (s.gr c) ret who true
          let fl : Flags := match (s.seen s.foc a).amoAt (s.pa a) op k (s.gr x.b) (s.gr c) with
            | some (_, _, fl) => fl
            | none => 0
          let s1 := { s with nextId := s.nextId + 1 }
          let s2 := s1.mapTile fun t => { t with wq := wqMerge t.wq (a / 64) o }
          if ret then .next ((s2.mapTh fun t => ({ t with pends := t.pends ++ [p] }).addAmo x.d).retire n)
          else .next ((s2.orFlagsLate s.foc s.tid fl).retire n)

/-- AMO.ADD (R219). -/
def execAmoAdd (x : AmoArgs) (s : State) : Out := amo .add x 0 s
/-- AMO.AND (R219). -/
def execAmoAnd (x : AmoArgs) (s : State) : Out := amo .and x 0 s
/-- AMO.OR (R219). -/
def execAmoOr (x : AmoArgs) (s : State) : Out := amo .or x 0 s
/-- AMO.XOR (R219). -/
def execAmoXor (x : AmoArgs) (s : State) : Out := amo .xor x 0 s
/-- AMO.SWAP (R219). -/
def execAmoSwap (x : AmoArgs) (s : State) : Out := amo .swap x 0 s
/-- AMO.CAS (R219): gc is the compare register. -/
def execAmoCas (x : AmoArgs) (c : GReg) (s : State) : Out := amo .cas x c s
/-- AMO.MIN (R219). -/
def execAmoMin (x : AmoArgs) (s : State) : Out := amo .min x 0 s
/-- AMO.MAX (R219). -/
def execAmoMax (x : AmoArgs) (s : State) : Out := amo .max x 0 s
/-- AMO.MINU (R219). -/
def execAmoMinu (x : AmoArgs) (s : State) : Out := amo .minu x 0 s
/-- AMO.MAXU (R219). -/
def execAmoMaxu (x : AmoArgs) (s : State) : Out := amo .maxu x 0 s
/-- AMO.FADD (R219): nearest even, whatever RMODE holds. -/
def execAmoFadd (x : AmoArgs) (s : State) : Out := amo .fadd x 0 s
/-- AMO.FMIN (R219). -/
def execAmoFmin (x : AmoArgs) (s : State) : Out := amo .fmin x 0 s
/-- AMO.FMAX (R219). -/
def execAmoFmax (x : AmoArgs) (s : State) : Out := amo .fmax x 0 s

/-! ### WAITV -/

/-- The thread enters WAITV with its PC at the instruction, until the home answers (R222). -/
def Thread.enterWaitv (t : Thread) (id n : Nat) : Thread := { t with state := .waitv, wait := .waitv id n }

/-- WAITV (R221, R222): the compare and arm are one step at the word's home. -/
def execWaitv (x : AmoArgs) (c : GReg) (s : State) : Out :=
  let n := devOffWords x.off
  let k := if x.w then 8 else 4
  let kind (s : State) : ReqKind := .waitv k (lowBytes k (s.gr x.b)) (if c = 0 then none else some (s.gr c))
  let remote (tgt2 : Bool) (sp : BitVec 16) (s : State) : Out :=
    deviceAccess s tgt2 sp (devOff s x.a x.off) k fun off =>
      whenReady s.portFree s fun s => .next ((s.request (kind s) (.waitv x.d) sp off).cycle.mapTh (·.enterWaitv s.nextId n))
  guarded x.guard n s fun s =>
    match x.tgt with
    | .glob => remote false 0 s
    | .ext sp => remote true (spaceVal s sp) s
    | .loc =>
      localAddr s (devOff s x.a x.off) k (fun a => (s.loadAddr a k).isSome) fun a =>
        let who : Who := ⟨s.foc, s.tid, s.nextId, none⟩
        let r : Req := ⟨who, kind s, 0, BitVec.ofNat 64 (if a < 0x10000 then a else (s.loadAddr a k).getD a), s.tile.hid, s.tile.sys, none⟩
        let p : Pend := ⟨s.nextId, .waitv x.d, 0, BitVec.ofNat 64 a, s.th.pc12, false, false, true⟩
        let s1 := ({ s with nextId := s.nextId + 1 }).mapTile fun t => { t with arms := t.arms ++ [r] }
        .next ((s1.mapTh fun t => { t with pends := t.pends ++ [p] }).cycle.mapTh (·.enterWaitv s.nextId n))

end Sys2Proof.Machine
end

