-- ==== Sys2Proof/Machine/Codelet.lean ====
section
/-! DEFINITION. CSET and CREAD (R230): they act in the write queue, in their turn. -/

namespace Sys2Proof.Machine

/-- Address checks of CSET and CREAD (R230). -/
def recordAddr (s : State) (ea : Int) (k : Nat → Out) : Out :=
  let f : Word := BitVec.ofInt 64 ea
  if f.toNat % 16 ≠ 0 then .next (s.trap Cause.misalign f)
  else if ea < 0 ∨ 0x10000 ≤ ea then .next (s.trap Cause.sramBound f)
  else
    let a := ea.toNat
    if s.tile.inEntries a 16 || s.tile.window_ (a / 64) != .out then .next (s.trap Cause.sramBound f)
    else if s.tile.wqHolds a then .next s.stall
    else if s.damaged (s.pa a) 8 then .next ((s.markBad (s.pa a) 8).trap Cause.ecc f)
    else k a

/-- CSET (R230). -/
def execCset (gd : Guard) (d : PReg) (a b c : GReg) (i : BitVec 32) (s : State) : Out :=
  guarded gd 3 s fun s => recordAddr s ((s.gr a).toNat + i.toInt) fun ea =>
    inTurn ea s fun s =>
    if recQd (s.load (s.pa ea) 8) then .next ((s.setP d false).retire 3)
    else
      let w0 : Word := (s.gr b).extractLsb' 32 32 ++ (0 : BitVec 6) ++ (s.gr b).extractLsb' 0 26
      let s1 := (s.tileStore s.foc ea 8 w0).tileStore s.foc (ea + 8) 8 (s.gr c)
      let s2 := if recCount w0 = 0 then s1.queueRecord s.foc ea w0 else s1
      .next ((s2.setP d true).retire 3)

/-- CREAD (R230). -/
def execCread (gd : Guard) (d a : GReg) (i : BitVec 32) (s : State) : Out :=
  guarded gd 3 s fun s => recordAddr s ((s.gr a).toNat + i.toInt) fun ea => .next ((s.setG d (s.load (s.pa ea) 8)).retire 3)

end Sys2Proof.Machine
end

