-- ==== Sys2Proof/Machine/Net.lean ====
section
/-! DEFINITION. The mesh: stamping and resolving at the injection port (R125, R130, R131), token charges (R435, R436), the router's
next hop (R120 to R122), discards, and name tables (R129). -/

namespace Sys2Proof.Machine

/-! ### Where units stand -/

/-- Attached sites of an edge port (R25) or root port (R29), the first one first. -/
def portSites (p : Nat) : List Coord :=
  let run (n : Nat) (f : Nat → Coord) : List Coord := (List.range n).map f
  if p < 20 then run 40 fun i => ⟨112 + 40 * p + i, 0⟩
  else if p < 40 then run 40 fun i => ⟨112 + 40 * (p - 20) + i, 1119⟩
  else if p < 68 then run 40 fun i => ⟨0, 40 * (p - 40) + i⟩
  else if p < 96 then run 40 fun i => ⟨1023, 40 * (p - 68) + i⟩
  else
    let c := p - 96
    run 20 fun i => ⟨(if c % 2 = 0 then 0 else 912) + 64 + i, if c < 2 then 0 else 1119⟩
/-- First attached site of an edge or root port. -/
def portSite (p : Nat) : Coord := (portSites p).headD ⟨0, 0⟩
/-- Attached sites of an Ultra Ethernet port (R29). -/
def ueSites (p : Nat) : List Coord :=
  let c := p / 8
  (List.range 8).map fun i => ⟨(if c % 2 = 0 then 0 else 912) + 8 * (p % 8) + i, if c < 2 then 0 else 1119⟩
def ueSite (p : Nat) : Coord := (ueSites p).headD ⟨0, 0⟩
/-- A site of the gallery of field f (R15). -/
def gallerySite (f : Nat) : Coord := ⟨128 * (f % 8) + 64, 112 * (f / 8) + 64⟩

/-- Service name of the management agent of field f's gallery (R378). -/
def serviceName (f : Nat) : BitVec 32 := BitVec.ofNat 32 (0xFF000000 + 0x10000 * f)

/-- The first of the sites that is not absent, by which a port goes on working (R27). -/
def State.liveSite (s : State) (l : List Coord) : Coord := (l.find? fun c => !(s.tileAt c).absent).getD (l.headD ⟨0, 0⟩)

/-- Where a message is routed to: a tile, a port's first attached site that is left (R27, R130), or a gallery. -/
def State.destSite (s : State) : Dest → Coord
  | .tile c => c
  | .port p => s.liveSite (portSites p)
  | .ue p => s.liveSite (ueSites p)
  | .gallery f => gallerySite f
/-- Where a port's own messages enter the mesh. -/
def State.portEntry (s : State) (p : Nat) : Coord := s.liveSite (portSites p)

/-- The message has reached the unit it goes to. A gallery takes it at any of its sites (R16). -/
def State.arrived (s : State) (f : Flight) : Bool :=
  f.present && (match f.dest with
  | .gallery g => isGallery f.pos && fieldOf f.pos == g
  | d => f.pos == s.destSite d)

/-- Response class (R119). -/
def isResponse (vc : BitVec 4) : Bool := vc == 9 || vc == 11 || vc == 14

/-! ### Messages as packets -/

/-- Header word 0 (R124, R225). -/
def headerWord (dest : BitVec 32) (hall : BitVec 6) (named : Bool) (nsucc : BitVec 3) (narrow tcm : Bool) (entry : BitVec 10)
    (vc len : BitVec 4) : Word :=
  dest ++ (0 : BitVec 2) ++ hall ++ BitVec.ofBool named ++ nsucc ++ BitVec.ofBool narrow ++ BitVec.ofBool tcm ++ entry ++ vc ++ len

def hdrLen (w : Word) : Nat := (w.extractLsb' 0 4).toNat
def hdrVc (w : Word) : BitVec 4 := w.extractLsb' 4 4
def hdrEntry (w : Word) : BitVec 10 := w.extractLsb' 8 10
def hdrTcm (w : Word) : Bool := w.getLsbD 18
def hdrNarrow (w : Word) : Bool := w.getLsbD 19
def hdrNsucc (w : Word) : BitVec 3 := w.extractLsb' 20 3
def hdrNamed (w : Word) : Bool := w.getLsbD 23
def hdrHall (w : Word) : BitVec 6 := w.extractLsb' 24 6

/-- Frees the inbox cells of the run that starts at c0 (R44). -/
def Tile.freeCells (t : Tile) (c0 : Nat) : Tile := { t with runs := t.runs.filter fun r => r.c0 != c0 }

/-- The thread becomes FREE; a recorded pin comes into force (R240, R244). -/
def Thread.finish (t : Thread) : Thread :=
  { t.moved with state := .free, work := .none, fwdUsed := false, pinNow := t.pinRec, unpinned := false, wait := .none, stepping := false }

/-- Flits of a message (R124, R228, R435; for answers the model's count: DESIGN CHOICE, log 9). -/
def Msg.flits : Msg → Nat
  | .packet p => hdrLen p.word0 + 1
  | .decr _ _ => 2
  | .req r => match r.kind with
    | .writeLine _ _ => 6
    | .store _ _ | .amo _ _ _ _ _ | .leaf _ _ => 2
    | _ => 1
  | .ans a => match a.val with
    | .value _ => 2
    | .lines ls => 1 + 5 * ls.length
    | _ => 1
  | .record _ => 5
  | .call c => 2 + (c.len.toNat + 1)
  | .scallReply _ _ | .cmdAnswer _ _ _ _ | .hallop _ _ | .hallAnswer _ _ => 2
  | .seek m _ => m.flits
  | .command _ _ | .shoot _ _ | .shootAck _ _ => 2
  | .seekAnswer _ | .gangJoin _ _ _ | .gangAbort _ _ _ | .hold _ _ => 1

/-- Word 32 bits of DEST for a unit that a message goes to by coordinates. -/
def Dest.word : Dest → BitVec 32
  | .tile c => coordDest c
  | .port p => coordDest (portSite p)
  | .ue p => coordDest (ueSite p)
  | .gallery f => coordDest (gallerySite f)

/-- The two header words of a message (R124, R125): a program packet's own, else those that its sender's hardware forms. -/
def Flight.header (f : Flight) : Word × Word :=
  match f.msg with
  | .packet p | .seek (.packet p) _ => (p.word0, p.word1)
  | m =>
    (headerWord (f.name.getD f.dest.word) f.hall f.name.isSome 0 false false 0 f.vc (BitVec.ofNat 4 (m.flits - 1)), f.srcName.zeroExtend 64)

/-! ### Name tables (R129) -/

def nameSet (n : BitVec 32) : Nat := ((n ^^^ (n >>> 7) ^^^ (n >>> 14) ^^^ (n >>> 21) ^^^ (n >>> 28)).extractLsb' 0 7).toNat

/-- Way that a new name takes in its set: the lowest invalid one, else the lowest of greatest age. -/
def victimWay (same : List NameEntry) : Nat :=
  match (List.range 4).find? fun w => !same.any (·.way == w) with
  | some w => w
  | none =>
    let oldest := (same.map (·.age)).foldl max 0
    ((List.range 4).find? fun w => same.any fun x => x.way == w && x.age == oldest).getD 0

/-- Learns a name: refreshed in place, else in the way that `victimWay` gives. -/
def learnName (es : List NameEntry) (e : NameEntry) : List NameEntry :=
  match es.find? (·.name == e.name) with
  | some x => es.map fun y => if y.name = e.name then { e with way := x.way } else y
  | none =>
    let k := nameSet e.name
    let w := victimWay (es.filter fun x => nameSet x.name == k)
    es.filter (fun x => !(nameSet x.name == k && x.way == w)) ++ [{ e with way := w }]

/-- NAME_TABLE_LEARNING (R129): the router at c learns the sender's name from a packet that passes it. -/
def State.learnAt (s : State) (c : Coord) (f : Flight) : State :=
  if f.srcName = 0 ∨ isGallery c then s
  else s.mapTileAt c fun t => { t with names := learnName t.names ⟨f.srcName, f.src, f.hall, f.sys, 0, 0⟩ }

/-! ### Entering the mesh -/

/-- A message from the port at `src` of a router, all of its flits still to come; one to its own position enters no link (R118). -/
def State.send (s : State) (msg : Msg) (vc : BitVec 4) (src : Coord) (dest : Dest) (srcName : BitVec 32) (name : Option (BitVec 32))
    (hall : BitVec 6) (sys : Bool) : State :=
  let self := s.destSite dest == src
  let f : Flight := ⟨msg, vc, src, dest, src, srcName, name, hall, sys, 0, if self then [] else [⟨src, 4, 0⟩], if self then 0 else msg.flits,
    s.nextSeq⟩
  let s1 : State := { s with net := s.net ++ [f], nextSeq := s.nextSeq + 1 }
  if self then s1 else s1.learnAt src f

/-- Puts a message from tile c into the mesh as hardware sends it: no injection port, no charge (R435). -/
def State.emit (s : State) (c : Coord) (vc : BitVec 4) (d : Dest) (m : Msg) : State :=
  let t := s.tileAt c
  s.send m vc c d (t.r.name.setWidth 32) none (if t.sys then 0 else t.hid) t.sys

/-- A message from a unit at a site, which has no tile of its own. -/
def State.emitUnit (s : State) (site : Coord) (vc : BitVec 4) (d : Dest) (m : Msg) (hall : BitVec 6) (sys : Bool) : State :=
  s.send m vc site d 0 none hall sys

/-- What an answer does to the hart that asked: the value of its load, an access fault (R375), or one store fewer outstanding (R162). -/
def Hart.answered (h : Hart) (id : Nat) (v : AnsVal) : Hart :=
  if h.load = some id then
    match v with
    | .value w => { h with load := none, value := w, fault := false }
    | _ => { h with load := none, fault := true }
  else
    { h with stores := h.stores.filter (· != id), fault := match v with
        | .refuse _ => true
        | _ => h.fault }

/-- Answers a request from the unit at `site` (VC9 from tiles, VC11 from ports). A gallery hart's answer reaches it at once
(DESIGN CHOICE, log 6). -/
def State.answer (s : State) (site : Coord) (vc : BitVec 4) (who : Who) (v : AnsVal) (fl : Flags) : State :=
  match who.agent with
  | some a => s.setHartAt a ((s.hartAt a).answered who.id v)
  | none => s.emitUnit site vc (.tile who.src) (.ans ⟨who, v, fl⟩) 0 true

/-! ### Reports and discards -/

/-- Gallery of the steward of the unit that sent a message. -/
def State.senderGallery (s : State) (f : Flight) : Nat := if isGallery f.src then fieldOf f.src else (s.tileAt f.src).trapGallery

/-- A report about message f with its header words, to its sender's steward (R20, R122, R130): from the buffer of the tile whose router
makes it (R388), or straight from a gallery. -/
def State.discardReport (s : State) (f : Flight) (cause : BitVec 8) (op2 : Word) : State :=
  let (w0, w1) := f.header
  let g := s.senderGallery f
  if isGallery f.pos then
    let ws := recordWords f.sys f.hall 0 1 0 ⟨cause, 0, 0, w0, w1, op2, 0⟩ (coordReg f.src (s.tileAt f.src).prow) s.wtime
    { s with unitReports := s.unitReports ++ [(g, ⟨ws, none⟩)] }
  else s.mapTileAt f.pos fun t => t.pushReport (some g) (t.recordOf s.wtime f.pos 0 1 0 ⟨cause, 0, 0, w0, w1, op2, 0⟩)

/-- A message discarded where it stands (R20, R122): a report to the sender's steward, with the message's header words (the manual names
no words for a refusal under R20: DESIGN CHOICE, log 10), a refusal to a requester, and an abort to the member whose join finds no
origin (R305; log 61). -/
def State.discard (s : State) (f : Flight) (cause : BitVec 8) : State :=
  let s1 := s.discardReport f cause 0
  match f.msg with
  | .req r => s1.answer f.pos (if f.vc = 8 then 9 else 11) r.who (.refuse (if cause = Cause.hallViolation then cause else Cause.sramBound)) 0
  | .gangJoin _ seq _ => s1.emitUnit f.pos 12 (.tile f.src) (.gangAbort 0 (s.destSite f.dest) seq) 0 true
  | _ => s1

/-! ### Routing -/

/-- Dimension order (R120) as a router port, 0 north, 1 east, 2 south, 3 west: requests along x then y, responses along y then x. -/
def dimPort (resp : Bool) (p d : Coord) : Nat :=
  let alongX : Nat := if p.x < d.x then 1 else 3
  let alongY : Nat := if p.y < d.y then 2 else 0
  if resp then (if p.y ≠ d.y then alongY else alongX) else (if p.x ≠ d.x then alongX else alongY)

def moveCoord (p : Coord) (v : Int × Int) : Coord := ⟨((p.x : Int) + v.1).toNat, ((p.y : Int) + v.2).toNat⟩
def portStep : Nat → Int × Int
  | 0 => (0, -1)
  | 1 => (1, 0)
  | 2 => (0, 1)
  | _ => (-1, 0)

/-- A link between two fields passes a crossing buffer (R443), which stands before the receiver's input dir as its input dir + 8. -/
def crossesFields (a b : Coord) : Bool := fieldOf a != fieldOf b

/-- The position across the link of a port; none where no link joins two routers (R29). -/
def linkTo (p : Coord) (port : Nat) : Option Coord :=
  if (port = 0 ∧ p.y = 0) ∨ (port = 1 ∧ p.x = 1023) ∨ (port = 2 ∧ p.y = 1119) ∨ (port = 3 ∧ p.x = 0) then none
  else some (moveCoord p (portStep port))

/-- The lowest-numbered RTEX entry that matches (R121, R122): its PORT. -/
def rtexPort (es : List Word) (resp : Bool) (d : Coord) : Option Nat :=
  (es.find? fun e =>
    e.getLsbD 63 && e.getLsbD (if resp then 62 else 61) &&
      decide ((e.extractLsb' 44 11).toNat ≤ d.x ∧ d.x ≤ (e.extractLsb' 33 11).toNat ∧
        (e.extractLsb' 22 11).toNat ≤ d.y ∧ d.y ≤ (e.extractLsb' 11 11).toNat)).map fun e => (e.extractLsb' 58 3).toNat

/-- Where a router sends a message that is not for its own position: the next position with the port, or nowhere (R120, R122): PORT 7,
the 4,096th hop, no link (R29), a gallery that is not its destination (R16), or a position that is absent or being replaced (R452). -/
def State.nextHop (s : State) (f : Flight) : Option (Nat × Coord) :=
  let d := s.destSite f.dest
  let resp := isResponse f.vc
  let port := (rtexPort (s.tileAt f.pos).pr.rtex.toList resp d).getD (dimPort resp f.pos d)
  if 4 ≤ port ∨ Config.hopLimit ≤ f.hops + 1 then none
  else match linkTo f.pos port with
    | none => none
    | some into =>
      let shut := isGallery into && !isGallery f.pos && (match f.dest with
        | .gallery g => g != fieldOf into
        | _ => true)
      if shut || (f.dest == .tile into && (s.tileAt into).absent) then none else some (port, into)

/-! ### Flow control (R134) -/

/-- Flits of channel vc in the slots of router input dir at c. -/
def State.flitsIn (s : State) (c : Coord) (dir : Nat) (vc : BitVec 4) : Nat :=
  ((s.net.filter (·.vc == vc)).map fun f => ((f.trail.filter fun h => h.c == c && h.dir == dir).map (·.n)).sum).sum
/-- Hold-off is raised: two or fewer of the four slots are free, or the two of a crossing buffer are full (R443). -/
def State.heldOff (s : State) (c : Coord) (dir : Nat) (vc : BitVec 4) : Bool := decide (2 ≤ s.flitsIn c dir vc)

/-- Message f has flits still to cross the link into input dir of c: it occupies the channel there from its head to its tail. -/
def Flight.crossing (f : Flight) (c : Coord) (dir : Nat) : Bool :=
  match f.trail.dropWhile fun h => !(h.c == c && h.dir == dir) with
  | [] => false
  | _ :: behind => decide (0 < f.left) || behind.any fun h => decide (0 < h.n)

/-- No other message has flits before the head of f in the input where it stands. -/
def State.headFront (s : State) (k : Nat) (f : Flight) : Bool :=
  match f.trail with
  | [] => false
  | h :: _ => decide (0 < h.n) && (List.range s.net.length).all fun j => j == k || (match s.net[j]? with
      | none => true
      | some g => g.vc != f.vc || (match g.trail with
        | [] => true
        | x :: behind => !(x.c == h.c && x.dir == h.dir && decide (g.stamp < f.stamp)) &&
            !(behind.any fun y => y.c == h.c && y.dir == h.dir && decide (0 < y.n))))

/-- A movement of one flit of a message: of its head over a link, or out of a crossing buffer into the input behind it, of a flit behind it
(by its place in the trail), or of the next flit from the port it enters by. -/
inductive Move where
  | head (port : Nat) (into : Coord)
  | take (dir : Nat)
  | body (i : Nat)
  | enter
  deriving DecidableEq, Repr, Inhabited

/-- Another message of the channel still has flits to come into input dir of `into`. -/
def State.occupied (s : State) (k : Nat) (vc : BitVec 4) (into : Coord) (dir : Nat) : Bool :=
  (List.range s.net.length).any fun j => j != k && (match s.net[j]? with
    | some g => g.vc == vc && g.crossing into dir
    | none => false)

/-- The input, or crossing buffer, that a head crossing a link comes into. -/
def inputOf (from_ into : Coord) (port : Nat) : Nat := (port + 2) % 4 + if crossesFields from_ into then 8 else 0

/-- The local port takes the flits of a request or decrement that has arrived as they come, so that it can reach the write queue whole
(R474). -/
def State.sunk (s : State) (f : Flight) : Bool :=
  s.arrived f && (match f.msg with
    | .req _ | .decr _ _ => true
    | _ => false)

/-- The flits of message k that the slots and channels let move, the frontmost first (R134, R443). -/
def State.movesOf (s : State) (k : Nat) (f : Flight) : List Move :=
  let head : List Move :=
    if s.arrived f || !s.headFront k f then []
    else if f.buffered then
      match f.trail with
      | h :: _ => if s.heldOff h.c (h.dir - 8) f.vc || s.occupied k f.vc h.c (h.dir - 8) then [] else [.take (h.dir - 8)]
      | [] => []
    else match s.nextHop f with
      | none => []
      | some (p, into) =>
        let dir := inputOf f.pos into p
        if s.heldOff into dir f.vc || s.occupied k f.vc into dir then [] else [.head p into]
  let body : List Move := (List.range f.trail.length).filterMap fun i => match f.trail[i]?, f.trail[i + 1]? with
    | some a, some b => if 0 < b.n ∧ (!s.heldOff a.c a.dir f.vc ∨ (i = 0 ∧ s.sunk f)) then some (.body i) else none
    | _, _ => none
  let enter : List Move := match f.trail.getLast? with
    | some h =>
      let first := (List.range s.net.length).all fun j => j == k || (match s.net[j]? with
        | some g => !(g.vc == f.vc && decide (0 < g.left) && g.src == f.src && decide (g.stamp < f.stamp))
        | none => true)
      if 0 < f.left ∧ first ∧ !s.heldOff h.c h.dir f.vc then [.enter] else []
    | none => []
  head ++ body ++ enter

/-- The link that a movement uses: router and output; none for a flit that enters, or that leaves a crossing buffer. -/
def Flight.linkOf (f : Flight) : Move → Option (Coord × Nat)
  | .head p _ => some (f.pos, p)
  | .body i => match f.trail[i]?, f.trail[i + 1]? with
    | some a, some b => if b.dir < 8 then some (b.c, (a.dir + 2) % 4) else none
    | _, _ => none
  | .take _ | .enter => none

/-- Place of x after `last` in cyclic order below n. -/
def after (last x n : Nat) : Nat := (x + n - last - 1) % n

/-- The arbitration at an output (R134): VC15, then VC14, then the other channels in turn; within a channel, the inputs in turn. -/
def State.outranks (s : State) (link : Coord × Nat) (g f : Flight) (mg mf : Move) : Bool :=
  let r := (s.tileAt link.1).router
  let lastVc := unitGet 0 r.lastVc link.2
  let lastIn := unitGet 0 r.lastIn (link.2, f.vc.toNat)
  let turnOf (x : Flight) : Nat := (x.trail.headD ⟨link.1, 4, 0⟩).dir
  if g.vc = f.vc then
    match mg, mf with
    | .head _ _, .head _ _ => decide (after lastIn (turnOf g) 5 < after lastIn (turnOf f) 5)
    | _, _ => false
  else if 14 ≤ g.vc.toNat ∨ 14 ≤ f.vc.toNat then decide (f.vc < g.vc)
  else decide (after lastVc g.vc.toNat 14 < after lastVc f.vc.toNat 14)

/-- Movement m of message k may take its link now: no flit of another message that is ready at the output goes first (R134). -/
def State.granted (s : State) (k : Nat) (f : Flight) (m : Move) : Bool :=
  match f.linkOf m with
  | none => true
  | some l => (List.range s.net.length).all fun j => j == k || (match s.net[j]? with
      | none => true
      | some g => (s.movesOf j g).all fun mg => g.linkOf mg != some l || !s.outranks l g f mg m)

/-- The router remembers what it served at an output. -/
def State.served (s : State) (f : Flight) (m : Move) : State :=
  match f.linkOf m with
  | none => s
  | some (c, p) => s.mapTileAt c fun t =>
    let r := t.router
    let lv := if f.vc.toNat < 14 then unitSet r.lastVc p f.vc.toNat else r.lastVc
    let li := match m with
      | .head _ _ => unitSet r.lastIn (p, f.vc.toNat) (f.trail.headD ⟨c, 4, 0⟩).dir
      | _ => r.lastIn
    { t with router := ⟨lv, li⟩ }

/-- Adds to the flits of one hop. -/
def bumpHop (l : List Hop) (i : Nat) (f : Nat → Nat) : List Hop :=
  match l, i with
  | [], _ => []
  | h :: r, 0 => { h with n := f h.n } :: r
  | h :: r, i + 1 => h :: bumpHop r i f
/-- Drops the inputs at the tail's end that hold nothing any more. -/
def trimHops (left : Nat) (l : List Hop) : List Hop :=
  if 0 < left then l else (l.reverse.dropWhile fun h => h.n == 0).reverse

/-- The message after a movement. -/
def Flight.moved (f : Flight) (stamp : Nat) : Move → Flight
  | .head p into =>
    { f with pos := into, hops := f.hops + 1, stamp := stamp,
             trail := trimHops f.left (⟨into, inputOf f.pos into p, 1⟩ :: bumpHop f.trail 0 (· - 1)) }
  | .take dir => { f with stamp := stamp, trail := trimHops f.left (⟨f.pos, dir, 1⟩ :: bumpHop f.trail 0 (· - 1)) }
  | .body i => { f with trail := trimHops f.left (bumpHop (bumpHop f.trail i (· + 1)) (i + 1) (· - 1)) }
  | .enter => { f with left := f.left - 1, trail := bumpHop f.trail (f.trail.length - 1) (· + 1) }

/-! ### ROUTER_FORWARD -/

def eraseIdx {α : Type} (l : List α) (k : Nat) : List α := l.take k ++ l.drop (k + 1)

/-- Tree neighbours on kite line 0 (R58): the children that KIDS names, north, east, south, west, and the parent. -/
def kidsOf (c : Coord) (parent0 : Word) : List Coord :=
  (if parent0.getLsbD 26 then [⟨c.x, c.y - 1⟩] else []) ++ (if parent0.getLsbD 27 then [⟨c.x + 1, c.y⟩] else []) ++
    (if parent0.getLsbD 28 then [⟨c.x, c.y + 1⟩] else []) ++ (if parent0.getLsbD 29 then [⟨c.x - 1, c.y⟩] else [])
def State.lineNeighbours (s : State) (c : Coord) : List Coord :=
  let t := s.tileAt c
  let w := t.r.parent[0]
  let (x0, y0, _, _) := s.hallBox t.hid.toNat
  if t.sys || !w.getLsbD 31 then []
  else (if w.getLsbD 30 then [] else [⟨x0 + (w.extractLsb' 0 11).toNat, y0 + (w.extractLsb' 11 11).toNat⟩]) ++ kidsOf c w

/-- SEEK (R131) at tile c: its bearer takes the message and its router answers; another tile passes it to its other tree neighbours, and its
router learns the sender (R129). -/
def State.seekAt (s : State) (c : Coord) (f : Flight) (m : Msg) (n : BitVec 32) (came : Option Coord) : State :=
  let t := s.tileAt c
  if t.r.name.setWidth 32 == n && !t.absent then
    let taken : Flight := { f with msg := m, pos := c, dest := .tile c, name := some n, trail := [], left := 0, stamp := s.nextSeq }
    ({ s with net := s.net ++ [taken], nextSeq := s.nextSeq + 1 } : State).emit c 15 (.tile f.src) (.seekAnswer n)
  else
    let on := (s.lineNeighbours c).filter fun d => some d != came
    on.foldl (fun (s : State) d =>
      { s with nextSeq := s.nextSeq + 1,
               net := s.net ++ [{ f with msg := .seek m (some c), pos := c, dest := .tile d, name := some n, trail := [⟨c, 4, 0⟩],
                                         left := m.flits, stamp := s.nextSeq }] }) (if on.isEmpty then s else s.learnAt c f)

/-- The state after movement m of message k. A message that a port serves stands in the order in which its last flits arrived (R474). -/
def State.moveFlit (s : State) (k : Nat) (f : Flight) (m : Move) : State :=
  let g := f.moved s.nextSeq m
  let g := if s.arrived g && g.whole then { g with stamp := s.nextSeq } else g
  let s1 := ({ s with net := s.net.set k g, nextSeq := s.nextSeq + 1 } : State).served f m
  match m with
  | .head _ into => s1.learnAt into f
  | _ => s1

/-- ROUTER_FORWARD (R120, R122, R129, R134): the frontmost flit of message k that may move and is served does, or the router discards the
message; a seek that has reached a tile of its line goes on from there (R131). -/
def execRouterForward (k : Nat) (s : State) : Out :=
  match s.net[k]? with
  | none => .next s
  | some f =>
    let gone : State := { s with net := eraseIdx s.net k }
    match f.msg, s.arrived f with
    | .seek m came, true => .next (gone.seekAt f.pos f m (f.name.getD 0) came)
    | _, here =>
      if !here && !f.buffered && s.headFront k f && (s.nextHop f).isNone then .next (gone.discard f Cause.entryInvalid)
      else match (s.movesOf k f).find? fun m => s.granted k f m with
        | none => .next s
        | some m => .next (s.moveFlit k f m)

/-- NAME_TABLE_AGEING (R129) at the focus tile's router. -/
def execNameTableAgeing (s : State) : Out :=
  .next (s.mapTile fun t => { t with names := (t.names.filter (·.age < 7)).map fun e => { e with age := e.age + 1 } })

/-! ### INJECTION -/

/-- Tokens a message costs and whether they are edge tokens (R435); none for the uncharged classes. -/
def chargeOf (i : Inj) (self : Bool) : Option (Bool × Nat) :=
  if self then none
  else match i.msg with
    | .packet p => if i.vc.toNat ≤ 7 ∨ i.vc = 12 then some (false, hdrLen p.word0 + 1) else none
    | .decr _ _ => some (false, 2)
    | .req r =>
      let bytes := match r.kind with
        | .load n | .store n _ | .amo _ n _ _ _ | .waitv n _ _ => n
        | .readLines n => 64 * n
        | .writeLine _ _ => 64
        | .leaf _ _ => 16
      if i.vc = 10 then some (true, max 1 ((bytes + 15) / 16))
      else some (false, match r.kind with
        | .writeLine _ _ => 6
        | .store _ _ | .amo _ _ _ _ _ | .leaf _ _ => 2
        | _ => 1)
    | _ => none

/-- LEVEL, and a charge against it: LEVEL falls and SPENT rises (R434, R436). -/
def tokLevel (w : Word) : Nat := (w.extractLsb' 0 16).toNat
def tokSpend (w : Word) (n : Nat) : Word :=
  (w &&& 0xFFFF0000FFFF0000) ||| BitVec.ofNat 64 (min 65535 ((w.extractLsb' 32 16).toNat + n) * 2 ^ 32) ||| BitVec.ofNat 64 (tokLevel w - n)
def tokDeny (w : Word) : Word := w ||| 0x80000000

/-- What becomes of a message at the injection router (R130). -/
inductive Resolved where
  | go (d : Dest) (name : Option (BitVec 32))
  | drop (cause : BitVec 8)
  | seek (n : BitVec 32)
  deriving DecidableEq, Repr, Inhabited

/-- Resolves a destination once (R20, R130, R133, R378). A name of 0xFF50_0000 to 0xFFDF_FFFF, which case 3 of R130 gives to the gallery
that serves it and no gallery serves, is discarded as one that a gallery does not accept (DESIGN CHOICE, log 11). -/
def State.resolve (s : State) (a : Addr) : Resolved :=
  match a with
  | .dest (.tile c) => if isCompute c then .go (.tile c) none else .drop Cause.hallViolation
  | .dest d => .go d none
  | .name n =>
    let v := n.toNat
    if v = 0 then .drop Cause.entryInvalid
    else if 0xFFE00000 ≤ v ∧ v < 0xFFE00060 then .go (.port (v - 0xFFE00000)) none
    else if 0xFFE10000 ≤ v ∧ v < 0xFFE10020 then .go (.ue (v - 0xFFE10000)) none
    else if 0xFFE20000 ≤ v ∧ v < 0xFFE20004 then .go (.port (96 + (v - 0xFFE20000))) none
    else if 0xFF000000 ≤ v ∧ v < 0xFF500000 then .go (.gallery ((v - 0xFF000000) / 0x10000)) (some n)
    else if 0xFF000000 ≤ v ∧ v < 0xFFE00000 then .drop Cause.entryInvalid
    else if 0xF0000000 ≤ v ∧ v < 0xFF000000 then .go (.ue (v % 32)) (some n)
    else match s.tile.names.find? fun e => e.name == n && e.sys == s.tile.sys && (e.sys || e.hall == s.tile.hid) with
      | some e => .go (.tile e.at_) (some n)
      | none => .seek n

/-- Stamps HALL, the source name and the system mark (R125). -/
def stampPacket (t : Tile) (p : Packet) : Packet :=
  let hall : BitVec 6 := if t.sys then 0 else t.hid
  { p with word0 := (p.word0 &&& 0xFFFFFFFFC0FFFFFF) ||| (hall.zeroExtend 64 <<< 24),
           word1 := (p.word1 &&& 0xFFFFFFFF00000000) ||| (t.r.name &&& 0xFFFFFFFF), sys := t.sys }

/-- The message as it enters the mesh. -/
def State.launchMsg (s : State) (i : Inj) (d : Dest) (name : Option (BitVec 32)) : State :=
  let t := s.tile
  let m := match i.msg with
    | .packet p => .packet (stampPacket t p)
    | m => m
  s.send m i.vc s.foc d (t.r.name.setWidth 32) name (if t.sys then 0 else t.hid) t.sys

/-- The local input of c can take another packet of the channel: it is not held off, and no packet is still entering (R123, R134). -/
def State.inputFree (s : State) (c : Coord) (vc : BitVec 4) : Bool :=
  !s.heldOff c 4 vc && !(s.net.any fun g => g.vc == vc && g.src == c && decide (0 < g.left))

/-- A message may leave now: no outstanding seek on its channel, no port on hold, its thread still in RUN where it waits for it, and nothing
of its thread and channel, and no other that the thread waits for, before it. -/
def Tile.mayInject (t : Tile) (before : List Inj) (i : Inj) : Bool :=
  let named := match i.addr with
    | .name _ => true
    | _ => false
  !(named && t.seeks.any fun x => x.1 == i.vc) &&
  !(match i.addr with
    | .dest (.port p) => i.vc == 10 && t.holds.contains p
    | _ => false) &&
  (i.entered == .no || i.tid.all fun x => (t.th x).state == .run) &&
  !(before.any fun b => b.tid == i.tid && (b.vc == i.vc || (b.entered != .no && i.entered != .no)))

/-- Candidates in round-robin order of their threads, hardware first (R229). -/
def Tile.injOrder (t : Tile) : List Nat :=
  let idx := List.range t.inj.length
  let of (x : Option Tid) : List Nat := idx.filter fun k => (t.inj[k]?.map (·.tid)) == some x
  of none ++ of (some t.injRR) ++ of (some (t.injRR + 1)) ++ of (some (t.injRR + 2)) ++ of (some (t.injRR + 3))

/-- What a message of the focus tile's port is charged, and whether to the edge bucket; none while charging is off, or for one that enters no
link (R435, R437). -/
def State.costOf (s : State) (i : Inj) : Option (Bool × Nat) :=
  if (s.field (fieldOf s.foc)).tctl.getLsbD 0 then
    match s.resolve i.addr with
    | .go d _ => chargeOf i (d == .tile s.foc)
    | .drop _ => none
    | .seek _ => chargeOf i false
  else none

/-- The bucket of a class, and a change of it (R434). -/
def Tile.bucket (t : Tile) (edge : Bool) : Word := if edge then t.pr.toke else t.pr.tokm
def Tile.setBucket (t : Tile) (edge : Bool) (w : Word) : Tile :=
  { t with pr := if edge then { t.pr with toke := w } else { t.pr with tokm := w } }

/-- A message's charge is within its bucket's LEVEL (R436). -/
def State.affords (s : State) (i : Inj) : Bool :=
  match s.costOf i with
  | none => true
  | some (edge, n) => decide (n ≤ tokLevel (s.tile.bucket edge))

/-- Charges a message that its bucket affords. -/
def State.charge (s : State) (i : Inj) : State :=
  match s.costOf i with
  | none => s
  | some (edge, n) => s.mapTile fun t => t.setBucket edge (tokSpend (t.bucket edge) n)

/-- A message waits behind an earlier one of its class (R436). -/
def State.classHeld (s : State) (i : Inj) : Bool :=
  match s.costOf i with
  | none => false
  | some (edge, _) => s.tile.tokenWaits.any fun j => j != i && s.tile.inj.contains j && (s.costOf j).any (·.1 == edge)

/-- A message waits already, and its bucket shows it (R436). -/
def State.denied (s : State) (i : Inj) : Bool :=
  match s.costOf i with
  | none => false
  | some (edge, _) => s.tile.tokenWaits.contains i && (s.tile.bucket edge).getLsbD 31

/-- A message begins to wait for tokens: DEN := 1 in the bucket of its class (R436). -/
def State.deny (s : State) (i : Inj) : State :=
  match s.costOf i with
  | none => s
  | some (edge, _) => s.mapTile fun t =>
    { t.setBucket edge (tokDeny (t.bucket edge)) with tokenWaits := i :: t.tokenWaits.filter fun j => j != i && t.inj.contains j }

/-- A refill of the focus tile's field is due: it takes effect before any charge (R438). -/
def Field.refillDue (x : Field) : Bool := x.tctl.getLsbD 0 && decide (1024 * x.periods ≤ (x.lcyc - x.tstart).toNat)

/-- What its thread waited for when a message enters (R225, R227, R240): the instruction retires, or, after the last firing of a DONE, the
cells are free and the handler has ended. -/
def Tile.entered (t : Tile) (i : Inj) : Tile :=
  match i.tid, i.entered with
  | some x, .sent n => (t.mapTh x (·.advance n)).count 0x02 1
  | some x, .fwd n => (t.mapTh x fun h => ({ h with fwdUsed := true } : Thread).advance n).count 0x02 1
  | some x, .last c0 => ((t.freeCells c0).mapTh x (·.finish)).count 0x02 1
  | _, _ => t

/-- Takes message k out of the port. -/
def State.takeInj (s : State) (k : Nat) (i : Inj) : State :=
  s.mapTile fun t =>
    ({ t with inj := eraseIdx t.inj k, tokenWaits := t.tokenWaits.filter (· != i), injRR := match i.tid with
      | some x => x + 1
      | none => t.injRR } : Tile).entered i

/-- Sends message k of the focus tile's port (R130, R131), charged where it enters a link (R435). -/
def State.injectAt (s : State) (k : Nat) (i : Inj) : State :=
  match s.resolve i.addr with
  | .go d name => ((s.charge i).takeInj k i).launchMsg i d name
  | .drop cause =>
    let s1 := s.takeInj k i
    let m := match i.msg with
      | .packet p => .packet (stampPacket s.tile p)
      | m => m
    let (d, n) : Dest × Option (BitVec 32) := match i.addr with
      | .name n => (.tile s.foc, some n)
      | .dest d => (d, none)
    s1.discard ⟨m, i.vc, s.foc, d, s.foc, s.tile.r.name.setWidth 32, n, if s.tile.sys then 0 else s.tile.hid, s.tile.sys, 0, [], 0, 0⟩ cause
  | .seek n =>
    let s1 := ((s.charge i).takeInj k i).mapTile fun t => { t with seeks := t.seeks ++ [(i.vc, i)] }
    let m := match i.msg with
      | .packet p => .packet (stampPacket s.tile p)
      | m => m
    s1.seekAt s.foc ⟨m, i.vc, s.foc, .tile s.foc, s.foc, s.tile.r.name.setWidth 32, some n, if s.tile.sys then 0 else s.tile.hid,
      s.tile.sys, 0, [], 0, 0⟩ m n none

/-- Message k of the port may leave for where it goes: a link's channel has room for it (R123), or it enters no link. -/
def State.mayEnter (s : State) (k : Nat) (i : Inj) : Bool :=
  s.tile.mayInject (s.tile.inj.take k) i && (match s.resolve i.addr with
    | .go d _ => s.destSite d == s.foc || s.inputFree s.foc i.vc
    | .drop _ => true
    | .seek _ => s.inputFree s.foc i.vc)

/-- The first message in turn that may leave and waits neither behind its class nor for tokens already, nor for a refill that is due. -/
def State.injPick (s : State) : Option (Nat × Inj) :=
  s.tile.injOrder.findSome? fun k => (s.tile.inj[k]?).bind fun i =>
    if s.mayEnter k i && !s.classHeld i && (s.affords i || !s.denied i) && ((s.costOf i).isNone || !(s.field (fieldOf s.foc)).refillDue) then
      some (k, i) else none

/-- INJECTION (R229): the first message in turn that may leave does; one that lacks tokens begins to wait, and the later messages of its
class with it (R436). -/
def execInjection (s : State) : Out :=
  match s.injPick with
  | none => .next s
  | some (k, i) => .next (if s.affords i then s.injectAt k i else s.deny i)

/-- The focus thread offers a message to the port (R225, R229): if it is the port's next it enters at once, and the thread is past its
instruction; else the thread stays in RUN until INJECTION takes it. -/
def State.offer (s : State) (i : Inj) : State :=
  let s1 := s.push s.foc i
  match s1.injPick with
  | some (k, j) => if k + 1 = s1.tile.inj.length ∧ s1.affords j then (s1.injectAt k j).cycle else s1.stall
  | none => s1.stall

/-- SEEK_ANSWER (R131): the answer ends the seek of its channel. -/
def execSeekAnswer (vc : BitVec 4) (s : State) : Out :=
  match s.net.find? fun f => f.atTile s.foc && (match f.msg with
      | .seekAnswer n => s.tile.seeks.any fun x => x.1 == vc && x.2.addr == .name n
      | _ => false) with
  | none => .next s
  | some f => .next { s with net := s.net.erase f, tile := { s.tile with seeks := s.tile.seeks.filter (·.1 != vc) } }

/-- The seek of the focus tile for name n on a channel is still on its way, or its answer is. -/
def State.seeking (s : State) (vc : BitVec 4) (n : BitVec 32) : Bool :=
  s.net.any fun f => match f.msg with
    | .seek _ _ => f.src == s.foc && f.vc == vc && f.name == some n
    | .seekAnswer m => f.dest == .tile s.foc && m == n
    | _ => false

/-- SEEK_UNRESOLVED (R131): the flood ended and no tile of the hall bears the name; the steward reports it into queue HID with OP2 = 1, and
its management agent, which sources seek answers too (R378), sends the one with which the channel goes on (DEDUCED, log 69). -/
def execSeekUnresolved (vc : BitVec 4) (s : State) : Out :=
  match s.tile.seeks.find? (·.1 == vc) with
  | none => .next s
  | some (_, i) =>
    match i.addr with
    | .name n =>
      if s.seeking vc n then .next s
      else
        let m := match i.msg with
          | .packet p => .packet (stampPacket s.tile p)
          | m => m
        let f : Flight := ⟨m, i.vc, s.foc, .tile s.foc, s.foc, s.tile.r.name.setWidth 32, some n, if s.tile.sys then 0 else s.tile.hid,
          s.tile.sys, 0, [], 0, 0⟩
        let g := s.tileSteward s.foc
        .next ((s.unitReport s.foc Cause.entryInvalid f.header.1 f.header.2 1).send (.seekAnswer n) 15 (gallerySite g) (.tile s.foc)
          (serviceName g) none 0 true)
    | _ => .next s

end Sys2Proof.Machine
end

