-- ==== Sys2Proof/Machine/Message.lean ====
section
/-! DEFINITION. Messages and decrements: SEND, SENDI, FWD and POST (R224 to R228), the release (R145), and firing successors (R51). -/

namespace Sys2Proof.Machine

/-- Every earlier access, engine operation and copy of the thread is performed or complete: the wait of a release (R145). -/
def State.released (s : State) : Bool :=
  let t := s.th
  t.outc == ⟨0, 0, 0, 0⟩ && !(s.tile.ops.any fun o => o.tid == s.tid) && !(s.tile.copies.any fun c => c.tid == s.tid)

/-- Destination named by a DEST operand (R224): a name, or hall-relative coordinates for VC12 (R225). -/
def State.destOf (s : State) (named : Bool) (vc : BitVec 4) (w : BitVec 32) : Addr × BitVec 32 :=
  if named then (.name w, w)
  else
    let c := coordOfDest w
    let (x0, y0, _, _) := s.hallBox s.tile.hid.toNat
    let c := if vc = 12 ∧ !s.tile.sys then ⟨c.x + x0, c.y + y0⟩ else c
    (.dest (.tile c), coordDest c)

/-- A message of the thread may follow its earlier ones into the port: those that its tree operations still have to send come first
(R229, R349, R372). -/
def State.sendFree (s : State) : Bool := s.portFree && !(s.tile.ops.any fun o => o.tid == s.tid && o.eng == .tree)

/-- A packet of the focus thread for the port; HALL and NAME are stamped there (R125). -/
def State.packetOf (s : State) (named : Bool) (vc : BitVec 4) (dest : BitVec 32) (nsucc : BitVec 3) (narrow tcm : Bool)
    (entry : BitVec 10) (len : BitVec 4) (tag : BitVec 32) (payload : List Word) (e : Entered) : Inj :=
  let (addr, d) := s.destOf named vc dest
  let w0 := headerWord d s.tile.hid named nsucc narrow tcm entry vc len
  ⟨some s.tid, vc, addr, .packet ⟨w0, tag ++ s.tile.r.name.setWidth 32, payload, s.tile.sys⟩, e⟩

/-- VC12 needs a pinned thread, but for the tile's own contribution to itself (R224). After a REDPIN in the same handler the pin is the one
in force until the handler ends, not the one recorded (DESIGN CHOICE, log 70). -/
def State.vc12Ok (s : State) (ctl : Ctl) (dest : BitVec 32) : Bool :=
  ctl.vc != 12 || s.th.pinNow || (!ctl.named && (s.destOf false 12 dest).1 == .dest (.tile s.foc))

/-- A coordinate DEST with bits [9:0] set is illegal (R225). -/
def destBad (named : Bool) (dest : BitVec 32) : Bool := !named && dest.extractLsb' 0 10 != 0

/-- Local addresses of the k words of a SEND's payload at p; none where one is not permitted (R104, R44, R113). -/
def State.payloadAddrs (s : State) (p k : Nat) : Option (List Nat) :=
  if p + 8 * k ≤ 0x10000 then (List.range k).mapM fun i => s.tile.readAddr (p + 8 * i)
  else if s.th.ownCells p (8 * k) then some ((List.range k).map fun i => poolAddr (p + 8 * i))
  else none

/-- SEND (R225). -/
def execSend (gd : Guard) (a b c : GReg) (ctl : Ctl) (s : State) : Out :=
  guarded gd 3 s fun s =>
    let dest : BitVec 32 := (s.gr a).setWidth 32
    let p := (s.gr b).toNat
    if !s.vc12Ok ctl dest then .next (s.trap Cause.priv 0)
    else if p % 16 ≠ 0 then .next (s.trap Cause.misalign (s.gr b))
    else match s.payloadAddrs p (2 * ctl.len.toNat) with
      | none => .next (s.trap Cause.sramBound (s.gr b))
      | some as =>
        if destBad ctl.named dest then .next s.trapIllegal
        else if as.any s.tile.wqHolds then .next s.stall
        else match as.find? fun x => s.damaged (s.pa x) 8 with
          | some x => .next ((s.markBad (s.pa x) 8).trap Cause.ecc (BitVec.ofNat 64 x))
          | none =>
            whenReady s.sendFree s fun s =>
            .next (s.offer (s.packetOf ctl.named ctl.vc dest ctl.nsucc ctl.narrow s.th.tcm ctl.entry ctl.len ((s.gr c).setWidth 32)
              (as.map fun x => s.load (s.pa x) 8) (.sent 3)))

/-- SENDI (R226): the payload is gb and ge, or gb and the literal. -/
def execSendi (gd : Guard) (a b c : GReg) (e : RegLit) (ctl : Ctl) (s : State) : Out :=
  guarded gd (regLitWords e) s fun s =>
    let dest : BitVec 32 := (s.gr a).setWidth 32
    if !s.vc12Ok ctl dest then .next (s.trap Cause.priv 0)
    else if destBad ctl.named dest then .next s.trapIllegal
    else whenReady s.sendFree s fun s => .next (s.offer (s.packetOf ctl.named ctl.vc dest ctl.nsucc ctl.narrow s.th.tcm ctl.entry ctl.len ((s.gr c).setWidth 32)
        [s.gr b, regLitVal s e] (.sent (regLitWords e))))

/-! ### The dispatched packet -/

/-- Word i of the packet in the cells from c0, wrapping at the pool's end (R44, R369). -/
def State.cellWord (s : State) (c0 i : Nat) : Word := s.load (s.pa (0x20000 + (32 * c0 + 8 * i) % 0x2000)) 8

/-- FWD (R227). -/
def execFwd (gd : Guard) (a : GReg) (named : Bool) (vc : BitVec 3) (entry : BitVec 10) (s : State) : Out :=
  guarded gd 3 s fun s =>
    let dest : BitVec 32 := (s.gr a).setWidth 32
    match s.th.work with
    | .packet c0 _ =>
      if s.th.fwdUsed || destBad named dest then .next s.trapIllegal
      else whenReady s.sendFree s fun s =>
        let h := s.cellWord c0 0
        let len := hdrLen h
        let ws := (List.range (2 * len)).map fun i => s.cellWord c0 (2 + i)
        .next (s.offer (s.packetOf named (vc.zeroExtend 4) dest (hdrNsucc h) (hdrNarrow h) (hdrTcm h) entry (BitVec.ofNat 4 len)
          ((s.cellWord c0 1).extractLsb' 32 32) ws (.fwd 3)))
    | _ => .next s.trapIllegal

/-- POST (R228): a release. -/
def execPost (gd : Guard) (a b : GReg) (named : Bool) (vc : BitVec 4) (amount : BitVec 8) (s : State) : Out :=
  guarded gd 3 s fun s =>
    let dest : BitVec 32 := (s.gr a).setWidth 32
    if 0xFFFF < (s.gr b).toNat then .next (s.trap Cause.sramBound (s.gr b))
    else if destBad named dest then .next s.trapIllegal
    else whenReady (s.released && s.sendFree) s fun s =>
      .next (s.offer ⟨some s.tid, vc, (s.destOf named vc dest).1, .decr (s.gr b) amount.toNat, .sent 3⟩)

/-- The decrement of one successor handle (R51, R126): fired, skipped, or refused. -/
def handleInj (tid : Tid) (w : Word) : Option Inj × Bool :=
  let vc := (w.extractLsb' 56 8).toNat
  let amount := (w.extractLsb' 48 8).toNat
  let name : BitVec 32 := w.extractLsb' 0 32
  if name = 0 then (none, false)
  else if (vc ≤ 7 ∨ vc = 13) ∧ amount ≠ 0 then
    (some ⟨some tid, BitVec.ofNat 4 vc, .name name, .decr ((w.extractLsb' 32 16).zeroExtend 64 <<< 3) amount, .fire⟩, false)
  else (none, true)

/-- Marks the last firing as the one after whose injection the cells are free and the handler has ended (R240 steps 3 and 4). -/
def markLast (is : List Inj) (c0 : Nat) : List Inj :=
  match is with
  | [] => []
  | [i] => [{ i with entered := .last c0 }]
  | i :: r => i :: markLast r c0

/-- What DONE does once its release is complete (R51, R240): fires, in RUN until the last firing has been injected, then frees the cells and
ends the handler. R51 does not say what the report of a handle that is not fired holds besides its cause: here the thread's ENTRY and PC,
and operands of 0 (DESIGN CHOICE, log 12). -/
def State.endHandler (s : State) : State :=
  match s.th.work with
  | .packet c0 _ =>
    let h := s.cellWord c0 0
    let n := (hdrNsucc h).toNat
    let handles := if s.th.fwdUsed then [] else
      (List.range n).map fun i => handleInj s.tid (s.cellWord c0 (2 + 2 * hdrLen h - (n - i)))
    let fired := handles.filterMap (·.1)
    let bad := (handles.filter (·.2)).length
    let info : TrapInfo := ⟨Cause.entryInvalid, s.th.pc12, 0, 0, 0, 0, 0⟩
    let rep (t : Tile) : Tile := t.pushReport none (t.recordOf s.wtime s.foc (s.th.entry.setWidth 16) 1 s.tid.val info)
    let t1 := (List.range bad).foldl (fun t _ => rep t) s.tile
    if fired.isEmpty then ({ s with tile := t1.freeCells c0 }.retired).mapTh (·.finish)
    else ({ s with tile := { t1 with inj := t1.inj ++ markLast fired c0 } } : State).stall
  | _ => s.retired.mapTh (·.finish)

end Sys2Proof.Machine
end

