-- ==== Sys2Proof/Machine/Copy.lean ====
section
/-! DEFINITION. The engine queues as operations enter them (R52, R53), copies and publishing (R231 to R234), and copy tags (R56, R235). -/

namespace Sys2Proof.Machine

/-! ### Entering an engine queue -/

/-- Operations of thread i waiting in its queue at engine e; an executing one has left it (R52). -/
def Tile.queued (t : Tile) (i : Tid) (e : Engine) : Nat := (t.ops.filter fun o => o.tid == i && o.eng == e && !o.started).length

/-- Unconfirmed operations of thread i (R53). -/
def Tile.unconfirmed (t : Tile) (i : Tid) : Nat := (t.ops.filter fun o => o.tid == i && !o.confirmed).length

/-- The queue has room and the thread stays within eight unconfirmed operations (R52, R53). -/
def State.engineRoom (s : State) (e : Engine) : Bool :=
  decide (s.tile.queued s.tid e < 2 ∧ s.tile.unconfirmed s.tid < 8)

/-- The operation returns a value to a g register as it completes, until when its instruction has not retired (R54). -/
def TreeOp.returns : TreeOp → Bool
  | .sel .. | .new .. | .stat .. => true
  | _ => false
def QOp.returns (o : QOp) : Bool := match o.op with
  | .tree t => t.returns
  | _ => false
def QOp.isLeaf (o : QOp) : Bool := match o.op with
  | .tree (.leaf ..) => true
  | _ => false
/-- An operation of thread i is unconfirmed, or belongs to an instruction that has not retired, or is a TLEAF that has not sent its
record: the thread is at no instruction boundary at which it could stop (R53, R54, R346). -/
def Tile.holding (t : Tile) (i : Tid) : Bool := t.ops.any fun o => o.tid == i && (!o.confirmed || o.returns || o.isLeaf)

def State.checkpoint (s : State) : Checkpoint := ⟨s.th.g, s.th.p, s.th.pc12, s.th.fflags, s.th.srseq, s.th.loop⟩

/-- Copy tag of an operation (R56). -/
def CopOp.tag : CopOp → BitVec 6
  | .copy c => c.tag
  | .stb t _ _ _ | .acld t _ _ _ | .acst t _ _ _ _ _ _ _ | .acmv t _ _ _ | .msgrad _ t _ _ _ _ _ _ => t
def EOp.tagWas (t : Tile) : EOp → Bool
  | .cop o => t.r.tags.getLsbD o.tag.toNat
  | _ => false

/-- The operation enters its thread's queue (R52). -/
def State.enqueue (s : State) (e : Engine) (op : EOp) (words : Nat) (confirmed : Bool) : State :=
  let q : QOp := ⟨s.nextSeq, s.tid, e, op, s.th.pc12, words, s.th.tcm, s.th.rmode, s.th.srseq, s.checkpoint, op.tagWas s.tile, false,
    none, confirmed⟩
  { s with nextSeq := s.nextSeq + 1, tile := { s.tile with ops := s.tile.ops ++ [q] } }

/-- TOPS rises while a matrix, vector or tree operation is queued or executing (R55). -/
def Thread.addTop (t : Thread) : Thread := { t with outc := { t.outc with tops := t.outc.tops + 1 } }

/-- Issues a matrix, vector or tree operation of n words; a full queue stalls the thread and counts event 0x08 (R52, R245). -/
def issueTop (e : Engine) (op : EOp) (n : Nat) (s : State) : Out :=
  if s.engineRoom e then .next (((s.enqueue e op n false).mapTh (·.addTop)).retire n)
  else .next (s.stallEach 0x08)

/-! ### Copy tags -/

def tagBit (t : BitVec 6) : Word := (1 : Word) <<< t.toNat
def Tile.tagBusy (t : Tile) (g : BitVec 6) : Bool := t.busy &&& tagBit g != 0
/-- Issuing a copy clears the tag's DONE bit and marks it busy (R56). -/
def Tile.tagIssue (t : Tile) (g : BitVec 6) : Tile :=
  { t with busy := t.busy ||| tagBit g, r := { t.r with tags := t.r.tags &&& ~~~tagBit g } }
/-- The condition of WTAG.ANY or WTAG.ALL (R235). -/
def tagCond (all : Bool) (m tags : Word) : Bool := if all then tags &&& m == m else m == 0 || tags &&& m != 0
/-- A thread in WTAG whose condition the tags meet goes on after it (R236). -/
def Thread.wtagWake (tags : Word) (t : Thread) : Thread :=
  match t.state, t.wait with
  | .wtag, .wtag all m n => if tagCond all m tags then ({ t with state := .run, wait := .none } : Thread).advance n else t
  | _, _ => t
/-- The step that sets a tag ends every wait that it satisfies, so that no later clear of the tag is missed (R236). -/
def Tile.wtagWakes (t : Tile) : Tile :=
  let woken := (List.finRange 4).filter fun i => (t.th i).state == .wtag && ((t.th i).wtagWake t.r.tags).state != .wtag
  ({ t with threads := t.threads.map fun (h : Thread) => h.wtagWake t.r.tags } : Tile).count 0x02 (BitVec.ofNat 64 woken.length)

/-- Completion sets the bit and the tag is not busy (R56). -/
def Tile.tagDone (t : Tile) (g : BitVec 6) : Tile :=
  { t with busy := t.busy &&& ~~~tagBit g, r := { t.r with tags := t.r.tags ||| tagBit g } }
def Thread.addCopy (t : Thread) : Thread := { t with outc := { t.outc with copies := t.outc.copies + 1 } }

/-- Issues a copy-engine operation on a tag (R55, R56, R232); one that rounds under mode 5 advances SRSEQ by `adv` (R251). -/
def issueCop (e : Engine) (op : CopOp) (n : Nat) (confirmed : Bool) (adv : Nat) (s : State) : Out :=
  whenReady (decide (s.th.outc.copies < 16)) s fun s =>
    if decide (s.tile.queued s.tid e < 2) && (confirmed || decide (s.tile.unconfirmed s.tid < 8)) then
      .next ((((s.enqueue e (.cop op) n confirmed).mapTile (·.tagIssue op.tag)).mapTh fun t =>
        { t.addCopy with srseq := t.srseq + BitVec.ofNat 64 adv }).retire n)
    else .next (s.stallEach 0x08)

/-! ### Copies -/

/-- The lines of a local source range (R232): data SRAM without B ranges, the cell store, or the thread's own cells. -/
def State.copySrcOk (s : State) (a n : Nat) : Bool :=
  n == 0 ||
  (if a < 0x10000 then decide (a + 64 * n ≤ 0x10000) && (List.range n).all fun i => s.tile.window_ (a / 64 + i) != .bRange
   else if 0x30000 ≤ a then decide (a + 64 * n ≤ 0x34000)
   else s.th.ownCells a (64 * n))
/-- A local destination range (R232). -/
def State.copyDstOk (s : State) (a n : Nat) : Bool :=
  n == 0 ||
  (if a < 0x10000 then decide (a + 64 * n ≤ 0x10000) && !s.tile.inEntries a (64 * n) &&
      (List.range n).all fun i => s.tile.window_ (a / 64 + i) != .bRange
   else decide (0x30000 ≤ a ∧ a + 64 * n ≤ 0x34000))

/-- Alignment of a local source: 32 in the inbox pool, else 64 (R232). -/
def srcAligned (a : Nat) : Bool := if 0x20000 ≤ a ∧ a < 0x24000 then a % 32 == 0 else a % 64 == 0

/-- The checks of a copy that come before its addresses (R232). -/
def copyHead (tag : BitVec 6) (dsc : Option GReg) (s : State) (k : Option Desc → Out) : Out :=
  if s.tile.tagBusy tag then .next (s.trap Cause.tagInvalid 0)
  else match dsc with
    | none => k none
    | some c =>
      let d : Desc := (s.gr c).setWidth 32
      if dLegal d then k (some d) else .next (s.trap Cause.formatMismatch 0)

/-- The local addresses of a copy, checked (R232): the alignment of each, then the range of each. -/
def localChecks (srcs dsts : List Word) (n : Nat) (s : State) (k : Out) : Out :=
  match srcs.find? fun a => !srcAligned a.toNat, dsts.find? fun a => a.toNat % 64 != 0 with
  | some a, _ | none, some a => .next (s.trap Cause.misalign a)
  | none, none =>
    match srcs.find? fun a => !s.copySrcOk a.toNat n, dsts.find? fun a => !s.copyDstOk a.toNat n with
    | some a, _ | none, some a => .next (s.trap Cause.sramBound a)
    | none, none => k
/-- A device range of n lines, checked under R116 with 64-byte alignment in space 0 (R232). -/
def deviceRange (sp : BitVec 16) (a : Word) (n : Nat) (s : State) (k : Word → Out) : Out :=
  match deviceFault s.tile false sp a.toNat (64 * n) 64 with
  | some c => .next (s.trap c a)
  | none => k a

/-- A copy of n lines that has passed its checks (R232): one of no lines completes at once, unless an earlier engine operation of the
thread, which could still discard it, is unconfirmed (R53). -/
def startCopy (tag : BitVec 6) (kind : CopyKind) (n : Nat) (d : Option Desc) (s : State) : Out :=
  whenReady (decide (s.th.outc.copies < 16)) s fun s =>
    if n = 0 ∧ s.tile.unconfirmed s.tid = 0 then .next ((s.mapTile fun t => ((t.tagIssue tag).tagDone tag).wtagWakes).retire 3)
    else
      let r : CopyRec := ⟨s.nextId, s.tid, tag, kind, n, d, s.th.pc12, 0, 0, false, none, none⟩
      issueCop .copy (.copy r) 3 true 0 { s with nextId := s.nextId + 1 }

/-- CPY (R231, R232). -/
def execCpy (gd : Guard) (tag : BitVec 6) (d a b : GReg) (dsc : Option GReg) (s : State) : Out :=
  guarded gd 3 s fun s => copyHead tag dsc s fun ds =>
    let n := (s.gr b).toNat
    localChecks [s.gr a] [s.gr d] n s (startCopy tag (.loc (s.gr d).toNat (s.gr a).toNat) n ds s)
/-- CPYX.G (R231, R232): from a device range to a local one. -/
def execCpyxG (gd : Guard) (tag : BitVec 6) (space : BitVec 16) (d a b : GReg) (dsc : Option GReg) (s : State) : Out :=
  guarded gd 3 s fun s => copyHead tag dsc s fun ds =>
    let n := (s.gr b).toNat
    localChecks [] [s.gr d] n s (deviceRange space (s.gr a) n s fun off => startCopy tag (.get (s.gr d).toNat space off) n ds s)
/-- CPYX.P (R231, R232): from a local range to a device one. -/
def execCpyxP (gd : Guard) (tag : BitVec 6) (space : BitVec 16) (d a b : GReg) (dsc : Option GReg) (s : State) : Out :=
  guarded gd 3 s fun s => copyHead tag dsc s fun ds =>
    let n := (s.gr b).toNat
    localChecks [s.gr d] [] n s (deviceRange space (s.gr a) n s fun off => startCopy tag (.put (s.gr d).toNat space off) n ds s)

/-- COPY_COMPLETE (R56, R232, R233): a copy on the tag with every line done, or stopped by a fault, sets its tag and lowers COPIES. -/
def CopyRec.finished (c : CopyRec) : Bool := c.complete == c.n || c.failed
def execCopyComplete (tag : BitVec 6) (s : State) : Out :=
  match s.tile.copies.find? fun c => c.tag == tag && c.finished with
  | none => .next s
  | some c =>
    .next (s.mapTile fun t =>
      (({ t with copies := t.copies.filter fun x => x.id != c.id }.tagDone tag).mapTh c.tid fun h =>
        { h with outc := { h.outc with copies := h.outc.copies - 1 } }).wtagWakes)

/-! ### PUBL -/

/-- The operation is one whose completion a PUBL of its thread awaits: all but copies elsewhere than into data SRAM (R155). -/
def EOp.publWaits : EOp → Bool
  | .cop (.copy c) => match c.kind with
    | .loc d _ | .get d _ _ => decide (d < 0x10000)
    | .put _ _ _ => false
  | .cop (.acld ..) | .cop (.acmv ..) => false
  | _ => true
def CopyKind.intoSram : CopyKind → Bool
  | .loc d _ | .get d _ _ => decide (d < 0x10000)
  | .put _ _ _ => false

/-- Flips VIS of window w in one step (R114). -/
def Tile.flip (t : Tile) (w : Nat) : Tile :=
  { t with r := { t.r with pwin := setV4 t.r.pwin w (getV4 t.r.pwin w ^^^ 0x4000000000000000) } }
/-- The publish of window w of the focus tile: the flip, with which the writes to the half that it exposes are performed (R139) and wake the
waiters of their words (R222). -/
def State.publish (s : State) (w : Nat) : State :=
  let t := s.tile.flip w
  let shown := t.hidden.filter fun x => !t.hiddenLine (x.1 / 64)
  shown.foldl (fun (s : State) x => s.mapTile fun t => { t with monitors := s.fired s.foc t x.1 x.2 })
    { s with tile := { t with hidden := t.hidden.filter fun x => t.hiddenLine (x.1 / 64) } }

/-- PUBL (R234, R155). -/
def execPubl (gd : Guard) (w : BitVec 2) (s : State) : Out :=
  guarded gd 3 s fun s =>
    if !pwinEn (getV4 s.tile.r.pwin w.toNat) then .next s.trapIllegal
    else whenReady (!(s.tile.ops.any fun o => o.tid == s.tid && o.op.publWaits) &&
        !(s.tile.copies.any fun c => c.tid == s.tid && c.kind.intoSram)) s fun s =>
      .next ((s.publish w.toNat).retire 3)

/-! ### Tag waits (R235, R236) -/

/-- WTAG (R235): returns, traps TAG_INVALID, or waits with the PC at the instruction. -/
def wtag (all : Bool) (m : Word) (n : Nat) (s : State) : Out :=
  let t := s.tile
  let live := t.busy ||| t.r.tags
  if (if all then m &&& ~~~live != 0 else m != 0 && m &&& live == 0) then .next (s.trap Cause.tagInvalid 0)
  else if tagCond all m t.r.tags then .next (s.retire n)
  else .next (s.cycle.mapTh fun h => { h with state := .wtag, wait := .wtag all m n })

/-- FTAG and FTAG.C (R235). -/
def ftag (clear : Bool) (d : GReg) (m : Word) (n : Nat) (s : State) : Out :=
  let x := s.tile.r.tags &&& m
  let i := ctz64 x
  let s1 := if clear ∧ i < 64 then s.mapTile fun t => { t with r := { t.r with tags := t.r.tags &&& ~~~((1 : Word) <<< i) } } else s
  .next ((s1.setG d (BitVec.ofNat 64 i)).retire n)
/-- TCLR (R235). -/
def tclr (m : Word) (n : Nat) (s : State) : Out :=
  .next ((s.mapTile fun t => { t with r := { t.r with tags := t.r.tags &&& ~~~(m &&& ~~~t.busy) } }).retire n)

/-- WTAG.ANY (R235). -/
def execWtagAny (a : GReg) (s : State) : Out := wtag false (s.gr a) 1 s
/-- WTAG.ALL (R235). -/
def execWtagAll (a : GReg) (s : State) : Out := wtag true (s.gr a) 1 s
/-- FTAG (R235). -/
def execFtag (d a : GReg) (s : State) : Out := ftag false d (s.gr a) 1 s
/-- FTAG.C (R235). -/
def execFtagC (d a : GReg) (s : State) : Out := ftag true d (s.gr a) 1 s
/-- TCLR (R235). -/
def execTclr (a : GReg) (s : State) : Out := tclr (s.gr a) 1 s
/-- WTAG.ANY with a literal mask (R235). -/
def execWtagAnyLiteral (m : Word) (s : State) : Out := wtag false m 3 s
/-- WTAG.ALL with a literal mask (R235). -/
def execWtagAllLiteral (m : Word) (s : State) : Out := wtag true m 3 s
/-- FTAG with a literal mask (R235). -/
def execFtagLiteral (d : GReg) (m : Word) (s : State) : Out := ftag false d m 3 s
/-- FTAG.C with a literal mask (R235). -/
def execFtagCLiteral (d : GReg) (m : Word) (s : State) : Out := ftag true d m 3 s
/-- TCLR with a literal mask (R235). -/
def execTclrLiteral (m : Word) (s : State) : Out := tclr m 3 s

/-- WTAG_WAKE (R236): the focus thread's WTAG ends, its condition holding. -/
def execWtagWake (s : State) : Out :=
  let t := s.th.wtagWake s.tile.r.tags
  if s.th.state == .wtag && t.state != .wtag then .next ((s.setTh t).mapTile (·.count 0x02 1)) else .next s

end Sys2Proof.Machine
end

