-- ==== Sys2Proof/Machine/System.lean ====
section
/-! DEFINITION. Waits on counters, fences and the system instructions (R237 to R245). -/

namespace Sys2Proof.Machine

/-- WAITC (R237). -/
def execWaitc (l st c t : BitVec 4) (s : State) : Out :=
  let o := s.th.outc
  whenReady (decide (o.loads ≤ l.toNat ∧ o.stores ≤ st.toNat ∧ o.copies ≤ c.toNat ∧ o.tops ≤ t.toNat)) s fun s => .next (s.retire 1)

/-! ### Fences (R149 to R151, R238) -/

/-- Tile c lies in the scope of a fence by the focus tile (R57): 0 T, 1 B, 2 F, 3 H, 4 W, 5 S. -/
def State.inScope (s : State) (scope : Nat) (c : Coord) : Bool :=
  match scope with
  | 0 => false
  | 1 => c == s.foc || blockOf c == blockOf s.foc
  | 2 => c == s.foc || (blockOf c == blockOf s.foc) || fieldOf c == fieldOf s.foc
  | 3 =>
    let t := s.tileAt c
    c == s.foc || blockOf c == blockOf s.foc || fieldOf c == fieldOf s.foc || (!t.sys && !s.tile.sys && t.hid == s.tile.hid)
  | _ => true

/-- A fence of the scope waits for this outstanding request. -/
def State.fenceWaits (s : State) (scope : Nat) (p : Pend) : Bool :=
  match p.kind with
  | .copy _ _ _ | .waitv _ => false
  | _ => if p.loc then true else if p.space = 0 then s.inScope scope (offCoord p.off) else scope == 5

/-- A fence of the scope waits for this copy: those with a local destination, then those to tiles in scope. -/
def State.fenceCopy (s : State) (scope : Nat) (k : CopyKind) : Bool :=
  match k with
  | .loc _ _ | .get _ _ _ => true
  | .put _ sp off => if sp = 0 then s.inScope scope (offCoord off) else scope == 5

/-- A request that its entry port has translated and another unit has still to perform: on its way, or among a port's operations. -/
def State.underway (s : State) (f : Req → Bool) : Bool :=
  (s.net.any fun x => match x.msg with
    | .req r => r.fwd.isSome && f r
    | _ => false) || s.ports.any fun x => x.2.devOps.any f

/-- A side log holds an entry of the focus tile, or a replay has one still to perform (R150, R414). -/
def State.logHeld (s : State) : Bool :=
  let mine (r : Req) : Bool := r.who.src == s.foc && r.who.agent.isNone
  s.ports.any fun x => x.2.log.any mine || x.2.replays.any fun y => y.sent.any fun r => mine r && s.underway (·.who == r.who)

/-- Every access that a fence of the scope covers is performed (R149); FENCE.S also waits for the tile's side-log entries (R150). -/
def State.fenceReady (s : State) (scope : Nat) : Bool :=
  let mine (o : QOp) : Bool := o.tid == s.tid && match o.op with
    | .cop (.copy c) => s.fenceCopy scope c.kind
    | _ => true
  let logs : Bool := ((List.finRange 4).any fun i => (s.tile.th i).pends.any (·.logged)) || s.logHeld
  !(s.th.pends.any fun p => !p.logged && s.fenceWaits scope p) && !(s.tile.ops.any mine) &&
    !(s.tile.copies.any fun c => c.tid == s.tid && s.fenceCopy scope c.kind) && (scope != 5 || !logs)

/-- FENCE (R238). -/
def execFence (scope : BitVec 3) (s : State) : Out := whenReady (s.fenceReady scope.toNat) s fun s => .next (s.retire 1)

/-- A loop-back access of the thread that is not performed yet: not an engine operation's (R151). -/
def State.loopBack (s : State) (p : Pend) : Bool :=
  !p.loc && p.space == 0 && offCoord p.off == s.foc && (match p.kind with
    | .copy _ _ _ | .leaf _ _ => false
    | _ => true)

/-- LOOPF (R151): loop-back accesses performed; private-alias accesses are performed as they issue. -/
def execLoopf (s : State) : Out := whenReady (!(s.th.pends.any s.loopBack)) s fun s => .next (s.retire 1)

/-! ### Ending a handler -/

/-- The release of an instruction that ends a handler: its earlier accesses, operations and copies are over, and no message of the thread
waits at the port (R145, R229, R240). -/
def State.mayEnd (s : State) : Bool := s.released && s.portFree

/-- DONE (R240). -/
def execDone (s : State) : Out := whenReady s.mayEnd s fun s => .next s.endHandler
/-- DONE with a guard (R240). -/
def execDoneXForm (gd : Guard) (s : State) : Out := guarded gd 3 s fun s => whenReady s.mayEnd s fun s => .next s.endHandler

/-- YIELD (R241): the record's whole COUNT is taken in one step of R47. -/
def yielding (a : Word) (s : State) : Out :=
  if a.toNat % 16 ≠ 0 then .next (s.trap Cause.misalign a)
  else if 0x10000 ≤ a.toNat ∨ s.tile.inEntries a.toNat 16 then .next (s.trap Cause.sramBound a)
  else whenReady (s.mayEnd && !s.tile.wqHolds a.toNat) s fun s => inTurn a.toNat s fun s =>
    .next (s.decrement s.foc a (recCount (s.load (s.pa a.toNat) 8))).endHandler
/-- YIELD (R241). -/
def execYield (a : GReg) (s : State) : Out := yielding (s.gr a) s
/-- YIELD with a guard (R241). -/
def execYieldXForm (gd : Guard) (a : GReg) (s : State) : Out := guarded gd 3 s fun s => yielding (s.gr a) s

/-! ### Halting and trapping by instruction (R243) -/

/-- HALT (R243). -/
def execHalt (s : State) : Out := .next (s.mapTh (·.halted 1))

/-- TRAP, BRK: the trap is the instruction's effect; a resume continues at the following instruction (R243). -/
def softTrap (cause : BitVec 8) (op0 op1 op2 : Word) (n : Nat) (s : State) : Out :=
  .next ((s.trapWith cause 0 op0 op1 op2 0).mapTh fun t => { t with resumeSkip := n })
/-- BRK (R243). -/
def execBrk (s : State) : Out := softTrap Cause.breakpoint 0 0 0 1 s
/-- BRK with a code (R243). -/
def execBrkXForm (gd : Guard) (code : BitVec 16) (s : State) : Out :=
  guarded gd 3 s fun s => softTrap Cause.breakpoint (code.zeroExtend 64) 0 0 3 s
/-- TRAP (R243): bit 1 of operand 2 marks it software-raised. -/
def execTrap (gd : Guard) (a b : GReg) (cause : BitVec 8) (s : State) : Out :=
  guarded gd 3 s fun s => softTrap cause (s.gr a) (s.gr b) 2 3 s

/-! ### REDPIN, PERF -/

/-- Another thread has a pin recorded, or an unpin in the handler it still runs (R244). -/
def State.pinTaken (s : State) : Bool :=
  (List.finRange 4).any fun i => i != s.tid && ((s.tile.th i).pinRec || (s.tile.th i).unpinned)

/-- REDPIN (R244). -/
def execRedpin (d a : GReg) (s : State) : Out :=
  let want := (s.gr a).getLsbD 0
  let now := if want then s.th.pinRec || !s.pinTaken else false
  let s1 := s.mapTh fun t => { t with pinRec := now, unpinned := if want then t.unpinned && !now else true }
  .next ((s1.setG d (if now then 1 else 0)).retire 1)

/-- PERF (R245): adds to the software event's counters and reads LCYC. -/
def execPerf (d a : GReg) (s : State) : Out :=
  let s1 := s.mapTile (·.count 0x0A (((s.gr a).setWidth 32).zeroExtend 64))
  .next ((s1.setG d (s.field (fieldOf s.foc)).lcyc).retire 1)

/-! ### SCALL (R242) -/

/-- Name of the ring port that SCALL uses; 0 for none (R381). -/
def Tile.ringName (t : Tile) : BitVec 32 := t.pr.trapdest.extractLsb' 32 32

/-- SCALL: checks, release, the call record on VC14, and the wait for its reply, which `SCALL_REPLY` brings. -/
def execScall (gd : Guard) (d a b : GReg) (len : BitVec 2) (entry : BitVec 10) (s : State) : Out :=
  guarded gd 3 s fun s =>
    match s.th.wait with
    | .scall _ (some w) =>
      let s1 := s.mapTh fun t => { t with wait := .none }
      if w.extractLsb' 0 8 = 0xFF then .next (s1.trap Cause.scallFault 0) else .next ((s1.setG d w).retire 3)
    | .scall _ none => .next s.stall
    | _ =>
      let k := 2 * (len.toNat + 1)
      let p := s.gr a
      if p.toNat % 16 ≠ 0 then .next (s.trap Cause.misalign p)
      else if 0x10000 < p.toNat + 8 * k then .next (s.trap Cause.sramBound p)
      else if !s.entryOk s.foc entry.toNat 14 then .next (s.trap Cause.scallFault 0)
      else match (List.range k).mapM fun i => s.tile.readAddr (p.toNat + 8 * i) with
        | none => .next (s.trap Cause.sramBound p)
        | some as =>
          if as.any s.tile.wqHolds then .next s.stall
          else match as.find? fun x => s.damaged (s.pa x) 8 with
            | some x => .next ((s.markBad (s.pa x) 8).trap Cause.ecc (BitVec.ofNat 64 x))
            | none => whenReady (s.released && s.portFree) s fun s =>
              if s.tile.ringName = 0 then .next (s.trap Cause.scallFault 0)
              else
                let c : CallRec := ⟨s.foc, s.tid, s.tile.hid, (s.gr b).setWidth 32, entry, len, as.map fun x => s.load (s.pa x) 8⟩
                let s1 := s.push s.foc ⟨some s.tid, 14, .name s.tile.ringName, .call c, .no⟩
                .next (s1.mapTh fun t => { t with wait := .scall d none }).stall

/-- SCALL_REPLY (R242, R396): the reply at the tile's port reaches the thread that waits for it. -/
def execScallReply (s : State) : Out :=
  match s.net.find? fun f => f.atTile s.foc && (match f.msg with | .scallReply _ _ => true | _ => false) with
  | some f =>
    match f.msg with
    | .scallReply i w =>
      let s1 := { s with net := s.net.erase f }
      .next (s1.mapTile fun t => t.mapTh i fun h => match h.wait with
        | .scall d none => { h with wait := .scall d (some w), stalled := false }
        | _ => h)
    | _ => .next s
  | none => .next s

end Sys2Proof.Machine
end

