-- ==== Sys2Proof/Machine/Park.lean ====
section
/-! DEFINITION. The saved image of a parked thread (R423, R424) and the pre-emption state PCTX (R419). While a thread is SAVED its
record in `State` stays the authority and the image in the shadow bank is rewritten with it, so that both read alike. -/

namespace Sys2Proof.Machine

def TState.code : TState → Nat
  | .free => 0 | .run => 1 | .waitv => 2 | .wtag => 3 | .pgwait => 4 | .stop => 5 | .halt => 6 | .saved => 7

def Tile.setPctx (t : Tile) (w : Word) : Tile := { t with pr := { t.pr with pctx := w } }
/-- PCTX with STATE replaced. -/
def Tile.setPstate (t : Tile) (n : Nat) : Tile := t.setPctx ((t.pr.pctx &&& ~~~(7 : Word)) ||| BitVec.ofNat 64 n)

/-- The thread has a load or atomic held on a translation fault (R217, R220). -/
def Thread.heldWait (t : Thread) : Bool :=
  t.pends.any fun p => p.held && (match p.kind with
    | .load _ _ | .amo _ _ => true
    | _ => false)

/-- Operand 2 of a deferred fault (R215). -/
def deferredOp2 (further : Nat) : Word := BitVec.ofNat 64 (1 + 256 * min further 255)

/-- The dwords of the saved image other than the v registers, by offset in the thread's area (R423). -/
def Thread.imageWords (t : Thread) : List (Nat × Word) :=
  let d : TrapInfo := t.deferred.getD ⟨0, 0, 0, 0, 0, 0, 0⟩
  let tags (i : Nat) : Word := t.vtag.toList.getD (2 * i + 1) 0 ++ t.vtag.toList.getD (2 * i) 0
  (List.range 32).map (fun i => (8 * i, t.g.toList.getD i 0)) ++
  (List.range 8).map (fun i => (0x500 + 8 * i, tags i)) ++
  (List.range 4).map (fun i => (0x540 + 8 * i, t.m.toList.getD i 0)) ++
  [(0x560, t.p.zeroExtend 64),
   (0x568, BitVec.ofNat 64 ((t.cycles % 2 ^ 32) * 2 ^ 32 + t.savedAs.code * 2 ^ 16 + t.pc12.toNat)),
   (0x570, outcWord t.outc), (0x578, loopWord t.loop),
   (0x580, BitVec.ofNat 64 (t.rstore.length * 2 ^ 20) ||| t.rsp)] ++
  (List.range 8).map (fun i => (0x588 + 8 * i, (t.rstore.getD i 0).zeroExtend 64)) ++
  [(0x5C8, t.entry),
   (0x5D0, BitVec.ofNat 64 ((if t.deferred.isSome then t.further else 0) * 2 ^ 40 + (if t.deferred.isSome then 2 ^ 32 else 0)) |||
     t.pending.zeroExtend 64),
   (0x5D8, d.faddr), (0x5E0, d.op0), (0x5E8, d.op1),
   (0x5F0, if t.deferred.isSome then deferredOp2 t.further else 0), (0x5F8, 0)]

/-- Writes the image of thread i of tile c (R423). -/
def State.saveImage (s : State) (c : Coord) (i : Tid) : State :=
  let t := (s.tileAt c).th i
  let base := shadowBase c + 0x600 * i.val
  let s1 := t.imageWords.foldl (fun s (o, w) => s.store (base + o) 8 w) s
  (List.range 16).foldl (fun s k => s.storeLine (base + 0x100 + 64 * k) (t.v.toList.getD k 0)) s1

/-- Changes thread i of tile c; a SAVED one's image follows (R424). -/
def State.updTh (s : State) (c : Coord) (i : Tid) (f : Thread → Thread) : State :=
  let s1 := s.mapTileAt c fun t => t.mapTh i f
  if ((s1.tileAt c).th i).state = .saved then s1.saveImage c i else s1

/-- Removes every monitor that the thread holds, at whatever home (R222, R389). -/
def State.dropMonitors (s : State) (c : Coord) (i : Tid) : State :=
  let keep (m : Monitor) : Bool := !(m.who.src == c && m.who.tid == i && m.who.agent.isNone)
  let f (t : Tile) : Tile := { t with monitors := t.monitors.filter keep }
  { s with tile := f s.tile, tiles := s.tiles.map fun (k, t) => (k, f t),
           ports := s.ports.map fun (k, p) => (k, { p with monitors := p.monitors.filter keep }) }

end Sys2Proof.Machine
end

