-- ==== Sys2Proof/Machine/Answers.lean ====
section
/-! DEFINITION. Answers to outstanding requests (R215, R217, R219, R222, R233, R424): values written, counts lowered, deferred faults
recorded, for a running thread and for a SAVED one alike; then the trap of a deferred fault and the sending of records and reports
(R164, R215, R386, R388). -/

namespace Sys2Proof.Machine

/-! ### What an answer does to a thread -/

def Thread.dropPend (t : Thread) (id : Nat) : Thread := { t with pends := t.pends.filter (·.id != id) }
def Thread.mapPend (t : Thread) (id : Nat) (f : Pend → Pend) : Thread :=
  { t with pends := t.pends.map fun p => if p.id = id then f p else p }
def Thread.lowerLoads (t : Thread) : Thread := { t with outc := { t.outc with loads := t.outc.loads - 1 } }
def Thread.lowerStores (t : Thread) : Thread := { t with outc := { t.outc with stores := t.outc.stores - 1 } }
def Thread.clearPending (t : Thread) (d : GReg) : Thread := { t with pending := t.pending &&& ~~~((1 : BitVec 32) <<< d.toNat) }

/-- A deferred record of the thread is waiting to be sent. -/
def Thread.deferredUnsent (t : Thread) : Bool :=
  match t.record with
  | some r => r.deferred
  | none => false

/-- Records a refused request: the first is described, later ones are counted (R215). Operand 0 is the space and operand 1 the word
index of the instruction that issued it. -/
def Thread.defer (t : Thread) (cause : BitVec 8) (p : Pend) (op3 : Word) : Thread :=
  if t.deferred.isSome || t.deferredUnsent then { t with further := min 255 (t.further + 1) }
  else { t with deferred := some ⟨cause, 0, p.off, p.space.zeroExtend 64, p.ipc.zeroExtend 64, 1, op3⟩, further := 0 }

/-- PGWAIT ends when no request of the thread is held any more (R217, R220). -/
def Thread.settle (t : Thread) : Thread :=
  if t.state = .pgwait ∧ !t.heldWait then { t with state := .run, wait := .none } else t

/-- Kind of PAGE_FAULT and other causes of a refusal: nothing else of the thread changes but its marks (R215). -/
def Thread.refused (t : Thread) (p : Pend) (cause : BitVec 8) : Thread :=
  let t1 := (t.dropPend p.id)
  match p.kind with
  | .load d _ => (t1.lowerLoads.clearPending d).defer cause p 0
  | .store => t1.lowerStores.defer cause p 0
  | .amo d true => (t1.lowerLoads.clearPending d).defer cause p 0
  | .amo _ false => t1.lowerStores.defer cause p 0
  | .waitv _ => t1.defer cause p 0
  | .copy _ _ _ => t1.defer cause p 0
  | .leaf d k => (t1.lowerLoads.clearPending d).defer cause p (if cause = Cause.treeState then k ++ (6 : BitVec 32) else 0)

/-- The word a WAITV ends with is written, and the thread goes on after it (R222). A wait already ended otherwise is not touched. -/
def Thread.waitvValue (t : Thread) (p : Pend) (d : GReg) (w : Word) : Thread :=
  let t1 := t.dropPend p.id
  match t1.state, t1.wait with
  | .waitv, .waitv id n => if id = p.id then ({ t1.setG d w with state := .run, wait := .none } : Thread).advance n else t1
  | _, _ => t1

/-- A value, acknowledgement, hold or drain, for every kind but copies (R217, R219, R220, R149). A discarded store faults with its
granule's offset (R414). A drain that overtakes the acknowledgement of its store's entry into the log brings that too (R139). -/
def Thread.answered (t : Thread) (p : Pend) (v : AnsVal) : Thread :=
  match v, p.kind with
  | .value w, .load d sz => (((t.dropPend p.id).lowerLoads.clearPending d).setG d (extend sz w))
  | .value w, .amo d true => (((t.dropPend p.id).lowerLoads.clearPending d).setG d w)
  | .value w, .leaf d _ => (((t.dropPend p.id).lowerLoads.clearPending d).setG d w)
  | .value w, .waitv d => t.waitvValue p d w
  | .ack, .store | .ack, .amo _ false => (t.dropPend p.id).lowerStores
  | .held, _ => t.mapPend p.id fun q => { q with held := true }
  | .logged, .store | .logged, .amo _ false => (t.mapPend p.id fun q => { q with logged := true }).lowerStores
  | .drained o, k =>
    let t1 := t.dropPend p.id
    let t2 := match k with
      | .store | .amo _ false => if p.logged then t1 else t1.lowerStores
      | _ => t1
    match o with
    | none => t2
    | some c => t2.defer c { p with off := p.off &&& ~~~(0x7FFFF : Word) } 0
  | .refuse c, _ => t.refused p c
  | _, _ => t.dropPend p.id

/-! ### Copies -/

def Tile.mapCopy (t : Tile) (id : Nat) (f : CopyRec → CopyRec) : Tile :=
  { t with copies := t.copies.map fun c => if c.id = id then f c else c }

/-- The copy has made its first bank access, which fixes the halves that serve it (R114). -/
def CopyRec.touched (c : CopyRec) (t : Tile) : CopyRec := { c with pwin := some (c.pwin.getD t.r.pwin) }

/-- Destination of line k of a copy into local storage: the hidden half under the windows that the copy uses (R113, R114). -/
def Tile.copyDst (t : Tile) (c : CopyRec) (dst k : Nat) : Nat :=
  let a := dst + 64 * k
  if a < 0x10000 then (({ t with r := { t.r with pwin := c.pwin.getD t.r.pwin } } : Tile).writeAddr a).getD a else a

/-- Writes lines that a read returned, in ascending order, with the descriptors they came with or the one the copy gives (R232). -/
def State.copyLines (s : State) (c : Coord) (op : CopyRec) (dst : Nat) (k : Nat) : List (Line × Desc) → State
  | [] => s
  | (l, d) :: r =>
    let op1 := op.touched (s.tileAt c)
    let s1 := (s.homeLine c ((s.tileAt c).copyDst op1 dst k) l (op.dsc.getD d)).mapTileAt c
      (·.mapCopy op.id fun x => { x with complete := x.complete + 1, pwin := op1.pwin })
    s1.copyLines c op1 dst (k + 1) r

/-- An answer to a copy's request. -/
def State.copyAnswer (s : State) (c : Coord) (i : Tid) (p : Pend) (opid n : Nat) (v : AnsVal) : State :=
  let fail (s : State) (cause : BitVec 8) (q : Pend) : State :=
    (s.mapTileAt c (·.mapCopy opid fun x => { x with failed := true })).updTh c i fun t => (t.dropPend p.id).defer cause q 0
  match v with
  | .lines ls =>
    match (s.tileAt c).copies.find? (·.id == opid) with
    | some op =>
      match op.kind with
      | .get dst _ _ =>
        let good := ls.takeWhile fun (_, d) => op.dsc.isSome || dPoison d || dLegal d
        let s1 := s.copyLines c op dst op.complete good
        if good.length < ls.length then fail s1 Cause.formatMismatch { p with off := p.off + BitVec.ofNat 64 (64 * good.length) }
        else s1.updTh c i (·.dropPend p.id)
      | _ => s.updTh c i (·.dropPend p.id)
    | none => s.updTh c i (·.dropPend p.id)
  | .ack => (s.mapTileAt c (·.mapCopy opid fun x => { x with complete := x.complete + n })).updTh c i (·.dropPend p.id)
  | .logged =>
    (s.mapTileAt c (·.mapCopy opid fun x => { x with complete := x.complete + n })).updTh c i
      fun t => t.mapPend p.id fun q => { q with logged := true }
  | .refuse cause => fail s cause p
  | .drained o =>
    let s1 := if p.logged then s else s.mapTileAt c (·.mapCopy opid fun x => { x with complete := x.complete + n })
    s1.updTh c i (·.answered p (.drained o))
  | v => s.updTh c i (·.answered p v)

/-- The register an answer's value goes to. -/
def PendKind.dest : PendKind → GReg
  | .load d _ | .amo d true | .leaf d _ => d
  | _ => 0
/-- A value that arrives while later engine operations of its thread are unconfirmed is part of what their checkpoints restore (R53). -/
def QOp.received (d : GReg) (w : Word) (o : QOp) : QOp :=
  if o.confirmed || d == 0 then o else { o with ck := { o.ck with g := o.ck.g.set d.toNat w } }
def State.intoCheckpoints (s : State) (c : Coord) (i : Tid) (p : Pend) (v : AnsVal) : State :=
  match v with
  | .value _ => s.mapTileAt c fun t =>
      { t with ops := t.ops.map fun o => if o.tid = i then o.received p.kind.dest ((t.th i).gr p.kind.dest) else o }
  | _ => s

/-- An answer reaches its thread; one that nothing waits for is discarded (R389). -/
def State.completeAns (s : State) (a : Ans) : State :=
  let c := a.who.src
  let i := a.who.tid
  match ((s.tileAt c).th i).pends.find? (·.id == a.who.id) with
  | none => s
  | some p =>
    let s1 := match p.kind with
      | .copy op _ n => s.copyAnswer c i p op n a.val
      | .waitv _ =>
        let s2 := s.updTh c i fun t => (t.answered p a.val).settle
        let left (x : State) : Bool := ((x.tileAt c).th i).state == .waitv
        if left s && !left s2 then s2.mapTileAt c (·.count 0x02 1) else s2
      | _ => (s.updTh c i fun t => (t.answered p a.val).settle).intoCheckpoints c i p a.val
    if a.flags = 0 then s1 else s1.orFlagsLate c i a.flags

/-- ANSWER_ARRIVAL (R217): the earliest answer at the focus tile's port. -/
def execAnswerArrival (s : State) : Out :=
  match s.net.find? fun f => f.atTile s.foc && (match f.msg with | .ans _ => true | _ => false) with
  | some f =>
    match f.msg with
    | .ans a => .next (({ s with net := s.net.erase f } : State).completeAns a)
    | _ => .next s
  | none => .next s

/-! ### Deferred faults and records -/

/-- A thread that leaves WAITV or WTAG for a deferred fault stands at the instruction after the wait, which has issued (R215, R222). -/
def Thread.pastWait (t : Thread) : Thread :=
  match t.wait with
  | .waitv _ n | .wtag _ _ n => t.advance n
  | _ => t

/-- DEFERRED_FAULT (R215): the focus thread traps at its instruction boundary, leaving WAITV, WTAG or PGWAIT to do so. -/
def execDeferredFault (s : State) : Out :=
  let t := s.th
  match t.deferred with
  | none => .next s
  | some d =>
    if (t.state == .run || t.state == .waitv || t.state == .wtag || t.state == .pgwait) && !s.tile.holding s.tid then
      let t0 := t.pastWait
      let t1 := { t0 with deferred := none, pends := t.pends.filter fun p => match p.kind with | .waitv _ => false | _ => true }
      .next ((s.setTh { t1.trap { d with pc := t0.pc12 } with record := some ⟨0, { d with pc := t0.pc12 }, true⟩ }).dropMonitors s.foc
        s.tid)
    else .next s

/-- The record may go (R164, R215): stores and atomics performed; for a deferred fault, every other request answered or logged. An atomic
that its port holds stands in the side log, where it is performed (R139, R220). -/
def Thread.recordReady (t : Thread) (r : RecordOut) : Bool :=
  if r.kind = 0 then
    if r.deferred then t.pends.all (·.logged)
    else t.outc.stores == 0 && !(t.pends.any fun p => match p.kind with | .amo _ _ => !p.held | _ => false)
  else true

/-- Event queue that a record goes to: HID of a hall tile, 64 for a system tile (R390). -/
def recordQueue (ws : List Word) : Nat :=
  let w := ws.headD 0
  if w.getLsbD 54 then 64 else (w.extractLsb' 48 6).toNat

/-- Name of the trap receiver of gallery g (R378). -/
def trapName (g : Nat) : BitVec 32 := BitVec.ofNat 32 (0xFF000001 + 0x10000 * g)

/-- A record leaves the tile as a named packet for a trap receiver, with LOST filled in (R386). -/
def State.sendRecord (s : State) (g : Nat) (ws : List Word) : State :=
  let lost : Word := BitVec.ofNat 64 (min s.tile.lost 511 * 2 ^ 55)
  let ws1 := match ws with
    | w :: r => ((w &&& 0x007FFFFFFFFFFFFF) ||| lost) :: r
    | [] => []
  (s.mapTile fun t => { t with lost := 0 }).send (.record ⟨ws1, some (recordQueue ws1)⟩) 14 s.foc (.gallery g)
    (s.tile.r.name.setWidth 32) (some (trapName g)) (if s.tile.sys then 0 else s.tile.hid) s.tile.sys

/-- TRAP_RECORD (R386): the focus thread's trap record or halt notice is sent, once the port accepts its flits (R123). -/
def execTrapRecord (s : State) : Out :=
  let t := s.th
  match t.record with
  | none => .next s
  | some r =>
    if t.recordReady r && s.inputFree s.foc 14 then
      let info := if r.deferred then { r.info with op2 := deferredOp2 t.further } else r.info
      let ws := s.tile.recordOf s.wtime s.foc (t.entry.setWidth 16) r.kind s.tid.val info
      .next ((s.mapTh fun t => { t with record := none, further := if r.deferred then 0 else t.further }).sendRecord s.tile.trapGallery ws)
    else .next s

/-- REPORT_INJECTION (R388): the oldest report leaves once the port accepts its flits, unless a trap record or halt notice is ready. -/
def execReportInjection (s : State) : Out :=
  let ready := (List.finRange 4).any fun i => match (s.tile.th i).record with
    | some r => (s.tile.th i).recordReady r
    | none => false
  match s.tile.reports with
  | [] => .next s
  | (dst, ws) :: rest =>
    if ready || !s.inputFree s.foc 14 then .next s
    else .next ((s.mapTile fun t => { t with reports := rest }).sendRecord (dst.getD s.tile.trapGallery) ws)

end Sys2Proof.Machine
end

