-- ==== Sys2Proof/Machine/Flash.lean ====
section
/-! DEFINITION. What Pralodun computes over the flash (R457, R458, R462): the flash as bytes, the SHA-512 digest, and the verification of an
RSA-4096 signature with RSASSA-PSS, by the published standards that the manual names (FIPS 180-4, RFC 8017). -/

namespace Sys2Proof.Machine

/-- A run of bytes. -/
abbrev Bytes := List (BitVec 8)

/-- A big-endian number, and a number as n big-endian bytes. -/
def beNat (l : Bytes) : Nat := l.foldl (fun a b => 256 * a + b.toNat) 0
def beBytes (n v : Nat) : Bytes := (List.range n).map fun i => BitVec.ofNat 8 (v / 256 ^ (n - 1 - i))

/-! ### The flash -/

/-- Erased flash reads as ones. -/
def flashBlank (_ : Nat) : BitVec 8 := 0xFF
/-- n bytes of the flash from address a. -/
def Boot.flashBytes (b : Boot) (a n : Nat) : Bytes := (List.range n).map fun i => Tab.get flashBlank b.flash (a + i)
/-- A little-endian number of n bytes in the flash. -/
def Boot.flashNat (b : Boot) (a n : Nat) : Nat := (b.flashBytes a n).foldr (fun x v => x.toNat + 256 * v) 0
/-- Writes bytes from address a. -/
def Boot.flashWrite (b : Boot) (a : Nat) (l : Bytes) : Boot :=
  { b with flash := ((List.range l.length).zip l).foldl (fun m x => Tab.set flashBlank m (a + x.1) x.2) b.flash }

/-! ### SHA-512 -/

/-- The round constants: the first 64 bits of the fractions of the cube roots of the first 80 primes. -/
def shaRounds : List Word :=
  [0x428A2F98D728AE22, 0x7137449123EF65CD, 0xB5C0FBCFEC4D3B2F, 0xE9B5DBA58189DBBC,
    0x3956C25BF348B538, 0x59F111F1B605D019, 0x923F82A4AF194F9B, 0xAB1C5ED5DA6D8118,
    0xD807AA98A3030242, 0x12835B0145706FBE, 0x243185BE4EE4B28C, 0x550C7DC3D5FFB4E2,
    0x72BE5D74F27B896F, 0x80DEB1FE3B1696B1, 0x9BDC06A725C71235, 0xC19BF174CF692694,
    0xE49B69C19EF14AD2, 0xEFBE4786384F25E3, 0x0FC19DC68B8CD5B5, 0x240CA1CC77AC9C65] ++
  [0x2DE92C6F592B0275, 0x4A7484AA6EA6E483, 0x5CB0A9DCBD41FBD4, 0x76F988DA831153B5,
    0x983E5152EE66DFAB, 0xA831C66D2DB43210, 0xB00327C898FB213F, 0xBF597FC7BEEF0EE4,
    0xC6E00BF33DA88FC2, 0xD5A79147930AA725, 0x06CA6351E003826F, 0x142929670A0E6E70,
    0x27B70A8546D22FFC, 0x2E1B21385C26C926, 0x4D2C6DFC5AC42AED, 0x53380D139D95B3DF,
    0x650A73548BAF63DE, 0x766A0ABB3C77B2A8, 0x81C2C92E47EDAEE6, 0x92722C851482353B] ++
  [0xA2BFE8A14CF10364, 0xA81A664BBC423001, 0xC24B8B70D0F89791, 0xC76C51A30654BE30,
    0xD192E819D6EF5218, 0xD69906245565A910, 0xF40E35855771202A, 0x106AA07032BBD1B8,
    0x19A4C116B8D2D0C8, 0x1E376C085141AB53, 0x2748774CDF8EEB99, 0x34B0BCB5E19B48A8,
    0x391C0CB3C5C95A63, 0x4ED8AA4AE3418ACB, 0x5B9CCA4F7763E373, 0x682E6FF3D6B2B8A3,
    0x748F82EE5DEFB2FC, 0x78A5636F43172F60, 0x84C87814A1F0AB72, 0x8CC702081A6439EC] ++
  [0x90BEFFFA23631E28, 0xA4506CEBDE82BDE9, 0xBEF9A3F7B2C67915, 0xC67178F2E372532B,
    0xCA273ECEEA26619C, 0xD186B8C721C0C207, 0xEADA7DD6CDE0EB1E, 0xF57D4F7FEE6ED178,
    0x06F067AA72176FBA, 0x0A637DC5A2C898A6, 0x113F9804BEF90DAE, 0x1B710B35131C471B,
    0x28DB77F523047D84, 0x32CAAB7B40C72493, 0x3C9EBE0A15C9BEBC, 0x431D67C49C100D4C,
    0x4CC5D4BECB3E42B6, 0x597F299CFC657E2A, 0x5FCB6FAB3AD6FAEC, 0x6C44198C4A475817]
/-- The initial digest: the same of the square roots of the first eight primes. -/
def shaStart : List Word :=
  [0x6A09E667F3BCC908, 0xBB67AE8584CAA73B, 0x3C6EF372FE94F82B, 0xA54FF53A5F1D36F1,
    0x510E527FADE682D1, 0x9B05688C2B3E6C1F, 0x1F83D9ABFB41BD6B, 0x5BE0CD19137E2179]

/-- Message words of 64 bits to come, the next one first: the next round's word is the head (W of the standard). -/
def shaNext (w : List Word) : List Word :=
  let at_ (i : Nat) : Word := w.getD i 0
  let s0 := (at_ 1).rotateRight 1 ^^^ (at_ 1).rotateRight 8 ^^^ (at_ 1 >>> 7)
  let s1 := (at_ 14).rotateRight 19 ^^^ (at_ 14).rotateRight 61 ^^^ (at_ 14 >>> 6)
  w.drop 1 ++ [s1 + at_ 9 + s0 + at_ 0]

/-- One round: the eight working words a to h with round constant k and message word w. -/
def shaRound (k w : Word) (v : List Word) : List Word :=
  match v with
  | [a, b, c, d, e, f, g, h] =>
    let t1 := h + (e.rotateRight 14 ^^^ e.rotateRight 18 ^^^ e.rotateRight 41) + ((e &&& f) ^^^ (~~~e &&& g)) + k + w
    let t2 := (a.rotateRight 28 ^^^ a.rotateRight 34 ^^^ a.rotateRight 39) + ((a &&& b) ^^^ (a &&& c) ^^^ (b &&& c))
    [t1 + t2, a, b, c, d + t1, e, f, g]
  | _ => v

/-- The digest words after a block of 16 message words. -/
def shaBlock (v w : List Word) : List Word :=
  let (u, _) := shaRounds.foldl (fun (x : List Word × List Word) k => (shaRound k (x.2.headD 0) x.1, shaNext x.2)) (v, w)
  (v.zip u).map fun x => x.1 + x.2

/-- The message with its padding: a one bit, zeros, and the length in bits. -/
def shaPad (l : Bytes) : Bytes := l ++ [0x80] ++ List.replicate ((239 - l.length % 128) % 128) 0 ++ beBytes 16 (8 * l.length)

/-- n blocks of a padded message. -/
def shaBlocks : Nat → Bytes → List Word → List Word
  | 0, _, v => v
  | n + 1, l, v => shaBlocks n (l.drop 128) (shaBlock v ((List.range 16).map fun i => BitVec.ofNat 64 (beNat ((l.drop (8 * i)).take 8))))

/-- The SHA-512 digest of a message, as 64 bytes. -/
def sha512 (l : Bytes) : Bytes :=
  let p := shaPad l
  (shaBlocks (p.length / 128) p shaStart).flatMap fun w => beBytes 8 w.toNat

/-! ### RSASSA-PSS -/

/-- b to the power of the exponent whose bits are given, most significant first, modulo n. -/
def modPow (n b : Nat) : List Bool → Nat
  | bits => bits.foldl (fun a x => let sq := a * a % n; if x then sq * b % n else sq) 1
/-- The k low bits of a number, most significant first. -/
def bitsOf (k e : Nat) : List Bool := (List.range k).map fun i => e.testBit (k - 1 - i)

/-- The mask generation function MGF1: n bytes from a seed. -/
def mgf1 (seed : Bytes) (n : Nat) : Bytes := ((List.range ((n + 63) / 64)).flatMap fun i => sha512 (seed ++ beBytes 4 i)).take n

/-- A signature of 512 bytes verifies under a modulus and an exponent (RSASSA-PSS with SHA-512, MGF1 with SHA-512 and a salt of 64 bytes, the
salt's length being the model's: DESIGN CHOICE, log 73). -/
def rsaVerifies (modulus exponent : Nat) (msg sig : Bytes) : Bool :=
  let em := beBytes 512 (modPow modulus (beNat sig) (bitsOf 4096 exponent))
  let h := (em.drop 447).take 64
  let masked := em.take 447
  let plain := (masked.zip (mgf1 h 447)).map fun x => x.1 ^^^ x.2
  let db := ((plain.headD 0) &&& 0x7F) :: plain.drop 1
  decide (beNat sig < modulus) && em.getLastD 0 == 0xBC && !(masked.headD 0).getLsbD 7 && db.take 383 == List.replicate 382 0 ++ [1] &&
    sha512 (List.replicate 8 0 ++ sha512 msg ++ db.drop 383) == h

end Sys2Proof.Machine
end

