-- ==== Sys2Proof/Machine/Lanes.lean ====
section
/-! DEFINITION. Elements of lines and vector registers (R67, R80, R81, R84, R246), the checks of a descriptor (R82), rounding into an
element format (R87 to R89), the scale rule of R259, and what an engine operation reports when it reads its sources (R53). -/

namespace Sys2Proof

/-! ### Formats -/

/-- Elements in a line (R80); a tree node has none. -/
def Fmt.count : Fmt → Nat
  | .fp32 | .int32 => 16
  | .bf16 | .fp16 | .int16 => 32
  | .e2m1 => 128
  | .node => 0
  | _ => 64
/-- Width of an element. -/
def Fmt.width (f : Fmt) : Nat := 512 / f.count

/-- The floating format of a floating FMT. -/
def Fmt.fp : Fmt → Option FpFmt
  | .fp32 => some .fp32 | .bf16 => some .bf16 | .fp16 => some .fp16
  | .e4m3 => some .e4m3 | .e5m2 => some .e5m2 | .e2m1 => some .e2m1
  | _ => none
/-- Range of an integer format (R68). -/
def Fmt.range : Fmt → Int × Int
  | .int8 => (-128, 127)
  | .uint8 => (0, 255)
  | .int16 => (-32768, 32767)
  | .int32 => (-2147483648, 2147483647)
  | _ => (0, 0)

end Sys2Proof

namespace Sys2Proof.Machine

/-! ### What reading finds -/

/-- A check that failed at confirmation: the trap, and the local address of a line found uncorrectable (R83). -/
structure Fail where
  cause : BitVec 8
  faddr : Word
  op0 : Word
  op1 : Word
  mark : Option Nat
  deriving DecidableEq, Repr, Inhabited

/-- Reading and checking. -/
abbrev Chk (α : Type) := Except Fail α
def failAt {α : Type} (cause : BitVec 8) (faddr : Word) : Chk α := .error ⟨cause, faddr, 0, 0, none⟩
def badFormat {α : Type} : Chk α := failAt Cause.formatMismatch 0
def need (b : Bool) (cause : BitVec 8) (faddr : Word) : Chk Unit := if b then .ok () else failAt cause faddr

/-- FMT of a descriptor with an assigned code. -/
def dFormat (d : Desc) : Fmt := (Fmt.ofCode (dFmt d)).getD .raw

/-! ### Elements -/

/-- n elements of w bits (R67, R246). -/
def splitLine (l : Line) (w n : Nat) : List Nat := (List.range n).map fun i => (l >>> (w * i)).toNat % 2 ^ w
def joinNat (w : Nat) : List Nat → Nat
  | [] => 0
  | x :: r => x % 2 ^ w + 2 ^ w * joinNat w r
def joinLine (w : Nat) (xs : List Nat) : Line := BitVec.ofNat 512 (joinNat w xs)
def splitAs (f : Fmt) (l : Line) : List Nat := splitLine l f.width f.count

/-- An integer element's value (R68). -/
def intElem (f : Fmt) (x : Nat) : Int :=
  match f with
  | .uint8 => x
  | _ => if x < 2 ^ (f.width - 1) then x else (x : Int) - 2 ^ f.width

/-- An element's value under its descriptor (R75, R81, R84). -/
def elemVal (d : Desc) (f : Fmt) (x : Nat) : FpVal :=
  if dScale d = 0xFF then .nan false
  else
    let k : Int := (dScale d).toNat - 127
    match f.fp with
    | none => (intVal (intElem f x)).scale k
    | some .e2m1 =>
      if x % 16 = 8 then
        match fpDecode .e4m3 (dTcm d) (dExtra d).toNat with
        | .nan _ => .nan false
        | .inf b => .inf b
        | .fin s m e st => if m = 0 then .fin false 0 0 false else (FpVal.fin s m e st).scale k
      else (fpDecode .e2m1 false x).scale k
    | some p => (fpDecode p (dTcm d) x).scale k

/-- The elements of a line by value. -/
def lineVals (d : Desc) (f : Fmt) (l : Line) : List FpVal := (splitAs f l).map (elemVal d f)

/-- R82 for a numeric read of a line or tag: POISON, then the format. -/
def checkDesc (d : Desc) (faddr : Word) (imode : Bool) : Chk Fmt :=
  if dPoison d then failAt Cause.ecc faddr
  else if !dLegal d || !dValid d || !(dFormat d).isNumeric then failAt Cause.formatMismatch faddr
  else if imode && (dFormat d).isInt && dScale d != 0x7F then failAt Cause.formatMismatch faddr
  else .ok (dFormat d)

/-- rnd(v, F, m) into an element format (R87 to R89). -/
def rndElem (f : Fmt) (tcm : Bool) (rm : Rounding) (v : FpVal) : Nat × Flags :=
  match f.fp with
  | some p => fpRound p tcm rm v
  | none =>
    let (lo, hi) := f.range
    let (t, fl) := fpToInt lo hi rm v
    ((t % (2 ^ f.width : Nat)).toNat, fl)

/-- A conversion also raises NV for a signalling NaN (R71). -/
def cvtElem (f : Fmt) (tcm : Bool) (rm : Rounding) (v : FpVal) : Nat × Flags :=
  let (x, fl) := rndElem f tcm rm v
  (x, fl ||| sigFlag v.isSig)

/-- Results with the OR of their flags. -/
def orFlagsOf (xs : List (Nat × Flags)) : Flags := xs.foldl (fun a x => a ||| x.2) 0

/-! ### Block scales (R259) -/

/-- Magnitudes m·2^e compared. -/
def magLe (m1 : Nat) (e1 : Int) (m2 : Nat) (e2 : Int) : Bool :=
  let e := min e1 e2
  decide (m1 * 2 ^ (e1 - e).toNat ≤ m2 * 2 ^ (e2 - e).toNat)

/-- Significand and exponent of FMT's largest finite magnitude, or largest positive value. -/
def fmtLargest (f : Fmt) (tcm : Bool) : Nat × Int :=
  match f.fp with
  | some p => fpMax p tcm
  | none => (f.range.2.toNat, 0)

/-- The largest magnitude among the finite values, none when no value is finite. -/
def amax (vs : List FpVal) : Option (Nat × Int) :=
  vs.foldl (fun a v => match v with
    | .fin _ m e _ => match a with
      | none => some (m, e)
      | some (m0, e0) => if magLe m e m0 e0 then some (m0, e0) else some (m, e)
    | _ => a) none

/-- s of R259: the least integer with amax ≤ L·2^s, clamped to −127..127; 0 where amax is 0 or no value is finite. -/
def blockScale (f : Fmt) (tcm : Bool) (vs : List FpVal) : Int :=
  match amax vs with
  | none => 0
  | some (m, e) =>
    if m = 0 then 0
    else
      let (lm, le) := fmtLargest f tcm
      let s0 : Int := e + bitLen m - (le + bitLen lm)
      let s := if magLe m e lm (le + s0) then s0 else s0 + 1
      max (-127) (min 127 s)

/-! ### Lines of data SRAM as the engines read them -/

/-- Reads a line at a local address that its issue checks have passed: ECC_UNCORRECTABLE for POISON or an uncorrectable word (R82,
R83). `faddr` is the address as the program gave it. An engine operation runs over the memory that its home shows (`State.settled`). -/
def State.readLine (s : State) (a : Nat) (faddr : Word) : Chk (Line × Desc) :=
  let k := s.pa a
  if s.damaged k 64 then .error ⟨Cause.ecc, faddr, 0, 0, if s.isBad k 64 then some a else none⟩
  else .ok (s.loadLine k, s.descAt k)

/-- Local address at which an engine reads data SRAM address a: through the visible half of a window (R113). -/
def State.engineRead (s : State) (a : Nat) : Nat := (s.tile.readAddr a).getD a
/-- Local address at which an engine writes data SRAM address a: the hidden half (R113). -/
def State.engineWrite (s : State) (a : Nat) : Nat := (s.tile.writeAddr a).getD a

/-- The n lines at a may be read by an engine: data SRAM without window B ranges (R104, R113). -/
def State.linesReadable (s : State) (a n : Nat) : Bool :=
  decide (a + 64 * n ≤ 0x10000) && (List.range n).all fun i => s.tile.window_ (a / 64 + i) != .bRange
/-- The n lines at a may be written by an engine: also outside the entry table (R33, R104, R113). -/
def State.linesWritable (s : State) (a n : Nat) : Bool := s.linesReadable a n && !s.tile.inEntries a (64 * n)

end Sys2Proof.Machine
end

