-- ==== Sys2Proof/Machine/Vector.lean ====
section
/-! DEFINITION. The vector engine (R246 to R276): what each operation does when the engine runs it, with its checks of tags and memory,
and the issue of every instruction of majors 0x20 to 0x28. -/

namespace Sys2Proof.Machine

/-! ### Registers, masks and results -/

def Thread.vr (t : Thread) (r : VReg) : Line := t.v.toList.getD r.toNat 0
def Thread.vt (t : Thread) (r : VReg) : Desc := t.vtag.toList.getD r.toNat 0

/-- The rounding of result element j (R251). -/
def QOp.rnd (q : QOp) (m : RMode) (j : Nat) : Rounding := scalarRounding q.rmode (q.srseq + BitVec.ofNat 64 j) m

/-- Bit of a mask that governs element i of n (R247). -/
def laneOn (act : Word) (n i : Nat) : Bool := act.getLsbD (if n ≤ 64 then i else i / 2)

/-- Writes elements under a mask (R247) with a new tag (R85). -/
def vWrite (t : Thread) (d : VReg) (f : Fmt) (act : Word) (zero : Bool) (xs : List Nat) (tag : Desc) : Eff :=
  let old := splitAs f (t.vr d)
  .v d (joinLine f.width (((List.range f.count).zip (xs.zip old)).map fun (i, x, o) =>
    if laneOn act f.count i then x else if zero then 0 else o)) tag
/-- Writes every element. -/
def vWriteAll (d : VReg) (f : Fmt) (xs : List Nat) (tag : Desc) : Eff := .v d (joinLine f.width xs) tag
/-- The tag of R85. -/
def plainTag (f : Fmt) (tcm : Bool) : Desc := mkDesc f 0x7F 0 tcm

/-- The bits of a compare (R255). -/
def mWrite (t : Thread) (d : MReg) (n : Nat) (act : Word) (zero : Bool) (bs : List Bool) : Eff :=
  let old := t.mr d
  .m d (((List.range n).zip bs).foldl (fun (w : Word) (i, b) =>
    if (if act.getLsbD i then b else !zero && old.getLsbD i) then w ||| ((1 : Word) <<< i) else w) 0)

/-- The checks of R254: sources a, b, c in order; the result format and the sources' formats. The need of integer formats comes last
(DESIGN CHOICE, log 74). -/
def vecSources (t : Thread) (imode red : Bool) (rfmt : Option Fmt) (regs : List VReg) : Chk (Fmt × List Fmt) := do
  let fs ← regs.mapM fun r => checkDesc (t.vt r) 0 imode
  need (fs.all (· != .e2m1)) Cause.formatMismatch 0
  let rf := rfmt.getD (fs.headD .raw)
  need (red || fs.all (·.count == rf.count)) Cause.formatMismatch 0
  need (rf.isNumeric && rf != .e2m1) Cause.formatMismatch 0
  if imode then need (rf.isInt && fs.all (·.isInt)) Cause.formatMismatch 0
  pure (rf, fs)

def VOpd.regs : VOpd → List VReg
  | .v r => [r]
  | .s _ => []

/-- Bit patterns of a second source: a register's elements, or a scalar in every lane of format f (R252, R253). -/
def VOpd.bits (t : Thread) (f : Fmt) : VOpd → List Nat
  | .v r => splitAs (dFormat (t.vt r)) (t.vr r)
  | .s w => List.replicate f.count (w.toNat % 2 ^ f.width)
/-- The tag and format that a second source is read under. -/
def VOpd.tag (t : Thread) (a : VReg) : VOpd → Desc
  | .v r => t.vt r
  | .s _ => t.vt a
def VOpd.vals (t : Thread) (a : VReg) (b : VOpd) : List FpVal :=
  (b.bits t (dFormat (t.vt a))).map (elemVal (b.tag t a) (dFormat (b.tag t a)))

/-! ### Integer (R255) -/

/-- Exact result of an integer operation on values x, y with patterns px, py of width w, within lo and hi where it saturates. -/
def intOp (o : IntVOp) (w : Nat) (lo hi : Int) (x : Int) (px : Nat) (y : Int) (py : Nat) : Int :=
  let sat (v : Int) : Int := max lo (min hi v)
  let k := (y % (w : Int)).toNat
  match o with
  | .add => x + y
  | .sub => x - y
  | .adds => sat (x + y)
  | .subs => sat (x - y)
  | .mul => x * y
  | .mulh => x * y / (2 ^ w : Nat)
  | .min => sat (min x y)
  | .max => sat (max x y)
  | .and => (px &&& py : Nat)
  | .or => (px ||| py : Nat)
  | .xor => (px ^^^ py : Nat)
  | .sll => (px * 2 ^ k : Nat)
  | .srl => (px / 2 ^ k : Nat)
  | .sra => x / (2 ^ k : Nat)
  | .abs => sat x.natAbs

/-- Value and pattern of each element. -/
def intElems (f : Fmt) (ps : List Nat) : List (Int × Nat) := ps.map fun p => (intElem f p, p)

def runInt (t : Thread) (q : QOp) (o : IntVOp) (x : VMod) (d a : VReg) (b : VOpd) : Chk (Flags × List Eff) := do
  let (rf, _) ← vecSources t true false x.rfmt (a :: if o = .abs then [] else b.regs)
  let fa := dFormat (t.vt a)
  let fb := dFormat (b.tag t a)
  let (lo, hi) := rf.range
  let w := rf.width
  let xs := (intElems fa (splitAs fa (t.vr a))).zip (intElems fb (b.bits t fa))
  let out := xs.map fun ((x, px), (y, py)) => (intOp o w lo hi x px y py % (2 ^ w : Nat)).toNat
  pure (0, [vWrite t d rf (t.mr x.e) x.zero out (plainTag rf q.tcm)])

def CmpVOp.isInt : CmpVOp → Bool
  | .eq | .ne | .lt | .le => true
  | _ => false

/-- A compare by value: integer ones exactly, floating ones as FEQ, FLT, FLE, FUNORD of R198 (R255, R256). -/
def cmpElem (o : CmpVOp) (x y : FpVal) : Bool × Flags :=
  let nan := x.isNaN || y.isNaN
  match o with
  | .eq => (fpEqV x y, 0)
  | .ne => (!fpEqV x y, 0)
  | .lt => (fpLtV x y, 0)
  | .le => (!fpLtV y x, 0)
  | .feq => (fpEqV x y, fpMinMaxFlags x y)
  | .flt => (!nan && fpLtV x y, sigFlag nan)
  | .fle => (!nan && !fpLtV y x, sigFlag nan)
  | .funord => (nan, fpMinMaxFlags x y)

def runCmp (t : Thread) (o : CmpVOp) (x : VMod) (d : MReg) (a : VReg) (b : VOpd) : Chk (Flags × List Eff) := do
  let (rf, _) ← vecSources t o.isInt false x.rfmt (a :: b.regs)
  let n := rf.count
  let act := t.mr x.e
  let rs := ((lineVals (t.vt a) (dFormat (t.vt a)) (t.vr a)).zip (b.vals t a)).map fun (u, v) => cmpElem o u v
  let fl := ((List.range n).zip rs).foldl (fun (f : Flags) (i, r) => if act.getLsbD i then f ||| r.2 else f) 0
  pure (fl, [mWrite t d n act x.zero (rs.map (·.1))])

/-! ### Floating point (R256) -/

/-- The per-element value before its one rounding. VFNEG and VFABS are arithmetic operations under R71: a signalling NaN raises NV (DESIGN
CHOICE, log 74). -/
def fpElem (o : FpVOp) (rdn : Bool) (x y z : FpVal) : FpVal × Flags :=
  let pick (isMax : Bool) : FpVal × Flags :=
    let k := fpMinMaxPick isMax x y
    (if k = 0 then x else if k = 1 then y else .nan false, fpMinMaxFlags x y)
  match o with
  | .fadd => fpAddV rdn x y
  | .fsub => fpAddV rdn x y.neg
  | .fmul => fpMulV x y
  | .fdiv => fpDivV x y
  | .fsqrt => fpSqrtV x
  | .fmin => pick false
  | .fmax => pick true
  | .fneg => (if x.isNaN then .nan false else x.neg, sigFlag x.isSig)
  | .fabs => (if x.isNaN then .nan false else if x.sign then x.neg else x, sigFlag x.isSig)
  | .fma => fpFmaV rdn x y z
  | .fms => fpFmaV rdn x y z.neg
  | .fnma => fpFmaV rdn x.neg y z

def FpVOp.isFma : FpVOp → Bool
  | .fma | .fms | .fnma => true
  | _ => false
def FpVOp.unary : FpVOp → Bool
  | .fsqrt | .fneg | .fabs => true
  | _ => false

def runFp (t : Thread) (q : QOp) (o : FpVOp) (x : VMod) (d a : VReg) (b : VOpd) : Chk (Flags × List Eff) := do
  let (rf, _) ← vecSources t false false x.rfmt ((a :: if o.unary then [] else b.regs) ++ if o.isFma then [x.c] else [])
  let n := rf.count
  let act := t.mr x.e
  let as := lineVals (t.vt a) (dFormat (t.vt a)) (t.vr a)
  let bs := if o.unary then as else b.vals t a
  let cs := if o.isFma then lineVals (t.vt x.c) (dFormat (t.vt x.c)) (t.vr x.c) else as
  let rs := ((List.range n).zip (as.zip (bs.zip cs))).map fun (i, u, v, w) =>
    if laneOn act n i then
      let (r, f) := fpElem o (x.mode == .rdn) u v w
      let (e, g) := rndElem rf q.tcm (q.rnd x.mode i) r
      (e, f ||| g)
    else (0, 0)
  pure (orFlagsOf rs, [vWrite t d rf act x.zero (rs.map (·.1)) (plainTag rf q.tcm)])

/-! ### Conversion and block quantisation (R257 to R261) -/

/-- Source and destination element of each conversion under PART (R258). -/
def partPairs (ns nd part : Nat) : Option (List (Nat × Nat)) :=
  if ns = nd then (if part = 0 then some ((List.range ns).map fun i => (i, i)) else none)
  else if ns < nd then (if part < nd / ns then some ((List.range ns).map fun i => (i, part * ns + i)) else none)
  else if part < ns / nd then some ((List.range nd).map fun i => (part * nd + i, i)) else none

/-- VCVT and VSRND: converts va into fmt; `rnd j i` rounds result j from source element i. -/
def runConvert (t : Thread) (q : QOp) (d a : VReg) (part : Nat) (fmt : Fmt) (rnd : Nat → Nat → Rounding) : Chk (Flags × List Eff) := do
  let fa ← checkDesc (t.vt a) 0 false
  match partPairs fa.count fmt.count part with
  | none => badFormat
  | some ps =>
    let vs := lineVals (t.vt a) fa (t.vr a)
    let rs := ((List.range ps.length).zip ps).map fun (j, i, k) => (k, cvtElem fmt q.tcm (rnd j i) (vs.getD i (.nan false)))
    let out := rs.foldl (fun (xs : List Nat) (k, r) => xs.set k r.1) (splitAs fmt (t.vr d))
    pure (orFlagsOf (rs.map (·.2)), [vWriteAll d fmt out (plainTag fmt q.tcm)])

/-- Register number a + k. -/
def vplus (a : VReg) (k : Nat) : VReg := BitVec.ofNat 4 (a.toNat + k)

/-- Index of the element of largest finite magnitude, the lowest among equals (R260). -/
def largestIndex (vs : List FpVal) : Option Nat :=
  (((List.range vs.length).zip vs).foldl (fun (b : Option (Nat × Nat × Int)) (i, v) => match v with
    | .fin _ m e _ => match b with
      | none => some (i, m, e)
      | some (j, m0, e0) => if magLe m e m0 e0 then some (j, m0, e0) else some (i, m, e)
    | _ => b) none).map (·.1)

/-- |x − a| < |x − b| for finite values (R260). -/
def nearer (x a b : FpVal) : Bool :=
  match fpAddV false x a.neg, fpAddV false x b.neg with
  | (.fin _ m1 e1 _, _), (.fin _ m2 e2 _, _) => !magLe m2 e2 m1 e1
  | _, _ => false

/-- The elements of VQNT with the scale s and EXTRA (R259, R260). -/
def quantised (q : QOp) (mode : RMode) (fmt : Fmt) (vs : List FpVal) (s : Int) (y : Option Nat) (extra : Nat) (extraFlags : Flags) :
    List (Nat × Flags) :=
  let ev := fpDecode .e4m3 q.tcm extra
  ((List.range vs.length).zip vs).map fun (j, v) =>
    let x := v.scale (-s)
    if some j = y then (8, extraFlags)
    else
      let (e, f) := cvtElem fmt q.tcm (q.rnd mode j) x
      match y, v with
      | some _, .fin _ m _ _ =>
        if nearer x ev (fpDecode .e2m1 false e) then
          (8, if fpEqV x ev then 0 else fNX ||| (if m != 0 && fpLtV (if x.sign then x.neg else x) (.fin false 1 (-6) false) then fUF else 0))
        else (e, f)
      | _, _ => (e, f)

def runQnt (t : Thread) (q : QOp) (mode : RMode) (d a : VReg) (xv : Bool) (fmt : Fmt) : Chk (Flags × List Eff) := do
  let fa ← checkDesc (t.vt a) 0 false
  let k := fmt.count / fa.count
  need (fa.count ≤ fmt.count && a.toNat + k ≤ 16) Cause.formatMismatch 0
  let fs ← ((List.range k).drop 1).mapM fun i => checkDesc (t.vt (vplus a i)) 0 false
  need (fs.all (· == fa)) Cause.formatMismatch 0
  let vs := (List.range k).flatMap fun i => lineVals (t.vt (vplus a i)) fa (t.vr (vplus a i))
  let y := if xv then largestIndex vs else none
  let s := blockScale fmt q.tcm (match y with
    | some i => vs.eraseIdx i
    | none => vs)
  let (extra, ef) := match y with
    | some i => fpRound .e4m3 q.tcm rneMode ((vs.getD i (.nan false)).scale (-s))
    | none => (0, 0)
  let rs := quantised q mode fmt vs s y extra ef
  pure (orFlagsOf rs, [vWriteAll d fmt (rs.map (·.1)) (mkDesc fmt (BitVec.ofInt 8 (s + 127)) (BitVec.ofNat 8 extra) q.tcm)])

def runDqnt (t : Thread) (q : QOp) (mode : RMode) (d a : VReg) (fmt : Fmt) : Chk (Flags × List Eff) := do
  let fa ← checkDesc (t.vt a) 0 false
  let k := fa.count / fmt.count
  need (fmt.count ≤ fa.count && d.toNat + k ≤ 16) Cause.formatMismatch 0
  let vs := lineVals (t.vt a) fa (t.vr a)
  let rs := ((List.range vs.length).zip vs).map fun (j, v) => cvtElem fmt q.tcm (q.rnd mode j) v
  pure (orFlagsOf rs, (List.range k).map fun i =>
    vWriteAll (vplus d i) fmt (((rs.map (·.1)).drop (i * fmt.count)).take fmt.count) (plainTag fmt q.tcm))

/-! ### Reductions and permutes (R101, R262) -/

/-- One level of the tree: pairs combined, steps numbered from j. -/
def redLevel (comb : Nat → FpVal → FpVal → FpVal × Flags) (j : Nat) : List (Option FpVal) → List (Option FpVal) × Nat × Flags
  | x :: y :: r =>
    let (v, j1, f) : Option FpVal × Nat × Flags := match x, y with
      | some u, some w => let (c, f) := comb j u w; (some c, j + 1, f)
      | none, w => (w, j, 0)
      | u, none => (u, j, 0)
    let (vs, j2, g) := redLevel comb j1 r
    (v :: vs, j2, f ||| g)
  | l => (l, j, 0)

/-- The tree of R101 over `levels` levels: its result, the next step number and the flags. -/
def redTree (comb : Nat → FpVal → FpVal → FpVal × Flags) : Nat → Nat → List (Option FpVal) → Option FpVal × Nat × Flags
  | 0, j, l => (l.headD none, j, 0)
  | k + 1, j, l =>
    let (l1, j1, f) := redLevel comb j l
    let (v, j2, g) := redTree comb k j1 l1
    (v, j2, f ||| g)

/-- VRSUM, VRMAX and VRMIN (R101, R262). A lone active lane, which nothing is combined with, is converted into the result format once,
under mode 5 with the next number j (DESIGN CHOICE, log 14). Between integer formats a result that SCALE makes fractional is rounded so too,
with no flag (DESIGN CHOICE, log 74). -/
def runRed (t : Thread) (q : QOp) (o : RedVOp) (x : VMod) (d a : VReg) : Chk (Flags × List Eff) := do
  let (rf, fs) ← vecSources t false true x.rfmt [a]
  let fa := fs.headD .raw
  let exact := rf.isInt && fa.isInt
  let op (u v : FpVal) : FpVal × Flags := match o with
    | .sum => fpAddV (x.mode == .rdn) u v
    | .max => fpElem .fmax false u v v
    | .min => fpElem .fmin false u v v
  let comb (j : Nat) (u v : FpVal) : FpVal × Flags :=
    let (r, f) := op u v
    if exact then (r, 0)
    else
      let (e, g) := rndElem rf q.tcm (q.rnd x.mode j) r
      (elemVal (plainTag rf q.tcm) rf e, f ||| g)
  let act := t.mr x.e
  let vs := lineVals (t.vt a) fa (t.vr a)
  let lanes := ((List.range fa.count).zip vs).map fun (i, v) => if act.getLsbD i then some v else none
  let (r, j, f) := redTree comb (bitLen fa.count - 1) 0 lanes
  let (e, g) := match r with
    | none => (0, 0)
    | some v => let (e, g) := cvtElem rf q.tcm (q.rnd x.mode j) v; (e, if exact then 0 else g)
  pure (f ||| g, [vWriteAll d rf (e :: List.replicate (rf.count - 1) 0) (plainTag rf q.tcm)])

/-- VPERM, VSLUP, VSLDN and VREV (R262). An index of VPERM is the element's integer, whatever SCALE its tag has (DESIGN CHOICE, log 74). -/
def runPerm (t : Thread) (o : PermVOp) (x : VMod) (d a b : VReg) (k : Word) : Chk (Flags × List Eff) := do
  let (_, fs) ← vecSources t false false none (a :: if o = .perm then [b] else [])
  let fa := fs.headD .raw
  let n := fa.count
  let xs := splitAs fa (t.vr a)
  let fb := fs.getD 1 .int8
  need fb.isInt Cause.formatMismatch 0
  let get (i : Int) : Nat := if 0 ≤ i ∧ i < n then xs.getD i.toNat 0 else 0
  let out := (List.range n).map fun i => match o with
    | .perm => get (intElem fb ((splitAs fb (t.vr b)).getD i 0) % (n : Int))
    | .slup => get ((i : Int) - min k.toNat n)
    | .sldn => get ((i : Int) + min k.toNat n)
    | .rev => get (n - 1 - i)
  pure (0, [vWrite t d fa (t.mr x.e) x.zero out (t.vt a)])

/-! ### Vector memory (R263 to R266) -/

/-- Count and width of the lanes that a mask governs under a tag (R247, R264): bytes for E2M1, and, also in a VLD and for RAW and node layouts,
where there are no elements (DESIGN CHOICE, log 74). -/
def maskLanes (d : Desc) : Nat × Nat :=
  let f := dFormat d
  if dValid d && f.isNumeric && f != .e2m1 then (f.count, f.width) else (64, 8)
/-- The bits of a line that a mask's active elements cover. -/
def maskBits (d : Desc) (act : Word) : Line :=
  let (n, w) := maskLanes d
  joinLine w ((List.range n).map fun i => if act.getLsbD i then 2 ^ w - 1 else 0)

def runVld (s : State) (t : Thread) (zero : Bool) (e : MReg) (d : VReg) (ea : Nat) (dsc : Option Desc) : Chk (Flags × List Eff) := do
  let (l, ld) ← s.readLine (s.engineRead ea) (BitVec.ofNat 64 ea)
  need (dsc.isSome || dLegal ld) Cause.formatMismatch 0
  let tag := dsc.getD ld
  let bm := maskBits tag (t.mr e)
  pure (0, [.v d ((l &&& bm) ||| (if zero then 0 else t.vr d &&& ~~~bm)) tag])

/-- FMT, SCALE, EXTRA and TCM of two descriptors agree. -/
def sameBlock (a b : Desc) : Bool := a.extractLsb' 0 25 == b.extractLsb' 0 25

def runVst (s : State) (t : Thread) (e : MReg) (d : VReg) (ea : Nat) (dsc : Option Desc) : Chk (Flags × List Eff) := do
  let tag := t.vt d
  let new := dsc.getD tag
  let l := t.vr d
  let bm := maskBits tag (t.mr e)
  let a := s.engineWrite ea
  if bm = BitVec.allOnes 512 then pure (0, [.lateLine ea l new])
  else
    let old := s.descAt (s.pa a)
    let faddr := BitVec.ofNat 64 ea
    need (!dPoison old) Cause.ecc faddr
    need (!dValid old || sameBlock old new) Cause.formatMismatch faddr
    pure (0, [.merge a bm l (if dValid old then none else some new) (dPoison new)])

/-! ### Random numbers and dropout (R97, R98, R268 to R270) -/

/-- G under the keys of major 0x26 for lane j (R267). -/
def keyed (seed keys base : Word) (j : Nat) : BitVec 32 :=
  gen seed (keys.extractLsb' 0 32) (keys.extractLsb' 32 32) (base + BitVec.ofNat 64 j)

def runRng (q : QOp) (d : VReg) (seed keys base : Word) : List Eff :=
  [vWriteAll d .int32 ((List.range 16).map fun j => (keyed seed keys base j).toNat) (plainTag .int32 q.tcm)]

/-- Random bits of SRW + 1, or w, taken from the top of g. -/
def topBits (g : BitVec 32) (w : Nat) : Rounding := ⟨.rsr, g.toNat / 2 ^ (32 - w), w⟩
def srwBits (rmode : Word) : Nat := (rmode.extractLsb' 8 5).toNat + 1

def runDrop (t : Thread) (q : QOp) (mode : RMode) (d e : VReg) (seed keys base : Word) (p : BitVec 32) : Chk (Flags × List Eff) := do
  let f ← checkDesc (t.vt e) 0 false
  need (f != .e2m1) Cause.formatMismatch 0
  let pv := fpDecode .fp32 false p.toNat
  let (ok, T) : Bool × Nat := match pv with
    | .fin false m ex _ => if m != 0 && magLe m ex 1 0 then (true, if 0 ≤ ex + 24 then m * 2 ^ (ex + 24).toNat else m / 2 ^ (-(ex + 24)).toNat) else (false, 0)
    | _ => (false, 0)
  let vs := lineVals (t.vt e) f (t.vr e)
  let rs := ((List.range vs.length).zip vs).map fun (j, v) =>
    if ok && decide ((keyed seed keys base j >>> 8).toNat < T) then
      let r := if mode = .rsr then topBits (keyed (seed ^^^ BitVec.allOnes 64) keys base j) (srwBits q.rmode) else ⟨mode, 0, 32⟩
      let (v1, f1) := fpDivV v pv
      let (x, f2) := rndElem f q.tcm r v1
      (x, f1 ||| f2)
    else (0, 0)
  pure (orFlagsOf rs ||| (if ok then 0 else fNV), [vWriteAll d f (rs.map (·.1)) (plainTag f q.tcm)])

/-! ### The fused moment update (R271 to R274) -/

/-- Moment formats (R272). -/
def momentFmts : List Fmt := [.fp32, .bf16, .fp16, .e4m3, .e5m2]
def numericFmts : List Fmt := [.fp32, .bf16, .fp16, .e4m3, .e5m2, .e2m1, .int8, .uint8, .int16, .int32]

/-- Lines of an operand, from the FMT in the descriptor of its first line; one where the FMT is not permitted (R273). -/
def State.optLines (s : State) (a : Nat) (allowed : List Fmt) : Nat :=
  match Fmt.ofCode (dFmt (s.descAt (s.pa (s.engineRead a)))) with
  | some f => if allowed.contains f then (64 + f.count - 1) / f.count else 1
  | none => 1

/-- The elements of an operand of n lines at a, every line in its first line's format (R273). -/
def State.optRead (s : State) (a n : Nat) (allowed : List Fmt) : Chk (Fmt × List FpVal) := do
  let ls ← (List.range n).mapM fun i => do
    let (l, d) ← s.readLine (s.engineRead (a + 64 * i)) (BitVec.ofNat 64 (a + 64 * i))
    let f ← checkDesc d 0 false
    let first ← checkDesc (s.descAt (s.pa (s.engineRead a))) 0 false
    need (allowed.contains f && f == first) Cause.formatMismatch 0
    pure (f, lineVals d f l)
  pure ((ls.headD (.raw, [])).1, (ls.flatMap (·.2)).take 64)

/-- A value with the flags that forming it raised. -/
abbrev Fl (α : Type) := α × Flags
/-- A step of VOPT: rne in FP32 (R273). -/
def rne32 (x : FpVal × Flags) (f : Flags) : Fl FpVal :=
  let (b, g) := fpRound .fp32 false rneMode x.1
  (fpDecode .fp32 false b, x.2 ||| g ||| f)
def mul32 (x y : Fl FpVal) : Fl FpVal := rne32 (fpMulV x.1 y.1) (x.2 ||| y.2)
def add32 (x y : Fl FpVal) : Fl FpVal := rne32 (fpAddV false x.1 y.1) (x.2 ||| y.2)
def div32 (x y : Fl FpVal) : Fl FpVal := rne32 (fpDivV x.1 y.1) (x.2 ||| y.2)
def sqrt32 (x : Fl FpVal) : Fl FpVal := rne32 (fpSqrtV x.1) x.2
def neg32 (x : Fl FpVal) : Fl FpVal := (x.1.neg, x.2)

/-- One element of R273 with the coefficients B1, OB1, B2, OB2, LR, EPS, C1, C2, WD: the new m, v and w. -/
def optElem (k : Nat → Fl FpVal) (g m v w : FpVal) : Fl FpVal × Fl FpVal × Fl FpVal :=
  let G : Fl FpVal := (g, 0)
  let W : Fl FpVal := (w, 0)
  let m1 := add32 (mul32 (k 0) (m, 0)) (mul32 (k 1) G)
  let v1 := add32 (mul32 (k 2) (v, 0)) (mul32 (k 3) (mul32 G G))
  let den := add32 (sqrt32 (mul32 v1 (k 7))) (k 5)
  let u := div32 (mul32 m1 (k 6)) den
  (m1, v1, add32 W (neg32 (mul32 (k 4) (add32 u (mul32 (k 8) W)))))

/-- Requantises 64 values into lines of a format (R273): each line of E4M3 and E5M2 by the rule of R259, others at scale 1. -/
def optQuant (q : QOp) (mode : RMode) (f : Fmt) (j0 : Nat) (vs : List FpVal) : List (Line × Desc) × Flags :=
  let rows := (List.range (64 / f.count)).map fun r =>
    let xs := (vs.drop (r * f.count)).take f.count
    let s := if f = .e4m3 ∨ f = .e5m2 then blockScale f q.tcm xs else 0
    let es := ((List.range f.count).zip xs).map fun (i, v) => rndElem f q.tcm (q.rnd mode (j0 + r * f.count + i)) (v.scale (-s))
    ((joinLine f.width (es.map (·.1)), mkDesc f (BitVec.ofInt 8 (s + 127)) 0 q.tcm), orFlagsOf es)
  (rows.map (·.1), rows.foldl (fun (a : Flags) x => a ||| x.2) 0)

/-- Checks of one address of the record (R272, R273): alignment, range, and overlap with the ranges before it. -/
def State.optRange (s : State) (a n : Nat) (write : Bool) (before : List (Nat × Nat)) : Chk (List (Nat × Nat)) := do
  let faddr := BitVec.ofNat 64 a
  need (a % 64 == 0) Cause.misalign faddr
  need (if write then s.linesWritable a n else s.linesReadable a n) Cause.sramBound faddr
  need (before.all fun (b, m) => decide (a + 64 * n ≤ b ∨ b + 64 * m ≤ a)) Cause.sramBound faddr
  pure ((a, n) :: before)

def State.optWrites (s : State) (a : Nat) (ls : List (Line × Desc)) : List Eff :=
  ((List.range ls.length).zip ls).map fun (i, l, d) => .line (s.engineWrite (a + 64 * i)) l d

def runOpt (s : State) (q : QOp) (mode : RMode) (ea : Nat) : Chk (Flags × List Eff) := do
  let (r, _) ← s.readLine (s.engineRead ea) (BitVec.ofNat 64 ea)
  need (r.extractLsb' 81 47 == 0 && r.extractLsb' 416 96 == 0) Cause.formatMismatch 0
  let ad (k : Nat) : Nat := (r.extractLsb' (16 * k) 16).toNat
  let copy := r.getLsbD 80
  let nG := s.optLines (ad 1) numericFmts
  let nM := s.optLines (ad 2) momentFmts
  let nV := s.optLines (ad 3) momentFmts
  let r0 ← s.optRange (ad 0) 4 true []
  let r1 ← s.optRange (ad 1) nG false r0
  let r2 ← s.optRange (ad 2) nM true r1
  let r3 ← s.optRange (ad 3) nV true r2
  need (ad 4 % 64 == 0) Cause.misalign (BitVec.ofNat 64 (ad 4))
  let _ ← if copy then s.optRange (ad 4) 2 true r3 else pure r3
  let (_, W) ← s.optRead (ad 0) 4 [.fp32]
  let (_, G) ← s.optRead (ad 1) nG numericFmts
  let (fM, M) ← s.optRead (ad 2) nM momentFmts
  let (fV, V) ← s.optRead (ad 3) nV momentFmts
  let k (i : Nat) : Fl FpVal := (fpDecode .fp32 false (r.extractLsb' (128 + 32 * i) 32).toNat, 0)
  let es := (G.zip (M.zip (V.zip W))).map fun (g, m, v, w) => optElem k g m v w
  let (mL, mF) := optQuant q mode fM 0 (es.map (·.1.1))
  let (vL, vF) := optQuant q mode fV 64 (es.map (·.2.1.1))
  let ws := es.map (·.2.2.1)
  let (wL, _) := optQuant q .rne .fp32 0 ws
  let (bL, bF) := optQuant q mode .bf16 128 ws
  let stepFlags := es.foldl (fun (a : Flags) (m, v, w) => a ||| m.2 ||| v.2 ||| w.2) 0
  pure (stepFlags ||| mF ||| vF ||| (if copy then bF else 0),
    s.optWrites (ad 0) wL ++ s.optWrites (ad 2) mL ++ s.optWrites (ad 3) vL ++ (if copy then s.optWrites (ad 4) bL else []))

/-! ### Moves and masks (R275) -/

/-- Lanes of a register for VINS and VEXT (R246). -/
def tagLanes (d : Desc) : Nat × Nat :=
  let f := dFormat d
  if dValid d && f.isNumeric then (f.count, f.width) else (8, 64)

/-- VEXT and VINS do not accept E2M1 (R254). -/
def narrowTag (d : Desc) : Bool := dValid d && dFormat d == .e2m1

def runIns (t : Thread) (d : VReg) (w : Word) (idx : Nat) : Chk (Flags × List Eff) := do
  need (!narrowTag (t.vt d)) Cause.formatMismatch 0
  let (n, wd) := tagLanes (t.vt d)
  pure (0, [.v d (joinLine wd ((splitLine (t.vr d) wd n).set (idx % n) w.toNat)) (t.vt d)])

/-- VEXT's value (R275): zero-extended, or sign-extended for a signed integer element. -/
def extValue (t : Thread) (a : VReg) (idx : Nat) : Word :=
  let d := t.vt a
  let (n, w) := tagLanes d
  let x := (splitLine (t.vr a) w n).getD (idx % n) 0
  if dValid d && (dFormat d).isInt then BitVec.ofInt 64 (intElem (dFormat d) x) else BitVec.ofNat 64 x

def maskOp (t : Thread) (o : MaskVOp) (a b : MReg) (w : Word) : Word :=
  match o with
  | .and => t.mr a &&& t.mr b
  | .or => t.mr a ||| t.mr b
  | .xor => t.mr a ^^^ t.mr b
  | .andn => t.mr a &&& ~~~t.mr b
  | .not => ~~~t.mr a
  | .set => w

/-! ### The engine -/

/-- What a vector operation of the focus tile finds and writes (R249). A tree node has no elements, so that VBCAST of one writes the tag
alone (R80, R275; DEDUCED, log 29). -/
def runVec (s : State) (q : QOp) (o : VecOp) : Chk (Flags × List Eff) :=
  let t := s.tile.th q.tid
  match o with
  | .int o x d a b => runInt t q o x d a b
  | .cmp o x d a b => runCmp t o x d a b
  | .fp o x d a b => runFp t q o x d a b
  | .cvt m d a part f => runConvert t q d a part.toNat f fun j _ => q.rnd m j
  | .qnt m d a xv f => runQnt t q m d a xv f
  | .dqnt m d a f => runDqnt t q m d a f
  | .red o x d a => runRed t q o x d a
  | .perm o x d a b n => runPerm t o x d a b n
  | .ld z e d ea dsc => runVld s t z e d ea dsc
  | .st e d ea dsc => runVst s t e d ea dsc
  | .rng d seed keys base => .ok (0, runRng q d seed keys base)
  | .srnd d e seed keys base w part f =>
    let n := if w = 0 then srwBits q.rmode else w.toNat
    runConvert t q d e part.toNat f fun _ i => topBits (keyed seed keys base i) n
  | .drop m d e seed keys base p => runDrop t q m d e seed keys base p
  | .opt m ea => runOpt s q m ea
  | .ins d w idx => runIns t d w idx
  | .bcast d w f =>
    let tag := plainTag f q.tcm
    .ok (0, [if f = .node then .v d (t.vr d) tag else vWriteAll d f (List.replicate f.count w.toNat) tag])
  | .sett d w => .ok (0, [.v d (t.vr d) w])
  | .mov d a => .ok (0, [.v d (t.vr a) (t.vt a)])
  | .mask o d a b w => .ok (0, [.m d (maskOp t o a b w)])

/-! ### Issue -/

/-- What the X form adds (R252); the R form's addend is vd (R256). -/
def vmodOf (s : State) (x : Option VX) (d : VReg) : VMod :=
  match x with
  | none => ⟨false, modeOf s none, 0, d, none⟩
  | some x => ⟨x.zero, modeOf s x.rm, x.e, x.c, x.rfmt⟩
def vxGuard : Option VX → Guard
  | none => .none
  | some x => x.guard
def vxWords {α : Type} : Option α → Nat
  | none => 1
  | some _ => 3
def guardOf : Option Guard → Guard
  | none => .none
  | some g => g
/-- The second source as read at issue (R253, R276). -/
def vopdOf (s : State) : VSrc → VOpd
  | .v r => .v r
  | .g r => .s (s.gr r)

/-- Issues a vector operation of n words that advances SRSEQ by `adv` when it rounds under mode 5 (R251, R252). -/
def issueVec (gd : Guard) (o : VecOp) (n : Nat) (adv : Nat) (s : State) : Out :=
  guarded gd n s fun s =>
    if s.engineRoom .vector then
      .next ((((s.enqueue .vector (.vec o) n false).mapTh (·.addTop)).mapTh fun t => { t with srseq := t.srseq + BitVec.ofNat 64 adv }).retire n)
    else .next (s.stallEach 0x08)
/-- Advance of an operation that rounds under the mode. -/
def srAdvance (m : RMode) (n : Nat) : Nat := if m = .rsr then n else 0

def vint (o : IntVOp) (x : Option VX) (d a : VReg) (b : VSrc) (s : State) : Out :=
  issueVec (vxGuard x) (.int o (vmodOf s x d) d a (vopdOf s b)) (vxWords x) 0 s
def vcmp (o : CmpVOp) (x : Option VX) (d : MReg) (a : VReg) (b : VSrc) (s : State) : Out :=
  issueVec (vxGuard x) (.cmp o (vmodOf s x 0) d a (vopdOf s b)) (vxWords x) 0 s
def vfp (o : FpVOp) (x : Option VX) (d a : VReg) (b : VSrc) (s : State) : Out :=
  let m := vmodOf s x d
  issueVec (vxGuard x) (.fp o m d a (vopdOf s b)) (vxWords x) (srAdvance m.mode 128) s

/-- VADD (R255). -/
def execVadd (x : Option VX) (d a : VReg) (b : VSrc) (s : State) : Out := vint .add x d a b s
/-- VSUB (R255). -/
def execVsub (x : Option VX) (d a : VReg) (b : VSrc) (s : State) : Out := vint .sub x d a b s
/-- VADDS (R255). -/
def execVadds (x : Option VX) (d a : VReg) (b : VSrc) (s : State) : Out := vint .adds x d a b s
/-- VSUBS (R255). -/
def execVsubs (x : Option VX) (d a : VReg) (b : VSrc) (s : State) : Out := vint .subs x d a b s
/-- VMUL (R255). -/
def execVmul (x : Option VX) (d a : VReg) (b : VSrc) (s : State) : Out := vint .mul x d a b s
/-- VMULH (R255). -/
def execVmulh (x : Option VX) (d a : VReg) (b : VSrc) (s : State) : Out := vint .mulh x d a b s
/-- VMIN (R255). -/
def execVmin (x : Option VX) (d a : VReg) (b : VSrc) (s : State) : Out := vint .min x d a b s
/-- VMAX (R255). -/
def execVmax (x : Option VX) (d a : VReg) (b : VSrc) (s : State) : Out := vint .max x d a b s
/-- VAND (R255). -/
def execVand (x : Option VX) (d a : VReg) (b : VSrc) (s : State) : Out := vint .and x d a b s
/-- VOR (R255). -/
def execVor (x : Option VX) (d a : VReg) (b : VSrc) (s : State) : Out := vint .or x d a b s
/-- VXOR (R255). -/
def execVxor (x : Option VX) (d a : VReg) (b : VSrc) (s : State) : Out := vint .xor x d a b s
/-- VSLL (R255). -/
def execVsll (x : Option VX) (d a : VReg) (b : VSrc) (s : State) : Out := vint .sll x d a b s
/-- VSRL (R255). -/
def execVsrl (x : Option VX) (d a : VReg) (b : VSrc) (s : State) : Out := vint .srl x d a b s
/-- VSRA (R255). -/
def execVsra (x : Option VX) (d a : VReg) (b : VSrc) (s : State) : Out := vint .sra x d a b s
/-- VABS (R255). -/
def execVabs (x : Option VX) (d a : VReg) (s : State) : Out := vint .abs x d a (.v a) s
/-- VCMP.EQ (R255). -/
def execVcmpEq (x : Option VX) (d : MReg) (a : VReg) (b : VSrc) (s : State) : Out := vcmp .eq x d a b s
/-- VCMP.NE (R255). -/
def execVcmpNe (x : Option VX) (d : MReg) (a : VReg) (b : VSrc) (s : State) : Out := vcmp .ne x d a b s
/-- VCMP.LT (R255). -/
def execVcmpLt (x : Option VX) (d : MReg) (a : VReg) (b : VSrc) (s : State) : Out := vcmp .lt x d a b s
/-- VCMP.LE (R255). -/
def execVcmpLe (x : Option VX) (d : MReg) (a : VReg) (b : VSrc) (s : State) : Out := vcmp .le x d a b s
/-- VFADD (R256). -/
def execVfadd (x : Option VX) (d a : VReg) (b : VSrc) (s : State) : Out := vfp .fadd x d a b s
/-- VFSUB (R256). -/
def execVfsub (x : Option VX) (d a : VReg) (b : VSrc) (s : State) : Out := vfp .fsub x d a b s
/-- VFMUL (R256). -/
def execVfmul (x : Option VX) (d a : VReg) (b : VSrc) (s : State) : Out := vfp .fmul x d a b s
/-- VFDIV (R256). -/
def execVfdiv (x : Option VX) (d a : VReg) (b : VSrc) (s : State) : Out := vfp .fdiv x d a b s
/-- VFSQRT (R256). -/
def execVfsqrt (x : Option VX) (d a : VReg) (s : State) : Out := vfp .fsqrt x d a (.v a) s
/-- VFMIN (R256). -/
def execVfmin (x : Option VX) (d a : VReg) (b : VSrc) (s : State) : Out := vfp .fmin x d a b s
/-- VFMAX (R256). -/
def execVfmax (x : Option VX) (d a : VReg) (b : VSrc) (s : State) : Out := vfp .fmax x d a b s
/-- VFNEG (R256). -/
def execVfneg (x : Option VX) (d a : VReg) (s : State) : Out := vfp .fneg x d a (.v a) s
/-- VFABS (R256). -/
def execVfabs (x : Option VX) (d a : VReg) (s : State) : Out := vfp .fabs x d a (.v a) s
/-- VFCMP.EQ (R256). -/
def execVfcmpEq (x : Option VX) (d : MReg) (a : VReg) (b : VSrc) (s : State) : Out := vcmp .feq x d a b s
/-- VFCMP.LT (R256). -/
def execVfcmpLt (x : Option VX) (d : MReg) (a : VReg) (b : VSrc) (s : State) : Out := vcmp .flt x d a b s
/-- VFCMP.LE (R256). -/
def execVfcmpLe (x : Option VX) (d : MReg) (a : VReg) (b : VSrc) (s : State) : Out := vcmp .fle x d a b s
/-- VFCMP.UNORD (R256). -/
def execVfcmpUnord (x : Option VX) (d : MReg) (a : VReg) (b : VSrc) (s : State) : Out := vcmp .funord x d a b s
/-- VFMA (R256). -/
def execVfma (x : Option VX) (d a : VReg) (b : VSrc) (s : State) : Out := vfp .fma x d a b s
/-- VFMS (R256). -/
def execVfms (x : Option VX) (d a : VReg) (b : VSrc) (s : State) : Out := vfp .fms x d a b s
/-- VFNMA (R256). -/
def execVfnma (x : Option VX) (d a : VReg) (b : VSrc) (s : State) : Out := vfp .fnma x d a b s

/-- VCVT (R257, R258). -/
def execVcvt (gd : Guard) (rm : Option RMode) (d a : VReg) (part : BitVec 3) (fmt : Fmt) (s : State) : Out :=
  issueVec gd (.cvt (modeOf s rm) d a part fmt) 3 (srAdvance (modeOf s rm) 128) s
/-- VQNT (R259, R260). -/
def execVqnt (gd : Guard) (rm : Option RMode) (d a : VReg) (xv : Bool) (fmt : Fmt) (s : State) : Out :=
  issueVec gd (.qnt (modeOf s rm) d a xv fmt) 3 (srAdvance (modeOf s rm) 128) s
/-- VDQNT (R261). -/
def execVdqnt (gd : Guard) (rm : Option RMode) (d a : VReg) (fmt : Fmt) (s : State) : Out :=
  issueVec gd (.dqnt (modeOf s rm) d a fmt) 3 (srAdvance (modeOf s rm) 128) s

/-- The thread has an operation at the vector engine. -/
def State.vecBusy (s : State) : Bool := s.tile.ops.any fun o => o.tid == s.tid && o.eng == .vector

/-- A reduction (R262). Under mode 5 SRSEQ advances unless source and result are integer formats (R251), which the tag tells once the
thread's earlier vector operations are complete. -/
def vred (o : RedVOp) (x : Option VX) (d a : VReg) (s : State) : Out :=
  let m := vmodOf s x d
  guarded (vxGuard x) (vxWords x) s fun s =>
    if m.mode = .rsr ∧ s.vecBusy then .next s.stall
    else
      let fa := dFormat (s.th.vt a)
      issueVec .none (.red o m d a) (vxWords x) (if fa.isInt && (m.rfmt.getD fa).isInt then 0 else srAdvance m.mode 128) s
/-- VRSUM (R262). -/
def execVrsum (x : Option VX) (d a : VReg) (s : State) : Out := vred .sum x d a s
/-- VRMAX (R262). -/
def execVrmax (x : Option VX) (d a : VReg) (s : State) : Out := vred .max x d a s
/-- VRMIN (R262). -/
def execVrmin (x : Option VX) (d a : VReg) (s : State) : Out := vred .min x d a s
/-- VPERM (R262). -/
def execVperm (x : Option VX) (d a b : VReg) (s : State) : Out := issueVec (vxGuard x) (.perm .perm (vmodOf s x d) d a b 0) (vxWords x) 0 s
/-- VSLUP (R262). -/
def execVslup (x : Option VX) (d a : VReg) (b : GReg) (s : State) : Out :=
  issueVec (vxGuard x) (.perm .slup (vmodOf s x d) d a 0 (s.gr b)) (vxWords x) 0 s
/-- VSLDN (R262). -/
def execVsldn (x : Option VX) (d a : VReg) (b : GReg) (s : State) : Out :=
  issueVec (vxGuard x) (.perm .sldn (vmodOf s x d) d a 0 (s.gr b)) (vxWords x) 0 s
/-- VREV (R262). -/
def execVrev (x : Option VX) (d a : VReg) (s : State) : Out := issueVec (vxGuard x) (.perm .rev (vmodOf s x d) d a 0 0) (vxWords x) 0 s

/-- VLD and VST at issue (R263): the address checks in order, then gc's descriptor. -/
def vmemIssue (store : Bool) (x : Option VMemX) (a b : GReg) (s : State) (k : Nat → Option Desc → VecOp) : Out :=
  let gd := (x.map (·.guard)).getD .none
  let n := vxWords x
  guarded gd n s fun s =>
    let ea : Int := (s.gr a).toNat + (s.gr b).toNat + (match x with
      | some x => x.imm.toInt
      | none => 0)
    let dsc := (x.bind (·.dsc)).map fun c => ((s.gr c).setWidth 32 : Desc)
    if ea < 0 ∨ 0xFFFFF < ea then .next (s.trap Cause.sramBound (BitVec.ofInt 64 ea))
    else if ea % 64 ≠ 0 then .next (s.trap Cause.misalign (BitVec.ofInt 64 ea))
    else if !(if store then s.linesWritable ea.toNat 1 else s.linesReadable ea.toNat 1) then .next (s.trap Cause.sramBound (BitVec.ofInt 64 ea))
    else if dsc.any fun d => !dLegal d then .next (s.trap Cause.formatMismatch 0)
    else issueVec .none (k ea.toNat dsc) n 0 s
/-- VLD (R263, R264). -/
def execVld (x : Option VMemX) (d : VReg) (a b : GReg) (s : State) : Out :=
  vmemIssue false x a b s fun ea dsc => .ld ((x.map (·.zero)).getD false) ((x.map (·.e)).getD 0) d ea dsc
/-- VST (R263, R265). -/
def execVst (x : Option VMemX) (d : VReg) (a b : GReg) (s : State) : Out :=
  vmemIssue true x a b s fun ea dsc => .st ((x.map (·.e)).getD 0) d ea dsc

/-- VRNG (R268). -/
def execVrng (gd : Guard) (d : VReg) (a b : GReg) (c : RegLit) (s : State) : Out :=
  issueVec gd (.rng d (s.gr a) (s.gr b) (regLitVal s c)) (regLitWords c) 0 s
/-- VSRND (R269). -/
def execVsrnd (gd : Guard) (d e : VReg) (a b : GReg) (c : RegLit) (w : BitVec 6) (part : BitVec 3) (fmt : Fmt) (s : State) : Out :=
  issueVec gd (.srnd d e (s.gr a) (s.gr b) (regLitVal s c) w part fmt) (regLitWords c) 0 s
/-- VDROP (R270). -/
def execVdrop (gd : Guard) (rm : Option RMode) (d e : VReg) (a b : GReg) (c : RegLit) (p : BitVec 32) (s : State) : Out :=
  issueVec gd (.drop (modeOf s rm) d e (s.gr a) (s.gr b) (regLitVal s c) p) (regLitWords c) 0 s
/-- VOPT (R271): the record address is checked at issue. -/
def execVopt (x : Option (Guard × Option RMode)) (a : GReg) (s : State) : Out :=
  let gd := (x.map (·.1)).getD .none
  let m := modeOf s (x.bind (·.2))
  guarded gd (vxWords x) s fun s =>
    if !s.linesReadable ((s.gr a).toNat / 64 * 64) 1 then .next (s.trap Cause.sramBound (s.gr a))
    else if (s.gr a).toNat % 64 ≠ 0 then .next (s.trap Cause.misalign (s.gr a))
    else issueVec .none (.opt m (s.gr a).toNat) (vxWords x) (srAdvance m 256) s

/-! ### Moves and masks -/

/-- A value returned to a g register (R54, R276): the instruction waits until the engine has finished the thread's earlier vector
operations; the first wait counts a decoupling-loss event. -/
def vecReturn (x : Option Guard) (d : GReg) (v : State → Word) (s : State) : Out :=
  guarded (guardOf x) (vxWords x) s fun s =>
    if s.vecBusy then .next (s.stallOn 0x03)
    else .next ((s.setG d (v s)).retire (vxWords x))
def vidxOf (s : State) : VIdx → Nat
  | .reg b => (s.gr b).toNat
  | .imm i => i.toNat

/-- VEXT (R275). -/
def execVext (x : Option Guard) (d : GReg) (a : VReg) (b : VIdx) (s : State) : Out :=
  if guardHolds (guardOf x) s.th && !s.vecBusy && narrowTag (s.th.vt a) then .next (s.trap Cause.formatMismatch 0)
  else vecReturn x d (fun s => extValue s.th a (vidxOf s b)) s
/-- VTAG (R275). -/
def execVtag (x : Option Guard) (d : GReg) (a : VReg) (s : State) : Out := vecReturn x d (fun s => (s.th.vt a).zeroExtend 64) s
/-- MPOP (R275). -/
def execMpop (x : Option Guard) (d : GReg) (a : MReg) (s : State) : Out := vecReturn x d (fun s => BitVec.ofNat 64 (popCount (s.th.mr a) 64)) s
/-- MGET (R275). -/
def execMget (x : Option Guard) (d : GReg) (a : MReg) (s : State) : Out := vecReturn x d (fun s => s.th.mr a) s
/-- VINS (R275). -/
def execVins (x : Option Guard) (d : VReg) (a : GReg) (b : VIdx) (s : State) : Out :=
  issueVec (guardOf x) (.ins d (s.gr a) (vidxOf s b)) (vxWords x) 0 s
/-- VBCAST (R275). -/
def execVbcast (gd : Guard) (d : VReg) (a : GReg) (fmt : Fmt) (s : State) : Out := issueVec gd (.bcast d (s.gr a) fmt) 3 0 s
/-- VSETT (R275): the tag is checked at issue. -/
def execVsett (x : Option Guard) (d : VReg) (a : GReg) (s : State) : Out :=
  guarded (guardOf x) (vxWords x) s fun s =>
    let w : Desc := (s.gr a).setWidth 32
    if !dLegal w then .next (s.trap Cause.formatMismatch 0) else issueVec .none (.sett d w) (vxWords x) 0 s
/-- VMOV (R275). -/
def execVmov (x : Option Guard) (d a : VReg) (s : State) : Out := issueVec (guardOf x) (.mov d a) (vxWords x) 0 s
def vmask (o : MaskVOp) (x : Option Guard) (d a b : MReg) (w : Word) (s : State) : Out := issueVec (guardOf x) (.mask o d a b w) (vxWords x) 0 s
/-- MAND (R275). -/
def execMand (x : Option Guard) (d a b : MReg) (s : State) : Out := vmask .and x d a b 0 s
/-- MOR (R275). -/
def execMor (x : Option Guard) (d a b : MReg) (s : State) : Out := vmask .or x d a b 0 s
/-- MXOR (R275). -/
def execMxor (x : Option Guard) (d a b : MReg) (s : State) : Out := vmask .xor x d a b 0 s
/-- MANDN (R275). -/
def execMandn (x : Option Guard) (d a b : MReg) (s : State) : Out := vmask .andn x d a b 0 s
/-- MNOT (R275). -/
def execMnot (x : Option Guard) (d a : MReg) (s : State) : Out := vmask .not x d a a 0 s
/-- MSET (R275). -/
def execMset (x : Option Guard) (d : MReg) (a : GReg) (s : State) : Out := vmask .set x d d d (s.gr a) s

end Sys2Proof.Machine
end

