-- ==== Sys2Proof/Machine/Matrix.lean ====
section
/-! DEFINITION. The cell array in weight and recurrence mode and the accumulator store (R277 to R299): what each operation does when its
engine runs it, and the issue of every instruction of majors 0x30, 0x31 and 0x33. -/

namespace Sys2Proof.Machine

/-! ### Stores without local addresses -/

def accBlank (_ : Nat) : BitVec 48 := 0
def cstBlank (_ : Nat) : BitVec 32 := 0
/-- acc[row][col] (R110). -/
def Tile.accAt (t : Tile) (row col : Nat) : BitVec 48 := Tab.get accBlank t.acc (16 * row + col)
/-- State of cell c in recurrence mode (R288). -/
def Tile.cstAt (t : Tile) (c : Nat) : BitVec 32 := Tab.get cstBlank t.cst c
/-- CELLMODE.MODE (R278). -/
def Tile.cellMode (t : Tile) : Nat := (t.r.cellmode.extractLsb' 0 2).toNat

/-- Writes of an accumulator row. -/
def rowEffs (row : Nat) (ws : List (BitVec 48)) : List Eff := ((List.range 16).zip ws).map fun (c, w) => .acc (16 * row + c) w

/-! ### Columns (R76, R77, R99) -/

/-- An accumulator value: FP48, or a 48-bit integer in integer mode (R76). -/
def accVal (imode : Bool) (w : BitVec 48) : FpVal := if imode then intVal w.toInt else fpDecode .fp48 false w.toNat
/-- An exact integer value. -/
def valInt : FpVal → Int
  | .fin s m e _ => let t : Int := (m * 2 ^ e.toNat : Nat); if s then -t else t
  | _ => 0
/-- rne into FP48 (R99). -/
def rne48 (v : FpVal) : BitVec 48 × Flags := let (b, f) := fpRound .fp48 false rneMode v; (BitVec.ofNat 48 b, f)
/-- An addition of the tree: rne into FP48, or exact in integer mode. -/
def treeAdd (imode : Bool) (_ : Nat) (x y : FpVal) : FpVal × Flags :=
  let (v, f) := fpAddV false x y
  if imode then (v, f) else let (b, g) := rne48 v; (fpDecode .fp48 false b.toNat, f ||| g)
/-- acc := rne(acc + v, FP48), or the saturating integer sum, which raises OF where it saturates (R76, R99). -/
def accAdd (imode : Bool) (w : BitVec 48) (v : FpVal) : BitVec 48 × Flags :=
  if imode then
    let t := w.toInt + valInt v
    let u : Int := max (-(2 ^ 47)) (min (2 ^ 47 - 1) t)
    (BitVec.ofInt 48 u, if u = t then 0 else fOF)
  else
    let (s, f) := fpAddV false (fpDecode .fp48 false w.toNat) v
    let (b, g) := rne48 s
    (b, f ||| g)
/-- The tree of R99 over 16 values. -/
def tree16 (comb : Nat → FpVal → FpVal → FpVal × Flags) (vs : List FpVal) : FpVal × Flags :=
  let (v, _, f) := redTree comb 4 0 (vs.map some)
  (v.getD (.fin false 0 0 false), f)
/-- The tree over exact products (R77, R99). -/
def dot16 (imode : Bool) (a w : List FpVal) : FpVal × Flags :=
  let ps := (a.zip w).map fun (x, y) => fpMulV x y
  let (v, f) := tree16 (treeAdd imode) (ps.map (·.1))
  (v, f ||| ps.foldl (fun (g : Flags) p => g ||| p.2) 0)

/-! ### Cells and rows -/

/-- The element formats of the array (R277). -/
def arrayFmts : List Fmt := [.bf16, .fp16, .e4m3, .e5m2, .e2m1, .int8, .uint8, .int16]
/-- Local address of cell c (R277). -/
def cellAddr (c : Nat) : Nat := 0x30000 + 64 * c
/-- Reads cell c (R82). -/
def State.readCell (s : State) (c : Nat) : Chk (Line × Desc) := s.readLine (cellAddr c) (BitVec.ofNat 64 (cellAddr c))

/-- An integer line with scale 1 (R82 step 5). -/
def intLine (d : Desc) : Bool := (dFormat d).isInt && dScale d == 0x7F

/-- The cells with their common format (R284): every descriptor passes R82, in ascending order; then one element format. -/
def State.readCells (s : State) : Chk (Fmt × List (Line × Desc)) := do
  let cs ← (List.range 256).mapM fun c => do
    let (l, d) ← s.readCell c
    let _ ← checkDesc d 0 false
    pure (l, d)
  let f := dFormat ((cs.headD (0, 0)).2)
  need (arrayFmts.contains f && cs.all fun x => dFormat x.2 == f) Cause.formatMismatch 0
  pure (f, cs)

/-- Values of plane p over all cells, by cell number. -/
def planeOf (f : Fmt) (cs : List (Line × Desc)) (p : Nat) : List FpVal :=
  cs.map fun (l, d) => elemVal d f ((l >>> (f.width * p)).toNat % 2 ^ f.width)
/-- Column n of a plane, or row k. -/
def planeCol (vs : List FpVal) (n : Nat) : List FpVal := (List.range 16).map fun k => vs.getD (16 * k + n) (.nan false)
def planeRow (vs : List FpVal) (k : Nat) : List FpVal := (vs.drop (16 * k)).take 16

/-- Lines that n elements from a line start take. -/
def rowLines (f : Fmt) (n : Nat) : Nat := (n * f.width + 511) / 512
/-- The lines of a row at a that lie in data SRAM, checked under R82 in one format of `ok` (R284 step 4, R317). -/
def State.rowFormat (s : State) (a n : Nat) (ok : Fmt → Bool) : Chk (Fmt × List (Line × Desc)) := do
  let (l0, d0) ← s.readLine (s.engineRead a) (BitVec.ofNat 64 a)
  let f ← checkDesc d0 0 false
  need (ok f) Cause.formatMismatch 0
  let m := min (rowLines f n) (1024 - a / 64)
  let rest ← ((List.range m).drop 1).mapM fun i => do
    let b := a + 64 * i
    let (l, d) ← s.readLine (s.engineRead b) (BitVec.ofNat 64 b)
    let g ← checkDesc d 0 false
    need (g == f) Cause.formatMismatch 0
    pure (l, d)
  pure (f, (l0, d0) :: rest)
/-- Values of the n elements of a row. -/
def rowVals (f : Fmt) (ls : List (Line × Desc)) (n : Nat) : List FpVal := (ls.flatMap fun (l, d) => lineVals d f l).take n
/-- Row starts (R283). -/
def rowStarts (a stride n : Nat) : List Nat := (List.range n).map fun r => a + 64 * stride * r

/-- Rows of n elements: formats in ascending order, then extents (R284 steps 4 and 5). -/
def State.readRows (s : State) (starts : List Nat) (n : Nat) : Chk (List (Fmt × List (Line × Desc))) := do
  let rows ← starts.mapM fun a => s.rowFormat a n arrayFmts.contains
  let _ ← (starts.zip rows).mapM fun (a, f, _) => need (s.linesReadable a (rowLines f n)) Cause.sramBound (BitVec.ofNat 64 a)
  pure rows
/-- Check 6 of R284. -/
def imodeLines (imode : Bool) (cs : List (Line × Desc)) (rows : List (Fmt × List (Line × Desc))) : Chk Unit :=
  need (!imode || (cs.all fun x => intLine x.2) && rows.all fun r => r.2.all fun x => intLine x.2) Cause.formatMismatch 0

/-! ### Loading and storing cells (R279 to R282) -/

/-- Merges rows of elements into the cells (R280): `b` gives element n of row 16·q + k, relative to plane P0. -/
def placeEffs (f : Fmt) (d : Desc) (p0 np : Nat) (b : Nat → Nat) : List Eff :=
  let w := f.width
  let mask : Line := (BitVec.ofNat 512 (2 ^ (w * np) - 1)) <<< (w * p0)
  (List.range 256).map fun c =>
    let k := c / 16
    let n := c % 16
    let l : Line := joinLine w ((List.range np).map fun q => b (16 * (16 * q + k) + n)) <<< (w * p0)
    .merge (cellAddr c) mask l (some d) false

/-- The block of `n` lines' worth of elements from a (R280): its first descriptor and its elements. -/
def State.readBlock (s : State) (a elems : Nat) : Chk (Desc × List Nat) := do
  let faddr := BitVec.ofNat 64 a
  need (decide (a < 0x10000)) Cause.sramBound faddr
  let (_, d) ← s.readLine (s.engineRead a) faddr
  let f ← checkDesc d 0 false
  let m := elems * f.width / 512
  need (s.linesReadable a m) Cause.sramBound faddr
  let ls ← (List.range m).mapM fun i => do
    let b := a + 64 * i
    let (l, e) ← s.readLine (s.engineRead b) (BitVec.ofNat 64 b)
    let _ ← checkDesc e 0 false
    need (sameBlock e d) Cause.formatMismatch 0
    pure l
  need (arrayFmts.contains f) Cause.formatMismatch 0
  pure (d, ls.flatMap (splitAs f))

/-- Raw bytes of the n at a, both multiples of 16, whatever the descriptors (R281, R318): ECC_UNCORRECTABLE with the line's address where
damaged (R82). -/
def State.readRaw (s : State) (a n : Nat) : Chk (List Nat) := do
  need (decide (a + n ≤ 0x10000) && (List.range ((a % 64 + n + 63) / 64)).all fun i => s.tile.window_ (a / 64 + i) != .bRange)
    Cause.sramBound (BitVec.ofNat 64 a)
  let ws ← (List.range (n / 16)).mapM fun i => do
    let b := a + 16 * i
    let k := s.engineRead b
    if s.damaged (s.pa k) 16 then
      .error ⟨Cause.ecc, BitVec.ofNat 64 (b / 64 * 64), 0, 0, if s.isBad (s.pa k) 16 then some k else none⟩
    else pure ((List.range 16).map fun j => (Memory.read s.mem (s.pa k + j)).toNat)
  pure ws.flatten

/-- Element n of expanded row 4g + i of a 2:4 compressed block (R281). -/
def expand24 (vals : List Nat) (idx : List Nat) (e : Nat) : Nat :=
  let row := e / 16
  let n := e % 16
  let g := row / 4
  let i := row % 4
  let x := idx.getD (8 * g + n / 2) 0
  let nib := if n % 2 = 0 then x % 16 else x / 16
  if i = nib % 4 then vals.getD (16 * (2 * g) + n) 0
  else if i = nib / 4 then vals.getD (16 * (2 * g + 1) + n) 0
  else 0

def runLdb (s : State) (ea : Nat) (mask : Option Nat) (p0 np : Nat) : Chk (Flags × List Eff) := do
  let (d, es) ← s.readBlock ea ((if mask.isSome then 128 else 256) * np)
  let f := dFormat d
  need (decide (p0 + np ≤ f.count)) Cause.matrixShape 0
  match mask with
  | none => pure (0, placeEffs f d p0 np fun i => es.getD i 0)
  | some c =>
    let idx ← s.readRaw c (32 * np)
    need (idx.all fun x => decide (x % 4 < x % 16 / 4 ∧ x / 16 % 4 < x / 64)) Cause.formatMismatch 0
    pure (0, placeEffs f d p0 np (expand24 es idx))

/-- MSTB's cells (R282): VALID, of one format, scale, extra value and TCM; POISON does not trap. -/
def runStb (s : State) (ea p0 np : Nat) : Chk (Flags × List Eff) := do
  let cs := (List.range 256).map fun c => (s.loadLine (s.pa (cellAddr c)), s.descAt (s.pa (cellAddr c)))
  let d0 := (cs.headD (0, 0)).2
  let f := dFormat d0
  need (cs.all fun x => dValid x.2 && dLegal x.2 && f.isNumeric && sameBlock x.2 d0) Cause.formatMismatch 0
  need (decide (p0 + np ≤ f.count)) Cause.matrixShape 0
  let w := f.width
  let m := np * w / 2
  need (s.linesWritable ea m) Cause.sramBound (BitVec.ofNat 64 ea)
  let poison := (cs.any fun x => dPoison x.2) || s.isBad (s.pa (cellAddr 0)) 0x4000
  let d := (d0 &&& 0xFBFFFFFF) ||| (if poison then 0x04000000 else 0)
  let es : List Nat := (List.range np).flatMap fun q => cs.map fun (x : Line × Desc) => (x.1 >>> (w * (p0 + q))).toNat % 2 ^ w
  let found := (List.range 256).filter fun c => s.isBad (s.pa (cellAddr c)) 64
  pure (0, (found.map fun c => Eff.merge (cellAddr c) 0 0 none true) ++ (List.range m).map fun i =>
    .lateLine (ea + 64 * i) (joinLine w ((es.drop (i * f.count)).take f.count)) d)

/-! ### Streamed products (R283 to R287) -/

/-- Accumulates a list of columns into accumulator row `row` of the running contents. -/
def accRow (imode : Bool) (acc : Nat → BitVec 48) (row : Nat) (cols : List (FpVal × Flags)) : List (BitVec 48 × Flags) :=
  ((List.range 16).zip cols).map fun (j, v, f) => let (w, g) := accAdd imode (acc (16 * row + j)) v; (w, f ||| g)

/-- Row `row` after the trees of several planes in ascending order (R100). -/
def accPlanes (imode : Bool) (acc : Nat → BitVec 48) (row : Nat) (planes : List (List (FpVal × Flags))) : List (BitVec 48) × Flags :=
  planes.foldl (fun (ws, fl) cols =>
    let rs := accRow imode (fun i => ws.getD (i - 16 * row) 0) row cols
    (rs.map (·.1), rs.foldl (fun (g : Flags) r => g ||| r.2) fl)) ((List.range 16).map fun j => acc (16 * row + j), 0)

/-- Values of the rows and planes of a streamed product, after its checks; `mode` says that CELLMODE was 0 at its start (R278). -/
def State.product (s : State) (mode imode : Bool) (starts : List Nat) (n p0 np : Nat) : Chk (List (List FpVal) × List (List FpVal)) := do
  need mode Cause.matrixShape 0
  let (f, cs) ← s.readCells
  need (decide (p0 + np ≤ f.count)) Cause.matrixShape 0
  let rows ← s.readRows starts n
  imodeLines imode cs rows
  pure (rows.map fun (g, ls) => rowVals g ls n, (List.range np).map fun q => planeOf f cs (p0 + q))

def accOf (s : State) (i : Nat) : BitVec 48 := Tab.get accBlank s.tile.acc i

/-- MMAC (R285) and, with t, MMACT (R286). -/
def runMac (s : State) (t imode : Bool) (ea rows stride r0 p0 np : Nat) : Chk (Flags × List Eff) := do
  let (xs, ps) ← s.product (s.tile.cellMode == 0) imode (rowStarts ea stride rows) (if t then 16 else 16 * np) p0 np
  let outs : List (Nat × List (BitVec 48) × Flags) :=
    if t then
      ((List.range rows).zip xs).flatMap fun (r, a) => ((List.range np).zip ps).map fun (q, pl) =>
        let row := r0 + r * np + q
        (row, accPlanes imode (accOf s) row [(List.range 16).map fun k => dot16 imode a (planeRow pl k)])
    else
      ((List.range rows).zip xs).map fun (r, a) =>
        let row := r0 + r
        (row, accPlanes imode (accOf s) row (((List.range np).zip ps).map fun (q, pl) =>
          (List.range 16).map fun n => dot16 imode ((a.drop (16 * q)).take 16) (planeCol pl n)))
  pure (outs.foldl (fun (g : Flags) o => g ||| o.2.2) 0, outs.flatMap fun o => rowEffs o.1 o.2.1)

/-! ### Recurrences (R288 to R290) -/

/-- rne into FP32 of a converted value. -/
def cvt32 (v : FpVal) : FpVal × Flags := let (b, f) := cvtElem .fp32 false rneMode v; (fpDecode .fp32 false b, f)
def fpOne : FpVal := .fin false 1 0 false
def fpZero : FpVal := .fin false 0 0 false
/-- A source code of R288. -/
def microSrc (code : Nat) (a w s t : FpVal) : FpVal :=
  match code with
  | 0 => a | 1 => w | 2 => s | 3 => t | 4 => fpZero | 5 => fpOne | 6 => .inf true | _ => .inf false
/-- One micro-operation: the new s and t. -/
def microStep (u : BitVec 16) (a w s t : FpVal) : FpVal × FpVal × Flags :=
  let x := microSrc (u.extractLsb' 7 3).toNat a w s t
  let y := microSrc (u.extractLsb' 4 3).toNat a w s t
  let put (r : FpVal × Flags) : FpVal × FpVal × Flags := if u.extractLsb' 10 2 = 0 then (s, r.1, r.2) else (r.1, t, r.2)
  match (u.extractLsb' 12 4).toNat with
  | 1 => put (rne32 (fpAddV false x y) 0)
  | 2 => put (rne32 (fpAddV false x y.neg) 0)
  | 3 => put (rne32 (fpMulV x y) 0)
  | 4 => put (fpElem .fmax false x y y)
  | 5 => put (fpElem .fmin false x y y)
  | 6 => put (x, 0)
  | _ => (s, t, 0)
/-- The four micro-operations with t from +0: the new s, t and the flags. -/
def microRun (word : Word) (a w s : FpVal) : FpVal × FpVal × Flags :=
  (List.range 4).foldl (fun (s, t, f) i =>
    let (s1, t1, g) := microStep (word.extractLsb' (16 * i) 16) a w s t
    (s1, t1, f ||| g)) (s, fpZero, 0)
/-- A program word is free of reserved fields (R288, R289). -/
def microOk (u : BitVec 16) : Bool :=
  let op := (u.extractLsb' 12 4).toNat
  decide (op ≤ 6) && decide ((u.extractLsb' 10 2).toNat ≤ 1) && u.extractLsb' 0 4 == 0 && (op != 0 || u == 0) &&
    (op != 6 || u.extractLsb' 4 3 == 0)

/-- The combination of COMBINE (R289, R290). -/
def combOf (c : BitVec 2) (j : Nat) (x y : FpVal) : FpVal × Flags :=
  match c.toNat with
  | 0 => treeAdd false j x y
  | 1 => fpElem .fmax false x y y
  | _ => fpElem .fmin false x y y

def runMrec (s : State) (init : Bool) (ea rows stride r0 p0 : Nat) : Chk (Flags × List Eff) := do
  need (s.tile.cellMode == 2) Cause.matrixShape 0
  let (f, cs) ← s.readCells
  need (decide (p0 + 1 ≤ f.count)) Cause.matrixShape 0
  let rs ← s.readRows (rowStarts ea stride rows) 16
  let ws := (planeOf f cs p0).map cvt32
  let start : List FpVal := (List.range 256).map fun c =>
    if init then microSrc s.tile.init.toNat fpZero fpZero fpZero fpZero else fpDecode .fp32 false (s.tile.cstAt c).toNat
  let step (st : List FpVal × Flags × List Eff) (x : Nat × Fmt × List (Line × Desc)) : List FpVal × Flags × List Eff :=
    let (r, g, ls) := x
    let as := (rowVals g ls 16).map cvt32
    let outs := ((List.range 256).zip (ws.zip st.1)).map fun (c, w, v) => microRun s.tile.uprog ((as.getD (c / 16) (fpZero, 0)).1) w.1 v
    let cols := (List.range 16).map fun n =>
      let (y, f1) := tree16 (combOf s.tile.comb) ((List.range 16).map fun k => (outs.getD (16 * k + n) (fpZero, fpZero, 0)).2.1)
      let (z, f2) := combOf s.tile.comb 0 (fpDecode .fp48 false (s.tile.accAt (r0 + r) n).toNat) y
      let (b, f3) := rne48 z
      (b, f1 ||| f2 ||| f3)
    let fl := (as.foldl (fun (a : Flags) x => a ||| x.2) 0) ||| (outs.foldl (fun (a : Flags) x => a ||| x.2.2) 0) |||
      (cols.foldl (fun (a : Flags) x => a ||| x.2) 0)
    (outs.map (·.1), st.2.1 ||| fl, st.2.2 ++ rowEffs (r0 + r) (cols.map (·.1)))
  let (cst, fl, effs) := ((List.range rows).zip rs).foldl step (start, ws.foldl (fun (a : Flags) x => a ||| x.2) 0, [])
  pure (fl, effs ++ ((List.range 256).zip cst).map fun (c, v) => .cst c (BitVec.ofNat 32 (fpRound .fp32 false rneMode v).1))

/-! ### The accumulator (R291 to R296) -/

/-- FILL in FP48 (R291). -/
def fillVal (f : BitVec 2) : BitVec 48 :=
  match f.toNat with
  | 0 => 0
  | 1 => BitVec.ofNat 48 (fpInf .fp48 true)
  | _ => BitVec.ofNat 48 (fpInf .fp48 false)

def runAcz (r0 n : Nat) (fill : BitVec 2) : List Eff :=
  (List.range n).flatMap fun i => rowEffs (r0 + i) (List.replicate 16 (fillVal fill))

def runAcld (s : State) (ea r0 n : Nat) : Chk (Flags × List Eff) := do
  let ls ← (List.range (2 * n)).mapM fun i => s.readLine (s.engineRead (ea + 64 * i)) (BitVec.ofNat 64 (ea + 64 * i))
  pure (0, ((List.range (2 * n)).zip ls).flatMap fun (i, l, _) =>
    (List.range 8).map fun k => .acc (16 * (r0 + i / 2) + 8 * (i % 2) + k) (l.extractLsb' (64 * k) 48))

/-- Width of a stored result: RAW words are 8 bytes (R292). -/
def acstWidth (f : Fmt) : Nat := if f = .raw then 64 else f.width

def runAcst (s : State) (q : QOp) (ea r0 n : Nat) (sc : BitVec 8) (imode : Bool) (mode : RMode) (fmt : Fmt) : Flags × List Eff :=
  let w := acstWidth fmt
  let es := (List.range (16 * n)).map fun j =>
    let a := s.tile.accAt (r0 + j / 16) (j % 16)
    if fmt = .raw then (a.toNat, 0) else cvtElem fmt q.tcm (q.rnd mode j) ((accVal imode a).scale (127 - (sc.toNat : Int)))
  let per := 512 / w
  let d : Desc := if fmt = .raw then 0 else mkDesc fmt sc 0 q.tcm
  (orFlagsOf es, (List.range (16 * n / per)).map fun i =>
    .lateLine (ea + 64 * i) (joinLine w (((es.map (·.1)).drop (i * per)).take per)) d)

def runAcmv (s : State) (r0 src n : Nat) : List Eff :=
  (List.range n).flatMap fun i => rowEffs (r0 + i) ((List.range 16).map fun c => s.tile.accAt (src + i) c)

/-! ### Issue -/

/-- Operations of R298 that run against the matrix engine within a thread. -/
def CopOp.ordered : CopOp → Bool
  | .copy _ => false
  | _ => true

def natOf {n : Nat} (x : BitVec n) : Nat := x.toNat

/-- Checks one after another at issue; the first that fails traps with its cause and address. -/
def checks (s : State) (cs : List (Bool × BitVec 8 × Word)) (k : Out) : Out :=
  match cs.find? fun c => !c.1 with
  | some (_, cause, faddr) => .next (s.trap cause faddr)
  | none => k

def aligned64 (a : Word) : Bool × BitVec 8 × Word := (a.extractLsb' 0 6 == 0, Cause.misalign, a)
/-- The first row start outside data SRAM (R284). -/
def startsInside (a : Word) (stride n : Nat) : Bool × BitVec 8 × Word :=
  match (rowStarts a.toNat stride n).find? fun x => decide (0x10000 ≤ x) with
  | some x => (false, Cause.sramBound, BitVec.ofNat 64 x)
  | none => (true, 0, 0)
def shape (b : Bool) : Bool × BitVec 8 × Word := (b, Cause.matrixShape, 0)
/-- A busy tag (R56). -/
def tagFree (s : State) (t : BitVec 6) : Bool × BitVec 8 × Word := (!s.tile.tagBusy t, Cause.tagInvalid, 0)

/-- MLDB (R279, R280). -/
def execMldb (gd : Guard) (a : GReg) (p0 np1 : BitVec 7) (s : State) : Out :=
  guarded gd 3 s fun s =>
    checks s [aligned64 (s.gr a), shape (p0.toNat + np1.toNat + 1 ≤ 128)]
      (issueTop .matrix (.mat (.ldb (s.gr a).toNat none p0.toNat (np1.toNat + 1))) 3 s)
/-- MLDB.S (R279, R281). -/
def execMldbS (gd : Guard) (a c : GReg) (p0 np1 : BitVec 7) (s : State) : Out :=
  guarded gd 3 s fun s =>
    checks s [aligned64 (s.gr a), ((s.gr c).extractLsb' 0 5 == 0, Cause.misalign, s.gr c), shape (p0.toNat + np1.toNat + 1 ≤ 128)]
      (issueTop .matrix (.mat (.ldb (s.gr a).toNat (some (s.gr c).toNat) p0.toNat (np1.toNat + 1))) 3 s)
/-- MSTB (R279, R282): on the copy engine. -/
def execMstb (gd : Guard) (tag : BitVec 6) (a : GReg) (p0 np1 : BitVec 7) (s : State) : Out :=
  guarded gd 3 s fun s =>
    checks s [aligned64 (s.gr a), shape (p0.toNat + np1.toNat + 1 ≤ 128), tagFree s tag]
      (issueCop .copy (.stb tag (s.gr a).toNat p0.toNat (np1.toNat + 1)) 3 false 0 s)
/-- MPROG (R288, R289). -/
def execMprog (gd : Guard) (a : GReg) (comb : BitVec 2) (init : BitVec 3) (s : State) : Out :=
  guarded gd 3 s fun s =>
    checks s [shape ((List.range 4).all fun i => microOk ((s.gr a).extractLsb' (16 * i) 16))]
      (issueTop .matrix (.mat (.prog (s.gr a) comb init)) 3 s)

/-- The issue checks of R284, then the operation. `rows` is how many accumulator rows are written. -/
def stream (x : StreamArgs) (p0 np rows : Nat) (k : Nat → Nat → MatOp) (s : State) : Out :=
  let nr := x.nr1.toNat + 1
  guarded x.guard 3 s fun s =>
    checks s [aligned64 (s.gr x.a), startsInside (s.gr x.a) x.stride.toNat nr,
        shape (p0 + np ≤ 128 && x.r0.toNat + rows ≤ 64)]
      (issueTop .matrix (.mat (k (s.gr x.a).toNat nr)) 3 s)
/-- MMAC (R283 to R285). -/
def execMmac (x : StreamArgs) (imode : Bool) (p0 np1 : BitVec 7) (s : State) : Out :=
  stream x p0.toNat (np1.toNat + 1) (x.nr1.toNat + 1)
    (fun ea nr => .mac false imode ea nr x.stride.toNat x.r0.toNat p0.toNat (np1.toNat + 1)) s
/-- MMACT (R283, R284, R286). -/
def execMmact (x : StreamArgs) (imode : Bool) (p0 np1 : BitVec 7) (s : State) : Out :=
  stream x p0.toNat (np1.toNat + 1) ((x.nr1.toNat + 1) * (np1.toNat + 1))
    (fun ea nr => .mac true imode ea nr x.stride.toNat x.r0.toNat p0.toNat (np1.toNat + 1)) s
/-- MREC (R283, R284, R290). -/
def execMrec (x : StreamArgs) (init : Bool) (p0 : BitVec 7) (s : State) : Out :=
  stream x p0.toNat 1 (x.nr1.toNat + 1) (fun ea nr => .mrec init ea nr x.stride.toNat x.r0.toNat p0.toNat) s

/-- ACZ (R291 to R293). -/
def execAcz (gd : Guard) (r0 nr1 : BitVec 6) (fill : BitVec 2) (s : State) : Out :=
  guarded gd 3 s fun s =>
    checks s [shape (r0.toNat + nr1.toNat + 1 ≤ 64)] (issueTop .matrix (.mat (.acz r0.toNat (nr1.toNat + 1) fill)) 3 s)
/-- ACLD (R291, R292, R294). -/
def execAcld (gd : Guard) (tag : BitVec 6) (a : GReg) (r0 nr1 : BitVec 6) (s : State) : Out :=
  let n := nr1.toNat + 1
  guarded gd 3 s fun s =>
    checks s [shape (r0.toNat + n ≤ 64), aligned64 (s.gr a), (s.linesReadable (s.gr a).toNat (2 * n), Cause.sramBound, s.gr a),
        tagFree s tag]
      (issueCop .copy (.acld tag (s.gr a).toNat r0.toNat n) 3 false 0 s)
/-- ACST (R291, R292, R295). -/
def execAcst (gd : Guard) (tag : BitVec 6) (a : GReg) (r0 nr1 : BitVec 6) (sc : BitVec 8) (imode : Bool) (rm : Option RMode) (fmt : Fmt)
    (s : State) : Out :=
  let n := nr1.toNat + 1
  let m := modeOf s rm
  guarded gd 3 s fun s =>
    checks s [shape (r0.toNat + n ≤ 64 && 16 * n * acstWidth fmt % 512 == 0), aligned64 (s.gr a),
        (s.linesWritable (s.gr a).toNat (16 * n * acstWidth fmt / 512), Cause.sramBound, s.gr a), tagFree s tag]
      (issueCop .copy (.acst tag (s.gr a).toNat r0.toNat n sc imode m fmt) 3 false (srAdvance m 1024) s)
/-- ACMV (R291, R292, R296): confirmed at issue. -/
def execAcmv (gd : Guard) (tag : BitVec 6) (r0 src nr1 : BitVec 6) (s : State) : Out :=
  let n := nr1.toNat + 1
  guarded gd 3 s fun s =>
    checks s [shape (r0.toNat + n ≤ 64 && src.toNat + n ≤ 64), tagFree s tag]
      (issueCop .copy (.acmv tag r0.toNat src.toNat n) 3 true 0 s)

end Sys2Proof.Machine
end

