-- ==== Sys2Proof/Machine/Gang.lean ====
section
/-! DEFINITION. Gangs (R300 to R305): the issue of MGANG, joins at the origin member, the product of all members at the release, done
reports and the commit, aborts and the timeout. -/

namespace Sys2Proof.Machine

/-! ### Geometry -/

def GangOp.side (o : GangOp) : Nat := (o.b.extractLsb' 32 5).toNat
def GangOp.y0 (o : GangOp) : Nat := (o.b.extractLsb' 16 11).toNat
def GangOp.x0 (o : GangOp) : Nat := (o.b.extractLsb' 0 11).toNat

/-- First column and row of the focus tile's hall. -/
def State.hallOrigin (s : State) : Coord := let (x, y, _, _) := s.hallBox s.tile.hid.toNat; ⟨x, y⟩
/-- Tile of member (i, j) for a hall at h. -/
def GangOp.member (o : GangOp) (h : Coord) (i j : Nat) : Coord := ⟨h.x + o.x0 + j, h.y + o.y0 + i⟩
/-- The members in (y, x) order. -/
def GangOp.members (o : GangOp) (h : Coord) : List Coord :=
  (List.range o.side).flatMap fun i => (List.range o.side).map fun j => o.member h i j

/-- The values that all members share (R301). -/
def GangOp.sameGang (a b : GangOp) : Bool :=
  a.b == b.b && a.c == b.c && a.imode == b.imode && a.acc == b.acc && a.p0 == b.p0 && a.np == b.np

/-- The conditions of R300 at the focus tile. -/
def State.gangShape (s : State) (o : GangOp) : Bool :=
  let (x, y, w, n) := s.hallBox s.tile.hid.toNat
  let g := o.side
  !s.tile.sys && o.b.extractLsb' 37 27 == 0 && o.b.extractLsb' 27 5 == 0 && o.b.extractLsb' 11 5 == 0 && o.c.extractLsb' 16 48 == 0 &&
    decide (1 ≤ g ∧ g ≤ 16 ∧ o.x0 + g ≤ w ∧ o.y0 + g ≤ n ∧ x + o.x0 ≤ s.foc.x ∧ s.foc.x < x + o.x0 + g ∧ y + o.y0 ≤ s.foc.y ∧
      s.foc.y < y + o.y0 + g ∧ o.r0 + 16 ≤ 64 ∧ o.p0 + o.np ≤ 128)

/-- MGANG (R300, R302): the checks at issue; the matrix engine joins the gang when it starts the operation. -/
def execMgang (gd : Guard) (acc imode : Bool) (stride : BitVec 10) (a b c : GReg) (p0 np1 : BitVec 7) (r0 : BitVec 6) (s : State) : Out :=
  guarded gd 3 s fun s =>
    let o : GangOp := ⟨false, acc, imode, stride.toNat, s.gr a, p0.toNat, np1.toNat + 1, r0.toNat, s.gr b, s.gr c⟩
    checks s [shape (s.gangShape o)] (issueTop .matrix (.mat (.gang o)) 3 s)

/-! ### Operations of members -/

/-- The gang operation that the tile's matrix engine is executing. -/
def Tile.gangOp (t : Tile) : Option (QOp × GangOp) :=
  t.ops.findSome? fun q => match q.op with
    | .mat (.gang o) => if q.started then some (q, o) else none
    | _ => none
/-- Gives the executing gang operation its result. -/
def Tile.gangResult (t : Tile) (r : Result) : Tile :=
  match t.gangOp with
  | some (q, _) => { t with ops := t.ops.map fun x => if x.seq = q.seq then { x with result := some r } else x }
  | none => t
def Tile.mapGang (t : Tile) (f : GangSt → GangSt) : Tile := { t with gang := f t.gang }

/-- The trap of a failed check (R53). -/
def Fail.info (f : Fail) (ipc : BitVec 12) : TrapInfo := ⟨f.cause, ipc, f.faddr, f.op0, f.op1, 0, 0⟩

/-- Joins the gang (R301): the operation takes CELLMODE as it stands (R278), and a join goes on VC12 to the origin. -/
def State.gangStart (s : State) (q : QOp) (o : GangOp) : State :=
  let o1 := { o with weights := s.tile.cellMode == 0 }
  (s.mapTile fun t => ({ t with ops := t.ops.map fun x => if x.seq = q.seq then { x with op := .mat (.gang o1) } else x } : Tile).mapGang
    fun g => { g with committed := false }).emit s.foc 12 (.tile (o.member s.hallOrigin 0 0)) (.gangJoin q.tid q.seq o1)

/-- The member's operation is still in its gang: executing, and not stopped by a trap. -/
def State.inGang (s : State) (c : Coord) (seq : Nat) : Bool :=
  match (s.tileAt c).gangOp with
  | some (q, _) => q.seq == seq && (match q.result with
    | some (.trap _) => false
    | _ => true)
  | none => false

/-- The join of member c at its origin, while its operation is in the gang. -/
def State.joinOf (s : State) (origin c : Coord) : Option Join :=
  (s.tileAt origin).gang.joins.find? fun j => j.c == c && s.inGang c j.seq

/-- Ends a gang at its origin: its members' joins and reports are gone. -/
def State.gangClear (s : State) (origin : Coord) (ms : List Coord) : State :=
  s.mapTileAt origin (·.mapGang fun g =>
    { g with joins := g.joins.filter fun j => !ms.contains j.c, dones := g.dones.filter fun d => !ms.contains d.1 })

/-- Sends aborts from tile `from_` to the operations of the members `dsts` that joined at the origin (R304). -/
def State.gangAbortTo (s : State) (from_ origin : Coord) (dsts : List Coord) (cause : BitVec 8) (who : Coord) : State :=
  (dsts.filterMap fun c => s.joinOf origin c).foldl (fun (x : State) j => x.emit from_ 12 (.tile j.c) (.gangAbort cause who j.seq)) s

/-! ### The product (R302) -/

/-- What a member brings: its operation, its rows of A in column 0, and its planes of B. -/
structure GangIn where
  op : GangOp
  rows : List (List FpVal)
  planes : List (List FpVal)
  deriving Inhabited

/-- The checks of R284 for a member at the focus tile, in their order; rows are read in column 0 only. -/
def State.gangRead (s : State) (o : GangOp) (col0 : Bool) : Chk GangIn := do
  let starts := if col0 then rowStarts o.a.toNat o.stride (16 * o.side) else []
  if col0 then
    need (o.a.extractLsb' 0 6 == 0) Cause.misalign o.a
    need (startsInside o.a o.stride (16 * o.side)).1 Cause.sramBound (startsInside o.a o.stride (16 * o.side)).2.2
  let (rows, planes) ← s.product o.weights o.imode starts (16 * o.np) o.p0 o.np
  pure ⟨o, rows, planes⟩

/-- Element n of row m in column j: the running sum south through the K-blocks, and each member's flags. -/
def gangElem (o : GangOp) (inp : Nat → Nat → GangIn) (start : BitVec 48) (j m n : Nat) : BitVec 48 × List Flags :=
  (List.range o.side).foldl (fun (run, fs) i =>
    let a := (inp i 0).rows.getD m []
    let (blk, f1) := (List.range o.np).foldl (fun (b, f) p =>
      let (t, g) := dot16 o.imode ((a.drop (16 * p)).take 16) (planeCol ((inp i j).planes.getD p []) n)
      let (v, h) := treeAdd o.imode 0 b t
      (v, f ||| g ||| h)) (fpZero, (0 : Flags))
    let (run1, f2) := accAdd o.imode run blk
    (run1, fs ++ [f1 ||| f2])) (start, [])

/-- Row m of column j as 16 elements: their words, and each member's flags. -/
def gangRow (o : GangOp) (inp : Nat → Nat → GangIn) (start : Nat → BitVec 48) (j m : Nat) : List (BitVec 48) × List Flags :=
  let es := (List.range 16).map fun n => gangElem o inp (if o.acc then start n else 0) j m n
  (es.map (·.1), (List.range o.side).map fun i => es.foldl (fun (f : Flags) e => f ||| e.2.getD i 0) 0)

/-- Results of the members (d, j), in (y, x) order. -/
def gangProduct (o : GangOp) (inp : Nat → Nat → GangIn) (acc : Nat → Nat → Nat → Nat → BitVec 48) : List Result :=
  let g := o.side
  let cols := (List.range g).map fun j => (List.range (16 * g)).map fun m => gangRow o inp (acc (m / 16) j (m % 16)) j m
  (List.range g).flatMap fun d => (List.range g).map fun j =>
    let col := cols.getD j []
    let fl := col.foldl (fun (f : Flags) r => f ||| r.2.getD d 0) 0
    .ok fl ((List.range 16).flatMap fun k => rowEffs ((inp d j).op.r0 + k) (col.getD (16 * d + k) ([], [])).1)

/-- The release at the origin (R301): every member checks over the memory of its home; a failing one traps with its own cause and aborts
the rest; otherwise each holds its result until the commit. -/
def State.gangRelease (s : State) (origin : Coord) (o : GangOp) (ms : List Coord) : State :=
  let g := o.side
  let reads := ((List.range ms.length).zip ms).map fun (k, c) =>
    match (s.tileAt c).gangOp with
    | some (q, p) => (c, ((s.focus c q.tid).settled c).gangRead p (k % g == 0))
    | none => (c, .ok default)
  let fails := reads.filterMap fun (c, r) => match r with
    | .error f => some (c, f)
    | .ok _ => none
  match fails with
  | (c0, f0) :: _ =>
    let s1 := (s.gangAbortTo c0 origin (ms.filter fun c => !(fails.any (·.1 == c))) f0.cause c0).gangClear origin ms
    fails.foldl (fun (x : State) (c, f) =>
      let x1 := match f.mark with
        | some a => x.markBad (tileBase c + a) 64
        | none => x
      x1.mapTileAt c fun t => t.gangResult (.trap (f.info ((t.gangOp.map (·.1.ipc)).getD 0)))) s1
  | [] =>
    let ins := reads.map fun (_, r) => match r with
      | .ok i => i
      | .error _ => default
    let inp (i j : Nat) : GangIn := ins.getD (g * i + j) default
    let acc (d j k n : Nat) : BitVec 48 := (s.tileAt (ms.getD (g * d + j) origin)).accAt ((inp d j).op.r0 + k) n
    (ms.zip (gangProduct o inp acc)).foldl (fun (x : State) (c, r) => x.mapTileAt c (·.gangResult r)) s

/-! ### The events -/

def Msg.isJoin : Msg → Bool
  | .gangJoin _ _ _ => true
  | _ => false
def Msg.isGangAbort : Msg → Bool
  | .gangAbort _ _ _ => true
  | _ => false

/-- GANG_JOIN (R301, R304): a join reaches the origin. With every member's join there, the gang is released, or aborted where their
values differ: the lowest differing member traps MATRIX_SHAPE. -/
def execGangJoin (s : State) : Out :=
  match s.net.find? fun f => f.atTile s.foc && f.msg.isJoin with
  | none => .next s
  | some f =>
    match f.msg with
    | .gangJoin tid seq o =>
      let s1 := ({ s with net := s.net.erase f } : State).mapTile (·.mapGang fun g =>
        { g with joins := g.joins.filter (fun j => j.c != f.src) ++ [⟨f.src, tid, seq, o, s.wtime + s.tile.lag⟩] })
      match s1.joinOf s.foc s.foc with
      | none => .next s1
      | some own =>
        let ms := own.op.members s.hallOrigin
        let js := ms.filterMap (s1.joinOf s.foc)
        if js.length < ms.length then .next s1
        else match js.find? fun j => !j.op.sameGang own.op with
          | some j => .next ((s1.gangAbortTo s.foc s.foc ms Cause.matrixShape j.c).gangClear s.foc ms)
          | none => .next (s1.gangRelease s.foc own.op ms)
    | _ => .next s

/-- GANG_DONE (R303): the focus member reports done; one whose flags would trap aborts the gang instead. The last report commits it. -/
def execGangDone (s : State) : Out :=
  match s.tile.gangOp with
  | some (q, o) =>
    match q.result with
    | some (.ok fl _) =>
      let origin := o.member s.hallOrigin 0 0
      let ms := o.members s.hallOrigin
      if s.tile.gang.committed || (s.tileAt origin).gang.dones.contains (s.foc, q.seq) || (s.joinOf origin s.foc).isNone then .next s
      else if flagTraps (s.tile.th q.tid).fflags fl then
        let s1 := (s.gangAbortTo s.foc origin (ms.filter (· != s.foc)) Cause.fpTrap s.foc).gangClear origin ms
        .next (s1.mapTile (·.gangResult (.trap ⟨Cause.fpTrap, q.ipc, 0, fl.zeroExtend 64, 0, 0, 0⟩)))
      else
        let s1 := s.mapTileAt origin (·.mapGang fun g => { g with dones := g.dones ++ [(s.foc, q.seq)] })
        let reported (c : Coord) : Bool := match s1.joinOf origin c with
          | some j => (s1.tileAt origin).gang.dones.contains (c, j.seq)
          | none => false
        if ms.all reported then
          .next ((ms.foldl (fun (x : State) c => x.mapTileAt c (·.mapGang fun g => { g with committed := true })) s1).gangClear origin ms)
        else .next s1
    | _ => .next s
  | none => .next s

/-- The gang of a join is aborted at its origin, the focus tile: its lowest missing member is the faulting one, with cause 0 (R304). -/
def State.gangExpire (s : State) (j : Join) : State :=
  let ms := j.op.members s.hallOrigin
  match ms.find? fun c => (s.joinOf s.foc c).isNone with
  | some c => if 65536 ≤ (s.wtime + s.tile.lag - j.tick).toNat then (s.gangAbortTo s.foc s.foc ms 0 c).gangClear s.foc ms else s
  | none => s

/-- GANG_TIMEOUT (R304, R305) at the origin: 65,536 ticks after its own join some member has not joined, or is in the gang no longer, its
own operation among them. R304 gives no time for a gang whose origin member never joins, and R305 leaves none waiting: such a gang counts
from the oldest join that has arrived (DESIGN CHOICE, log 61). -/
def execGangTimeout (s : State) : Out :=
  match s.tile.gang.joins.find? fun j => j.c == s.foc with
  | some own => .next (s.gangExpire own)
  | none => match s.tile.gang.joins with
    | j :: _ => .next (s.gangExpire j)
    | [] => .next s

/-- What an abort that names the faulting member makes of member c's operation (R304). -/
def State.gangAborted (s : State) (c : Coord) (cause : BitVec 8) (who : Coord) (q : QOp) : State :=
  let (x, y, _, _) := s.hallBox (s.tileAt c).hid.toNat
  let rel : Word := BitVec.ofNat 64 ((who.y - y) * 2 ^ 11 + (who.x - x))
  let info : TrapInfo :=
    if who = c then ⟨cause, q.ipc, 0, 0, 0, 0, 0⟩ else ⟨Cause.gangAbort, q.ipc, 0, rel, cause.zeroExtend 64, 0, 0⟩
  s.mapTileAt c (·.gangResult (.trap info))

/-- The origin at c is lost: the members that have joined there abort, so that none waits for ever (R305; DESIGN CHOICE, log 61). -/
def State.gangLost (s : State) (c : Coord) : State :=
  (s.tileAt c).gang.joins.foldl (fun (x : State) j => match (x.tileAt j.c).gangOp with
    | some (q, _) => if x.inGang j.c j.seq && !(x.tileAt j.c).gang.committed && j.c != c then x.gangAborted j.c 0 c q else x
    | none => x) s

/-- GANG_ABORT (R304): the operation that the abort names, if it is still in its gang, traps GANG_ABORT with the faulting member and its
cause; the member that an abort for differing values names traps with that cause. -/
def execGangAbort (s : State) : Out :=
  match s.net.find? fun f => f.atTile s.foc && f.msg.isGangAbort with
  | none => .next s
  | some f =>
    let s1 : State := { s with net := s.net.erase f }
    match f.msg, s.tile.gangOp with
    | .gangAbort cause who seq, some (q, _) =>
      if s.tile.gang.committed || !s.inGang s.foc seq then .next s1
      else .next (s1.gangAborted s.foc cause who q)
    | _, _ => .next s1

end Sys2Proof.Machine
end

