-- ==== Sys2Proof/Machine/Inbox.lean ====
section
/-! DEFINITION. The inbox and dispatch: acceptance (R130, R135, R136), the entry checks of an arrived packet (R35, R382), the choice of
work (R36 to R39), the start of a handler (R41 to R43, R49), and the handler budget (R45). -/

namespace Sys2Proof.Machine

/-! ### Hall boundaries -/

/-- The source differs from the tile's hall (R35, R382). -/
def Tile.foreign (t : Tile) (hall : BitVec 6) (sys : Bool) : Bool :=
  if sys then !t.sys else t.sys || hall != t.hid
/-- A foreign source is admitted by PEERS, or has no hall ID (R382). -/
def Tile.peers (t : Tile) (hall : BitVec 6) (sys : Bool) : Bool := sys || t.pr.hallmap.getLsbD hall.toNat

/-- HALL_VIOLATION reported by tile c to the sender's steward, and to its own when `both` (R382). -/
def State.foreignReport (s : State) (c src : Coord) (both : Bool) (w0 w1 : Word) : State :=
  let g := (s.tileAt src).trapGallery
  s.mapTileAt c fun t =>
    let ws := t.recordOf s.wtime c 0 1 0 ⟨Cause.hallViolation, 0, 0, w0, w1, 0, 0⟩
    let t1 := t.pushReport (some g) ws
    if both then t1.pushReport none ws else t1

/-! ### INBOX_ACCEPT -/

/-- Cells that a packet needs (R44, R136). -/
def cellsOf (len : Nat) : Nat := (len + 2) / 2

/-- Cell k is held by some packet. -/
def Tile.cellUsed (t : Tile) (k : Nat) : Bool := t.runs.any fun r => decide ((k + 256 - r.c0) % 256 < r.n)
/-- First run of n free cells after the last one allocated, cyclically (R136). -/
def Tile.findRun (t : Tile) (n : Nat) : Option Nat :=
  ((List.range 256).map fun j => (t.lastCell + 1 + j) % 256).find? fun c0 => (List.range n).all fun j => !t.cellUsed ((c0 + j) % 256)

def qmin (t : Tile) (c : Nat) : Nat := ((getV16 t.pr.qlim c).extractLsb' 0 9).toNat
def qcap (t : Tile) (c : Nat) : Nat := ((getV16 t.pr.qlim c).extractLsb' 16 9).toNat

/-- The channels to which QMIN and QCAP apply (R135): all but those without inbox cells. -/
def inboxChannels : List Nat := [0, 1, 2, 3, 4, 5, 6, 7, 12, 14, 15]
/-- The acceptance test of R136, but for the contiguous run. -/
def Tile.cellTest (t : Tile) (c n : Nat) : Bool :=
  let own := qmin t c - t.used c
  let claimed := (inboxChannels.map fun k => max (t.used k) (qmin t k)).sum
  decide (t.used c + n ≤ qcap t c ∧ ((n - min n own : Nat) : Int) ≤ 256 - (claimed : Int))

/-- A packet consumed without dispatch: counted and reported with its header (R35, R136). -/
def State.refusePacket (s : State) (c : Coord) (w0 w1 : Word) : State :=
  s.mapTileAt c fun t => (({ t with dropped := t.dropped + 1 } : Tile).count 0x06 1).report s.wtime c Cause.entryInvalid 0 w0 w1

/-- The packet's words in the cells from c0, wrapping at the pool's end (R44, R369). -/
def State.writeCells (s : State) (c : Coord) (c0 : Nat) (k : Nat) : List Word → State
  | [] => s
  | w :: ws => (s.store (tileBase c + 0x20000 + (32 * c0 + 8 * k) % 0x2000) 8 w).writeCells c c0 (k + 1) ws

/-- Puts a packet into the inbox of tile c under R136: none while it is held off. -/
def State.acceptPacket (s : State) (c : Coord) (p : Packet) (src : Coord) : Option State :=
  let t := s.tileAt c
  let vc := (hdrVc p.word0).toNat
  let n := cellsOf (hdrLen p.word0)
  if qcap t vc < n then some (s.refusePacket c p.word0 p.word1)
  else if !t.cellTest vc n then none
  else match t.findRun n with
    | none => none
    | some c0 =>
      let r : CellRun := ⟨c0, n, hdrVc p.word0, t.foreign (hdrHall p.word0) p.sys, false, false, p.sys, src⟩
      some ((s.writeCells c c0 0 (p.word0 :: p.word1 :: p.payload)).mapTileAt c fun t =>
        { t with runs := t.runs ++ [r], lastCell := (c0 + n - 1) % 256 })

/-- The packet at the head of a channel at the focus tile's port. -/
def State.headPacket (s : State) (vc : BitVec 4) : Option (Flight × Packet) :=
  (s.channelHead s.foc vc).bind fun f => match f.msg with
    | .packet p => some (f, p)
    | _ => none

/-- A named packet at a tile that does not bear its name (R130). -/
def Flight.misnamed (f : Flight) (t : Tile) : Bool :=
  match f.name with
  | some n => t.r.name.setWidth 32 != n
  | none => false

/-- INBOX_ACCEPT (R136): the head packet of the channel enters the inbox, is consumed, or is held off (event 0x09). -/
def execInboxAccept (vc : BitVec 4) (s : State) : Out :=
  match s.headPacket vc with
  | none => .next s
  | some (f, p) =>
    let s1 := { s with net := s.net.erase f }
    if f.misnamed s.tile then .next (s1.discard f Cause.entryInvalid)
    else if s.tile.diverting then .next s
    else match s1.acceptPacket s.foc p f.src with
      | some s2 => .next s2
      | none => .next (s.mapTile (·.count 0x09 1))

/-! ### PACKET_ARRIVAL -/

def Tile.mapRun (t : Tile) (c0 : Nat) (f : CellRun → CellRun) : Tile :=
  { t with runs := t.runs.map fun r => if r.c0 = c0 then f r else r }

/-- The oldest unchecked packet of the inbox is queued for dispatch, or consumed and reported (R35, R382). -/
def checkPacket (s : State) : Out :=
  match s.tile.runs.find? fun r => !r.checked with
  | none => .next s
  | some r =>
    let w0 := s.cellWord r.c0 0
    let w1 := s.cellWord r.c0 1
    let t := s.tile
    let e := hdrEntry w0
    let ent := s.entryAt s.foc e.toNat
    let inTable := decide (e.toNat < t.entryCount)
    let s := if inTable then s.markEntry s.foc e.toNat else s
    let nsucc := (hdrNsucc w0).toNat
    let gone := s.mapTile (·.freeCells r.c0)
    let named := r.vc.toNat ≤ 7 || r.vc == 12 || r.vc == 14
    let crossed := r.foreign && !entryXhall ent
    if !s.entryOk s.foc e.toNat r.vc.toNat || crossed || decide (4 < nsucc ∨ 2 * hdrLen w0 < nsucc) then
      let s1 := gone.refusePacket s.foc w0 w1
      .next (if inTable && crossed && named && !r.sys then s1.foreignReport s.foc r.src false w0 w1 else s1)
    else if r.foreign && named && !t.peers (hdrHall w0) r.sys then
      .next ((gone.mapTile fun t => ({ t with dropped := t.dropped + 1 } : Tile).count 0x06 1).foreignReport s.foc r.src true w0 w1)
    else .next (s.mapTile (·.mapRun r.c0 fun r => { r with checked := true }))

/-! ### DISPATCH -/

/-- What a dispatch gives a thread. -/
inductive Chosen where
  | packet (r : CellRun)
  | ring (addr : Nat)
  deriving DecidableEq, Repr, Inhabited

/-- Entry of a thread's ENTRY register (R42). -/
def Thread.entryIdx (t : Thread) : Nat := (t.entry.extractLsb' 0 10).toNat

/-- The entry is SERIAL and another thread runs it (R39). -/
def State.serialBusy (s : State) (e : Nat) : Bool :=
  entrySerial (s.entryAt s.foc e) && (List.finRange 4).any fun i =>
    (s.tile.th i).state != .free && (s.tile.th i).entryIdx == e

/-- Head packet of a channel that may be dispatched; a serial-blocked channel yields none (R39). R38 does not say whether such a channel,
while it has credit, keeps the credits of the others from being reset: here it counts as not waiting (DESIGN CHOICE, log 13). -/
def State.headRun (s : State) (vc : BitVec 4) : Option CellRun :=
  match s.tile.runs.find? fun r => r.vc == vc && !r.held with
  | some r => if r.checked && !s.serialBusy (hdrEntry (s.cellWord r.c0 0)).toNat then some r else none
  | none => none

/-- Lowest-numbered FREE thread, pinned or not (R36). -/
def Tile.freeThread (t : Tile) (pinned : Bool) : Option Tid :=
  (List.finRange 4).find? fun i => (t.th i).state == .free && (t.th i).pinNow == pinned

def vcwWeight (t : Tile) (c : Nat) : Nat := (t.pr.vcw.extractLsb' (4 * c) 4).toNat
def creditOf (v : Vector Nat 8) (c : Nat) : Nat := v.toList.getD c 0
def spendCredit (v : Vector Nat 8) (c : Nat) : Vector Nat 8 := v.setIfInBounds c (creditOf v c - 1)

/-- Weighted round-robin over the user channels (R38): the packet and the credits after its choice. -/
def Tile.pickUser (t : Tile) (waiting : List (Nat × CellRun)) : Option (CellRun × Vector Nat 8) :=
  match waiting.find? fun x => decide (0 < creditOf t.credits x.1) with
  | some (c, r) => some (r, spendCredit t.credits c)
  | none =>
    let full := Vector.ofFn fun i : Fin 8 => vcwWeight t i.val
    match waiting.find? fun x => decide (0 < creditOf full x.1) with
    | some (c, r) => some (r, spendCredit full c)
    | none => waiting.head?.map fun x => (x.2, full)

/-- The ring's head, unless it is serial-blocked; an invalid one is chosen to be dropped (R39, R49). -/
def State.ringHead (s : State) : Option Nat :=
  match s.tile.ring with
  | [] => none
  | a :: _ =>
    let e := recEntry (s.recAt s.foc a)
    if s.entryOk s.foc e 13 && s.serialBusy e then none else some a

/-- The choice of R37 to R39: candidate, credits after it, management class, and whether it is the ring's. -/
structure Choice where
  what : Chosen
  thread : Tid
  credits : Vector Nat 8
  mgmt : Bool
  prog : Option Bool
  deriving DecidableEq, Repr

def State.choose (s : State) : Option Choice :=
  let t := s.tile
  let free := t.freeThread false
  let mgmt : Option Choice := match free, (s.headRun 15).orElse fun _ => s.headRun 14 with
    | some i, some r => some ⟨.packet r, i, t.credits, true, none⟩
    | _, _ => none
  let coll : Option Choice := match t.freeThread true, s.headRun 12 with
    | some i, some r => some ⟨.packet r, i, t.credits, false, none⟩
    | _, _ => none
  let ring : Option Choice := match free, s.ringHead with
    | some i, some a => some ⟨.ring a, i, t.credits, false, some true⟩
    | _, _ => none
  let waiting := (List.range 8).filterMap fun c => (s.headRun (BitVec.ofNat 4 c)).map fun r => (c, r)
  let user : Option Choice := match free, t.pickUser waiting with
    | some i, some (r, cr) => some ⟨.packet r, i, cr, false, some false⟩
    | _, _ => none
  let prog := if t.lastFromRing then user.orElse fun _ => ring else ring.orElse fun _ => user
  let below := coll.orElse fun _ => prog
  if t.window.any id then below.orElse fun _ => mgmt else mgmt.orElse fun _ => below

/-- The state in which a handler starts (R41, R207). -/
def Thread.start (t : Thread) (pc : BitVec 12) (entry g29 g1 g2 : Word) (w : Work) : Thread :=
  { t with state := .run, pc := pc.setWidth 13,
           g := ((((Vector.replicate 32 0).set 1 g1).set 2 g2).set 29 g29).set 31 t.stackTop, p := 1,
           v := Vector.replicate 16 0, vtag := Vector.replicate 16 0, m := #v[BitVec.allOnes 64, 0, 0, 0],
           rsp := t.rsbase, rstore := [], entry := entry, loop := ⟨false, 0, 0, 0⟩, cycles := 0, work := w, fwdUsed := false,
           wait := .none, skipBkpt := false, atBkpt := false, stalled := false, noted := [], turnAt := none }

/-- ENTRY of a dispatch (R42). -/
def entryWord (xh kind : Bool) (vc : BitVec 4) (idx : BitVec 10) : Word :=
  (0 : BitVec 48) ++ BitVec.ofBool xh ++ BitVec.ofBool kind ++ vc ++ idx

/-- Gives a packet to a thread (R41, R43). -/
def State.startPacket (s : State) (i : Tid) (r : CellRun) : State :=
  let w0 := s.cellWord r.c0 0
  let e := hdrEntry w0
  let g2 : Word := BitVec.ofNat 64 (16 * hdrLen w0 - 8 * (hdrNsucc w0).toNat)
  let old := s.tile.th i
  let h := old.start (entryIaddr (s.entryAt s.foc e.toNat)) (entryWord r.foreign false r.vc e) (BitVec.ofNat 64 (0x20000 + 32 * r.c0))
    (s.cellWord r.c0 1) g2 (.packet r.c0 r.n)
  let h := if hdrNarrow w0 && hdrTcm w0 != old.tcm then h.trap ⟨Cause.topcode, h.pc12, 0, 0, 0, 0, 0⟩ else h
  s.mapTile fun t => (t.setTh i h).mapRun r.c0 fun r => { r with held := true }

/-- Pops the ring and lets the overflow chain advance (R48). -/
def State.popRing (s : State) : State := (s.mapTile fun t => { t with ring := t.ring.drop 1 }).chainAdvance s.foc

/-- Gives the record at a to a thread, or drops it (R41, R49); the flag says that it was dispatched. -/
def State.startCodelet (s : State) (i : Tid) (a : Nat) : State × Bool :=
  let w := s.recAt s.foc a
  let w1 := (s.seen s.foc a).load (s.pa (a + 8)) 8
  let e := recEntry w
  if s.entryOk s.foc e 13 then
    let h := (s.tile.th i).start (entryIaddr (s.entryAt s.foc e)) (entryWord false true 13 (BitVec.ofNat 10 e)) (BitVec.ofNat 64 a)
      (w >>> 32) w1 (.codelet a)
    (((s.homeStore s.foc a 8 (recRanTo true (recQdTo false w))).mapTile (·.setTh i h)).popRing, true)
  else
    let s1 := s.homeStore s.foc a 8 (recQdTo false w)
    ((s1.mapTile fun t => (({ t with droppedRecords := t.droppedRecords + 1 } : Tile).count 0x06 1).report s.wtime s.foc Cause.entryInvalid
      (BitVec.ofNat 64 a) w w1).popRing, false)

/-- Dispatch's reads of the record at a and of its entry set POISON where they find an uncorrectable word (R83). -/
def State.markRecord (s : State) (a : Nat) : State :=
  let e := recEntry (s.recAt s.foc a)
  let s1 := s.markSeen s.foc a 16
  if e < s.tile.entryCount then s1.markEntry s.foc e else s1

/-- Remembers a dispatch for the next choices (R37, R38), and counts it. -/
def Tile.noteDispatch (t : Tile) (c : Choice) : Tile :=
  { t.count 0x05 1 with credits := c.credits, window := (c.mgmt :: t.window).take 7,
                        lastFromRing := c.prog.getD t.lastFromRing }

/-- DISPATCH (R37): at most one candidate goes to a FREE thread; a record that fails R49 is dropped instead. -/
def execDispatch (s : State) : Out :=
  if !s.tile.dispatchOn || s.tile.pstate != 0 then .next s
  else match s.choose with
    | none => .next s
    | some c =>
      match c.what with
      | .packet r => .next (((s.startPacket c.thread r).markEntry s.foc (hdrEntry (s.cellWord r.c0 0)).toNat).mapTile (·.noteDispatch c))
      | .ring a =>
        let (s1, given) := (s.markRecord a).startCodelet c.thread a
        .next (if given then s1.mapTile (·.noteDispatch c) else s1)

/-! ### HANDLER_BUDGET -/

/-- LIMIT (R45). -/
def Tile.limit (t : Tile) : Nat := (t.pr.budget.extractLsb' 0 24).toNat

/-- HANDLER_BUDGET (R45): the focus thread's count has reached LIMIT; every earlier instruction is complete. -/
def execHandlerBudget (s : State) : Out :=
  if s.th.state == .run && decide (s.tile.limit ≤ s.th.cycles) && !s.tile.holding s.tid then
    .next (s.trap Cause.budget 0)
  else .next s

end Sys2Proof.Machine
end

