-- ==== Sys2Proof/Machine/WriteQueue.lean ====
section
/-! DEFINITION. The inbound port of a tile: its write queue (R47, R117, R152, R153, R219, R220, R346, R382, R474), remote reads, and
the WAITV monitors (R154, R222). -/

namespace Sys2Proof.Machine

/-! ### The port's head -/

/-- The message is one that the inbound port serves itself: a request or a decrement. -/
def Msg.portServed : Msg → Bool
  | .req _ | .decr _ _ => true
  | _ => false

/-- The request or decrement next in arrival order at the focus tile (R152), with the decrements that head their user channel (R51). -/
def State.portHead (s : State) : Option Flight :=
  firstOf (s.net.filter fun f => f.msg.portServed && s.atInbound s.foc f)

/-- A local operation that found no room reached the write queue before arrival number n (R474). -/
def State.localFirst (s : State) (n : Nat) : Bool :=
  (List.finRange 4).any fun j => match (s.tile.th j).turnOf with
    | some k => decide (k < n)
    | none => false

/-- Answers a request that tile c serves. -/
def State.answerTile (s : State) (c : Coord) (who : Who) (v : AnsVal) (fl : Flags) : State := s.answer c 9 who v fl

/-- The hall check of a VC8 request (R382); galleries are system requesters (R375). -/
def State.reqForeign (s : State) (r : Req) : Bool := r.who.agent.isNone && s.tile.foreign r.hall r.sys

/-! ### Applying operations -/

/-- An answer for a local operation completes at once; another travels. -/
def State.reply (s : State) (c : Coord) (who : Who) (loc : Bool) (v : AnsVal) (fl : Flags) : State :=
  if loc then s.completeAns ⟨who, v, fl⟩ else s.answerTile c who v fl

/-- An AMO as it is applied (R219, R220): the old value and the flags go to its requester. One that returns nothing was acknowledged as it
was accepted; damage that it finds is reported. -/
def State.applyAmo (s : State) (c : Coord) (op : AmoOp) (a n : Nat) (x y : Word) (ret : Bool) (who : Who) (loc : Bool) : State :=
  let k := tileBase c + a
  match s.amoAt k op n x y with
  | none =>
    let s1 := s.markBad k n
    if ret then s1.reply c who loc (.refuse Cause.ecc) 0 else s1.mapTileAt c (·.report s.wtime c Cause.ecc (BitVec.ofNat 64 a) 0 0)
  | some (m, v, fl) =>
    let s1 := s.tileStore c a n v
    if ret then s1.reply c who loc (.value m) fl else s1

/-- LEAF_RECORD_APPEND (R346): appends at the batch, or refuses. -/
def State.applyLeaf (s : State) (c : Coord) (b : Nat) (w0 w1 : Word) (who : Who) : State :=
  match s.leafAppend c b w0 w1 with
  | (s1, .ok i) => s1.answerTile c who (.value i) 0
  | (s1, .error cause) => s1.answerTile c who (.refuse cause) 0

/-- One operation of an entry, in arrival order (R153). -/
def State.applyW (s : State) (c : Coord) : WOp → State
  | .store a n v => s.tileStore c a n v
  | .line a l d => s.tileWriteLine c a l d
  | .merge a mask l d p => s.mergeLine c a mask l d p
  | .amo op a n x y ret who loc => s.applyAmo c op a n x y ret who loc
  | .decr addr d _ _ => s.decrement c addr d
  | .leaf b w0 w1 who => s.applyLeaf c b w0 w1 who

/-- WRITE_QUEUE_WRITE_BACK (R474): the oldest entry is read, or written back with every operation merged into it and freed. What other
parties see of the line meanwhile is the entry's copy (`State.seen`, R153). -/
def execWriteQueueWriteBack (s : State) : Out :=
  match s.tile.wq with
  | [] => .next s
  | e :: rest =>
    if e.wasRead then .next (e.ops.foldl (fun s o => s.applyW s.foc o) (s.mapTile fun t => { t with wq := rest }))
    else .next (s.mapTile fun t => { t with wq := { e with wasRead := true } :: rest })

/-! ### WRITE_QUEUE_ACCEPT -/

/-- A local address that remote stores and atomics may write (R117, R33, R113). -/
def Tile.remoteStoreOk (t : Tile) (a n : Nat) : Bool :=
  decide (a + n ≤ 0x10000 ∧ 0 < n ∧ a % n = 0) && !t.inEntries a n && t.window_ (a / 64) == .out

/-- The copy that a line request belongs to, by its source tile and number (R232). -/
def State.copyOf (s : State) (w : Who) : Option CopyRec :=
  let t := s.tileAt w.src
  match (t.th w.tid).pends.find? (·.id == w.id) with
  | some ⟨_, .copy op _ _, _, _, _, _, _, _⟩ => t.copies.find? (·.id == op)
  | _ => none
/-- The tile under the windows that serve a request: those in force as the request's copy made its first access here, or now (R114). -/
def State.windowed (s : State) (w : Who) (t : Tile) : Tile :=
  { t with r := { t.r with pwin := ((s.copyOf w).bind (·.far)).getD t.r.pwin } }
/-- The copy of a request has made its first access at the focus tile, which fixes the halves that serve it (R114). -/
def State.reached (s : State) (w : Who) : State :=
  match s.copyOf w with
  | some x => s.mapTileAt w.src (·.mapCopy x.id fun x => { x with far := some (x.far.getD s.tile.r.pwin) })
  | none => s

/-- Where a remote line write lands: the hidden half of a window; none where refused (R113, R117, R232). -/
def Tile.remoteLine (t : Tile) (a : Nat) : Option Nat :=
  if a + 64 ≤ 0x10000 ∧ a % 64 = 0 ∧ !t.inEntries a 64 then t.writeAddr a else none

/-- The operation a write request enters the queue as; none where refused. -/
def Tile.queueOp (t : Tile) (r : Req) : Option WOp :=
  let a := offLocal r.off
  match r.kind with
  | .store n v => if t.remoteStoreOk a n then some (.store a n v) else none
  | .amo op n x y ret => if t.remoteStoreOk a n then some (.amo op a n x y ret r.who false) else none
  | .writeLine l d => (t.remoteLine a).map fun b => .line b l d
  | .leaf w0 w1 => if t.remoteStoreOk a 64 then some (.leaf a w0 w1 r.who) else none
  | _ => none

def WOp.addr : WOp → Nat
  | .store a _ _ | .line a _ _ | .merge a _ _ _ _ | .amo _ a _ _ _ _ _ _ | .leaf a _ _ _ => a
  | .decr addr _ _ _ => addr.toNat

/-- A refused request is answered; a foreign one is reported to both stewards (R117, R382). -/
def State.refuseReq (s : State) (r : Req) (cause : BitVec 8) : State :=
  let s1 := s.answerTile s.foc r.who (.refuse cause) 0
  if cause = Cause.hallViolation then s1.foreignReport s.foc r.who.src true 0 0 else s1

/-- A decrement from src enters the write queue, or is dropped and reported at a hall boundary (R47, R382); none where it must wait. -/
def State.takeDecr (s : State) (addr : Word) (d : Nat) (hall : BitVec 6) (sys : Bool) (src : Coord) (stamp : Nat) : Option State :=
  if s.tile.foreign hall sys && !s.tile.peers hall sys then some (s.foreignReport s.foc src true addr 0)
  else if s.tile.wqFree addr.toNat && !s.localFirst stamp then
    some (s.mapTile fun t => { t with wq := wqMerge t.wq (addr.toNat / 64) (.decr addr d hall sys) })
  else none

/-- WRITE_QUEUE_ACCEPT (R474): the head write or decrement enters the write queue, which performs it (R139): a store or an atomic that
returns nothing is acknowledged. Or it is refused or dropped. -/
def execWriteQueueAccept (s : State) : Out :=
  match s.portHead with
  | none => .next s
  | some f =>
    let s1 := { s with net := s.net.erase f }
    match f.msg with
    | .decr addr d =>
      if f.misnamed s.tile then .next (s1.discard f Cause.entryInvalid)
      else .next (match s1.takeDecr addr d f.hall f.sys f.src f.stamp with
        | some s2 => s2
        | none => s.mapTile (·.count 0x09 1))
    | .req r =>
      if !r.kind.writes then .next s
      else if s.reqForeign r then .next (s1.refuseReq r Cause.hallViolation)
      else match (s.windowed r.who s.tile).queueOp r with
        | none => .next (s1.refuseReq r Cause.sramBound)
        | some o =>
          if s.tile.wqFree o.addr && !s.localFirst f.stamp then
            let s2 := (s1.reached r.who).mapTile fun t => { t with wq := wqMerge t.wq (o.addr / 64) o }
            .next (match o with
              | .store _ _ _ | .line _ _ _ => s2.answerTile s.foc r.who .ack 0
              | .amo op a n x y false _ _ =>
                s2.answerTile s.foc r.who .ack (match (s.seen s.foc a).amoAt (s.pa a) op n x y with
                  | some (_, _, fl) => fl
                  | none => 0)
              | _ => s2)
          else .next (s.mapTile (·.count 0x09 1))
    | _ => .next s

/-! ### REMOTE_READ -/

/-- Where a remote read of n bytes is served (R117, R113); none where refused. -/
def Tile.remoteRead (t : Tile) (a n : Nat) : Option Nat :=
  if n = 0 then none
  else if a + n ≤ 0x10000 ∧ a % n = 0 then t.readAddr a
  else if 0x10000 ≤ a ∧ a + n ≤ 0x14000 ∧ a % n = 0 then some a
  else none

/-- Lines that a remote read of n lines at a takes (R113, R117). -/
def Tile.remoteLines (t : Tile) (a n : Nat) : Option (List Nat) :=
  if a % 64 ≠ 0 then none
  else if a + 64 * n ≤ 0x10000 then (List.range n).mapM fun i => t.readAddr (a + 64 * i)
  else if 0x10000 ≤ a ∧ a + 64 * n ≤ 0x14000 then some ((List.range n).map fun i => a + 64 * i)
  else none

/-- The lines at local addresses as the home has them, with the state in which a damaged one is marked (R83, R153). -/
def State.homeLines (s : State) (ks : List Nat) : List (Line × Desc) := ks.map fun k => (s.seen s.foc k).takeLine (s.pa k)

/-- REMOTE_READ (R152): the head read is served from the array, or from the copy of the entry that holds its line (R153). -/
def execRemoteRead (s : State) : Out :=
  match s.portHead with
  | none => .next s
  | some f =>
    let s1 := { s with net := s.net.erase f }
    match f.msg with
    | .req r =>
      let a := offLocal r.off
      let foreign := s.reqForeign r
      match r.kind with
      | .load n =>
        if foreign then .next (s1.refuseReq r Cause.hallViolation)
        else match s.tile.remoteRead a n with
          | none => .next (s1.refuseReq r Cause.sramBound)
          | some b =>
            let h := s.seen s.foc b
            if h.damaged (s.pa b) n then .next ((s1.markSeen s.foc b n).refuseReq r Cause.ecc)
            else .next (s1.answerTile s.foc r.who (.value (h.load (s.pa b) n)) 0)
      | .readLines n =>
        if foreign then .next (s1.refuseReq r Cause.hallViolation)
        else match (s.windowed r.who s.tile).remoteLines a n with
          | none => .next (s1.refuseReq r Cause.sramBound)
          | some ks =>
            if 0x10000 ≤ a && ks.any (fun k => s.isBad (s.pa k) 64) then .next (s1.refuseReq r Cause.ecc)
            else
              .next ((ks.foldl (fun (s : State) k => s.markSeen s.foc k 64) (s1.reached r.who)).answerTile s.foc r.who
                (.lines (s.homeLines ks)) 0)
      | _ => .next s
    | _ => .next s

/-! ### WAITV monitors -/

/-- Compare and arm (R222) for a word of n bytes at physical address k; `room` says that a monitor is free. Answers the wait's end,
or the monitor to add. -/
def State.armAt (s : State) (k addr n : Nat) (expect : Word) (tmo : Option Word) (who : Who) (room : Bool) : Except AnsVal Monitor :=
  if s.damaged k n then .error (.refuse Cause.ecc)
  else
    let v := s.load k n
    if v ≠ expect ∨ !room then .error (.value v)
    else .ok ⟨addr, n, who, tmo.map fun w => (s.wtime + s.tile.lag).toNat + w.toNat, none⟩

/-- The thread of a WAITV request still waits for it. One that has been saved meanwhile executes the WAITV again (R223), so that a thread
holds one monitor at most. -/
def State.stillWaits (s : State) (w : Who) : Bool :=
  let t := (s.tileAt w.src).th w.tid
  w.agent.isSome || (t.state == .waitv && (match t.wait with
    | .waitv id _ => id == w.id
    | _ => false))

/-- WAITV_ARM (R154, R222) at the focus tile: a waiting local request, else the head request. -/
def armTile (s : State) : Out :=
  let room := decide (s.tile.monitors.length < 16)
  let act (s1 : State) (r : Req) (a b : Nat) (loc : Bool) : State :=
    match r.kind with
    | .waitv n expect tmo =>
      if !s1.stillWaits r.who then s1
      else match s1.armAt (s1.pa b) a n expect tmo r.who room with
      | .ok m => s1.mapTile fun t => { t with monitors := t.monitors ++ [m] }
      | .error v => (s1.markBad (s1.pa b) n).reply s1.foc r.who loc v 0
    | _ => s1
  match s.tile.arms with
  | r :: rest =>
    let b := s.tile.wordAt r.off.toNat
    if s.tile.wqHolds b then .next s else .next (act (s.mapTile fun t => { t with arms := rest }) r r.off.toNat b true)
  | [] =>
    match s.portHead with
    | none => .next s
    | some f =>
      let s1 := { s with net := s.net.erase f }
      match f.msg with
      | .req r =>
        match r.kind with
        | .waitv n _ _ =>
          if s.reqForeign r then .next (s1.refuseReq r Cause.hallViolation)
          else match s.tile.remoteRead (offLocal r.off) n with
            | none => .next (s1.refuseReq r Cause.sramBound)
            | some b => if s.tile.wqHolds b then .next s else .next (act s1 r (offLocal r.off) b false)
        | _ => .next s
      | _ => .next s

/-- Removes a monitor of the focus tile and answers its waiter. -/
def State.endMonitor (s : State) (c : Coord) (m : Monitor) (v : Word) : State :=
  let s1 := s.mapTileAt c fun t => { t with monitors := t.monitors.erase m }
  s1.reply c m.who (m.who.src == c) (.value v) 0

/-- The deadline of a monitor has been reached (R222). -/
def Monitor.expired (m : Monitor) (now : Word) : Bool :=
  match m.deadline with
  | some d => m.hit.isNone && decide (d ≤ now.toNat)
  | none => false

/-- A write to the word wakes its waiter with the value after that write (R222). -/
def wakeTile (s : State) : Out :=
  match s.tile.monitors.findSome? fun m => m.hit.map fun v => (m, v) with
  | some (m, v) => .next (s.endMonitor s.foc m v)
  | none => .next s

/-- The timeout of a monitor: the word's value as it is disarmed (R222). A write that the queue has accepted wakes the waiter first. -/
def timeoutTile (s : State) : Out :=
  match s.tile.monitors.find? fun m => m.expired (s.wtime + s.tile.lag) && !s.tile.wqHolds (s.tile.wordAt m.addr) with
  | some m => .next (s.endMonitor s.foc m (s.load (s.pa (s.tile.wordAt m.addr)) m.n))
  | none => .next s

end Sys2Proof.Machine
end

