-- ==== Sys2Proof/Machine/Edge.lean ====
section
/-! DEFINITION. Edge memory ports, root ports and bridges: the physical map (R404), the tables and walks (R405 to R408), entry ports and
TLBs (R409, R410), held and logged requests with their reports (R411 to R414), shoot-downs (R415, R416), devices (R139, R163, R418), and
bridge names (R133, R465). -/

namespace Sys2Proof.Machine

/-! ### The physical map -/

/-- Who serves a physical address of the memory side (R404, R466, R467). -/
inductive Serves where
  | edge (p : Nat)
  | cxl (c : Nat)
  | pcie (c : Nat)
  /-- Configuration space below root port c, which only harts reach (R466). -/
  | ecam (c : Nat)
  /-- A page of the interrupt files of hart h of gallery f; pages 6 to 15 hold no file. -/
  | files (f hart page : Nat)
  | nothing
  deriving DecidableEq, Repr, Inhabited

def serves (pa : Nat) : Serves :=
  if pa < 96 * 2 ^ 36 then (if pa % 2 ^ 36 < 15 * 2 ^ 32 then .edge (pa / 2 ^ 36) else .nothing)
  else if 0x100000000000 ≤ pa ∧ pa < 0x180000000000 then .cxl ((pa - 0x100000000000) / 2 ^ 41)
  else if 0x200000000000 ≤ pa ∧ pa < 0x400000000000 then
    (if (pa - 0x200000000000) % 2 ^ 43 < 2 ^ 43 - 2 ^ 28 then .pcie ((pa - 0x200000000000) / 2 ^ 43)
      else .ecam ((pa - 0x200000000000) / 2 ^ 43))
  else if 0xC00000000000 ≤ pa ∧ pa < 0xC00050000000 ∧ pa % 2 ^ 24 < 2 ^ 20 then
    .files ((pa - 0xC00000000000) / 2 ^ 24) (pa % 2 ^ 20 / 2 ^ 16) (pa % 2 ^ 16 / 2 ^ 12)
  else .nothing

/-- The port at which an address is served; none for an address that a tile cannot reach (R404, R466). -/
def servingPort (pa : Nat) : Option Nat :=
  match serves pa with
  | .edge p => some p
  | .cxl c | .pcie c => some (96 + c)
  | _ => none

/-! ### Walks -/

/-- What a request needs of the permissions (R407). -/
structure Need where
  rd : Bool
  wr : Bool
  deriving DecidableEq, Repr, Inhabited

def ReqKind.need : ReqKind → Need
  | .load _ | .readLines _ | .waitv _ _ _ => ⟨true, false⟩
  | .store _ _ | .writeLine _ _ | .leaf _ _ => ⟨false, true⟩
  | .amo _ _ _ _ _ => ⟨true, true⟩

/-- Bytes of a page of size code z (R405). -/
def pageBytes (z : Nat) : Nat := 2 ^ (19 + 7 * z)

/-- A hit of a lookup (R405): page and output in units of 2^19, size code, permissions, and whether it is well formed. -/
structure Hit where
  size : Nat
  out : Nat
  r : Bool
  w : Bool
  ok : Bool
  deriving DecidableEq, Repr, Inhabited

/-- The four entries of the bucket at physical address k, searched for key and page (R406). -/
def State.bucketHit (s : State) (k key z a : Nat) : Option Hit :=
  (List.range 4).findSome? fun i =>
    let lo := s.load (k + 16 * i) 8
    let hi := s.load (k + 16 * i + 8) 8
    let page := (lo.extractLsb' 19 45).toNat
    if lo.getLsbD 0 && decide ((lo.extractLsb' 1 16).toNat = key ∧ (lo.extractLsb' 17 2).toNat = z ∧
        page = a / pageBytes z * 2 ^ (7 * z)) then
      let out := (hi.extractLsb' 35 29).toNat
      some ⟨z, out, hi.getLsbD 2, hi.getLsbD 3, hi.extractLsb' 0 2 == 0 && hi.extractLsb' 4 31 == 0 && decide (out % 2 ^ (7 * z) = 0)⟩
    else none

/-- What a stage's lookup finds: a hit, nothing, or a fault's stage code with the faulting IPA; for code 4, one more than the address of
the damaged line that it read, if it read one. -/
inductive Found where
  | hit (h : Hit)
  | miss
  | fault (code ipa : Nat)
  deriving DecidableEq, Repr, Inhabited

/-- Bucket index i of the probe of R406. -/
def bucketIndex (key z a logB i : Nat) : Nat :=
  let h := (gen 0 (BitVec.ofNat 32 key) (BitVec.ofNat 32 z) (BitVec.ofNat 64 (a / pageBytes z))).toNat
  h % 80 * 2 ^ logB + (h / 128 % 2 ^ logB + i) % 2 ^ logB

/-- A line that damages a walk (R406). -/
def State.badBucket (s : State) (k : Nat) : Bool := s.damaged (k / 64 * 64) 64

/-- Where a bucket stands: its physical address with the stage-2 translation that a stage-1 bucket's IPA took, or that step's fault. -/
abbrev BucketAt := Nat → Except (Nat × Nat) (Nat × Option TlbEntry)

/-- A lookup's outcome and the stage-2 translations that its bucket reads used (R410). -/
abbrev Look := Found × List TlbEntry

/-- The probe of four buckets of one size (R406). -/
def probe (s : State) (at_ : BucketAt) (key z a logB : Nat) (used : List TlbEntry) : List Nat → Look
  | [] => (.miss, used)
  | i :: r =>
    match at_ (bucketIndex key z a logB i) with
    | .error (code, ipa) => (.fault code ipa, used)
    | .ok (k, e) =>
      let used := e.toList ++ used
      if s.badBucket k then (.fault 4 (1 + k / 64 * 64), used)
      else match s.bucketHit k key z a with
        | some h => (.hit h, used)
        | none => probe s at_ key z a logB used r

/-- A walk that found an uncorrectable line has set its POISON (R83, R406). -/
def State.markWalk (s : State) (code ipa : Nat) : State := if code = 4 ∧ 0 < ipa then s.markBad (ipa - 1) 64 else s

/-- Lookups by size code 2, 1, 0 among those present (R407). -/
def lookupSizes (s : State) (at_ : BucketAt) (key a logB : Nat) (sizes : BitVec 3) (used : List TlbEntry) : List Nat → Look
  | [] => (.miss, used)
  | z :: r =>
    if sizes.getLsbD z then
      match probe s at_ key z a logB used [0, 1, 2, 3] with
      | (.miss, u) => lookupSizes s at_ key a logB sizes u r
      | f => f
    else lookupSizes s at_ key a logB sizes used r

/-- A tenant entry (R403). -/
structure TenantEntry where
  t : Nat
  s1 : Nat
  s2 : Nat
  v : Bool
  sizes2 : BitVec 3
  log2 : Nat
  log1 : Nat
  deriving DecidableEq, Repr, Inhabited

def State.tenant (s : State) (p : Port) (t : Nat) : TenantEntry :=
  let k := p.ttbase.toNat + 32 * t
  let w := s.load (k + 16) 8
  ⟨t, (s.load k 8).toNat, (s.load (k + 8) 8).toNat, w.getLsbD 63, w.extractLsb' 56 3, (w.extractLsb' 16 5).toNat, (w.extractLsb' 0 5).toNat⟩

/-- TLB entry of a key that covers an address (R410). -/
def tlbFind (l : List TlbEntry) (key a : Nat) : Option TlbEntry :=
  l.find? fun e => e.key.toNat == key && e.page == a / pageBytes e.size

/-- Address that an entry gives (R407). -/
def TlbEntry.apply (e : TlbEntry) (a : Nat) : Nat := e.out * 2 ^ 19 + a % pageBytes e.size

/-- Stage 2 of an IPA (R407, R410): the translation that covers it, from the TLB or from the tables. -/
def State.stage2 (s : State) (p : Port) (te : TenantEntry) (ipa : Nat) : Except (Nat × Nat) TlbEntry :=
  let key := 0x8000 + te.t
  match tlbFind p.tlb key ipa with
  | some e => .ok e
  | none =>
    match (lookupSizes s (fun i => .ok (te.s2 + 64 * i, none)) key ipa te.log2 te.sizes2 [] [2, 1, 0]).1 with
    | .fault c x => .error (c, x)
    | .miss => .error (2, ipa)
    | .hit h => if h.ok then .ok ⟨BitVec.ofNat 16 key, h.size, ipa / pageBytes h.size, h.out, 0, h.r, h.w⟩ else .error (4, 0)

/-- Where stage 2 puts a stage-1 bucket; one whose address is none, or not memory, is a fault (R404, R406). -/
def State.bucketAt (s : State) (p : Port) (te : TenantEntry) : BucketAt := fun i =>
  let ipa := te.s1 + 64 * i
  match s.stage2 p te ipa with
  | .error e => .error e
  | .ok e => if (servingPort (e.apply ipa)).isSome then .ok (e.apply ipa, some e) else .error (5, 0)

/-- A finished translation: physical address, IPA, permissions, and the TLB entries that it leaves, the combined one first (R407, R410). -/
structure Trans where
  pa : Nat
  ipa : Nat
  r : Bool
  w : Bool
  entries : List TlbEntry
  deriving DecidableEq, Repr, Inhabited

/-- The combined entry of a stage-1 hit and a stage-2 translation, for the smaller of the two pages (R407). -/
def combine (sp : BitVec 16) (off ipa : Nat) (h : Hit) (e : TlbEntry) : TlbEntry :=
  let z := min h.size e.size
  let o := off % pageBytes z
  ⟨sp, z, off / pageBytes z, (e.apply ipa - o) / 2 ^ 19, (ipa - o) / 2 ^ 19, h.r && e.r, h.w && e.w⟩

/-- The translation of (space, offset) by the tables of port p (R407); a fault is a stage code and the faulting IPA. -/
def State.walk (s : State) (p : Port) (sp : BitVec 16) (off : Nat) : Except (Nat × Nat) Trans :=
  match tlbFind p.tlb sp.toNat off with
  | some e => .ok ⟨e.apply off, e.ipa * 2 ^ 19 + off % pageBytes e.size, e.r, e.w, [e]⟩
  | none =>
    let se := s.load (p.sptbase.toNat + 8 * sp.toNat) 8
    let te := s.tenant p (se.extractLsb' 59 4).toNat
    if !se.getLsbD 63 || !te.v then .error (0, 0)
    else match lookupSizes s (s.bucketAt p te) sp.toNat off te.log1 (se.extractLsb' 56 3) [] [2, 1, 0] with
      | (.fault c x, _) => .error (c, x)
      | (.miss, _) => .error (1, 0)
      | (.hit h, used) =>
        let ipa := h.out * 2 ^ 19 + off % pageBytes h.size
        match s.stage2 p te ipa with
        | .error e => .error e
        | .ok e2 =>
          if !h.ok then .error (4, 0)
          else
            let c := combine sp off ipa h e2
            .ok ⟨e2.apply ipa, ipa, c.r, c.w, c :: used⟩

/-- The outcome for a request (R407, R408): stage code 3 for permission, 5 for an address that serves nothing. -/
def State.translate (s : State) (p : Port) (sp : BitVec 16) (off : Nat) (n : Need) : Except (Nat × Nat) Trans :=
  match s.walk p sp off with
  | .error e => .error e
  | .ok t =>
    if (n.rd && !t.r) || (n.wr && !t.w) then .error (3, t.ipa)
    else match serves t.pa with
      | .nothing | .ecam _ => .error (5, 0)
      | _ => .ok t

/-- The set of an entry among the 1,024 of a TLB (R410). -/
def TlbEntry.set_ (e : TlbEntry) : Nat := (e.key.toNat + e.page) % 1024
/-- An entry goes into the four ways of its set, in place of the oldest (R410; which one is replaced, no program observes). -/
def tlbPut (l : List TlbEntry) (e : TlbEntry) : List TlbEntry :=
  let kept := l.filter (· != e)
  let mine := (kept.filter (·.set_ == e.set_)).take 3
  e :: mine ++ kept.filter (·.set_ != e.set_)
/-- A walk adds its translations to the TLB; faults are never cached (R410). -/
def Port.fill (p : Port) (es : List TlbEntry) : Port := { p with tlb := es.foldr (fun e l => tlbPut l e) p.tlb }

/-! ### Serving a request -/

def portAnswer (s : State) (p : Nat) (r : Req) (v : AnsVal) (fl : Flags) : State := s.answer (s.portEntry p) 11 r.who v fl

/-- A write of n bytes at a physical address fires the monitors of the port (R222). -/
def State.notifyPort (s : State) (p a n : Nat) : State :=
  let x := s.port p
  if x.monitors.isEmpty then s
  else s.setPort p { x with monitors := x.monitors.map fun m => m.fire m.addr a n (s.load m.addr m.n) }

/-- How an operation's answer is sent: as it is performed, or as a log entry drains (R414). -/
def drainOr (drain : Bool) (v : AnsVal) : AnsVal :=
  match drain, v with
  | true, .ack => .drained none
  | _, v => v

/-- Physical address of a translated request, and whether it drains a log. -/
def Req.pa (r : Req) : Nat := (r.fwd.getD (0, false)).1
def Req.drain (r : Req) : Bool := (r.fwd.getD (0, false)).2

/-- A report of a port's logic, on VC14 to the gallery of a tile's trap receiver (R412). -/
def State.portReport (s : State) (p gal : Nat) (ws : List Word) : State :=
  s.send (.record ⟨ws, some (recordQueue ws)⟩) 14 (s.portEntry p) (.gallery gal) 0 (some (trapName gal)) 0 true

/-- A request performed on memory by port p (R139, R219, R220, R222): its write queue takes it, and later reads see it (R153, R156). -/
def State.perform (s : State) (p : Nat) (r : Req) : State :=
  let pa := r.pa
  let edge := decide (p < 96)
  let done : AnsVal := drainOr r.drain .ack
  match r.kind with
  | .load n =>
    if s.damaged pa n then portAnswer (s.markBad pa n) p r (.refuse Cause.ecc) 0
    else portAnswer s p r (.value (s.load pa n)) 0
  | .readLines _ =>
    let (l, d) := s.takeLine pa
    if !edge && s.isBad pa 64 then portAnswer s p r (.refuse Cause.ecc) 0
    else portAnswer (s.markBad pa 64) p r (.lines [(l, if edge then d else 0)]) 0
  | .store n v => portAnswer ((s.storeChecked pa n v).notifyPort p pa n) p r done 0
  | .writeLine l d => portAnswer ((s.writeLine pa l (if edge then d else 0)).notifyPort p pa 64) p r done 0
  | .amo op n x y ret =>
    match s.amoAt pa op n x y with
    | none =>
      let s1 := s.markBad pa n
      if ret then portAnswer s1 p r (.refuse Cause.ecc) 0
      else
        let ws := recordWords r.sys r.hall 0 1 r.who.tid.val ⟨Cause.ecc, 0, r.off, r.space.zeroExtend 64, 0, 0, 0⟩
          (coordReg r.who.src 0) s.wtime
        portAnswer (s1.portReport p (s.tileAt r.who.src).trapGallery ws) p r done 0
    | some (m, v, fl) =>
      portAnswer ((s.storeChecked pa n v).notifyPort p pa n) p r (if ret then .value m else done) fl
  | .waitv _ _ _ | .leaf _ _ => s

/-- The request is a posted write to the device below a root port (R139). -/
def Req.posted (r : Req) : Bool :=
  match serves r.pa, r.kind with
  | .pcie _, .store _ _ | .pcie _, .writeLine _ _ => true
  | _, _ => false

/-- The pending request is a store or the line of a CPYX.P beyond the tiles, in a side log or not. -/
def Tile.postable (t : Tile) (p : Pend) : Bool :=
  p.space != 0 && (match p.kind with
    | .store => true
    | .copy op _ _ => t.copies.any fun c => c.id == op && (match c.kind with
        | .put _ _ _ => true
        | _ => false)
    | _ => false)
/-- A posted write may be committed to the link: nothing that its tile issued before it may still turn out to be one (R163). -/
def State.commitTurn (s : State) (r : Req) : Bool :=
  let t := s.tileAt r.who.src
  r.who.agent.isSome || !(t.threads.toList.any fun h => h.pends.any fun p => decide (p.id < r.who.id) && t.postable p)

/-- A posted write is committed to the link, and so performed (R139). -/
def State.commit (s : State) (p : Nat) (r : Req) : State :=
  let x := s.port p
  portAnswer (s.setPort p { x with sent := x.sent ++ [r] }) p r (drainOr r.drain .ack) 0

/-- A translated request at its serving port (R139, R163): edge memory performs it; a WAITV waits for its arm; expanders and devices
complete later, but a posted device write is performed as it is committed to the link. -/
def State.servePort (s : State) (p : Nat) (r : Req) : State :=
  let x := s.port p
  let later := s.setPort p { x with devOps := x.devOps ++ [r] }
  if r.posted then (if s.commitTurn r then s.commit p r else later)
  else match serves r.pa, r.kind with
    | .edge _, .waitv _ _ _ => later
    | .edge _, _ => s.perform p r
    | _, _ => later

/-- Serves a translated request here, or forwards it with the forwarded mark to its port (R409). -/
def State.serveOrForward (s : State) (p : Nat) (r : Req) (pa : Nat) (drain : Bool) : State :=
  let q : Req := { r with fwd := some (pa, drain) }
  match servingPort pa with
  | none => portAnswer s p r (.refuse Cause.pageLoad) 0
  | some k => if k = p then s.servePort p q else s.emitUnit (s.portEntry p) 10 (.port k) (.req q) r.hall r.sys

/-! ### Holding, logging and reporting -/

def Req.gran (r : Req) : Nat := r.off.toNat / 2 ^ 19
def Req.same (r : Req) (sp : BitVec 16) (g : Nat) : Bool := r.space == sp && r.gran == g
/-- A request that goes to the side log as an acknowledged entry (R411): stores, non-returning atomics and CPYX.P lines. -/
def ReqKind.logs : ReqKind → Bool
  | .store _ _ | .writeLine _ _ | .amo _ _ _ _ false => true
  | _ => false
/-- A request that keeps its place among the entries of a log: those, and a returning atomic, which holds its thread meanwhile (R157, R220,
R411; DEDUCED, log 71). -/
def ReqKind.inLog : ReqKind → Bool
  | .amo _ _ _ _ _ => true
  | k => k.logs

/-- The side-log entries in use (R403, R411). -/
def Port.entries (p : Port) : List Req := p.log.filter (·.kind.logs)
/-- Every held request: the returning atomics in the log, and those of a replay that have yet to be served, among them. -/
def Port.allHeld (p : Port) : List Req := p.held ++ p.log.filter (fun r => !r.kind.logs) ++ p.replays.flatMap (·.held)
def Port.waitsOn (p : Port) (sp : BitVec 16) (g : Nat) : Bool := p.log.any (·.same sp g) || p.held.any (·.same sp g)
/-- A RETRY or DENY of the granule is in progress (R414). -/
def Port.replaying (p : Port) (sp : BitVec 16) (g : Nat) : Bool := p.replays.any fun y => y.space == sp && y.gran == g
def Port.countOf (p : Port) (c : Coord) : Nat := ((p.entries ++ p.allHeld).filter (·.who.src == c)).length

/-- Holds or logs a request (R411): the tile is told that it is held, or has its acknowledgement. -/
def State.holdOrLog (s : State) (p : Nat) (r : Req) : State :=
  let x := s.port p
  let s1 := s.setPort p (if r.kind.inLog then { x with log := x.log ++ [r] } else { x with held := x.held ++ [r] })
  portAnswer s1 p r (if r.kind.logs then .logged else .held) 0

/-- Cause of a refusal or report (R408, R412). -/
def ReqKind.faultCause : ReqKind → BitVec 8
  | .load _ | .readLines _ | .waitv _ _ _ => Cause.pageLoad
  | .amo _ _ _ _ true => Cause.pageLoad
  | _ => Cause.pageStore

/-- The report of a granule's fault (R412). -/
def faultRecord (w : Waiting) (port waiting : Nat) (now : Word) : List Word :=
  let r := w.req
  let op1 : Word := BitVec.ofNat 64 (w.code + (if r.kind.need.wr then 8 else 0) + 256 * port + 65536 * (min waiting 255))
  recordWords r.sys r.hall 0 1 r.who.tid.val ⟨r.kind.faultCause, 0, r.off, r.space.zeroExtend 64, op1,
    if w.code = 2 ∨ w.code = 3 then BitVec.ofNat 64 w.ipa else 0, 0⟩ (BitVec.ofNat 64 (2048 * r.who.src.x + r.who.src.y)) now

/-- Requests of a granule that wait (R412). -/
def Port.waiting (p : Port) (sp : BitVec 16) (g : Nat) : Nat := ((p.entries ++ p.allHeld).filter (·.same sp g)).length

/-- FAULT_REPORT (R412) to the trap receiver of the requester's steward. -/
def State.reportFault (s : State) (p : Nat) (w : Waiting) : State :=
  s.portReport p (s.tileAt w.req.who.src).trapGallery (faultRecord w p ((s.port p).waiting w.req.space w.req.gran) s.wtime)

/-- A fault of the code refuses its request at once (R408). -/
def refusedAtOnce (code : Nat) : Bool := code == 0 || code == 4 || code == 5
/-- A request refused on a fault, and reported (R408, R412). -/
def State.refuseFault (s : State) (p : Nat) (r : Req) (code ipa : Nat) : State :=
  (portAnswer (s.markWalk code ipa) p r (.refuse r.kind.faultCause) 0).reportFault p ⟨r, code, ipa, s.wtime⟩

/-- A faulting request (R408, R411, R412): refused at once for codes 0, 4 and 5, else held or logged. -/
def State.faulted (s : State) (p : Nat) (r : Req) (code ipa : Nat) : State :=
  if refusedAtOnce code then s.refuseFault p r code ipa
  else
    let w : Waiting := ⟨r, code, ipa, s.wtime⟩
    let s1 := s.holdOrLog p r
    let x := s1.port p
    (s1.setPort p { x with reported := x.reported ++ [w] }).reportFault p w

/-- Room for another entry of the tile (R411). -/
def Port.room (p : Port) (r : Req) : Bool :=
  decide (p.countOf r.who.src < 64) && (if r.kind.logs then decide (p.entries.length < 4096) else decide (p.allHeld.length < 1024))

/-- What an entry port does with a request. -/
inductive WalkTo where
  | wait
  | fault (code ipa : Nat)
  | go (t : Trans)
  deriving DecidableEq, Repr, Inhabited

/-- The outcome of a request at its entry port: it joins those of a granule that waits (R157), or its walk's. -/
def State.walkOf (s : State) (p : Nat) (r : Req) : WalkTo :=
  let x := s.port p
  if x.waitsOn r.space r.gran then .wait
  else match s.translate x r.space r.off.toNat r.kind.need with
    | .error (code, ipa) => .fault code ipa
    | .ok t => if (servingPort t.pa).isSome then .go t else .fault 5 0

/-- A request may be dealt with now. One that would be held or logged needs room, and every earlier translated request of its granule
performed, so that none of those reads a value older than a logged store (R157). -/
def State.walkReady (s : State) (p : Nat) (r : Req) : Bool :=
  let x := s.port p
  let stays := x.room r && !s.underway (·.same r.space r.gran)
  !x.replaying r.space r.gran && (match s.walkOf p r with
    | .wait => stays
    | .fault code _ => refusedAtOnce code || stays
    | .go _ => true)

/-- The untranslated requests that have arrived at a port. -/
def State.atPort (s : State) (p : Nat) : List (Flight × Req) :=
  s.net.filterMap fun f => match f.msg with
    | .req r => if f.dest == .port p && r.fwd.isNone && s.arrived f then some (f, r) else none
    | _ => none

/-- The earliest arrival that may be dealt with, behind no other of its tile and granule (R156). -/
def State.nextWalk (s : State) (p : Nat) : Option (Flight × Req) :=
  let l := s.atPort p
  (l.filter fun (f, r) => s.walkReady p r && !(l.any fun (g, q) => q.who.src == r.who.src && q.same r.space r.gran && decide (g.stamp < f.stamp))).foldl
    (fun (o : Option (Flight × Req)) x => match o with
      | some y => if x.1.stamp < y.1.stamp then some x else o
      | none => some x) none

/-- The first waiting arm of a port: a WAITV on edge memory. -/
def Port.firstArm (p : Port) : Option Req :=
  p.devOps.find? fun r => match serves r.pa, r.kind with
    | .edge _, .waitv _ _ _ => true
    | _, _ => false

/-- Command ports, and the answer of a management command from where it was carried out, on VC14 (R384, R385). -/
def State.cmdPort (s : State) (agent : Nat) : CmdPort := unitGet CmdPort.reset (s.gallery (agent / 16)).cmd (agent % 16)
def State.setCmdPort (s : State) (agent : Nat) (p : CmdPort) : State :=
  let g := s.gallery (agent / 16)
  s.setGallery (agent / 16) { g with cmd := unitSet g.cmd (agent % 16) p }
/-- The store of MW1 that a command event stands for waits for its answer from now, unless the port waits already (R385, log 54). -/
def State.expectAnswer (s : State) (c : MgmtCmd) : State :=
  let p := s.cmdPort c.agent
  s.setCmdPort c.agent { p with waiting := some (p.waiting.getD (s.wtime, c.seq)) }
/-- The answer of a command that was accepted earlier. -/
def State.answerFrom (s : State) (site : Coord) (c : MgmtCmd) (status : BitVec 8) (value : Word) : State :=
  s.emitUnit site 14 (.gallery (c.agent / 16)) (.cmdAnswer c.agent status c.seq value) 0 true
/-- The answer of a command as it is carried out. -/
def State.cmdAnswer (s : State) (c : MgmtCmd) (status : BitVec 8) (value : Word) : State := (s.expectAnswer c).answerFrom s.foc c status value

/-- The compare and arm of a WAITV at its edge port (R154, R222), whose monitors are 1,024; one whose thread has been saved meanwhile is
gone (R223). -/
def State.armEdge (s : State) (p : Nat) (r : Req) : State :=
  match r.kind with
  | .waitv n expect tmo =>
    if !s.stillWaits r.who then s
    else match s.armAt r.pa r.pa n expect tmo r.who (decide ((s.port p).monitors.length < 1024)) with
    | .ok m =>
      let y := s.port p
      let late : Monitor := { m with deadline := tmo.map fun w => s.wtime.toNat + w.toNat }
      s.setPort p { y with monitors := y.monitors ++ [late] }
    | .error v => portAnswer (s.markBad r.pa n) p r v 0
  | _ => s

/-- Serves a request that was held: a WAITV on this port's memory arms at once, before the requests behind it (R156). -/
def State.serveHeld (s : State) (p : Nat) (r : Req) (pa : Nat) : State :=
  match r.kind, serves pa with
  | .waitv _ _ _, .edge k => if k = p then s.armEdge p { r with fwd := some (pa, false) } else s.serveOrForward p r pa false
  | _, _ => s.serveOrForward p r pa false

/-- The request of the replay is still on its way, or among a port's operations. -/
def State.replayUnder (s : State) (y : Replay) : Bool := s.underway fun r => y.sent.any (·.who == r.who)
/-- The first replay of a port whose forwarded requests have all been performed. -/
def State.replayDone (s : State) (p : Nat) : Option Replay := (s.port p).replays.find? fun y => !s.replayUnder y

/-- The report of a granule is repeated no more (R412). -/
def Port.unreported (p : Port) (sp : BitVec 16) (g : Nat) : Port := { p with reported := p.reported.filter fun w => !w.req.same sp g }

/-- The end of a replay (R414): its held requests are served, and the command is answered. -/
def State.endReplay (s : State) (p : Nat) (y : Replay) : State :=
  let x := s.port p
  let s1 := s.setPort p (({ x with replays := x.replays.erase y } : Port).unreported y.space y.gran)
  let s2 := y.held.foldl (fun (s : State) r => match s.walkOf p r with
    | .go t => s.serveHeld p r t.pa
    | .fault code ipa => s.faulted p r code ipa
    | .wait => s.holdOrLog p r) s1
  s2.answerFrom (s2.portEntry p) y.cmd 0 0

/-- TRANSLATION_WALK (R407) at an edge port: a replay ends, or the earliest request that may be dealt with is. None is while a WAITV has
still to arm, which its tile's later requests must find armed (R156). -/
def walkEdge (p : Nat) (s : State) : Out :=
  match s.replayDone p with
  | some y => .next (s.endReplay p y)
  | none =>
    if (s.port p).firstArm.isSome then .next s
    else match s.nextWalk p with
      | none => .next s
      | some (f, r) =>
        let s1 : State := { s with net := s.net.erase f }
        .next (match s.walkOf p r with
          | .wait => s1.holdOrLog p r
          | .fault code ipa => s1.faulted p r code ipa
          | .go t => (s1.setPort p ((s.port p).fill t.entries)).serveOrForward p r t.pa false)

/-- Slots that forwarded requests take at port p (R409): those of tiles, translated by another port, whose answers are to come. -/
def Port.slotsUsed (x : Port) (p : Nat) : Nat :=
  (x.devOps.filter fun r => r.who.agent.isNone && entryPort r.space r.off != p && !r.posted).length

/-- The request that arrived first at a port after translation by another, if the port can take it (R409): it has 64 slots for them, of
which a posted write, which only waits to be committed, keeps none. -/
def State.nextForwarded (s : State) (p : Nat) : Option (Flight × Req) :=
  let x := s.port p
  if x.firstArm.isSome then none
  else (firstOf (s.net.filter fun f => f.dest == .port p && s.arrived f && (match f.msg with
      | .req r => r.fwd.isSome
      | _ => false))).bind fun f => match f.msg with
    | .req r => if r.posted || decide (x.slotsUsed p < 64) then some (f, r) else none
    | _ => none

/-- FORWARDED_REQUEST (R409): a posted write whose turn has come is committed, or the earliest request that another port translated is
served. -/
def execForwardedRequest (port : Nat) (s : State) : Out :=
  let x := s.port port
  match x.devOps.find? fun r => r.posted && s.commitTurn r with
  | some r => .next ((s.setPort port { x with devOps := x.devOps.erase r }).commit port r)
  | none => match s.nextForwarded port with
    | none => .next s
    | some (f, r) => .next (({ s with net := s.net.erase f } : State).servePort port r)

/-- FAULT_REPORT_REPEAT (R412): a granule that still waits is reported again every 65,536 ticks. -/
def execFaultReportRepeat (port : Nat) (s : State) : Out :=
  let x := s.port port
  match x.reported.find? fun w => decide (65536 ≤ (s.wtime - w.tick).toNat) with
  | none => .next s
  | some w =>
    .next ((s.setPort port { x with reported := x.reported.map fun y => if y = w then { y with tick := s.wtime } else y }).reportFault
      port w)

/-- The hold or release notice of a port that has arrived first at the focus tile (R411). -/
def State.noticeFrom (s : State) (port : Nat) : Option (Flight × Bool) :=
  (firstOf (s.net.filter fun f => f.atTile s.foc && (match f.msg with
    | .hold p _ => p == port
    | _ => false))).bind fun f => match f.msg with
    | .hold _ b => some (f, b)
    | _ => none

/-- Sends a notice from a port to the focus tile on VC15. -/
def State.sendNotice (s : State) (port : Nat) (on : Bool) : State := s.emitUnit (s.portEntry port) 15 (.tile s.foc) (.hold port on) 0 true

/-- HOLD_NOTICE (R411): it stops the focus tile's VC10 requests to the port as it arrives; or the port sends it. -/
def execHoldNotice (port : Nat) (s : State) : Out :=
  match s.noticeFrom port with
  | some (f, true) => .next (({ s with net := s.net.erase f } : State).mapTile fun t => { t with holds := t.holds ++ [port] })
  | _ =>
    let x := s.port port
    if !x.onHold.contains s.foc && decide (64 ≤ x.countOf s.foc ∨ 4096 < x.entries.length + 64 ∨ 1024 < x.allHeld.length + 64) then
      .next ((s.setPort port { x with onHold := x.onHold ++ [s.foc] }).sendNotice port true)
    else .next s

/-- RELEASE_NOTICE (R411). -/
def execReleaseNotice (port : Nat) (s : State) : Out :=
  match s.noticeFrom port with
  | some (f, false) => .next (({ s with net := s.net.erase f } : State).mapTile fun t => { t with holds := t.holds.filter (· != port) })
  | _ =>
    let x := s.port port
    if x.onHold.contains s.foc && decide (x.countOf s.foc ≤ 48 ∧ x.entries.length + 128 ≤ 4096 ∧ x.allHeld.length + 128 ≤ 1024) then
      .next ((s.setPort port { x with onHold := x.onHold.filter (· != s.foc) }).sendNotice port false)
    else .next s

/-! ### WAITV at a port -/

/-- WAITV_ARM at an edge port (R222). -/
def armPort (p : Nat) (s : State) : Out :=
  let x := s.port p
  match x.firstArm with
  | none => .next s
  | some r => .next ((s.setPort p { x with devOps := x.devOps.erase r }).armEdge p r)

/-- Ends a monitor of a port. -/
def State.endPortMonitor (s : State) (p : Nat) (m : Monitor) (v : Word) : State :=
  let x := s.port p
  (s.setPort p { x with monitors := x.monitors.erase m }).answer (s.portEntry p) 11 m.who (.value v) 0

/-- WAITV_ARM (R154, R222). -/
def execWaitvArm (port : Option Nat) (s : State) : Out :=
  match port with
  | none => armTile s
  | some p => armPort p s
/-- WAITV_WAKE (R222). -/
def execWaitvWake (port : Option Nat) (s : State) : Out :=
  match port with
  | none => wakeTile s
  | some p =>
    match (s.port p).monitors.findSome? fun m => m.hit.map fun v => (m, v) with
    | some (m, v) => .next (s.endPortMonitor p m v)
    | none => .next s
/-- WAITV_TIMEOUT (R222). -/
def execWaitvTimeout (port : Option Nat) (s : State) : Out :=
  match port with
  | none => timeoutTile s
  | some p =>
    match (s.port p).monitors.find? (·.expired s.wtime) with
    | some m => .next (s.endPortMonitor p m (s.load m.addr m.n))
    | none => .next s

/-! ### RETRY and DENY -/

/-- Edge or root port whose first attached site is the focus tile's (R27, R413). -/
def State.portHere (s : State) : Option Nat := (List.range 100).find? fun p => s.portEntry p == s.foc

/-- Granule that RETRY and DENY name (R413): space and offset[63:19]; none when bits [18:15] are set. -/
def granuleOf (v : Word) : Option (BitVec 16 × Nat) :=
  if v.extractLsb' 15 4 = 0 then some ((v.extractLsb' 0 15).zeroExtend 16, v.toNat / 2 ^ 19) else none

/-- Takes the granule's waiting requests out of the port: its log and its held requests. -/
def State.takeGranule (s : State) (p : Nat) (sp : BitVec 16) (g : Nat) : List Req × List Req × State :=
  let x := s.port p
  (x.log.filter (·.same sp g), x.held.filter (·.same sp g),
    s.setPort p { x with log := x.log.filter fun r => !r.same sp g, held := x.held.filter fun r => !r.same sp g })

/-- Begins a replay and ends it at once when nothing of it was forwarded. -/
def State.beginReplay (s : State) (p : Nat) (y : Replay) : State :=
  let x := s.port p
  let s1 := s.setPort p { x with replays := x.replays ++ [y] }
  if s1.replayUnder y then s1 else s1.endReplay p y

/-- RETRY (R413, R414): a walk that succeeds for every waiting request replays the log in order, then serves the held requests. -/
def execRetry (c : MgmtCmd) (s : State) : Out :=
  match s.portHere, granuleOf c.value with
  | none, _ => .next (s.cmdAnswer c 2 0)
  | _, none => .next (s.cmdAnswer c 1 0)
  | some p, some (sp, g) =>
    let x := s.port p
    if x.replaying sp g then .next (s.expectAnswer c)
    else
      let (log, held, s1) := (s.expectAnswer c).takeGranule p sp g
      let walked (r : Req) : Option (Req × Nat) := match s.translate x r.space r.off.toNat r.kind.need with
        | .ok t => if (servingPort t.pa).isSome then some (r, t.pa) else none
        | .error _ => none
      match log.mapM walked, held.mapM walked with
      | some ls, some _ =>
        let s2 := ls.foldl (fun (s : State) (r, pa) => s.serveOrForward p r pa true) s1
        .next (s2.beginReplay p ⟨sp, g, c, log, held⟩)
      | _, _ =>
        let s2 := (log ++ held).foldl (fun (s : State) r => match s.translate x r.space r.off.toNat r.kind.need with
          | .error (code, ipa) => s.markWalk code ipa
          | .ok _ => s) s
        .next (s2.cmdAnswer c 0 0)

/-- DENY (R413, R158): the log is discarded and its threads refused; the held requests, a returning atomic of the log among them, are
walked again, and those that still fault are refused. -/
def execDeny (c : MgmtCmd) (s : State) : Out :=
  match s.portHere, granuleOf c.value with
  | none, _ => .next (s.cmdAnswer c 2 0)
  | _, none => .next (s.cmdAnswer c 1 0)
  | some p, some (sp, g) =>
    if (s.port p).replaying sp g then .next (s.expectAnswer c)
    else
      let (log, held, s1) := (s.expectAnswer c).takeGranule p sp g
      let again := log.filter (fun r => !r.kind.logs) ++ held
      let s2 := (log.filter (·.kind.logs)).foldl (fun (s : State) r => portAnswer s p r (.drained (some Cause.pageStore)) 0)
        (s1.setPort p ((s1.port p).unreported sp g))
      let s3 := again.foldl (fun (s : State) r => match s.walkOf p r with
        | .go t => s.serveHeld p r t.pa
        | .fault code ipa => s.refuseFault p r code ipa
        | .wait => s.holdOrLog p r) s2
      .next (s3.beginReplay p ⟨sp, g, c, again, []⟩)

/-! ### Shoot-downs -/

/-- The TLB entry is one that the SHOOT value names (R415). A stage-2 KEY also covers every combined translation, which rests on it. -/
def shootHits (v : Word) (e : TlbEntry) : Bool :=
  let key := (v.extractLsb' 1 16).toNat
  let all := v.getLsbD 0
  let z := (v.extractLsb' 17 2).toNat
  let a := (v.extractLsb' 19 45).toNat * 2 ^ 19
  if all ∧ key = 0 then true
  else if 0x8000 ≤ key ∧ e.key.toNat < 0x8000 then true
  else e.key.toNat == key && (all || decide (e.page * pageBytes e.size < a + pageBytes z ∧ a < (e.page + 1) * pageBytes e.size))

/-- A request may have been translated with an entry that the SHOOT value names. -/
def shootCovers (v : Word) (r : Req) : Bool := shootHits v ⟨r.space, 0, r.gran, 0, 0, true, true⟩

/-- Receiver r of a shoot-down (R415): ports 0 to 95, IOMMUs 96 to 99, galleries from 100; where it stands on the mesh. -/
def shootDest (r : Nat) : Dest := if r < 100 then .port r else .gallery (r - 100)

/-- SHOOT (R415): a hart's shoot-down starts: 96 ports, 4 IOMMUs and the 79 other galleries are sent it on VC15, and the gallery acts on
itself. A hart whose command port still waits starts none. -/
def execShoot (agent : Nat) (v : Word) (s : State) : Out :=
  let p := s.cmdPort agent
  if p.waiting.isSome then .next s
  else
    let f := agent / 16
    let s1 := s.setCmdPort agent { p with mdest := 0xFFFFFFFF, mw1 := v, shoots := List.range 180, shootSeq := p.mw0.extractLsb' 32 32,
                                          shootVal := v, waiting := some (s.wtime, p.mw0.extractLsb' 32 32) }
    .next (((List.range 180).filter (· != 100 + f)).foldl (fun (s : State) r =>
      s.send (.shoot agent v) 15 (gallerySite f) (shootDest r) (serviceName f) none 0 true) s1)

/-- What a shoot-down invalidates at a receiver: TLB entries of a port, or the harts' G-stage entries of VMID t + 1 (R416). -/
def State.invalidate (s : State) (r : Nat) (v : Word) : State :=
  if r < 100 then
    let x := s.port r
    s.setPort r { x with tlb := x.tlb.filter fun e => !shootHits v e }
  else
    let key := (v.extractLsb' 1 16).toNat
    let a := (v.extractLsb' 19 45).toNat * 2 ^ 19
    let n := pageBytes (v.extractLsb' 17 2).toNat
    let named (e : GEntry) : Bool := (key == 0 && v.getLsbD 0) ||
      (decide (0x8000 ≤ key) && e.vmid == key - 0x8000 + 1 &&
        (v.getLsbD 0 || decide (e.page * 2 ^ e.bits < a + n ∧ a < (e.page + 1) * 2 ^ e.bits)))
    let g := s.gallery (r - 100)
    s.setGallery (r - 100) { g with harts := g.harts.map fun (k, h) => (k, { h with gtlb := h.gtlb.filter fun e => !named e }) }

/-- A request translated by a receiver with an entry that the value may name is still to be performed (R416). -/
def State.shootWaits (s : State) (r : Nat) (v : Word) : Bool :=
  if r < 96 then s.underway fun q => q.who.agent.isNone && entryPort q.space q.off == r && shootCovers v q
  else if r < 100 then (s.port r).peer.any fun x => x.1.write.isNone
  else
    let key := (v.extractLsb' 1 16).toNat
    (decide (0x8000 ≤ key) || (key == 0 && v.getLsbD 0)) &&
      (s.gallery (r - 100)).harts.any fun x => x.2.load.isSome || !x.2.stores.isEmpty

/-- An acknowledgement reaches the command port; the last one answers status 0 (R415). -/
def State.shootAcked (s : State) (agent r : Nat) : State :=
  let p := s.cmdPort agent
  let rest := p.shoots.filter (· != r)
  let done := !p.shoots.isEmpty && rest.isEmpty
  s.setCmdPort agent { p with shoots := rest, status := if done then 0 else p.status, seq := if done then p.shootSeq else p.seq,
                              mval := if done then 0 else p.mval, waiting := if done then none else p.waiting }

/-- SHOOT_ACKNOWLEDGEMENT (R416): a receiver that the shoot-down has reached invalidates; once what it translated so is performed it
acknowledges on VC14. -/
def execShootAcknowledgement (agent receiver : Nat) (s : State) : Out :=
  let p := s.cmdPort agent
  let own := receiver == 100 + agent / 16
  let here := s.net.find? fun f => f.msg == .shoot agent p.shootVal && f.dest == shootDest receiver && s.arrived f
  if !p.shoots.contains receiver || !(own || here.isSome) then .next s
  else
    let s1 := s.invalidate receiver p.shootVal
    if s1.shootWaits receiver p.shootVal then .next s1
    else if own then .next (s1.shootAcked agent receiver)
    else match here with
      | none => .next s1
      | some f =>
        let site := if receiver < 100 then s.portEntry receiver else gallerySite (receiver - 100)
        .next (({ s1 with net := s1.net.erase f } : State).emitUnit site 14 (.gallery (agent / 16)) (.shootAck agent receiver) 0 true)

/-! ### Devices -/

/-- Gallery of a root port's corner field (R418). -/
def cornerField (c : Nat) : Nat := if c = 0 then 0 else if c = 1 then 7 else if c = 2 then 72 else 79

/-- Adds a completion to a device below root port c. -/
def State.returnTo (s : State) (c : Nat) (rid : BitVec 16) (v : Option Nat) : State :=
  let x := s.port (96 + c)
  s.setPort (96 + c) { x with returned := x.returned ++ [(rid, v)] }

/-- A device request is refused (R418): Unsupported Request for a read, a discarded write, and for a fault a report to queue 64. -/
def State.refuseDevice (s : State) (c : Nat) (r : DevReq) (report : Option (Nat × Nat × BitVec 16)) : State :=
  let s1 := if r.write.isSome then s else s.returnTo c r.rid none
  match report with
  | none => s1
  | some (code, ipa, sp) =>
    let s1 := s1.markWalk code ipa
    let cause := if r.write.isSome then Cause.pageStore else Cause.pageLoad
    let op1 : Word := BitVec.ofNat 64 (code + (if r.write.isSome then 8 else 0) + 256 * (96 + c))
    let ws := recordWords true 0 0 1 0 ⟨cause, 0, r.addr, sp.zeroExtend 64, op1, if code = 2 ∨ code = 3 then BitVec.ofNat 64 ipa else 0, 0⟩ 0
      s.wtime
    s1.portReport (96 + c) (cornerField c) ws

/-- A write of an identity to an interrupt file makes it pending (R377, R404). -/
def State.msi (s : State) (f hart file ident : Nat) : State :=
  let h := s.hartAt (16 * f + hart)
  let x := unitGet IntFile.reset h.files file
  if ident = 0 ∨ 255 < ident ∨ 5 < file ∨ x.eip.contains ident then s
  else s.setHartAt (16 * f + hart) { h with files := unitSet h.files file { x with eip := x.eip ++ [ident] } }

/-- A device request through its IOMMU (R404, R418, R466): its space and translation, or its refusal with what is reported. A request to
the space of another root port is one that is not routed. -/
def State.deviceWalk (s : State) (c : Nat) (r : DevReq) : Except (Option (Nat × Nat × BitVec 16)) (BitVec 16 × Trans) :=
  let x := s.port (96 + c)
  let de := s.load (x.dtbase.toNat + 8 * r.rid.toNat) 8
  let sp : BitVec 16 := (de.extractLsb' 0 15).zeroExtend 16
  if r.pasid || r.translated then .error none
  else if !de.getLsbD 63 then .error (some (0, 0, sp))
  else match s.translate x sp r.addr.toNat ⟨r.write.isNone, r.write.isSome⟩ with
    | .error (code, ipa) => .error (some (code, ipa, sp))
    | .ok t =>
      if r.write.isSome && !de.getLsbD 62 then .error (some (3, t.ipa, sp))
      else match serves t.pa with
        | .files _ _ _ => if r.write.isSome ∧ r.bytes = 4 then .ok (sp, t) else .error (some (5, 0, sp))
        | .pcie k => if k = c then .ok (sp, t) else .error none
        | _ => .ok (sp, t)

/-- Stores the low n bytes of v at k, word by word, with the check bits that R83 gives each word. -/
def State.storeBytes (s : State) (k n v : Nat) : Nat → State
  | 0 => s
  | fuel + 1 =>
    if n = 0 then s
    else
      let m := min n (8 - k % 8)
      (s.storeChecked k m (BitVec.ofNat 64 (v % 2 ^ (8 * m)))).storeBytes (k + m) (n - m) (v / 2 ^ (8 * m)) fuel
/-- Some line or word of the n bytes at k is damaged. -/
def State.damagedBytes (s : State) (k n : Nat) : Bool :=
  s.isBad k n || (List.range (n / 64 + 2)).any fun i => decide (64 * (k / 64 + i) < k + n) && dPoison (s.descAt (64 * (k / 64 + i)))

/-- A translated device request is performed (R163, R377, R404, R418): a 4-byte write to an interrupt file makes its identity pending, and
has no effect anywhere else in the file or beside the files. -/
def State.deviceDo (s : State) (c : Nat) (r : DevReq) (t : Trans) : State :=
  let x := s.port (96 + c)
  let s1 := s.setPort (96 + c) (x.fill t.entries)
  match serves t.pa, r.write with
  | .files f h i, some v => if t.pa % 4096 = 0 then s1.msi f h i (v % 2 ^ 32) else s1
  | .pcie _, _ => s1.setPort (96 + c) { s1.port (96 + c) with peer := (s1.port (96 + c)).peer ++ [(r, t.pa)] }
  | .edge p, some v => (s1.storeBytes t.pa r.bytes v r.bytes).notifyPort p t.pa r.bytes
  | _, some v => s1.storeBytes t.pa r.bytes v r.bytes
  | _, none =>
    if s.damagedBytes t.pa r.bytes then (s1.markBad t.pa r.bytes).returnTo c r.rid none
    else s1.returnTo c r.rid (some (Memory.readN s1.mem t.pa r.bytes))

/-- A device request stays behind a granule's log or held requests, and behind its device's earlier posted writes (R163, R418); one with
Relaxed Ordering passes those unless it is an MSI. -/
def State.deviceWaits (s : State) (before : List DevReq) (r : DevReq) (sp : BitVec 16) (t : Trans) : Bool :=
  let e := s.port (entryPort sp r.addr)
  let g := r.addr.toNat / 2 ^ 19
  let msi := match serves t.pa with
    | .files _ _ _ => true
    | _ => false
  e.waitsOn sp g || e.replaying sp g || ((!r.ro || r.write.isNone || msi) && before.any fun b => b.rid == r.rid && b.write.isSome)

/-- DEVICE_REQUEST (R418) below root port c: refused, performed, or left to wait. -/
def execDeviceRequest (c : Nat) (r : DevReq) (s : State) : Out :=
  let x := s.port (96 + c)
  match s.deviceWalk c r with
  | .error e => .next (s.refuseDevice c r e)
  | .ok (sp, t) =>
    if s.deviceWaits x.below r sp t then .next (s.setPort (96 + c) { x with below := x.below ++ [r] })
    else .next (s.deviceDo c r t)

/-- The first waiting device request that need not wait any more, and the others. -/
def State.nextBelow (s : State) (c : Nat) (before : List DevReq) : List DevReq → Option (DevReq × List DevReq)
  | [] => none
  | r :: rest =>
    let stays := match s.deviceWalk c r with
      | .error _ => false
      | .ok (sp, t) => s.deviceWaits before r sp t
    if stays then s.nextBelow c (before ++ [r]) rest else some (r, before ++ rest)

/-- TRANSLATION_WALK at a root port's IOMMU (R418): a waiting device request is walked again, and performed or refused. -/
def walkDevices (c : Nat) (s : State) : Out :=
  let x := s.port (96 + c)
  match s.nextBelow c [] x.below with
  | none => .next s
  | some (r, rest) =>
    let s1 := s.setPort (96 + c) { x with below := rest }
    .next (match s.deviceWalk c r with
      | .error e => s1.refuseDevice c r e
      | .ok (_, t) => s1.deviceDo c r t)

/-- TRANSLATION_WALK (R407). -/
def execTranslationWalk (port : Nat) (s : State) : Out := if port < 96 then walkEdge port s else walkDevices (port - 96) s

/-- The oldest operation of a root port that its device or expander has to complete. -/
def Port.oldestOp (p : Port) : Option Req := p.devOps.find? fun r => !r.posted

/-- What a device's completion answers; none is an Unsupported Request. -/
def Req.completed (r : Req) (v : Option Line) : AnsVal :=
  match v, r.kind with
  | none, k => if r.drain && k.logs then .drained (some k.faultCause) else .refuse k.faultCause
  | some l, .readLines _ => .lines [(l, 0)]
  | some _, .amo _ _ _ _ false => drainOr r.drain .ack
  | some l, .amo _ n _ _ true => .value (lowBytes n (l.setWidth 64))
  | some l, .load n => .value (lowBytes n (l.setWidth 64))
  | some l, .waitv n _ _ => .value (lowBytes n (l.setWidth 64))
  | some _, _ => drainOr r.drain .ack

/-- A waiting posted write of a device below, before which no completion of a device is delivered (R163). -/
def Port.pushes (p : Port) : Bool := p.below.any (·.write.isSome)

/-- DEVICE_COMPLETION (R139, R163): the oldest operation at root port c completes, an expander's on its memory; a device's read brings its
value, which no earlier posted write of a device may follow. Monitors stand at tiles and edge ports only: a WAITV on a word beyond a root
port returns the value read, with no compare (DESIGN CHOICE, log 16). -/
def execDeviceCompletion (c : Nat) (v : Option Line) (s : State) : Out :=
  let x := s.port (96 + c)
  match x.oldestOp with
  | some r =>
    let s1 := s.setPort (96 + c) { x with devOps := x.devOps.erase r }
    match serves r.pa, r.kind with
    | .cxl _, .waitv n _ _ =>
      .next (if s.damaged r.pa n then portAnswer (s1.markBad r.pa n) (96 + c) r (.refuse Cause.ecc) 0
        else portAnswer s1 (96 + c) r (.value (s.load r.pa n)) 0)
    | .cxl _, _ => .next (s1.perform (96 + c) r)
    | _, _ => if x.pushes then .next s else .next (portAnswer s1 (96 + c) r (r.completed v) 0)
  | none =>
    match x.peer.find? (·.1.write.isNone) with
    | some y =>
      if x.pushes then .next s
      else .next ((s.setPort (96 + c) { x with peer := x.peer.erase y }).returnTo c y.1.rid
        (v.map fun l => l.toNat % 2 ^ (8 * y.1.bytes)))
    | none => .next s

/-! ### Bridges -/

/-- Index of a bridge name in its port's table (R465); none for a name that is not decoded. -/
def bridgeIndex (n : BitVec 32) : Option Nat :=
  let i := (n.toNat - 0xF0000000) / 32
  if 0xF0000000 ≤ n.toNat ∧ i < 4096 then some i else none

/-- Entry i of a port's bridge table: BRW0 and BRW1. -/
def UePort.entry (u : UePort) (i : Nat) : Word × Word := unitGet (0, 0) u.table i

/-- BRIDGE_OUTBOUND (R133, R465): the earliest message at Ultra Ethernet port p is handed to its transport, or refused: a sender whose hall
is not enabled for bridge traffic before the table is looked up. -/
def execBridgeOutbound (p : Nat) (s : State) : Out :=
  match firstOf (s.net.filter fun f => f.dest == .ue p && s.arrived f) with
  | none => .next s
  | some f =>
    let s1 : State := { s with net := s.net.erase f }
    let u := s.ue p
    if f.sys || !(s.hallOf f.hall.toNat).bridge then .next (s1.discard f Cause.hallViolation)
    else match f.name.bind bridgeIndex with
      | none => .next (s1.discard f Cause.entryInvalid)
      | some i =>
        let (w0, w1) := u.entry i
        if !w0.getLsbD 63 then .next (s1.discard f Cause.entryInvalid)
        else if w0.extractLsb' 57 6 != f.hall then .next (s1.discard f Cause.hallViolation)
        else
          .next (s1.setUe p { u with sent := u.sent ++ [(w1.extractLsb' 0 32, (w0.extractLsb' 45 12).toNat, w1.extractLsb' 32 32, f.msg)] })

/-- Tile of a hall that bears a name (R130, R131). -/
def State.bearer (s : State) (hall : BitVec 6) (n : BitVec 32) : Option Coord :=
  s.listed.findSome? fun (c, t) =>
    if t.r.name.setWidth 32 == n && !t.absent && !t.sys && t.hid == hall && n != 0 then some c else none

/-- The destination name and the channel of what a remote wafer sends, and what it is once the port has stamped it (R133). -/
def stampInbound (k : Inbound) (hall : BitVec 6) (src : BitVec 32) : BitVec 32 × BitVec 4 × Msg :=
  match k with
  | .packet k => (k.word0.extractLsb' 32 32, hdrVc k.word0,
      .packet { k with word0 := (k.word0 &&& 0xFFFFFFFFC0FFFFFF) ||| (hall.zeroExtend 64 <<< 24),
                       word1 := (k.word1 &&& 0xFFFFFFFF00000000) ||| src.zeroExtend 64, sys := false })
  | .decr n vc addr amount => (n, vc, .decr addr amount)

/-- BRIDGE_INBOUND (R133, R465): a packet or a decrement packet (R228) from endpoint ep by index j is stamped and sent to the tile that
bears its name. -/
def execBridgeInbound (p j : Nat) (ep : BitVec 32) (k : Inbound) (s : State) : Out :=
  let u := s.ue p
  let (w0, w1) := u.entry j
  if !w0.getLsbD 63 || w1.extractLsb' 0 32 != ep || decide (4096 ≤ j) then .next (s.setUe p { u with discarded := u.discarded + 1 })
  else
    let hall : BitVec 6 := w0.extractLsb' 57 6
    let src : BitVec 32 := BitVec.ofNat 32 (0xF0000000 + 32 * j + p)
    let (n, vc, m) := stampInbound k hall src
    let site := s.liveSite (ueSites p)
    match s.bearer hall n with
    | some c => .next (s.send m vc site (.tile c) src (some n) hall false)
    | none =>
      let f : Flight := ⟨m, vc, site, .tile site, site, src, some n, hall, false, 0, [], 0, 0⟩
      .next (s.unitReport site Cause.entryInvalid f.header.1 f.header.2 1)

end Sys2Proof.Machine
end

