-- ==== Sys2Proof/Machine/Spline.lean ====
section
/-! DEFINITION. Spline cells (R307 to R327): knot records and registers, evaluation, derivative, gradients and refinement, and the issue
of every instruction of major 0x32. -/

namespace Sys2Proof.Machine

/-! ### Knot records (R307 to R309) -/

def knotBlank (_ : Nat) : BitVec 128 := 0
def Tile.knot (t : Tile) (k : Nat) : BitVec 128 := Tab.get knotBlank t.knots k
/-- V of a knot register (R309). -/
def knotV (r : BitVec 128) : Bool := r.getLsbD 127
def knotT0 (r : BitVec 128) : FpVal := fpDecode .fp32 false (r.extractLsb' 0 32).toNat
def knotH (r : BitVec 128) : FpVal := fpDecode .fp32 false (r.extractLsb' 32 32).toNat
def knotHinv (r : BitVec 128) : FpVal := fpDecode .fp32 false (r.extractLsb' 64 32).toNat
def knotG (r : BitVec 128) : Nat := (r.extractLsb' 96 8).toNat
def knotMode (r : BitVec 128) : Nat := (r.extractLsb' 104 2).toNat

/-- A positive normal FP32 pattern. -/
def posNormal (b : BitVec 32) : Bool := decide (1 ≤ b.toNat / 2 ^ 23 ∧ b.toNat / 2 ^ 23 ≤ 254)
def finite32 (b : BitVec 32) : Bool := b.extractLsb' 23 8 != 255
def round32 (v : FpVal) : BitVec 32 := BitVec.ofNat 32 (fpRound .fp32 false rneMode v).1

/-- The first check of R308 that a record fails, 0 where it is valid. -/
def knotCheck (r : BitVec 128) : Nat :=
  let h := r.extractLsb' 32 32
  let hinv := r.extractLsb' 64 32
  if r.extractLsb' 106 22 ≠ 0 ∨ knotMode r = 3 then 1
  else if knotG r = 0 ∨ 29 < knotG r then 2
  else if !finite32 (r.extractLsb' 0 32) || !posNormal h || !posNormal hinv then 3
  else if round32 (fpDivV fpOne (knotH r)).1 ≠ hinv then 4
  else
    let gh := fpDecode .fp32 false (round32 (fpMulV (intVal (knotG r)) (knotH r)).1).toNat
    if finite32 (round32 (fpAddV false (knotT0 r) gh).1) then 0 else 5

/-- KNOT_INVALID for a row with the number of the failed check (R308). -/
def knotFail {α : Type} (faddr : Word) (row num : Nat) : Chk α :=
  .error ⟨Cause.knotInvalid, faddr, BitVec.ofNat 64 row, BitVec.ofNat 64 num, none⟩

/-! ### Evaluation (R312 to R315) -/

/-- Where an input lies on its row's grid (R312): u is NaN; out of the grid under ZERO; or interval j with offset f, inside or not. -/
inductive Loc where
  | nan (fl : Flags)
  | zero (fl : Flags)
  | piece (inside : Bool) (j : Nat) (f : Fl FpVal)
  deriving DecidableEq, Repr, Inhabited

def lit (m : Nat) (e : Int) : Fl FpVal := (.fin false m e false, 0)
def sub32 (x y : Fl FpVal) : Fl FpVal := add32 x (neg32 y)
/-- floor of a finite value that is not negative. -/
def floorFin : FpVal → Nat
  | .fin _ m e _ => if 0 ≤ e then m * 2 ^ e.toNat else m / 2 ^ (-e).toNat
  | _ => 0

def locate (kn : BitVec 128) (x : FpVal) : Loc :=
  let u := mul32 (sub32 (x, 0) (knotT0 kn, 0)) (knotHinv kn, 0)
  let g := knotG kn
  let neg := fpLtV u.1 fpZero
  if u.1.isNaN then .nan u.2
  else if !neg && fpLtV u.1 (intVal g) then
    let j := floorFin u.1
    .piece true j ((fpAddV false u.1 (intVal j).neg).1, u.2)
  else if fpEqV u.1 (intVal g) then .piece true (g - 1) (fpOne, u.2)
  else
    let e := if neg then 0 else g - 1
    match knotMode kn with
    | 0 => .piece false e (if neg then fpZero else fpOne, u.2)
    | 1 => .zero u.2
    | _ => .piece false e (sub32 u (intVal e, 0))

def s6 : Fl FpVal := (fpDecode .fp32 false 0x3E2AAAAB, 0)
def t23 : Fl FpVal := (fpDecode .fp32 false 0x3F2AAAAB, 0)
def half : Fl FpVal := lit 1 (-1)
def one32 : Fl FpVal := lit 1 0

/-- b0 .. b3 (R313). -/
def basis (f : Fl FpVal) : List (Fl FpVal) :=
  let q := sub32 one32 f
  let ff := mul32 f f
  [mul32 (mul32 (mul32 q q) q) s6,
   add32 (mul32 (sub32 (mul32 half f) one32) ff) t23,
   add32 (mul32 (add32 (mul32 (add32 (mul32 (neg32 half) f) half) f) half) f) s6,
   mul32 (mul32 ff f) s6]

/-- e0 .. e3 (R315). -/
def basisDeriv (f : Fl FpVal) : List (Fl FpVal) :=
  let q := sub32 one32 f
  let ff := mul32 f f
  [mul32 (mul32 q q) (neg32 half),
   mul32 (sub32 (mul32 (lit 3 (-1)) f) (lit 1 1)) f,
   add32 (mul32 (add32 (mul32 (neg32 (lit 3 (-1))) f) one32) f) half,
   mul32 ff half]

/-- The pairing of four products (R314, R315). -/
def four (c : List FpVal) (b : List (Fl FpVal)) : Fl FpVal :=
  let p (i : Nat) : Fl FpVal := mul32 (c.getD i fpZero, 0) (b.getD i (fpZero, 0))
  add32 (add32 (p 0) (p 1)) (add32 (p 2) (p 3))

/-- A cell's output (R314): canonical NaN where u is NaN, +0 out of the grid under ZERO. -/
def cellOut (kn : BitVec 128) (c : List FpVal) (x : FpVal) : Fl FpVal :=
  match locate kn x with
  | .nan f => (.nan false, f)
  | .zero f => (fpZero, f)
  | .piece _ j f => four (c.drop j) (basis f)

/-- d of R315. -/
def cellDeriv (kn : BitVec 128) (c : List FpVal) (x : FpVal) : Fl FpVal :=
  match locate kn x with
  | .nan f => (.nan false, f)
  | .zero f => (fpZero, f)
  | .piece inside j f =>
    if !inside && knotMode kn != 2 then (fpZero, f.2)
    else mul32 (four (c.drop j) (basisDeriv f)) (knotHinv kn, 0)

/-! ### Readers -/

def splineFmts : List Fmt := [.fp32, .bf16, .fp16]

/-- Cells of the rows of `rows` under R311, ascending: the common format and each cell's line, by cell number. -/
def State.splineCells (s : State) (rows : List Nat) : Chk (Fmt × List (Line × Desc)) := do
  let cs := (List.range 256).filter fun c => rows.contains (c / 16)
  let f0 := dFormat (s.descAt (s.pa (cellAddr (cs.headD 0))))
  let _ ← cs.mapM fun c => do
    let (_, d) ← s.readCell c
    let f ← checkDesc d 0 false
    need (splineFmts.contains f && f == f0 && dScale d == 0x7F) Cause.formatMismatch 0
  let _ ← rows.mapM fun k => if f0.count < knotG (s.tile.knot k) + 3 then (knotFail 0 k 6 : Chk Unit) else pure ()
  pure (f0, (List.range 256).map fun c => (s.loadLine (s.pa (cellAddr c)), s.descAt (s.pa (cellAddr c))))

/-- The active rows, ascending (R310). -/
def Tile.activeRows (t : Tile) : List Nat := (List.range 16).filter fun k => knotV (t.knot k)

/-- A streamed row of 16 elements under R317, by rne in FP32. -/
def State.splineRow (s : State) (a : Nat) : Chk (List (Fl FpVal)) := do
  let (f, ls) ← s.rowFormat a 16 (· != .e2m1)
  need (s.linesReadable a 1) Cause.sramBound (BitVec.ofNat 64 a)
  pure ((rowVals f ls 16).map cvt32)

/-- Checks 1 and 2 of R317: the active rows with the coefficients of every cell. -/
def State.splineStart (s : State) : Chk (List Nat × (Nat → List FpVal)) := do
  need (s.tile.cellMode == 1) Cause.matrixShape 0
  let act := s.tile.activeRows
  let (f, cs) ← if act.isEmpty then pure (.fp32, []) else s.splineCells act
  pure (act, fun c => let (l, d) := cs.getD c (0, 0); lineVals d f l)

def flagsOr {α : Type} (xs : List (Fl α)) : Flags := xs.foldl (fun (a : Flags) x => a ||| x.2) 0
def fzero : Fl FpVal := (fpZero, 0)

/-! ### The operations -/

def runKnot (s : State) (ea k0 n : Nat) : Chk (Flags × List Eff) := do
  let bs ← s.readRaw ea (16 * n)
  let recs := (List.range n).map fun i => BitVec.ofNat 128 (joinNat 8 ((bs.drop (16 * i)).take 16))
  let _ ← ((List.range n).zip recs).mapM fun (i, r) =>
    if knotCheck r = 0 then pure () else (knotFail (BitVec.ofNat 64 (ea + 16 * i)) (k0 + i) (knotCheck r) : Chk Unit)
  pure (0, ((List.range n).zip recs).map fun (i, r) => .knot (k0 + i) (r ||| (1 : BitVec 128) <<< 127))

/-- A row's tree added into an accumulator row (R314). -/
def splineAcc (s : State) (row : Nat) (outs : Nat → List (Fl FpVal)) : Flags × List Eff :=
  let cols := (List.range 16).map fun j =>
    let o := outs j
    let (v, f) := tree16 (treeAdd false) (o.map (·.1))
    (v, f ||| flagsOr o)
  let (ws, fl) := accPlanes false (accOf s) row [cols]
  (fl, rowEffs row ws)

def joinRows (rs : List (Flags × List Eff)) : Flags × List Eff := (rs.foldl (fun (a : Flags) r => a ||| r.1) 0, rs.flatMap (·.2))

def runSpl (s : State) (ea rows stride r0 : Nat) : Chk (Flags × List Eff) := do
  let (act, coef) ← s.splineStart
  let xs ← (rowStarts ea stride rows).mapM s.splineRow
  let rs := ((List.range rows).zip xs).map fun (r, x) =>
    let outs (n : Nat) : List (Fl FpVal) := (List.range 16).map fun k =>
      if act.contains k then cellOut (s.tile.knot k) (coef (16 * k + n)) (x.getD k fzero).1 else fzero
    let (f, e) := splineAcc s (r0 + r) outs
    (f ||| flagsOr x, e)
  pure (joinRows rs)

/-- Pairs of an x row and a gradient row, in ascending order (R317). -/
def State.splinePairs (s : State) (ea ga rows stride : Nat) : Chk (List (List (Fl FpVal) × List (Fl FpVal))) :=
  ((rowStarts ea stride rows).zip (rowStarts ga stride rows)).mapM fun (a, b) => do
    let x ← s.splineRow a
    let g ← s.splineRow b
    pure (x, g)

/-- MSPLD (R320). A cell of an inactive row has dv = +0 and its product is formed like any other: +0 or −0, or for an infinite or NaN gradient
element a NaN, with its flag; R310's contribution of +0 is that product for every other element (DEDUCED, log 15). -/
def runSpld (s : State) (ea rows stride r0 ga : Nat) : Chk (Flags × List Eff) := do
  let (act, coef) ← s.splineStart
  let ps ← s.splinePairs ea ga rows stride
  let rs := ((List.range rows).zip ps).map fun (r, x, g) =>
    let outs (k : Nat) : List (Fl FpVal) := (List.range 16).map fun n =>
      mul32 ((g.getD n fzero).1, 0) (if act.contains k then cellDeriv (s.tile.knot k) (coef (16 * k + n)) (x.getD k fzero).1 else fzero)
    let (f, e) := splineAcc s (r0 + r) outs
    (f ||| flagsOr x ||| flagsOr g, e)
  pure (joinRows rs)

/-- A slot of the gradient array: its bits as read or written, and the flags of the additions to it. -/
abbrev Slot32 := Fl (BitVec 32)
/-- One addition to a slot by rne; a slot with no addition keeps its bits (R310, R327). -/
def slotAdd (x : Slot32) (y : Fl FpVal) : Slot32 :=
  let r := add32 (fpDecode .fp32 false x.1.toNat, x.2) y
  (round32 r.1, r.2)

/-- One row's additions to the gradients of one cell (R321). -/
def gradStep (kn : BitVec 128) (x gv : FpVal) (acc : List Slot32) : List Slot32 × Flags :=
  match locate kn x with
  | .nan f => (acc, f ||| fNV)
  | .zero f => (acc, f)
  | .piece _ j f =>
    let bs := basis f
    let acc1 := (List.range 4).foldl (fun (a : List Slot32) i =>
      a.set (j + i) (slotAdd (a.getD (j + i) (0, 0)) (mul32 (gv, 0) (bs.getD i fzero)))) acc
    (acc1, flagsOr bs)

def runGrad (s : State) (q : QOp) (init : Bool) (ea rows stride b ga : Nat) : Chk (Flags × List Eff) := do
  let (act, _) ← s.splineStart
  let ps ← s.splinePairs ea ga rows stride
  let _ ← act.mapM fun k => if 13 < knotG (s.tile.knot k) then (knotFail 0 k 7 : Chk Unit) else pure ()
  let old : List (List Slot32) ← if init then pure (List.replicate 256 (List.replicate 16 (0, 0))) else
    (List.range 256).mapM fun c => do
      let a := b + 64 * c
      let (l, d) ← s.readLine (s.engineRead a) (BitVec.ofNat 64 a)
      let f ← checkDesc d 0 false
      need (f == .fp32 && dScale d == 0x7F) Cause.formatMismatch 0
      pure ((List.range 16).map fun i => (l.extractLsb' (32 * i) 32, 0))
  let cells : List (List Slot32 × Flags) := ((List.range 256).zip old).map fun (c, a0) =>
    if act.contains (c / 16) then
      ps.foldl (fun (st : List Slot32 × Flags) (p : List (Fl FpVal) × List (Fl FpVal)) =>
        let (a, f) := gradStep (s.tile.knot (c / 16)) (p.1.getD (c / 16) fzero).1 (p.2.getD (c % 16) fzero).1 st.1
        (a, st.2 ||| f)) (a0, 0)
    else (a0, 0)
  let fl := cells.foldl (fun (a : Flags) x => a ||| flagsOr x.1 ||| x.2) 0
  let rowFl := ps.foldl (fun (a : Flags) (x, g) => a ||| flagsOr x ||| flagsOr g) 0
  pure (fl ||| rowFl, ((List.range 256).zip cells).map fun (c, a) =>
    .line (s.engineWrite (b + 64 * c)) (joinLine 32 (a.1.map (·.1.toNat))) (mkDesc .fp32 0x7F 0 q.tcm))

/-- The refined coefficients of a cell (R323): elements 0 .. 2G+2, then +0. -/
def refined (f : Fmt) (g : Nat) (c : List FpVal) : List (Nat × Flags) :=
  let at_ (i : Nat) : Fl FpVal := (c.getD i fpZero, 0)
  (List.range f.count).map fun m =>
    if 2 * g + 2 < m then (0, 0)
    else
      let v : Fl FpVal :=
        if m % 2 = 0 then mul32 (add32 (at_ (m / 2)) (at_ (m / 2 + 1))) half
        else
          let i := m / 2 + 1
          mul32 (add32 (add32 (at_ (i - 1)) (at_ (i + 1))) (mul32 (lit 6 0) (at_ i))) (lit 1 (-3))
      let (x, fl) := rndElem f false rneMode v.1
      (x, fl ||| v.2)

/-- KNOTk after a refinement (R323). -/
def refinedKnot (r : BitVec 128) : BitVec 128 :=
  let h := round32 (fpMulV (knotH r) (.fin false 1 (-1) false)).1
  let hinv := round32 (fpMulV (knotHinv r) (.fin false 1 1 false)).1
  (1 : BitVec 1) ++ (0 : BitVec 21) ++ r.extractLsb' 104 2 ++ BitVec.ofNat 8 (2 * knotG r) ++ hinv ++ h ++ r.extractLsb' 0 32

def runRefine (s : State) (k0 n : Nat) : Chk (Flags × List Eff) := do
  need (s.tile.cellMode == 1) Cause.matrixShape 0
  let rows := (List.range n).map fun i => k0 + i
  let _ ← rows.mapM fun k => if knotV (s.tile.knot k) then pure () else (knotFail 0 k 0 : Chk Unit)
  let (f, cs) ← s.splineCells rows
  let _ ← rows.mapM fun k =>
    let r := s.tile.knot k
    let r2 := refinedKnot r
    if 29 < 2 * knotG r ∨ f.count < 2 * knotG r + 3 then (knotFail 0 k 8 : Chk Unit)
    else if !posNormal (r2.extractLsb' 32 32) || !finite32 (r2.extractLsb' 64 32) then knotFail 0 k 9
    else pure ()
  let out := rows.flatMap fun k => (List.range 16).map fun m =>
    let c := 16 * k + m
    let (l, d) := cs.getD c (0, 0)
    (c, d, refined f (knotG (s.tile.knot k)) (lineVals d f l))
  pure (out.foldl (fun (a : Flags) o => a ||| orFlagsOf o.2.2) 0,
    (out.map fun (c, d, es) => Eff.line (cellAddr c) (joinLine f.width (es.map (·.1))) d) ++
      rows.map fun k => .knot k (refinedKnot (s.tile.knot k)))

/-! ### Issue -/

/-- MKNOT (R316, R318). -/
def execMknot (gd : Guard) (a : GReg) (k0 nk1 : BitVec 4) (s : State) : Out :=
  let n := nk1.toNat + 1
  guarded gd 3 s fun s =>
    let ga := (s.gr a).toNat
    checks s [((s.gr a).extractLsb' 0 4 == 0, Cause.misalign, s.gr a),
        (decide (ga + 16 * n ≤ 0x10000) && (List.range ((ga % 64 + 16 * n + 63) / 64)).all fun i => s.tile.window_ (ga / 64 + i) != .bRange,
          Cause.sramBound, s.gr a),
        shape (k0.toNat + n ≤ 16)]
      (issueTop .matrix (.mat (.knot ga k0.toNat n)) 3 s)
/-- MSPL (R316, R317, R319). -/
def execMspl (x : StreamArgs) (s : State) : Out :=
  stream x 0 1 (x.nr1.toNat + 1) (fun ea nr => .spl ea nr x.stride.toNat x.r0.toNat) s
/-- MSPLD (R316, R317, R320). -/
def execMspld (x : StreamArgs) (c : GReg) (s : State) : Out :=
  let n := x.nr1.toNat + 1
  guarded x.guard 3 s fun s =>
    checks s [aligned64 (s.gr x.a), aligned64 (s.gr c), startsInside (s.gr x.a) x.stride.toNat n, startsInside (s.gr c) x.stride.toNat n,
        shape (x.r0.toNat + n ≤ 64)]
      (issueTop .matrix (.mat (.spld (s.gr x.a).toNat n x.stride.toNat x.r0.toNat (s.gr c).toNat)) 3 s)
/-- MSGRAD (R316, R317, R321, R322): among the matrix engine's operations, counted in COPIES. -/
def execMsgrad (x : StreamArgs) (init : Bool) (tag : BitVec 6) (b c : GReg) (s : State) : Out :=
  let n := x.nr1.toNat + 1
  guarded x.guard 3 s fun s =>
    checks s [aligned64 (s.gr x.a), aligned64 (s.gr c), aligned64 (s.gr b), startsInside (s.gr x.a) x.stride.toNat n,
        startsInside (s.gr c) x.stride.toNat n, (s.linesWritable (s.gr b).toNat 256, Cause.sramBound, s.gr b), tagFree s tag]
      (issueCop .matrix (.msgrad init tag (s.gr x.a).toNat n x.stride.toNat x.r0.toNat (s.gr b).toNat (s.gr c).toNat) 3 false 0 s)
/-- MREFINE (R316, R323). -/
def execMrefine (gd : Guard) (k0 nk1 : BitVec 4) (s : State) : Out :=
  let n := nk1.toNat + 1
  guarded gd 3 s fun s =>
    checks s [shape (k0.toNat + n ≤ 16)] (issueTop .matrix (.mat (.refine k0.toNat n)) 3 s)

end Sys2Proof.Machine
end

