-- ==== Sys2Proof/Machine/Mgmt.lean ====
section
/-! DEFINITION. The management plane (R383 to R385, R389): READ and WRITE of every register of tiles, ports (R403, R413, R465) and field
controllers (R437, R440, R450, R460, R463, R469); RESUME, REDIRECT, KILL, HALT, STEP, UNION, NAME writes (R132), command answers. -/

namespace Sys2Proof.Machine

/-! ### Reading -/

/-- Further thread state of R385. -/
def Thread.mgmtReg (t : Thread) (n : Nat) : Option Word :=
  if 0x400 ≤ n ∧ n < 0x420 then some (if n = 0x400 then 0 else t.g.toList.getD (n - 0x400) 0)
  else if n = 0x420 then some (t.p.zeroExtend 64)
  else if n = 0x421 then some (t.pc12.zeroExtend 64)
  else if n = 0x422 then some (BitVec.ofNat 64 t.state.code)
  else if n = 0x423 then some (BitVec.ofNat 64 t.cycles)
  else if 0x430 ≤ n ∧ n < 0x434 then some (if n = 0x430 then BitVec.allOnes 64 else t.m.toList.getD (n - 0x430) 0)
  else if 0x440 ≤ n ∧ n < 0x4C0 then some ((t.v.toList.getD ((n - 0x440) / 8) 0).extractLsb' (64 * ((n - 0x440) % 8)) 64)
  else if 0x4C0 ≤ n ∧ n < 0x4D0 then some ((t.vtag.toList.getD (n - 0x4C0) 0).zeroExtend 64)
  else if 0x4D0 ≤ n ∧ n < 0x4D8 then some ((t.rstore.getD (n - 0x4D0) 0).zeroExtend 64)
  else none

/-- Port registers (R403); DTBASE exists in IOMMUs only. -/
def Port.reg (p : Port) (iommu : Bool) (n : Nat) : Option Word :=
  if n = 0x500 then some p.sptbase
  else if n = 0x501 then some p.ttbase
  else if n = 0x502 ∧ iommu then some p.dtbase
  else if n = 0x503 then some (BitVec.ofNat 64 (p.allHeld.length * 65536 + p.entries.length))
  else none

/-- Ultra Ethernet port whose first attached site is the focus tile's (R27). -/
def State.ueHere (s : State) : Option Nat := (List.range 32).find? fun p => s.liveSite (ueSites p) == s.foc

/-- State of an intact stair (R449, R450): the gallery columns of band 2 have places 16 to 27 only. -/
def stairReset (i : Nat) : Word :=
  let gal := decide (i / 128 = 2 ∧ 56 ≤ i % 128 ∧ i % 128 ≤ 71)
  (31 <<< 57 : Word) ||| (if gal then 0x0FFF0000 else 0x0FFFFFFF)
/-- STAIRST of stair i = 128·band + column (R450). -/
def Field.stair (x : Field) (i : Nat) : Word := unitGet (stairReset i) x.stairs i
def Field.setStair (x : Field) (i : Nat) (w : Word) : Field := { x with stairs := unitSet x.stairs i w }

/-- Registers of a field's controller (R437, R440, R450). -/
def Field.reg (x : Field) (n : Nat) : Option Word :=
  if n = 0x600 then some x.tpool
  else if n = 0x601 then some x.tctl
  else if 0x610 ≤ n ∧ n < 0x620 then some (getV16 x.tten (n - 0x610))
  else if n = 0x640 then some x.fclk
  else if n = 0x641 then some x.fgov
  else if n = 0x642 then some x.fslow
  else if n = 0x648 then some x.stairsel
  else if n = 0x649 then some (x.stair (x.stairsel.extractLsb' 0 9).toNat)
  else none

/-- Registers of field 0 alone (R460, R463, R469); CKCTL.GO reads 0. -/
def Boot.reg (b : Boot) (n : Nat) : Option Word :=
  if n = 0x650 then some b.bootst
  else if n = 0x651 then some b.boottmo
  else if n = 0x652 then some (Config.featuresOffered.setWidth 64)
  else if n = 0x653 then some (Config.featuresOffered.extractLsb' 64 64)
  else if n = 0x654 then some (b.featacc.setWidth 64)
  else if n = 0x655 then some (b.featacc.extractLsb' 64 64)
  else if n = 0x658 then some b.ckctl
  else if n = 0x659 then some b.cktime
  else none

/-- Whether a register number belongs to a thread (R385). -/
def threadReg (n : Nat) : Bool := decide (n < 0x100 ∨ (0x400 ≤ n ∧ n < 0x500))

/-- Number of the knot register that a register number of the model's names, and whether it is the high half (R309; the manual gives
these registers no numbers: 0x300 + 2·k is the low half of KNOTk and 0x301 + 2·k the high half, DESIGN CHOICE, log 20). -/
def knotReg (n : Nat) : Option (Nat × Bool) := if 0x300 ≤ n ∧ n < 0x320 then some ((n - 0x300) / 2, n % 2 = 1) else none

/-- What READ answers (R383, R385, R413, R437, R440). -/
def State.mgmtRead (s : State) (i : Tid) (n : Nat) : Option Word :=
  match knotReg n with
  | some (k, hi) => some ((s.tile.knot k).extractLsb' (if hi then 64 else 0) 64)
  | none =>
  if n < 0x400 then readCsr s.wtime s.tile s.foc i n
  else if n < 0x500 then (s.tile.th i).mgmtReg n
  else if n < 0x510 then s.portHere.bind fun p => (s.port p).reg (decide (96 ≤ p)) n
  else if n < 0x600 then s.ueHere.bind fun p =>
    let u := s.ue p
    let (w0, w1) := u.entry u.brsel.toNat
    if n = 0x510 then some (u.brsel.zeroExtend 64) else if n = 0x511 then some w0 else if n = 0x512 then some w1 else none
  else match (s.field (fieldOf s.foc)).reg n with
    | some w => some w
    | none => if fieldOf s.foc = 0 then s.boot.reg n else none

/-- READ (R383). -/
def execRead (c : MgmtCmd) (s : State) : Out :=
  match s.mgmtRead c.thread c.reg.toNat with
  | some w => .next (s.cmdAnswer c 0 w)
  | none => .next (s.cmdAnswer c 2 0)

/-! ### Checks of a WRITE -/

/-- No bit of w outside the mask. -/
def only (w mask : Word) : Bool := w &&& ~~~mask == 0

/-- The ring of a BALLOON value stays within one edge port's window (R426). -/
def balloonOk (w : Word) : Bool :=
  let blog := (w.extractLsb' 60 4).toNat
  let base := (w.extractLsb' 6 42).toNat * 64
  only w 0xF000FFFFFFFFFFC0 && decide (4 ≤ blog ∧ blog ≤ 12) &&
    (match serves base, serves (base + 320 * 2 ^ blog - 1) with
      | .edge p, .edge q => p == q
      | _, _ => false)

/-- Names that TRAPDEST may hold (R378, R381). -/
def trapdestOk (w : Word) : Bool :=
  let traps := (w.extractLsb' 0 32).toNat
  let ring := (w.extractLsb' 32 32).toNat
  decide (0xFF000001 ≤ traps ∧ (traps - 0xFF000001) % 0x10000 = 0 ∧ (traps - 0xFF000001) / 0x10000 < 80) &&
    (ring == 0 || decide (0xFF000100 ≤ ring ∧ (ring - 0xFF000000) % 0x10000 / 16 = 16 ∧ (ring - 0xFF000000) / 0x10000 < 80))

/-- SPACES names no space above 0x7FFF and not space 0 (R402). -/
def spacesOk (w : Word) : Bool :=
  let base := (w.extractLsb' 0 15).toNat
  only w 0xFF7FFF && (List.range 8).all fun i => !w.getLsbD (16 + i) || decide (1 ≤ base + i ∧ base + i ≤ 0x7FFF)

/-- A token bucket write (R434); `tenant` is the mask of its TENANT field. -/
def tokenOk (w tenant : Word) : Bool :=
  only w (0xFFFFFFFF8000FFFF ||| tenant) && decide (16 ≤ (w.extractLsb' 48 16).toNat ∧ (w.extractLsb' 0 16).toNat ≤ (w.extractLsb' 48 16).toNat)

/-- QLIMc: QMIN at most QCAP, QCAP at most 256, and the sum of QMIN at most 256 (R135). -/
def Tile.qlimOk (t : Tile) (c : Nat) (w : Word) : Bool :=
  let mn := (w.extractLsb' 0 9).toNat
  let sum := ((List.range 16).map fun k => if k = c then mn else ((getV16 t.pr.qlim k).extractLsb' 0 9).toNat).sum
  only w 0x1FF01FF01FF && decide (mn ≤ (w.extractLsb' 16 9).toNat ∧ (w.extractLsb' 16 9).toNat ≤ 256 ∧ sum ≤ 256)

/-- The value a privileged tile register takes, or none where the write is rejected (R2 and the maps). -/
def Tile.privNext (t : Tile) (n : Nat) (w : Word) : Option PrivRegs :=
  let r := t.pr
  let keep (ok : Bool) (x : PrivRegs) : Option PrivRegs := if ok then some x else none
  if n = 0x200 then
    keep (only w 0x7FFFFC0 && decide ((w.extractLsb' 16 11).toNat ≤ 1024 ∧ 64 * (w.extractLsb' 6 10).toNat + 8 * (w.extractLsb' 16 11).toNat ≤ 65536))
      { r with entrybase := w }
  else if n = 0x201 then keep (only w 0xFFFFFF && decide (256 ≤ w.toNat)) { r with budget := w }
  else if n = 0x202 then keep (only w 0xFFFFFFFF) { r with vcw := w }
  else if n = 0x203 then some { r with hallmap := w }
  else if n = 0x204 then keep (spacesOk w) { r with spaces := w }
  else if n = 0x205 then keep (trapdestOk w) { r with trapdest := w }
  else if n = 0x206 ∨ n = 0x208 then some r
  else if n = 0x207 then
    keep (balloonOk w && t.pstate == 0 && r.balptr.extractLsb' 32 32 == r.balptr.extractLsb' 0 32) { r with balloon := w }
  else if n = 0x209 then keep (tokenOk w 0xF0000) { r with toke := (w &&& 0xFFFF0000000FFFFF) ||| (r.toke &&& 0xFFFF80000000) }
  else if n = 0x20A then keep (tokenOk w 0) { r with tokm := (w &&& 0xFFFF00000000FFFF) ||| (r.tokm &&& 0xFFFF80000000) }
  else if n = 0x20C then keep (only w 0x8000FFFFFFFFFFFF) { r with slice := w }
  else if 0x210 ≤ n ∧ n < 0x220 then keep (t.qlimOk (n - 0x210) w) { r with qlim := setV16 r.qlim (n - 0x210) (w &&& 0x1FF01FF) }
  else if 0x220 ≤ n ∧ n < 0x224 then keep (only w 0x8F00000000000FFF) { r with bkpt := setV4 r.bkpt (n - 0x220) w }
  else if 0x224 ≤ n ∧ n < 0x228 then
    keep (only w 0xEF0000000F0FFFFF && (!w.getLsbD 63 || decide (3 ≤ (w.extractLsb' 24 4).toNat))) { r with watch := setV4 r.watch (n - 0x224) w }
  else if 0x240 ≤ n ∧ n < 0x250 then
    keep (only w 0xFC7FFFFFFFFFF800 && !(decide (4 ≤ (w.extractLsb' 58 3).toNat ∧ (w.extractLsb' 58 3).toNat ≤ 6)))
      { r with rtex := setV16 r.rtex (n - 0x240) w }
  else none

/-- Registers of 0x100 to 0x1FF that the steward writes although tile code may not (R58, R59, R128, R333): their named bits. -/
def stewardBits (n : Nat) : Word :=
  if n = 0x105 then 0xBF
  else if n = 0x106 then 0x0FFFFFFFFFFFFFFF
  else if 0x120 ≤ n ∧ n ≤ 0x123 then 0xFC3FFFFF
  else if n = 0x124 then 0x3FFFFFF
  else 0

/-- Stores a steward-written register. -/
def TileRegs.putSteward (r : TileRegs) (n : Nat) (w : Word) : TileRegs :=
  if n = 0x105 then { r with hall := w }
  else if n = 0x106 then { r with treepool := w }
  else if 0x120 ≤ n ∧ n ≤ 0x123 then { r with parent := setV4 r.parent (n - 0x120) w }
  else if n = 0x124 then { r with kitew := w }
  else r

/-! ### NAME -/

/-- The tile at c is live and bears the name (R128). -/
def State.bears (s : State) (n : BitVec 32) (but : Coord) : Bool :=
  ((s.foc, s.tile) :: s.tiles).any fun (c, t) => c != but && !t.absent && t.r.name.setWidth 32 == n

/-- Invalidates a name in every router (R132). -/
def State.forgetName (s : State) (n : BitVec 32) : State :=
  let f (t : Tile) : Tile := { t with names := t.names.filter (·.name != n) }
  { s with tile := f s.tile, tiles := s.tiles.map fun (c, t) => (c, f t) }

/-- A NAME write: rejected outside the range or when another live tile bears the name; else every router forgets both names (R128, R132). -/
def State.putName (s : State) (c : Coord) (w : Word) : Option State :=
  let n : BitVec 32 := w.setWidth 32
  if !only w 0xFFFFFFFF || decide (0xF0000000 ≤ n.toNat) || (n != 0 && s.bears n c) then none
  else
    let old : BitVec 32 := (s.tileAt c).r.name.setWidth 32
    some (((s.forgetName old).forgetName n).mapTileAt c fun t => { t with r := { t.r with name := w } })

/-! ### WRITE -/

/-- A write of half a knot register (R309): none where it leaves V = 1 over a record that fails R308, or sets a reserved bit. -/
def Tile.putKnot (t : Tile) (k : Nat) (hi : Bool) (w : Word) : Option Tile :=
  let old := t.knot k
  let r : BitVec 128 := if hi then w ++ old.extractLsb' 0 64 else old.extractLsb' 64 64 ++ w
  if (hi && !only w 0x800003FFFFFFFFFF) || (r.getLsbD 127 && knotCheck (r &&& ~~~((1 : BitVec 128) <<< 127)) != 0) then none
  else some { t with knots := Tab.set knotBlank t.knots k r }

/-- A tile register write by the steward (R381, R383): none where rejected. -/
def State.putTileReg (s : State) (n : Nat) (w : Word) : Option State :=
  match knotReg n with
  | some (k, hi) => (s.tile.putKnot k hi w).map fun t => { s with tile := t }
  | none =>
  if n = 0x103 then s.putName s.foc w
  else if 0x200 ≤ n then
    (s.tile.privNext n w).map fun r =>
      s.mapTile fun t => if n = 0x202 then t.vcwPut (w.setWidth 32) else { t with pr := r }
  else if stewardBits n != 0 then
    if only w (stewardBits n) then some (s.mapTile fun t => { t with r := t.r.putSteward n w }) else none
  else match csrInfo n, s.tile.csr s.wtime s.foc n with
    | some f, some old =>
      match csrNext n f old w allBits with
      | none => none
      | some v =>
        if f.rw ||| f.w1c = 0 then some s
        else if 0x10C ≤ n ∧ n ≤ 0x10F then (if pwinOk s.tile (n - 0x10C) v then some (s.mapTile (·.pwinPut (n - 0x10C) v)) else none)
        else some (s.mapTile fun t => { t with r := t.r.put n v })
    | _, _ => none

/-- Return-store depth set by the steward: entries are dropped from, or zeros added at, the newest end (R385). -/
def setDepth (l : List (BitVec 12)) (d : Nat) : List (BitVec 12) := (l ++ List.replicate 8 0).take d

/-- A thread register write (R385): none where rejected. Read-only fields may be set, but for STATE and the cycle count. A register narrower
than 64 bits takes no bit above it (R2; DEDUCED, log 33). -/
def Thread.mgmtPut (t : Thread) (i : Tid) (n : Nat) (w : Word) : Option Thread :=
  if n < 0x008 then
    match csrInfo n with
    | some f => if only w f.rw && csrValueOk n w then some (t.putCsr n w) else none
    | none => none
  else if n = 0x008 then (if w.toNat ≤ 8 then some { t with rstore := setDepth t.rstore w.toNat } else none)
  else if n = 0x009 then (if w.toNat = i.val then some t else none)
  else if n = 0x00A then (if only w 0xFFFF then some { t with entry := w } else none)
  else if n = 0x00B then
    let f (k : Nat) : Nat := (w.extractLsb' k 16).toNat
    if f 0 ≤ 16 ∧ f 16 ≤ 16 ∧ f 32 ≤ 16 ∧ f 48 ≤ 9 then some { t with outc := ⟨f 0, f 16, f 32, f 48⟩ } else none
  else if n = 0x00C then
    if only w 0x80FFFFFFFFFFFFFF then
      some { t with loop := ⟨w.getLsbD 63, w.extractLsb' 44 12, w.extractLsb' 32 12, w.extractLsb' 0 32⟩ }
    else none
  else if 0x400 ≤ n ∧ n < 0x420 then some (t.setG (BitVec.ofNat 5 (n - 0x400)) w)
  else if n = 0x420 then (if only w 0xFF then some { t with p := w.setWidth 8 ||| 1 } else none)
  else if n = 0x421 then (if only w 0xFFF then some { t with pc := w.setWidth 13, noted := [], turnAt := none } else none)
  else if n = 0x422 ∨ n = 0x423 then some t
  else if 0x430 ≤ n ∧ n < 0x434 then some (t.setM (BitVec.ofNat 2 (n - 0x430)) w)
  else if 0x440 ≤ n ∧ n < 0x4C0 then
    let r : VReg := BitVec.ofNat 4 ((n - 0x440) / 8)
    let k := 64 * ((n - 0x440) % 8)
    let old := t.v.toList.getD r.toNat 0
    let mask : Line := ((0xFFFFFFFFFFFFFFFF : Line) <<< k)
    some (t.setV r ((old &&& ~~~mask) ||| (w.zeroExtend 512 <<< k)) (t.vtag.toList.getD r.toNat 0))
  else if 0x4C0 ≤ n ∧ n < 0x4D0 then
    let d : Desc := w.setWidth 32
    if only w 0xFFFFFFFF && dLegal d then some { t with vtag := t.vtag.setIfInBounds (n - 0x4C0) d } else none
  else if 0x4D0 ≤ n ∧ n < 0x4D8 then
    if n - 0x4D0 < t.rstore.length ∧ only w 0xFFF then some { t with rstore := t.rstore.set (n - 0x4D0) (w.setWidth 12) } else none
  else none

/-- A port register write (R403). -/
def Port.put (p : Port) (iommu : Bool) (n : Nat) (w : Word) : Option (Option Port) :=
  let ok (b : Bool) (x : Port) : Option (Option Port) := some (if b then some x else none)
  if n = 0x500 then ok (only w 0x0000FFFFFFFFF000) { p with sptbase := w }
  else if n = 0x501 then ok (only w 0x0000FFFFFFFFFFC0) { p with ttbase := w }
  else if n = 0x502 ∧ iommu then ok (only w 0x0000FFFFFFFFF000) { p with dtbase := w }
  else if n = 0x503 then some (some p)
  else none

/-- A bridge-table register write (R465). -/
def UePort.put (u : UePort) (n : Nat) (w : Word) : Option (Option UePort) :=
  let (w0, w1) := u.entry u.brsel.toNat
  if n = 0x510 then some (if only w 0xFFF then some { u with brsel := w.setWidth 12 } else none)
  else if n = 0x511 then some (if only w 0xFFFFE00000000000 then some { u with table := unitSet u.table u.brsel.toNat (w, w1) } else none)
  else if n = 0x512 then some (some { u with table := unitSet u.table u.brsel.toNat (w0, w) })
  else none

/-- TCTL as written (R437, R438): setting EN starts period 0, whose refill is still to come. -/
def Field.putTctl (x : Field) (w : Word) : Field :=
  if w.getLsbD 0 ∧ !x.tctl.getLsbD 0 then { x with tctl := w, periods := 0, tstart := x.lcyc } else { x with tctl := w }

/-- A field controller's register write (R437, R440, R450): the outer none is an unknown number, the inner one a rejection. -/
def Field.put (x : Field) (n : Nat) (w : Word) : Option (Option Field) :=
  let ok (b : Bool) (y : Field) : Option (Option Field) := some (if b then some y else none)
  if n = 0x600 then ok true { x with tpool := w }
  else if n = 0x601 then ok (only w 1) (x.putTctl w)
  else if 0x610 ≤ n ∧ n < 0x620 then
    let old := getV16 x.tten (n - 0x610)
    ok (decide ((w.extractLsb' 16 14).toNat ≤ 14336))
      { x with tten := setV16 x.tten (n - 0x610) ((w &&& 0x3FFFFFFF) ||| (old &&& 0xFFFFFFFFC0000000)) }
  else if n = 0x640 then
    let m := (w.extractLsb' 0 5).toNat
    let cur := x.fclk.extractLsb' 8 5
    ok (only w 0x31F1F && decide (12 ≤ m ∧ m ≤ 24))
      { x with fclk := (x.fclk &&& 0x11F00) ||| (w &&& 0x1F) ||| (if cur.toNat < m then 0x20000 else 0) }
  else if n = 0x641 then
    let tlim := (w.extractLsb' 0 8).toNat
    let trel := (w.extractLsb' 8 8).toNat
    let pcap := (w.extractLsb' 16 16).toNat
    ok (only w 0xFFFFFFFFFF && decide (60 ≤ tlim ∧ tlim ≤ 105 ∧ trel < tlim ∧ 40 ≤ pcap ∧ pcap ≤ 164))
      { x with fgov := (x.fgov &&& 0xFF00000000) ||| (w &&& 0xFFFFFFFF) }
  else if n = 0x642 ∨ n = 0x649 then some (some x)
  else if n = 0x648 then ok (only w 0x1FF) { x with stairsel := w }
  else none

/-- FEATACC (R463): written once per boot, with features offered only. -/
def Boot.acceptFeatures (b : Boot) (hi : Bool) (w : Word) : Option Boot :=
  let off : Word := if hi then Config.featuresOffered.extractLsb' 64 64 else Config.featuresOffered.setWidth 64
  if (if hi then b.accWritten.2 else b.accWritten.1) || w &&& ~~~off != 0 then none
  else if hi then some { b with featacc := (b.featacc &&& 0xFFFFFFFFFFFFFFFF) ||| (w.zeroExtend 128 <<< 64), accWritten := (b.accWritten.1, true) }
  else some { b with featacc := (b.featacc &&& (0xFFFFFFFFFFFFFFFF <<< 64)) ||| w.zeroExtend 128, accWritten := (true, b.accWritten.2) }

/-- A write of BOOTST (R460): FULLREQ is set or cleared, and OK := 1 clears FAILS. -/
def Boot.putBootst (b : Boot) (w : Word) : Boot :=
  let v := (b.bootst &&& ~~~(0x10000 : Word)) ||| (w &&& 0x10000)
  { b with bootst := if w.getLsbD 1 then (v ||| 2) &&& ~~~(0xC : Word) else v }

/-- A write of CKCTL (R469, R471): RESUME and SEQ take their bits; GO starts a checkpoint unless one is being made, and moves SEQ on. -/
def Boot.putCkctl (b : Boot) (w : Word) : Boot :=
  let st := (b.ckctl.extractLsb' 60 2).toNat
  let v := (b.ckctl &&& 0x3000000000000000) ||| (w &&& 0x40000000FFFFFFFF)
  if w.getLsbD 63 ∧ (st = 0 ∨ st = 3) then
    { b with ckctl := (v &&& 0x4000000000000000) ||| 0x1000000000000000 ||| ((w + 1) &&& 0xFFFFFFFF), ckParked := [], goPending := true }
  else { b with ckctl := v }

/-- A write to a register of field 0 alone. -/
def Boot.put (b : Boot) (n : Nat) (w : Word) : Option (Option Boot) :=
  if n = 0x650 then some (if only w 0xFF07000F then some (b.putBootst w) else none)
  else if n = 0x651 then some (if only w 0xFFFF && w != 0 then some { b with boottmo := w } else none)
  else if n = 0x652 ∨ n = 0x653 ∨ n = 0x659 then some (some b)
  else if n = 0x654 then some (b.acceptFeatures false w)
  else if n = 0x655 then some (b.acceptFeatures true w)
  else if n = 0x658 then some (if only w 0xF0000000FFFFFFFF then some (b.putCkctl w) else none)
  else none

/-- The thread is in a state in which its registers may be written (R383). -/
def TState.writable : TState → Bool
  | .stop | .halt | .saved => true
  | _ => false

/-- Status and state after a WRITE (R383, R384). A bit of FFLAGS that it raises feeds the unions (R92). -/
def State.mgmtWrite (s : State) (i : Tid) (n : Nat) (w : Word) : BitVec 8 × State :=
  let done (o : Option State) : BitVec 8 × State := match o with
    | some t => (0, t)
    | none => (1, s)
  if (s.mgmtRead i n).isNone then (2, s)
  else if threadReg n then
    if !(s.tile.th i).state.writable then (3, s)
    else
      let raised (t : Thread) : Flags := t.fflags.setWidth 6 &&& ~~~((s.tile.th i).fflags.setWidth 6)
      done (((s.tile.th i).mgmtPut i n w).map fun t => (s.updTh s.foc i fun _ => t).feedUnions s.foc (raised t))
  else if n < 0x400 then done (s.putTileReg n w)
  else if n < 0x510 then match s.portHere with
    | some p => match (s.port p).put (decide (96 ≤ p)) n w with
      | some o => done (o.map (s.setPort p))
      | none => (2, s)
    | none => (2, s)
  else if n < 0x600 then match s.ueHere with
    | some p => match (s.ue p).put n w with
      | some o => done (o.map (s.setUe p))
      | none => (2, s)
    | none => (2, s)
  else match (s.field (fieldOf s.foc)).put n w with
    | some o => done (o.map (s.setField (fieldOf s.foc)))
    | none => if fieldOf s.foc = 0 then match s.boot.put n w with
        | some o => done (o.map fun b => { s with boot := b })
        | none => (2, s)
      else (2, s)

/-- A PWIN write waits until the tile's engines and copies are idle (R112). -/
def State.writeWaits (s : State) (n : Nat) : Bool :=
  decide (0x10C ≤ n ∧ n ≤ 0x10F) && !(s.tile.ops.isEmpty && s.tile.copies.isEmpty)

/-- WRITE (R383). -/
def execWrite (c : MgmtCmd) (s : State) : Out :=
  if s.writeWaits c.reg.toNat then .next s
  else
    let (st, s1) := s.mgmtWrite c.thread c.reg.toNat c.value
    .next (s1.cmdAnswer c st 0)

/-- NAME_WRITE (R132): the WRITE of NAME. -/
def execNameWrite (c : MgmtCmd) (s : State) : Out :=
  match s.putName s.foc c.value with
  | some t => .next (t.cmdAnswer c 0 0)
  | none => .next (s.cmdAnswer c 1 0)

/-! ### Thread commands -/

/-- A command on the named thread, in one of the states of `ok`, waits: its record is still to be sent, or, until its instruction boundary,
it has unconfirmed engine operations, a service call in flight or a message at the port. -/
def State.threadWaits (s : State) (c : MgmtCmd) (ok : TState → Bool) : Bool :=
  let t := s.tile.th c.thread
  let inCall := match t.wait with
    | .scall _ _ => true
    | _ => false
  ok t.state && (t.record.isSome || inCall || t.stepping || s.tile.holding c.thread || (t.state == .run && s.tile.offering c.thread))

/-- A command on the named thread in one of the states of `ok`. -/
def threadCmd (c : MgmtCmd) (ok : TState → Bool) (f : Tile → Tile) (s : State) : Out :=
  if !ok (s.tile.th c.thread).state then .next (s.cmdAnswer c 3 0)
  else if s.threadWaits c ok then .next s
  else .next ((s.mapTile f).cmdAnswer c 0 0)

/-- STOP or HALT. -/
def TState.stopped : TState → Bool
  | .stop | .halt => true
  | _ => false
/-- STOP, HALT or a wait: the states of KILL (R383). -/
def TState.killable : TState → Bool
  | .stop | .halt | .waitv | .wtag | .pgwait => true
  | _ => false
/-- RUN or a wait: the states of HALT (R383). -/
def TState.haltable : TState → Bool
  | .run | .waitv | .wtag | .pgwait => true
  | _ => false

/-- What a stopped thread left at the port (R225, R240): its SEND, SENDI, POST or FWD is executed again, but the firings that remain of a
DONE are made once. -/
def Entered.again : Entered → Bool
  | .sent _ | .fwd _ => true
  | _ => false
/-- The thread's messages of the named kinds leave the port without entering. -/
def Tile.withdraw (t : Tile) (i : Tid) (f : Entered → Bool) : Tile := { t with inj := t.inj.filter fun x => !(x.tid == some i && f x.entered) }

/-- RESUME (R389). -/
def execResume (c : MgmtCmd) (s : State) : Out :=
  threadCmd c (·.stopped) (fun t => (t.withdraw c.thread (·.again)).mapTh c.thread (·.resume)) s

/-- REDIRECT (R389): PC := VALUE[11:0], in RUN, with the cycle count at 0. -/
def Thread.redirect (t : Thread) (pc : BitVec 12) : Thread :=
  { t with state := .run, pc := pc.setWidth 13, resumeSkip := 0, cycles := 0, skipBkpt := false, atBkpt := false, stalled := false,
           noted := [], turnAt := none }
def execRedirect (c : MgmtCmd) (s : State) : Out :=
  threadCmd c (·.stopped) (fun t => (t.withdraw c.thread (· != .no)).mapTh c.thread (·.redirect (c.value.setWidth 12))) s

/-- KILL (R389): FREE, its outstanding answers discarded, nothing released or fired. Copies run on, and logged stores stay logged. -/
def Thread.kill (t : Thread) : Thread :=
  { t.finish with pends := t.pends.filter fun p => p.logged || (match p.kind with | .copy _ _ _ => true | _ => false),
                  outc := ⟨0, 0, t.outc.copies, t.outc.tops⟩, pending := 0, deferred := none, further := 0, resumeSkip := 0, atBkpt := false }
def execKill (c : MgmtCmd) (s : State) : Out :=
  let c0 := match (s.tile.th c.thread).work with
    | .packet c0 _ => some c0
    | _ => none
  match threadCmd c (·.killable) (fun t => (t.withdraw c.thread (· != .no)).mapTh c.thread (·.kill)) s with
  | .next s1 =>
    if (s1.tile.th c.thread).state = .free ∧ (s.tile.th c.thread).state ≠ .free then
      .next ((s1.mapTile fun t => match c0 with
        | some k => t.freeCells k
        | none => t).dropMonitors s.foc c.thread)
    else .next s1
  | o => o

/-- HALT command (R383): the thread halts at its instruction boundary, leaving any wait with its PC there. -/
def Thread.haltNow (t : Thread) : Thread :=
  { t.halted 0 with pends := t.pends.filter fun p => match p.kind with | .waitv _ => false | _ => true }
def execHaltCommand (c : MgmtCmd) (s : State) : Out :=
  match threadCmd c (·.haltable) (·.mapTh c.thread (·.haltNow)) s with
  | .next s1 => if (s1.tile.th c.thread).state = .halt then .next (s1.dropMonitors s.foc c.thread) else .next s1
  | o => o

/-- STEP (R383): RUN for one instruction, then HALT again with a notice. -/
def execStep (c : MgmtCmd) (s : State) : Out :=
  threadCmd c (· == .halt) (fun t =>
    (t.withdraw c.thread (·.again)).mapTh c.thread fun h => { h.resume with cycles := h.cycles, stepping := true }) s

/-- UNION (R383): the block's flag union, cleared if VALUE[0] = 1. -/
def execUnion (c : MgmtCmd) (s : State) : Out :=
  let b := blockOf s.foc
  let u := unitGet 0 s.blockFlags b
  let s1 := if c.value.getLsbD 0 then { s with blockFlags := unitSet s.blockFlags b 0 } else s
  .next (s1.cmdAnswer c 0 (u.zeroExtend 64))

/-! ### Answers at the issuing port -/

/-- A message that is an answer to a hart's command. -/
def Msg.answers (agent : Nat) : Msg → Bool
  | .cmdAnswer a _ _ _ | .shootAck a _ => a == agent
  | _ => false

/-- The MSI that a command answer becomes (R392): its file and identity are free (DESIGN CHOICE, log 19). -/
def State.answerMsi (s : State) (agent : Nat) : State :=
  s.msi (agent / 16) (agent % 16) (Config.answerMsi agent).1 (Config.answerMsi agent).2

/-- COMMAND_ANSWER (R384, R385, R392, R415): an answer reaches the hart's command port and completes its store, and becomes an MSI; one for
which no store waits any more is discarded (DEDUCED, log 54). A shoot-down's acknowledgement is collected. -/
def execCommandAnswer (agent : Nat) (s : State) : Out :=
  match firstOf (s.net.filter fun f => s.arrived f && f.msg.answers agent) with
  | some f =>
    let s1 : State := { s with net := s.net.erase f }
    match f.msg with
    | .cmdAnswer _ st seq v =>
      .next (match (s1.cmdPort agent).waiting with
        | some (_, n) =>
          if n = seq then (s1.setCmdPort agent { s1.cmdPort agent with status := st, seq := seq, mval := v, waiting := none }).answerMsi agent
          else s1
        | none => s1)
    | .shootAck _ r => .next (s1.shootAcked agent r)
    | _ => .next s
  | none => .next s

/-- COMMAND_TIMEOUT (R385): no answer within 65,536 ticks completes the store with status 0xFF. -/
def execCommandTimeout (agent : Nat) (s : State) : Out :=
  let p := s.cmdPort agent
  match p.waiting with
  | some (t, _) => if 65536 ≤ (s.wtime - t).toNat ∧ p.shoots.isEmpty then .next (s.setCmdPort agent { p with status := 0xFF, waiting := none }) else .next s
  | none => .next s

end Sys2Proof.Machine
end

