-- ==== Sys2Proof/Machine/Tenancy.lean ====
section
/-! DEFINITION. Pre-emption and shares: parking and restoring a tile (R419 to R425, R430, R433), HALLOP (R431), the balloon (R427 to
R429), the timers (R393, R430), and the field's token refill (R437, R438). -/

namespace Sys2Proof.Machine

/-! ### Parking -/

/-- A gang operation of the tile is joined and unresolved (R420). -/
def Tile.gangOpen (t : Tile) : Bool := t.gangOp.isSome
/-- The matrix, vector and tree engines are idle with empty queues (R420). -/
def Tile.enginesIdle (t : Tile) : Bool := t.ops.all fun o => o.eng == .copy

/-- The park is voluntary (R420). -/
def Tile.voluntary (t : Tile) : Bool :=
  ((List.finRange 4).all fun i => (t.th i).state == .free && (t.th i).outc.loads == 0 && (t.th i).outc.stores == 0 && (t.th i).outc.tops == 0) &&
    t.enginesIdle && !t.gangOpen

/-- A checkpoint is parking or writing (R471). -/
def State.checkpointing (s : State) : Bool := let st := (s.boot.ckctl.extractLsb' 60 2).toNat; st == 1 || st == 2

/-- Drops the tile's monitors (R422): other tiles' waiters are answered, the tile's own are saved at their WAITV. -/
def State.dropTileMonitors (s : State) (c : Coord) : State :=
  let word (m : Monitor) : Word :=
    let b := (s.tileAt c).wordAt m.addr
    (s.seen c b).load (tileBase c + b) m.n
  let s1 := (s.tileAt c).monitors.foldl (fun s m =>
    if m.who.src = c ∧ m.who.agent.isNone then s else s.answer c 9 m.who (.value (m.hit.getD (word m))) 0) s
  s1.mapTileAt c fun t => { t with monitors := [] }

/-- A PARK or slice deadline takes effect at tile c (R420, R422): PARKED at once when voluntary, else QUIESCING. -/
def State.startPark (s : State) (c : Coord) (slice : Bool) : State :=
  let vol := (s.tileAt c).voluntary
  let base : Word := (s.tileAt c).pr.pctx &&& 0xFFFF000000000000
  let w : Word := base ||| (if slice then 0x80 else 0) ||| (if vol then 0x22 else 1)
  (s.mapTileAt c fun t => { (t.setPctx w) with parkFrom := (s.field (fieldOf c)).lcyc }).dropTileMonitors c

/-- Cycles since the last park of tile c took effect (R419, R421): of the field, whether or not a thread is in RUN. -/
def State.parkCycles (s : State) (c : Coord) : Nat := ((s.field (fieldOf c)).lcyc - (s.tileAt c).parkFrom).toNat
/-- A park of the focus tile took effect in this cycle (R433). -/
def State.parkNow (s : State) : Bool := (s.tile.pstate == 1 || s.tile.pstate == 2) && s.parkCycles s.foc == 0

/-- A PARK may take effect (R419, R426, R471), or its status. -/
def State.parkStatus (s : State) (t : Tile) : BitVec 8 :=
  if t.pstate ≠ 0 ∨ s.checkpointing then 3 else if t.pr.balloon.extractLsb' 60 4 = 0 then 1 else 0

/-- PARK (R419): answered when STATE becomes PARKED. One that meets the slice timer in one cycle joins the park that it started (R433). -/
def execPark (c : MgmtCmd) (s : State) : Out :=
  let st := s.parkStatus s.tile
  if s.parkNow && s.tile.pr.pctx.getLsbD 7 && s.tile.parkCmd.isNone && !s.checkpointing then
    if s.tile.pstate = 2 then .next (s.cmdAnswer c 0 0)
    else .next ((s.expectAnswer c).mapTile fun t => { t with parkCmd := some c })
  else if st ≠ 0 then .next (s.cmdAnswer c st 0)
  else
    let s1 := s.startPark s.foc false
    if s1.tile.pstate = 2 then .next (s1.cmdAnswer c 0 0)
    else .next ((s1.expectAnswer c).mapTile fun t => { t with parkCmd := some c })

/-- The states in which a thread is saved (R421). -/
def TState.quiet : TState → Bool
  | .run => false
  | _ => true

/-- Both conditions of R421 hold. -/
def Tile.quiesced (t : Tile) : Bool :=
  t.pstate == 1 && ((List.finRange 4).all fun i => (t.th i).state.quiet) && t.enginesIdle && !t.gangOpen

/-- A thread as it is saved (R423): SAVED, remembering its state; a WAITV or WTAG is saved at its instruction. -/
def Thread.save (t : Thread) : Thread :=
  if t.state = .free then t
  else
    let keep (p : Pend) : Bool := match p.kind with
      | .waitv _ => false
      | _ => true
    { t with savedAs := t.state, state := .saved, wait := .none, pends := t.pends.filter keep }

/-- The tile record at 0x1800 of the shadow bank (R423). -/
def State.saveTileRecord (s : State) (c : Coord) : State :=
  let t := s.tileAt c
  let bits := ((List.finRange 4).map fun i => if (t.th i).state = .saved then 2 ^ i.val else 0).sum
  let s1 := (s.store (shadowBase c + 0x1800) 8 (s.wtime + t.lag)).store (shadowBase c + 0x1808) 8 (BitVec.ofNat 64 bits)
  (List.range 6).foldl (fun s k => s.store (shadowBase c + 0x1810 + 8 * k) 8 0) s1

/-- Saves every thread of tile c and marks it PARKED (R421, R423). -/
def State.saveTile (s : State) (c : Coord) : State :=
  let q : Word := BitVec.ofNat 64 (min 65535 (s.parkCycles c) * 2 ^ 48)
  let s0 := (s.dropTileMonitors c).mapTileAt c fun t => { t with threads := t.threads.map (·.save), arms := [] }
  let s1 := (List.finRange 4).foldl (fun s i =>
    if ((s.tileAt c).th i).state = .saved then (s.saveImage c i).dropMonitors c i else s) s0
  (s1.saveTileRecord c).mapTileAt c fun t => t.setPctx ((t.pr.pctx &&& 0x0000FFFFFFFFFFF8) ||| q ||| 2)

/-- Answers the PARK or UNPARK that the focus tile has carried out, if a command asked for it. -/
def State.parkDone (s : State) : State :=
  match s.tile.parkCmd with
  | some c => (s.mapTile fun t => { t with parkCmd := none }).answerFrom s.foc c 0 0
  | none => s

/-- QUIESCENCE_COMPLETE (R421): the image is written and the tile is PARKED; the PARK is answered. -/
def execQuiescenceComplete (s : State) : Out := if s.tile.quiesced then .next (s.saveTile s.foc).parkDone else .next s

/-- PREEMPT_TIMEOUT (R421): the focus thread is still in RUN after LIMIT cycles of quiescence. -/
def execPreemptTimeout (s : State) : Out :=
  if s.tile.pstate == 1 && s.th.state == .run && decide (s.tile.limit ≤ s.parkCycles s.foc) && !s.tile.holding s.tid then
    let slice := s.tile.pr.pctx.getLsbD 7
    .next ((s.trapWith Cause.preemptTimeout 0 (BitVec.ofNat 64 s.tile.limit) (if slice then 1 else 0) 0 0).mapTile fun t =>
      t.setPctx (t.pr.pctx ||| 0x40))
  else .next s

/-- A SAVED thread as it is restored (R424). -/
def Thread.restore (t : Thread) : Thread :=
  if t.state ≠ .saved then t
  else match t.savedAs with
    | .waitv | .wtag | .run => { t with state := .run, stalled := false }
    | .pgwait => { t with state := if t.heldWait then .pgwait else .run, wait := if t.heldWait then .pgwait else .none, stalled := false }
    | x => { t with state := x }

/-- Step 1 of R425: tile c is RESTORING. -/
def State.unpark (s : State) (c : Coord) : State := s.mapTileAt c (·.setPstate 3)
/-- Steps 2 and 3 of R425: the threads are reloaded, and the tile is LIVE. -/
def Tile.restore (t : Tile) : Tile := ({ t with threads := t.threads.map (·.restore) } : Tile).setPstate 0

/-- The command under which a RESTORING tile's UNPARK goes on: the one to answer, if a command asked for it. -/
def Tile.unparkCmd (t : Tile) : MgmtCmd := t.parkCmd.getD default

/-- A tile that becomes LIVE while a checkpoint parks the tiles is parked with them (R469; DEDUCED, log 57). -/
def State.joinCheckpoint (s : State) : State :=
  if s.checkpointing && !s.boot.goPending then
    let s1 := s.startPark s.foc false
    { s1 with boot := { s1.boot with ckParked := s1.boot.ckParked ++ [s.foc] } }
  else s

/-- UNPARK (R425): a PARKED tile is RESTORING; the UNPARK that goes on there makes it LIVE, and is answered. Another has status 3. -/
def execUnpark (c : MgmtCmd) (s : State) : Out :=
  if s.tile.pstate = 3 ∧ s.tile.unparkCmd = c then .next (s.mapTile (·.restore)).parkDone.joinCheckpoint
  else if s.tile.pstate ≠ 2 ∨ s.checkpointing then .next (s.cmdAnswer c 3 0)
  else .next (((s.expectAnswer c).unpark s.foc).mapTile fun t => { t with parkCmd := some c })

/-- QUERY (R419): answered when STATE is not QUIESCING. -/
def execQuery (c : MgmtCmd) (s : State) : Out :=
  if s.tile.pstate = 1 then .next s else .next (s.cmdAnswer c 0 s.tile.pr.pctx)

/-! ### HALLOP -/

/-- A tile's own part of the answer (R431). -/
def hallOwn (st : BitVec 8) (pctx : Word) : Word :=
  (if st = 0 then 1 else BitVec.ofNat 64 (2 ^ 32)) ||| (st.zeroExtend 64 <<< 48) ||| (if pctx.getLsbD 5 then BitVec.ofNat 64 (2 ^ 56) else 0) |||
    (if pctx.getLsbD 6 then BitVec.ofNat 64 (2 ^ 57) else 0)

/-- Joins two answers: counts add, the first non-zero status stands, the marks are united. -/
def hallJoin (a b : Word) : Word :=
  let n : BitVec 32 := a.extractLsb' 0 32 + b.extractLsb' 0 32
  let k : BitVec 16 := a.extractLsb' 32 16 + b.extractLsb' 32 16
  let st : BitVec 8 := if a.extractLsb' 48 8 = 0 then b.extractLsb' 48 8 else a.extractLsb' 48 8
  let marks : BitVec 8 := (a.extractLsb' 56 8) ||| (b.extractLsb' 56 8)
  marks ++ st ++ k ++ n

/-- Carries out the inner command on the focus tile: its status when complete at once. During a checkpoint it is 3 (R471). -/
def State.hallInner (s : State) (op : BitVec 8) : Option (BitVec 8) × State :=
  if s.checkpointing then (some 3, s)
  else if op = 0x20 then
    let st := s.parkStatus s.tile
    if st ≠ 0 then (some st, s)
    else
      let s1 := s.startPark s.foc false
      (if s1.tile.pstate = 2 then some 0 else none, s1)
  else if op = 0x21 then
    if s.tile.pstate ≠ 2 then (some 3, s) else (none, s.unpark s.foc)
  else if op = 0x23 then (if s.tile.pstate = 1 then none else some 0, s)
  else (some 2, s)

/-- Sends the answer of a complete HALLOP to the parent, or to the agent at the root. -/
def State.hallFinish (s : State) (h : HallWait) : State :=
  match h.own, h.kids.mapM (·.2) with
  | some st, some ws =>
    let w := ws.foldl hallJoin (hallOwn st s.tile.pr.pctx)
    let s1 := s.mapTile fun t => { t with hallop := none }
    match h.parent with
    | some p => s1.emit s.foc 15 (.tile p) (.hallAnswer s.foc w)
    | none => s1.answerFrom s.foc h.cmd 0 w
  | _, _ => s

/-- Progress of a HALLOP at the focus tile: a child's answer, its own inner command, then its answer. -/
def State.hallProgress (s : State) (h : HallWait) : State :=
  let answer (f : Flight) : Option (Coord × Word) := match f.msg with
    | .hallAnswer k w => if f.atTile s.foc then some (k, w) else none
    | _ => none
  let under := s.tile.pstate == if h.cmd.value.setWidth 8 = (0x21 : BitVec 8) then 3 else 1
  let own := match h.own with
    | some st => some st
    | none => if under then none else some 0
  match s.net.findSome? fun f => (answer f).map fun x => (f, x) with
  | some (f, k, w) =>
    let h1 := { h with own := own, kids := h.kids.map fun (c, o) => if c = k ∧ o.isNone then (c, some w) else (c, o) }
    (({ s with net := s.net.erase f } : State).mapTile fun t => { t with hallop := some h1 }).hallFinish h1
  | none =>
    let h1 := { h with own := own }
    (s.mapTile fun t => { t with hallop := some h1 }).hallFinish h1

/-- HALLOP (R431): begins at the root or where it was relayed, and is carried on until its answer is complete. One that a steward sends
during a checkpoint has status 3 (R471). -/
def execHallop (c : MgmtCmd) (s : State) : Out :=
  match s.tile.hallop with
  | some h => .next (s.hallProgress h)
  | none =>
    let relayed (f : Flight) : Option (MgmtCmd × Coord) := match f.msg with
      | .hallop c p => if f.atTile s.foc then some (c, p) else none
      | _ => none
    let (cmd, parent, s0) : MgmtCmd × Option Coord × State := match s.net.findSome? fun f => (relayed f).map fun x => (f, x) with
      | some (f, c, p) => (c, some p, { s with net := s.net.erase f })
      | none => (c, none, s.expectAnswer c)
    if parent.isNone && s.checkpointing then .next (s0.answerFrom s.foc cmd 3 0)
    else
    let kids := kidsOf s.foc s.tile.r.parent[0]
    let s1 := kids.foldl (fun s k => s.emit s.foc 15 (.tile k) (.hallop cmd s.foc)) s0
    let (own, s2) := s1.hallInner (cmd.value.setWidth 8)
    let h : HallWait := ⟨cmd, parent, kids.map fun k => (k, none), own⟩
    .next ((s2.mapTile fun t => { t with hallop := some h }).hallFinish h)

/-! ### The balloon -/

def Tile.blog (t : Tile) : Nat := (t.pr.balloon.extractLsb' 60 4).toNat
def Tile.balTail (t : Tile) : BitVec 32 := t.pr.balptr.extractLsb' 32 32
def Tile.balHead (t : Tile) : BitVec 32 := t.pr.balptr.extractLsb' 0 32
def Tile.setBalptr (t : Tile) (tail head : BitVec 32) : Tile := { t with pr := { t.pr with balptr := tail ++ head } }
/-- Physical address of ring entry k (R428). -/
def Tile.balEntry (t : Tile) (k : BitVec 32) : Nat := 64 * (t.pr.balloon.extractLsb' 6 42).toNat + 320 * (k.toNat % 2 ^ t.blog)

/-- Writes the words of a ring entry: packet, zeros to byte 255, the time, zeros to the end (R428). -/
def State.writeEntry (s : State) (k : Nat) (ws : List Word) (now : Word) : State :=
  let all := (ws ++ List.replicate (32 - ws.length) 0) ++ [now] ++ List.replicate 7 0
  ((List.range 40).zip all).foldl (fun s (i, w) => s.store (k + 8 * i) 8 w) s

/-- The channels that the balloon diverts (R427). -/
def divertedChannels : List (BitVec 4) := [0, 1, 2, 3, 4, 5, 6, 7, 12, 14, 15]

/-- A message as the ring holds it: its header words and payload. Of a decrement the payload flit holds the record address and the amount
(R228; the places are the model's: DESIGN CHOICE, log 47). -/
def Flight.entryWords (f : Flight) : List Word :=
  match f.msg with
  | .packet p => p.word0 :: p.word1 :: p.payload
  | .decr a d => [f.header.1, f.header.2, a, BitVec.ofNat 64 d]
  | _ => []

/-- BALLOON_DIVERSION (R427, R428): the earliest packet or user-channel decrement at the port goes to the ring, unless the ring is full; a
decrement for a name that the tile does not bear is discarded (R130). -/
def execBalloonDiversion (s : State) : Out :=
  let t := s.tile
  if !t.diverting || t.blog == 0 then .next s
  else
    let isDecr (f : Flight) : Bool := match f.msg with
      | .decr _ _ => true
      | _ => false
    let heads := (divertedChannels.filterMap fun v => s.channelHead s.foc v).filter fun f => f.whole && (isDecr f || !f.misnamed t)
    match firstOf heads with
    | none => .next s
    | some f =>
      let s1 : State := { s with net := s.net.erase f }
      let k := t.balTail + BitVec.ofNat 32 t.balWait
      if f.misnamed t then .next (s1.discard f Cause.entryInvalid)
      else if (k - t.balHead).toNat = 2 ^ t.blog then .next (s.mapTile (·.count 0x09 1))
      else .next ((s1.writeEntry (t.balEntry k) f.entryWords (s.wtime + t.lag)).mapTile fun t =>
        { t with balWait := t.balWait + 1, balSrc := t.balSrc ++ [⟨f.src, f.sys, isDecr f⟩] })

/-- BALLOON_ENTRY_ACK (R428): TAIL advances as the port acknowledges the oldest entry. -/
def execBalloonEntryAck (s : State) : Out :=
  if s.tile.balWait = 0 then .next s
  else .next (s.mapTile fun t => ({ t with balWait := t.balWait - 1 } : Tile).setBalptr (t.balTail + 1) t.balHead)

/-- REDELIVERY (R429): the entry at HEAD enters the inbox under R136, its header as stored and with the mark that it came with; a decrement
goes to the write queue, as one that arrives. -/
def execRedelivery (s : State) : Out :=
  let t := s.tile
  if t.pstate ≠ 0 ∨ t.balTail = t.balHead then .next s
  else
    let k := t.balEntry t.balHead
    let w (i : Nat) : Word := s.load (k + 8 * i) 8
    let x := t.balSrc.headD ⟨s.foc, false, false⟩
    let taken := if x.decr then s.takeDecr (w 2) (w 3).toNat (hdrHall (w 0)) x.sys x.src s.nextSeq
      else s.acceptPacket s.foc ⟨w 0, w 1, (List.range (2 * hdrLen (w 0))).map fun i => w (2 + i), x.sys⟩ x.src
    match taken with
    | some s1 => .next (s1.mapTile fun t => ({ t with balSrc := t.balSrc.drop 1 } : Tile).setBalptr t.balTail (t.balHead + 1))
    | none => .next (s.mapTile (·.count 0x09 1))

/-! ### Timers -/

/-- A 48-bit deadline has been reached (R393, R430). -/
def deadlineReached (now w : Word) : Bool := !(now.extractLsb' 0 48 - w.extractLsb' 0 48).getLsbD 47

/-- TILE_TIMER_FIRE (R393): a packet to the tile itself through the loop-back port. -/
def execTileTimerFire (s : State) : Out :=
  let t := s.tile
  let w := t.r.timer
  let now := s.wtime + t.lag
  if w.getLsbD 63 && deadlineReached now w && t.pstate == 0 then
    let vc : BitVec 4 := (w.extractLsb' 58 3).zeroExtend 4
    let w0 := headerWord (coordDest s.foc) t.hid false 0 false false (w.extractLsb' 48 10) vc 1
    let p : Packet := ⟨w0, t.r.name &&& 0xFFFFFFFF, [now, (w.extractLsb' 0 48).zeroExtend 64], t.sys⟩
    let s1 := s.mapTile fun t => { t with r := { t.r with timer := (w &&& 0x7FFFFFFFFFFFFFFF) ||| 0x4000000000000000 } }
    .next (s1.push s.foc ⟨none, vc, .dest (.tile s.foc), .packet p, .no⟩)
  else .next s

/-- SLICE_TIMER_FIRE (R430): acts as a PARK with BYSLICE when the tile is LIVE; one that meets a PARK in one cycle is recorded in its
park's BYSLICE (R433). -/
def execSliceTimerFire (s : State) : Out :=
  let w := s.tile.pr.slice
  if w.getLsbD 63 && deadlineReached (s.wtime + s.tile.lag) w then
    let s1 := s.mapTile fun t => { t with pr := { t.pr with slice := w &&& 0x7FFFFFFFFFFFFFFF } }
    .next (if s.parkStatus s.tile = 0 then s1.startPark s.foc true
      else if s.parkNow && !s.checkpointing then s1.mapTile fun t => t.setPctx (t.pr.pctx ||| 0x80)
      else s1)
  else .next s

/-! ### Token refill -/

/-- TCTL_WRITE (R437, R438) at field f. -/
def execTctlWrite (f : Nat) (v : Word) (s : State) : Out :=
  if only v 1 then .next (s.setField f ((s.field f).putTctl v)) else .next s

/-- Tenant of a tile, and whether it spent or waited in a class (R438). -/
def Tile.tenant (t : Tile) : Nat := (t.pr.toke.extractLsb' 16 4).toNat
def spentOrWaited (w : Word) : Bool := w.extractLsb' 32 16 != 0 || w.getLsbD 31

/-- A bucket after a refill of r (R438). -/
def refillBucket (w : Word) (r : Nat) : Word :=
  (w &&& 0xFFFF0000000F0000) ||| BitVec.ofNat 64 (min (w.extractLsb' 48 16).toNat (tokLevel w + r))

/-- Refill of tenant t in a class: floor(floor(POOL·w / W) / NT) (R438). -/
def refillOf (pool w total nt : Nat) (act : Bool) : Nat :=
  if act ∧ 0 < total ∧ 0 < nt then pool * w / total / nt else 0

/-- TOKEN_REFILL (R438) at field f, at the start of its period k. EREF and MREF show the refill of the period before it (R437). -/
def execTokenRefill (f : Nat) (s : State) : Out :=
  let x := s.field f
  if !x.refillDue then .next s
  else
    let mine := (((s.foc, s.tile) :: s.tiles.filter (·.1 != s.foc)).filter fun (c, _) => fieldOf c == f).map (·.2)
    let tt (t : Nat) : Word := getV16 x.tten t
    let nt (t : Nat) : Nat := ((tt t).extractLsb' 16 14).toNat
    let we (t : Nat) : Nat := ((tt t).extractLsb' 0 8).toNat
    let wm (t : Nat) : Nat := ((tt t).extractLsb' 8 8).toNat
    let act (wt : Nat → Nat) (b : Tile → Word) (t : Nat) : Bool :=
      (x.periods == 0 && decide (0 < nt t ∧ 0 < wt t)) || mine.any fun y => y.tenant == t && spentOrWaited (b y)
    let ae := act we (·.pr.toke)
    let am := act wm (·.pr.tokm)
    let sum (wt : Nat → Nat) (a : Nat → Bool) : Nat := ((List.range 16).map fun t => if a t then wt t else 0).sum
    let re (t : Nat) : Nat := refillOf (x.tpool.extractLsb' 0 32).toNat (we t) (sum we ae) (nt t) (ae t)
    let rm (t : Nat) : Nat := refillOf (x.tpool.extractLsb' 32 32).toNat (wm t) (sum wm am) (nt t) (am t)
    let bucket (t : Tile) : Tile :=
      { t with pr := { t.pr with toke := refillBucket t.pr.toke (re t.tenant), tokm := refillBucket t.pr.tokm (rm t.tenant) } }
    let entry (t : Nat) : Word :=
      (tt t &&& 0x3FFFFFFF) ||| getV16 x.given t ||| (if ae t then 0x80000000 else 0) ||| (if am t then 0x40000000 else 0)
    let given (t : Nat) : Word := BitVec.ofNat 64 (min 65535 (re t) * 2 ^ 48 + min 65535 (rm t) * 2 ^ 32)
    let x1 := { x with periods := x.periods + 1, tten := Vector.ofFn fun i : Fin 16 => entry i.val,
                       given := Vector.ofFn fun i : Fin 16 => given i.val,
                       bToke := refillBucket x.bToke (re 0), bTokm := refillBucket x.bTokm (rm 0) }
    let upd (c : Coord) (t : Tile) : Tile := if fieldOf c = f then bucket t else t
    .next ({ s with tile := upd s.foc s.tile, tiles := s.tiles.map fun (c, t) => (c, upd c t) }.setField f x1)

end Sys2Proof.Machine
end

