-- ==== Sys2Proof/Machine/Gallery.lean ====
section
/-! DEFINITION. Galleries: flag unions (R92, R376), event queues (R390, R391), and the call rings (R392, R394 to R400). f is a gallery's
field index. -/

namespace Sys2Proof.Machine

/-! ### Flag unions -/

/-- HALL_FLAG_UNION_CLEAR (R92, R376): writing 1 clears a bit. -/
def State.clearUnion (s : State) (hall : Nat) (mask : BitVec 6) : State :=
  { s with hallFlags := unitSet s.hallFlags hall (unitGet 0 s.hallFlags hall &&& ~~~mask) }
def execHallFlagUnionClear (_f hall : Nat) (mask : BitVec 6) (s : State) : Out := .next (s.clearUnion hall mask)

/-! ### What a gallery sends -/

/-- A message from gallery f to the tile at a coordinate, with the tile's hall or the system mark (R379); one to a coordinate of no compute
tile is refused (R20). -/
def State.galleryTo (s : State) (f : Nat) (msg : Msg) (vc : BitVec 4) (c : Coord) (name : BitVec 32) : State :=
  let site := gallerySite f
  let t := s.tileAt c
  if isCompute c then s.send msg vc site (.tile c) name none (if t.sys then 0 else t.hid) t.sys
  else s.discard ⟨msg, vc, site, .tile c, site, name, none, 0, true, 0, [], 0, 0⟩ Cause.hallViolation

/-! ### Event queues -/

def qEn (q : EvQueue) : Bool := q.cfg.getLsbD 5
def qLog (q : EvQueue) : Nat := (q.cfg.extractLsb' 0 5).toNat
def qSize (q : EvQueue) : Nat := 2 ^ qLog q

/-- Writes a record's words at a physical address. -/
def State.writeWords (s : State) (k : Nat) (ws : List Word) : State :=
  ((List.range ws.length).zip ws).foldl (fun s (i, w) => s.store (k + 8 * i) 8 w) s

/-- EVENT_QUEUE_MSI (R391): EIID is written to the target interrupt file. -/
def State.queueMsi (s : State) (q : EvQueue) : State :=
  let hart := (q.cfg.extractLsb' 8 13).toNat
  s.msi (hart / 16) (hart % 16) (q.cfg.extractLsb' 21 3).toNat (q.cfg.extractLsb' 24 8).toNat

def State.queue (s : State) (f n : Nat) : EvQueue := unitGet EvQueue.reset (s.gallery f).queues n
def State.setQueue (s : State) (f n : Nat) (q : EvQueue) : State :=
  let g := s.gallery f
  s.setGallery f { g with queues := unitSet g.queues n q }

/-- Writes one record into queue n of gallery f, its overflow area, or nowhere (R391). -/
def State.putRecord (s : State) (f n : Nat) (ws : List Word) : State :=
  let q := s.queue f n
  let kind := (ws.headD 0).extractLsb' 10 2
  let lost := s.setQueue f n { q with lost := q.lost + 1 }
  if !qEn q then lost
  else if (q.tail - q.head).toNat < qSize q then
    let s1 := (s.writeWords (q.base.toNat + 64 * (q.tail.toNat % qSize q)) ws).setQueue f n { q with tail := q.tail + 1 }
    if q.tail = q.head then s1.queueMsi q else s1
  else if kind = 1 then lost
  else if (q.otail - q.ohead).toNat < qSize q then
    let at_ := q.base.toNat + 64 * qSize q + 64 * (q.otail.toNat % qSize q)
    let s1 := (s.writeWords at_ ws).setQueue f n { q with otail := q.otail + 1, cfg := q.cfg ||| 0x100000000 }
    if q.otail = q.ohead then s1.queueMsi q else s1
  else lost

/-- A message that a gallery's receivers take or discard in the order of arrival: records, and what it does not accept (R378). -/
def Msg.forReceiver : Msg → Bool
  | .record _ | .packet _ | .decr _ _ | .req _ => true
  | _ => false

/-- EVENT_QUEUE_WRITE (R391) at gallery f: the next record is written. A message that the gallery does not accept is discarded and
reported (R378). -/
def execEventQueueWrite (f : Nat) (s : State) : Out :=
  match s.unitReports.find? (·.1 == f) with
  | some (g, r) => .next (({ s with unitReports := s.unitReports.erase (g, r) } : State).putRecord f (r.queue.getD (recordQueue r.words)) r.words)
  | none =>
    match firstOf (s.net.filter fun x => x.dest == .gallery f && s.arrived x && x.msg.forReceiver) with
    | none => .next s
    | some x =>
      let s1 := { s with net := s.net.erase x }
      match x.msg with
      | .record r => .next (s1.putRecord f (r.queue.getD (recordQueue r.words)) r.words)
      | _ => .next (s1.discard x Cause.entryInvalid)

/-- EVENT_QUEUE_HEAD_WRITE (R391): HEAD or OHEAD is written, with an MSI when its area stays non-empty. -/
def State.headWrite (s : State) (f n : Nat) (ovf : Bool) (v : Word) : State :=
  let q := s.queue f n
  if ovf then
    let s1 := s.setQueue f n { q with ohead := v }
    if q.otail ≠ v then s1.queueMsi q else s1
  else
    let s1 := s.setQueue f n { q with head := v }
    if q.tail ≠ v then s1.queueMsi q else s1
def execEventQueueHeadWrite (f n : Nat) (ovf : Bool) (v : Word) (s : State) : Out := .next (s.headWrite f n ovf v)

/-- A write of a queue's CFG register (R390): OVF is cleared by a 1; a write of EN = 1 with a field it does not allow is ignored. -/
def EvQueue.putCfg (q : EvQueue) (w : Word) : EvQueue :=
  let log := (w.extractLsb' 0 5).toNat
  let bad := w.extractLsb' 24 8 == 0 || decide (log < 8 ∨ 20 < log) || decide (5 < (w.extractLsb' 21 3).toNat) ||
    decide (1279 < (w.extractLsb' 8 13).toNat) || w &&& 0xFFFFFFFE000000C0 != 0
  if w.getLsbD 5 && bad then q else { q with cfg := (w &&& 0xFFFFFF3F) ||| (q.cfg &&& ~~~w &&& 0x100000000) }

/-- A read of a queue's register at a byte offset (R390); none where there is none. -/
def EvQueue.reg (q : EvQueue) (o : Nat) : Option Word :=
  match o with
  | 0x00 => some q.base
  | 0x08 => some q.cfg
  | 0x10 => some q.tail
  | 0x18 => some q.head
  | 0x20 => some q.otail
  | 0x28 => some q.ohead
  | 0x30 => some q.lost
  | _ => none

/-- A write of a queue's register (R390). BASE keeps the bits of an aligned address (DESIGN CHOICE, log 21). -/
def State.queueWrite (s : State) (f n o : Nat) (w : Word) : State :=
  let q := s.queue f n
  match o with
  | 0x00 => s.setQueue f n { q with base := w &&& ~~~(0x3F : Word) }
  | 0x08 => s.setQueue f n (q.putCfg w)
  | 0x18 => s.headWrite f n false w
  | 0x28 => s.headWrite f n true w
  | 0x30 => s.setQueue f n { q with lost := q.lost &&& ~~~w }
  | _ => s

/-! ### Call rings -/

def State.ring (s : State) (f t : Nat) : Ring := unitGet Ring.reset (s.gallery f).rings t
def State.setRing (s : State) (f t : Nat) (r : Ring) : State :=
  let g := s.gallery f
  s.setGallery f { g with rings := unitSet g.rings t r }
def Ring.slot (r : Ring) (i : Nat) : Slot := unitGet Slot.reset r.slots i
def Ring.setSlot (r : Ring) (i : Nat) (x : Slot) : Ring := { r with slots := unitSet r.slots i x }
/-- WEIGHT, with 0 read as 1 (R395). -/
def Ring.share (r : Ring) : Nat := if r.weight = 0 then 1 else r.weight

/-- Name of ring port t of gallery f (R378). -/
def ringName (f t : Nat) : BitVec 32 := BitVec.ofNat 32 (0xFF000100 + 0x10000 * f + t)

/-- Status of a call (R396), in the order of its cases. -/
def Ring.callStatus (r : Ring) (c : CallRec) : BitVec 8 × Option Nat :=
  let svc : BitVec 16 := (c.words.headD 0).extractLsb' 0 16
  if !r.en then (0xFF, none)
  else if !r.halls.getLsbD c.hall.toNat then (1, none)
  else if 1024 ≤ svc.toNat ∨ !(getV16 r.svcmask (svc.toNat / 64)).getLsbD (svc.toNat % 64) then (4, none)
  else if r.swin || r.failed then (3, none)
  else match (List.range 256).find? fun i => (r.slot i).st == .free with
    | none => (2, none)
    | some i => (0, some i)

/-- The descriptor of a call (R394): low and high dwords. -/
def callDesc (c : CallRec) (gen : BitVec 32) : Word × Word :=
  let lo := c.callId.toNat + c.src.y * 2 ^ 44 + (c.src.x * 2 ^ 55) % 2 ^ 64
  let hi := c.src.x / 2 ^ 9 + c.centry.toNat * 4 + c.tid.val * 2 ^ 12 + c.hall.toNat * 2 ^ 14 + c.len.toNat * 2 ^ 20 + gen.toNat * 2 ^ 32
  (BitVec.ofNat 64 lo, BitVec.ofNat 64 hi)

/-- The MSI that a call record becomes (R392): its hart, file and identity are free (DESIGN CHOICE, log 19). -/
def State.ringMsi (s : State) (f t : Nat) : State :=
  let (hart, file, ident) := Config.ringMsi f t
  s.msi f (hart % 16) file ident

/-- CALL_RECORD (R392, R396): ring port t of gallery f takes the next call record and answers it, under its name (R379). -/
def execCallRecord (f t : Nat) (s : State) : Out :=
  match firstOf (s.net.filter fun x => x.dest == .gallery f && s.arrived x && x.name == some (ringName f t) && (match x.msg with
      | .call _ => true
      | _ => false)) with
  | none => .next s
  | some x =>
    match x.msg with
    | .call c =>
      let r := s.ring f t
      let (st, slot) := r.callStatus c
      let s1 := { s with net := s.net.erase x }
      let (s2, gen) : State × BitVec 32 := match slot with
        | none => (s1, 0)
        | some i =>
          let k := r.rbase.toNat
          let (lo, hi) := callDesc c r.gen
          let ws := (c.words ++ List.replicate (8 - c.words.length) 0).take 8
          let r1 := ({ r with accepted := r.accepted + 1 } : Ring).setSlot i ⟨.queued, r.gen, r.accepted, 0⟩
          (((s1.writeWords (k + 64 * i) ws).writeWords (k + 0x4000 + 16 * i) [lo, hi]).setRing f t r1, r.gen)
      .next ((s2.ringMsi f t).galleryTo f (.scallReply c.tid (gen ++ (0 : BitVec 24) ++ st)) 14 c.src (ringName f t))
    | _ => .next s

/-- A read of a ring port's register (R395). -/
def Ring.reg (r : Ring) (o : Nat) : Option Word :=
  let bit (b : Bool) (k : Nat) : Nat := if b then 2 ^ k else 0
  if o = 0x00 then
    some (BitVec.ofNat 64 (r.gen.toNat * 2 ^ 32 + r.share * 2 ^ 24 + bit r.swin 3 + bit r.failed 2 + bit r.old 1 + bit r.en 0))
  else if o = 0x08 then some r.rbase
  else if o = 0x10 then some r.halls
  else if o = 0x18 then some r.calltmo
  else if o = 0x20 then some 0
  else if o = 0x28 then some r.swtmo
  else if 0x40 ≤ o ∧ o < 0xC0 then some (getV16 r.svcmask ((o - 0x40) / 8))
  else none

/-- A write of a ring port's register other than CMD (R395): EN and RBASE change only while every slot is FREE. RBASE keeps the bits of an
aligned address (DESIGN CHOICE, log 21). -/
def Ring.put (r : Ring) (o : Nat) (w : Word) : Ring :=
  let idle := r.slots.all fun x => x.2.st == .free
  if o = 0x00 then { r with weight := (w.extractLsb' 24 4).toNat, en := if idle then w.getLsbD 0 else r.en }
  else if o = 0x08 then (if idle then { r with rbase := w &&& ~~~(0x7FFF : Word) } else r)
  else if o = 0x10 then { r with halls := w }
  else if o = 0x18 then { r with calltmo := w }
  else if o = 0x28 then { r with swtmo := w }
  else if 0x40 ≤ o ∧ o < 0xC0 then { r with svcmask := setV16 r.svcmask ((o - 0x40) / 8) w }
  else r

/-- Oldest QUEUED slot of a ring (R397). -/
def Ring.oldest (r : Ring) : Option (Nat × Slot) :=
  (r.slots.filter (·.2.st == .queued)).foldl (fun acc x => match acc with
    | some y => if x.2.order < y.2.order then some x else acc
    | none => some x) none

def State.hart (s : State) (f h : Nat) : SvcHart := unitGet SvcHart.reset (s.gallery f).svc h
def State.setHart (s : State) (f h : Nat) (x : SvcHart) : State :=
  let g := s.gallery f
  s.setGallery f { g with svc := unitSet g.svc h x }

/-- Generation that a hart serves in a ring (R397). -/
def SvcHart.genOf (x : SvcHart) (r : Ring) : BitVec 32 := if x.gensel then r.gen - 1 else r.gen

/-- Tenants whose oldest queued slot a hart may take (R397). -/
def State.eligible (s : State) (f h : Nat) : List Nat :=
  (List.range 16).filter fun t => match (s.ring f t).oldest with
    | some (_, x) => x.gen == (s.hart f h).genOf (s.ring f t)
    | none => false

/-- Every ring's credit is reset to its WEIGHT (R397). -/
def State.resetCredits (s : State) (f : Nat) : State :=
  (List.range 16).foldl (fun (s : State) t => s.setRing f t { s.ring f t with credit := (s.ring f t).share }) s

/-- DISPATCH_READ (R397): service hart h takes the oldest slot of the ring that weighted round-robin gives. -/
def State.dispatchRead (s : State) (f h : Nat) : State :=
  let x := s.hart f h
  let all := s.eligible f h
  let ts := if x.excluded && all.any (fun t => some t != x.serving) then all.filter (fun t => some t != x.serving) else all
  let withCredit (s : State) : Option Nat := ts.find? fun t => decide (0 < (s.ring f t).credit)
  let (s1, pick) := match withCredit s with
    | some t => (s, some t)
    | none =>
      if ts.isEmpty then (s, none)
      else
        let s1 := s.resetCredits f
        (s1, withCredit s1)
  match pick with
  | none => s1.setHart f h { x with dispatch := 0 }
  | some t =>
    match (s1.ring f t).oldest with
    | none => s1.setHart f h { x with dispatch := 0 }
    | some (i, sl) =>
      let r := s1.ring f t
      let r1 := ({ r with credit := r.credit - 1 } : Ring).setSlot i { sl with st := .taken, taken := s.wtime }
      let w : Word := BitVec.ofNat 64 (2 ^ 63 + t * 2 ^ 56 + i * 2 ^ 48 + sl.gen.toNat)
      let same := x.serving == some t
      (s1.setRing f t r1).setHart f h
        { x with dispatch := w, serving := some t, since := if same then x.since else s.wtime, excluded := if same then x.excluded else false }
def execDispatchRead (f h : Nat) (s : State) : Out := .next (s.dispatchRead f h)

/-- SERVICE_SLICE_EXPIRY (R397): the hart has served one tenant for SLICE ticks while another is eligible. -/
def execServiceSliceExpiry (f h : Nat) (s : State) : Out :=
  let x := s.hart f h
  if x.slice != 0 && x.serving.isSome && !x.excluded && decide (x.slice.toNat ≤ (s.wtime - x.since).toNat) &&
      (s.eligible f h).any (fun t => some t != x.serving) then
    .next ((s.setHart f h { x with excluded := true }).msi f h 0 2)
  else .next s

/-- Statuses that COMPLETE accepts (R398). -/
def statusOk (st : BitVec 8) : Bool := st == 0 || st == 3 || decide (0x10 ≤ st.toNat)

/-- COMPLETE (R398), written by a hart: the completion waits for that hart's earlier stores; one for a slot not TAKEN under the service
hart's generation is ignored. -/
def State.completeWrite (s : State) (f h agent : Nat) (v : Word) : State :=
  let t := (v.extractLsb' 56 4).toNat
  let i := (v.extractLsb' 48 8).toNat
  let st : BitVec 8 := v.extractLsb' 0 8
  let r := s.ring f t
  let sl := r.slot i
  let g := s.gallery f
  let waiting := g.completions.any fun x => x.tenant == t && x.slot == i
  if sl.st == .taken && sl.gen == (s.hart f h).genOf r && statusOk st && !waiting then
    s.setGallery f { g with completions := g.completions ++ [⟨t, i, st, agent, (s.hartAt agent).stores⟩] }
  else s
def execComplete (f h : Nat) (v : Word) (s : State) : Out := .next (s.completeWrite f h (16 * f + h) v)

/-- Sends the completion of a slot and frees it (R398, R379). -/
def State.sendCompletion (s : State) (f t i : Nat) (st : BitVec 8) : State :=
  let r := s.ring f t
  let k := r.rbase.toNat
  let lo := s.load (k + 0x4000 + 16 * i) 8
  let hi := s.load (k + 0x4000 + 16 * i + 8) 8
  let c : Coord := ⟨(lo.extractLsb' 55 9).toNat + 512 * (hi.extractLsb' 0 2).toNat, (lo.extractLsb' 44 11).toNat⟩
  let dest := s.tileAt c
  let hall : BitVec 6 := if dest.sys then 0 else dest.hid
  let w0 := headerWord (coordDest c) hall false 0 false false (hi.extractLsb' 2 10) 14 4
  let w1 : Word := lo.extractLsb' 0 32 ++ ringName f t
  let first : Word := (r.slot i).gen ++ (0 : BitVec 24) ++ st
  let rest := (List.range 7).map fun j => s.load (k + 64 * i + 8 + 8 * j) 8
  let p : Packet := ⟨w0, w1, first :: rest, dest.sys⟩
  let r1 := r.setSlot i Slot.reset
  let left := r1.slots.any fun x => x.2.st != .free && x.2.gen == r1.gen - 1
  (s.setRing f t { r1 with old := r1.old && left }).galleryTo f (.packet p) 14 c (ringName f t)

/-- COMPLETION_SEND (R398) of gallery f: the oldest completion whose hart has no earlier store to be performed. -/
def execCompletionSend (f : Nat) (s : State) : Out :=
  let g := s.gallery f
  match g.completions.find? fun x => !(x.stores.any fun id => (s.hartAt x.agent).stores.contains id) with
  | none => .next s
  | some x => .next ((s.setGallery f { g with completions := g.completions.erase x }).sendCompletion f x.tenant x.slot x.status)

/-- Puts a slot among others in the order of acceptance. -/
def insertSlot (x : Nat × Slot) : List (Nat × Slot) → List (Nat × Slot)
  | [] => [x]
  | y :: r => if x.2.order < y.2.order then x :: y :: r else y :: insertSlot x r

/-- Slots of a generation that are QUEUED or TAKEN and not yet completed, in the order of acceptance (R399). -/
def State.slotsOf (s : State) (f t : Nat) (gen : BitVec 32) : List Nat :=
  let pend := (s.gallery f).completions
  let xs := (s.ring f t).slots.filter fun (i, x) => x.st != .free && x.gen == gen && !(pend.any fun y => y.tenant == t && y.slot == i)
  (xs.foldl (fun l x => insertSlot x l) []).map (·.1)

/-- GENERATION_FAILURE (R399): every open slot of the generation is completed with status 3. -/
def State.failGen (s : State) (f t : Nat) (gen : BitVec 32) : State :=
  let s1 := (s.slotsOf f t gen).foldl (fun s i => s.sendCompletion f t i 3) s
  let r := s1.ring f t
  s1.setRing f t { r with failed := r.failed || gen == r.gen }

/-- SWITCH (R400): CMD = 1 opens the switch window. -/
def State.ringSwitch (s : State) (f t : Nat) : State :=
  let r := s.ring f t
  if r.swin then s else s.setRing f t { r with swin := true, swOpened := s.wtime }
def execSwitch (f t : Nat) (s : State) : Out := .next (s.ringSwitch f t)

/-- READY (R400): CMD = 2 makes the next generation current. -/
def State.ringReady (s : State) (f t : Nat) : State :=
  let r := s.ring f t
  if !r.swin then s
  else
    let left := r.slots.any fun x => x.2.st != .free && x.2.gen == r.gen
    s.setRing f t { r with gen := r.gen + 1, swin := false, failed := false, old := left }
def execReady (f t : Nat) (s : State) : Out := .next (s.ringReady f t)

/-- RETIRE (R400): CMD = 3 completes the old generation's slots with status 3. -/
def State.ringRetire (s : State) (f t : Nat) : State :=
  let r := s.ring f t
  if !r.old then s
  else
    let s1 := (s.slotsOf f t (r.gen - 1)).foldl (fun s i => s.sendCompletion f t i 3) s
    s1.setRing f t { s1.ring f t with old := false }
def execRetire (f t : Nat) (s : State) : Out := .next (s.ringRetire f t)

/-- FAIL (R399): CMD = 4 fails the current generation. -/
def execFail (f t : Nat) (s : State) : Out := .next (s.failGen f t (s.ring f t).gen)

/-- A write of CMD (R395): other values are ignored. -/
def State.ringCmd (s : State) (f t : Nat) (w : Word) : State :=
  if w = 1 then s.ringSwitch f t
  else if w = 2 then s.ringReady f t
  else if w = 3 then s.ringRetire f t
  else if w = 4 then s.failGen f t (s.ring f t).gen
  else s

/-- CALL_TIMEOUT (R399): a slot has been TAKEN longer than CALLTMO. -/
def execCallTimeout (f t : Nat) (s : State) : Out :=
  let r := s.ring f t
  match r.slots.find? fun x => x.2.st == .taken && r.calltmo != 0 && decide (r.calltmo.toNat < (s.wtime - x.2.taken).toNat) with
  | some (_, x) => .next (s.failGen f t x.gen)
  | none => .next s

/-- SWITCH_WINDOW_TIMEOUT (R400): a window open for SWTMO ticks closes with GEN unchanged. -/
def execSwitchWindowTimeout (f t : Nat) (s : State) : Out :=
  let r := s.ring f t
  if r.swin && decide (r.swtmo.toNat ≤ (s.wtime - r.swOpened).toNat) then .next (s.setRing f t { r with swin := false }) else .next s

/-- SERVICE_HARTS_HALTED (R399): no service hart is left for the current or the old generation. -/
def execServiceHartsHalted (f t : Nat) (old : Bool) (s : State) : Out :=
  let r := s.ring f t
  .next (s.failGen f t (if old then r.gen - 1 else r.gen))

end Sys2Proof.Machine
end

