-- ==== Sys2Proof/Machine/Harts.lean ====
section
/-! DEFINITION. What the harts of the galleries do to the wafer: their translation (R417), the CSRs of their timers and interrupt files
(R374, R377), management commands (R385, R415), the control space (R376), and their accesses (R162, R375). A hart h of gallery f is agent
16·f + h. -/

namespace Sys2Proof.Machine

/-! ### A hart's translation (R417) -/

/-- Kind of an access to a page: it reads, writes or fetches. -/
structure HartNeed where
  r : Bool
  w : Bool
  x : Bool
  deriving DecidableEq, Repr, Inhabited

/-- A leaf that a walk of a RISC-V table found: the page's size as a power of two, its output address, and its entry. -/
structure Leaf where
  bits : Nat
  out : Nat
  pte : Word
  deriving DecidableEq, Repr, Inhabited

/-- The n bytes lie in the memory of one edge port or expander (R404). -/
def inMemory (k n : Nat) : Bool :=
  match serves k, serves (k + n - 1) with
  | .edge p, .edge q => p == q
  | .cxl c, .cxl d => c == d
  | _, _ => false

/-- Levels of a radix table by its MODE field: none for bare, else those of Sv39, Sv48 and Sv57. -/
def levelsOf (atp : Word) : Nat := (atp.extractLsb' 60 4).toNat - 5
def atpModeOk (atp : Word) : Bool := decide ((atp.extractLsb' 60 4).toNat ∈ [0, 8, 9, 10])

/-- Bits of a valid table entry that must be 0, but for N and PBMT, whose value 3 is reserved (Svnapot, Svpbmt); in an entry that points to
a table also N, PBMT, D, A and U, and W without R is no entry. -/
def pteOk (pte : Word) : Bool :=
  pte.getLsbD 0 && (!pte.getLsbD 2 || pte.getLsbD 1) && pte.extractLsb' 54 7 == 0 && pte.extractLsb' 61 2 != 3 &&
    (pte.getLsbD 1 || pte.getLsbD 3 || (pte.extractLsb' 61 3 == 0 && !pte.getLsbD 7 && !pte.getLsbD 6 && !pte.getLsbD 4))

/-- A leaf at level lv: a page aligned to its size, or, with N, 64 KiB of 4 KiB pages (Svnapot). -/
def leafOf (pte : Word) (lv : Nat) : Option Leaf :=
  let ppn := (pte.extractLsb' 10 44).toNat
  if pte.getLsbD 63 then (if lv = 0 ∧ ppn % 16 = 8 then some ⟨16, 4096 * (ppn - 8), pte⟩ else none)
  else if ppn % 2 ^ (9 * lv) = 0 then some ⟨12 + 9 * lv, 4096 * ppn, pte⟩ else none

/-- The walk of a radix table whose first level has `span` entries; `via` gives the physical address of a table entry. -/
def State.radix (s : State) (via : Nat → Option Nat) (a : Nat) : Nat → Nat → Nat → Option Leaf
  | _, _, 0 => none
  | table, span, lv + 1 =>
    match via (table + 8 * (a / 2 ^ (12 + 9 * lv) % span)) with
    | none => none
    | some k =>
      let pte := s.load k 8
      if !inMemory k 8 || s.damaged k 8 || !pteOk pte then none
      else if pte.getLsbD 1 || pte.getLsbD 3 then leafOf pte lv
      else s.radix via a (4096 * (pte.extractLsb' 10 44).toNat) 512 lv

/-- Fields of a status register that an access consults: a supervisor may use user pages (SUM), and reads what is executable (MXR). -/
def statSum (w : Word) : Bool := w.getLsbD 18
def statMxr (w : Word) : Bool := w.getLsbD 19

/-- The leaf permits the access in user or supervisor mode, under SUM and MXR; A, and D for a write, must be set (Svade). -/
def Leaf.permits (l : Leaf) (user sum mxr : Bool) (k : HartNeed) : Bool :=
  (if user then l.pte.getLsbD 4 else !l.pte.getLsbD 4 || (sum && !k.x)) && l.pte.getLsbD 6 &&
    (!k.r || l.pte.getLsbD 1 || (mxr && l.pte.getLsbD 3)) && (!k.w || (l.pte.getLsbD 2 && l.pte.getLsbD 7)) && (!k.x || l.pte.getLsbD 3)

/-- A stage under satp or vsatp. -/
def State.hartStage (s : State) (via : Nat → Option Nat) (atp : Word) (user sum mxr : Bool) (k : HartNeed) (a : Nat) : Option Nat :=
  let lv := levelsOf atp
  let top := a / 2 ^ (11 + 9 * lv)
  if lv = 0 then some a
  else if top ≠ 0 ∧ top ≠ 2 ^ (53 - 9 * lv) - 1 then none
  else (s.radix via a (4096 * (atp.extractLsb' 0 44).toNat) 512 lv).bind fun l =>
    if l.permits user sum mxr k then some (l.out + a % 2 ^ l.bits) else none

/-- The G-stage of a guest physical address: under hgatp, through the hart's G-stage TLB by VMID (R416, R417). -/
def State.gStage (s : State) (h : Hart) (mxr : Bool) (k : HartNeed) (a : Nat) : Option (Nat × List GEntry) :=
  let lv := levelsOf h.hgatp
  let vmid := (h.hgatp.extractLsb' 44 14).toNat
  if lv = 0 then some (a, [])
  else if 2 ^ (14 + 9 * lv) ≤ a then none
  else
    let cached := h.gtlb.find? fun e => e.vmid == vmid && e.page == a / 2 ^ e.bits
    let found : Option GEntry := match cached with
      | some e => some e
      | none => (s.radix some a (16384 * ((h.hgatp.extractLsb' 0 44).toNat / 4)) 2048 lv).bind fun l =>
        if l.permits true false false ⟨false, false, false⟩ then
          some ⟨vmid, l.bits, a / 2 ^ l.bits, l.out / 2 ^ l.bits, l.pte.getLsbD 1, l.pte.getLsbD 2 && l.pte.getLsbD 7, l.pte.getLsbD 3⟩
        else none
    found.bind fun e =>
      if (k.r && !(e.r || (mxr && e.x))) || (k.w && !e.w) || (k.x && !e.x) then none else some (e.out * 2 ^ e.bits + a % 2 ^ e.bits, [e])

/-- The mode in which a hart's access is translated (R417): its own, but for loads and stores in M-mode under MPRV those of MPP and MPV. -/
def Hart.accessMode (h : Hart) (k : HartNeed) : HartMode :=
  if h.mode = .m ∧ h.mstatus.getLsbD 17 ∧ !k.x then
    match (h.mstatus.extractLsb' 11 2).toNat, h.mstatus.getLsbD 39 with
    | 0, false => .u
    | 0, true => .vu
    | 1, false => .hs
    | 1, true => .vs
    | _, _ => .m
  else h.mode

/-- A hart's translation in a mode (R417): the physical address with the G-stage entries used, or none for a page fault. In a guest MXR of
mstatus holds in both stages and that of vsstatus in the first alone. -/
def State.hartAddr (s : State) (h : Hart) (mode : HartMode) (k : HartNeed) (a : Nat) : Option (Nat × List GEntry) :=
  let mxr := statMxr h.mstatus
  match mode with
  | .m => some (a, [])
  | .hs | .u => (s.hartStage some h.satp (mode == .u) (statSum h.mstatus) mxr k a).map fun x => (x, [])
  | .vs | .vu =>
    (s.hartStage (fun x => (s.gStage h false ⟨true, false, false⟩ x).map (·.1)) h.vsatp (mode == .vu) (statSum h.vsstatus)
      (mxr || statMxr h.vsstatus) k a).bind (s.gStage h mxr k)

/-- The pieces of an access of n bytes, one in each 4 KiB page. -/
def pagePieces (a n : Nat) : List (Nat × Nat) :=
  let m := 4096 - a % 4096
  if n ≤ m then [(a, n)] else [(a, m), (a + m, n - m)]

/-! ### Interrupt files and CSRs of a hart (R374, R377) -/

def Hart.file (h : Hart) (i : Nat) : IntFile := unitGet IntFile.reset h.files i
def Hart.setFile (h : Hart) (i : Nat) (x : IntFile) : Hart := { h with files := unitSet h.files i x }

/-- The identities 64·k to 64·k + 63 of a list as a word, and the list with them replaced; identity 0 does not exist. -/
def identWord (l : List Nat) (k : Nat) : Word :=
  (List.range 64).foldl (fun w i => if l.contains (64 * k + i) then w ||| BitVec.ofNat 64 (2 ^ i) else w) 0
def identPut (l : List Nat) (k : Nat) (w : Word) : List Nat :=
  (l.filter fun i => i / 64 != k) ++ ((List.range 64).map (64 * k + ·)).filter fun i => i != 0 && decide (k < 4) && w.getLsbD (i % 64)

/-- The identity that a file delivers first: the lowest pending, enabled and below the threshold; 0 for none. -/
def IntFile.top (x : IntFile) : Nat :=
  minOf 0 (x.eip.filter fun i => x.eie.contains i && (x.threshold == 0 || decide (i < x.threshold)))

/-- A mode may access the CSR; a guest reaches its own registers and guest files. -/
def csrAllowed (mode : HartMode) : HartCsr → Bool
  | .time => true
  | .mhartid | .mstatus => mode == .m
  | .satp | .stimecmp | .sstatus => mode == .m || mode == .hs || mode == .vs
  | .vsatp | .vstimecmp | .vsstatus | .hgatp => mode == .m || mode == .hs
  | .eidelivery f | .eithreshold f | .eip f _ | .eie f _ | .topei f =>
    decide (f ≤ 5) && (mode == .m || (mode == .hs && f != 0) || (mode == .vs && decide (2 ≤ f)))

/-- The register that a CSR's number reaches in a mode. -/
def csrActual (mode : HartMode) (r : HartCsr) : HartCsr :=
  match mode, r with
  | .vs, .satp => .vsatp
  | .vs, .stimecmp => .vstimecmp
  | .vs, .sstatus => .vsstatus
  | _, r => r

/-- The fields of mstatus that a program sets, and those of them that sstatus shows; SXL and UXL are 2, and SD stands for a dirty FS or VS
(the RISC-V layout: PRESUMED, log 6). -/
def mstatusMask : Word := 0x000000C0007E7FAA
def sstatusMask : Word := 0x00000000000C6722
def statusWord (w : Word) (xl : Word) : Word :=
  w ||| xl ||| (if w.extractLsb' 13 2 = 3 ∨ w.extractLsb' 9 2 = 3 then (1 <<< 63 : Word) else 0)
/-- mstatus as a write leaves it: MPP takes no reserved mode. -/
def putMstatus (old w : Word) : Word :=
  let v := w &&& mstatusMask
  if v.extractLsb' 11 2 = 2 then (v &&& ~~~(0x1800 : Word)) ||| (old &&& 0x1800) else v

def Hart.csr (h : Hart) (agent : Nat) (now : Word) : HartCsr → Word
  | .mstatus => statusWord h.mstatus 0x0000000A00000000
  | .sstatus => statusWord (h.mstatus &&& sstatusMask) 0x0000000200000000
  | .vsstatus => statusWord h.vsstatus 0x0000000200000000
  | .mhartid => BitVec.ofNat 64 agent
  | .time => now
  | .stimecmp => h.stimecmp
  | .vstimecmp => h.vstimecmp
  | .satp => h.satp
  | .vsatp => h.vsatp
  | .hgatp => h.hgatp
  | .eidelivery f => if (h.file f).delivery then 1 else 0
  | .eithreshold f => BitVec.ofNat 64 (h.file f).threshold
  | .eip f k => identWord (h.file f).eip k
  | .eie f k => identWord (h.file f).eie k
  | .topei f => BitVec.ofNat 64 ((h.file f).top * 65537)

/-- A CSR write; none where the register is read-only. A write of a compare that the time has not reached takes its interrupt back, and a
write of `topei` claims the identity that it shows. -/
def Hart.putCsr (h : Hart) (now : Word) (r : HartCsr) (w : Word) : Option Hart :=
  match r with
  | .mhartid | .time => none
  | .mstatus => some { h with mstatus := putMstatus h.mstatus w }
  | .sstatus => some { h with mstatus := (h.mstatus &&& ~~~sstatusMask) ||| (w &&& sstatusMask) }
  | .vsstatus => some { h with vsstatus := w &&& sstatusMask }
  | .stimecmp => some { h with stimecmp := w, stip := h.stip && decide (w ≤ now) }
  | .vstimecmp => some { h with vstimecmp := w, vstip := h.vstip && decide (w ≤ now) }
  | .satp => some (if atpModeOk w then { h with satp := w } else h)
  | .vsatp => some (if atpModeOk w then { h with vsatp := w } else h)
  | .hgatp => some (if atpModeOk w then { h with hgatp := w } else h)
  | .eidelivery f => some (h.setFile f { h.file f with delivery := w.getLsbD 0 })
  | .eithreshold f => some (h.setFile f { h.file f with threshold := w.toNat % 256 })
  | .eip f k => some (h.setFile f { h.file f with eip := identPut (h.file f).eip k w })
  | .eie f k => some (h.setFile f { h.file f with eie := identPut (h.file f).eie k w })
  | .topei f => some (h.setFile f { h.file f with eip := (h.file f).eip.filter (· != (h.file f).top) })

/-- HART_TIMER_COMPARE (R374): each compare fires at the first tick at which time ≥ compare. The manual gives the compares no reset value:
they are 0, so that each fires at once after reset (DESIGN CHOICE, log 1). -/
def Hart.timers (h : Hart) (now : Word) : Hart :=
  { h with mtip := h.mtip || decide (h.mtimecmp ≤ now), stip := h.stip || decide (h.stimecmp ≤ now),
           vstip := h.vstip || decide (h.vstimecmp ≤ now) }
/-- TICKS of a gallery (R445), which its harts' time CSR reads (R374). -/
def State.hartTime (s : State) (agent : Nat) : Word := s.wtime + (s.gallery (agent / 16)).lag
def execHartTimerCompare (agent : Nat) (s : State) : Out := .next (s.setHartAt agent ((s.hartAt agent).timers (s.hartTime agent)))

/-! ### Management commands -/

/-- A management command of the hart's port, as a write of MW1 sends it (R383, R385, R415). OP 0x12 with MDEST all ones is a shoot-down.
Another OP with it has status 2, another MDEST that is no coordinate, or a reserved bit of word 0, status 1 (the manual names no status;
DESIGN CHOICE, log 22). REPAIR goes to the repair engine that holds the position, which may be absent (R451). -/
def State.sendCommand (s : State) (agent : Nat) (w1 : Word) : Out :=
  let p := s.cmdPort agent
  let op : BitVec 8 := p.mw0.setWidth 8
  let c : MgmtCmd := ⟨(p.mw0.extractLsb' 8 2).toFin, p.mw0.extractLsb' 10 12, p.mw0.extractLsb' 32 32, w1, agent⟩
  let p1 : CmdPort := { p with mw1 := w1 }
  if p.mdest = 0xFFFFFFFF ∧ op = 0x12 then execShoot agent w1 s
  else if p.mdest.extractLsb' 0 10 ≠ 0 ∨ p.mw0.extractLsb' 22 10 ≠ 0 then
    .next (s.setCmdPort agent { p1 with status := if p.mdest = 0xFFFFFFFF then 2 else 1, seq := c.seq, mval := 0 })
  else
    let s1 := s.setCmdPort agent { p1 with waiting := some (s.wtime, c.seq) }
    let d := coordOfDest (p.mdest.setWidth 32)
    let name := serviceName (agent / 16)
    .next (if op = 0x30 ∧ onGrid d then
        { s1 with net := s1.net ++ [⟨.command op c, 15, d, .tile d, gallerySite (agent / 16), name, none, 0, true, 0, [], 0, s1.nextSeq⟩],
                  nextSeq := s1.nextSeq + 1 }
      else s1.galleryTo (agent / 16) (.command op c) 15 d name)

/-! ### The control space (R376) -/

/-- A read of a service hart's register other than DISPATCH (R397). Of COMPLETE, which is written, no rule gives the read: 0, as R395 has it for
CMD (DESIGN CHOICE, log 72). -/
def SvcHart.reg (x : SvcHart) (o : Nat) : Option Word :=
  match o with
  | 0x08 => some 0
  | 0x10 => some (if x.gensel then 1 else 0)
  | 0x18 => some x.slice
  | _ => none

/-- A read of a management command port's register (R385). -/
def CmdPort.reg (p : CmdPort) (o : Nat) : Option Word :=
  match o with
  | 0x00 => some p.mdest
  | 0x08 => some p.mw0
  | 0x10 => some p.mw1
  | 0x18 => some (p.status.zeroExtend 64 <<< 32 ||| p.seq.zeroExtend 64)
  | 0x20 => some p.mval
  | _ => none

/-- What lies at an offset of a gallery's control space (R376), with the byte offset in its block. -/
inductive Control where
  | file (h i o : Nat)
  | queue (q o : Nat)
  | ring (t o : Nat)
  | svc (h o : Nat)
  | cmd (h o : Nat)
  | mtimecmp (h : Nat)
  | union (hall : Nat)
  | nothing
  deriving DecidableEq, Repr, Inhabited

def controlAt (o : Nat) : Control :=
  if o < 0x100000 then (if o % 0x10000 < 0x6000 then .file (o / 0x10000) (o % 0x10000 / 0x1000) (o % 0x1000) else .nothing)
  else if o < 0x100000 + 64 * 65 then .queue ((o - 0x100000) / 64) (o % 64)
  else if 0x110000 ≤ o ∧ o < 0x111000 then .ring ((o - 0x110000) / 0x100) (o % 0x100)
  else if 0x120000 ≤ o ∧ o < 0x120000 + 64 * 4 then .svc ((o - 0x120000) / 64) (o % 64)
  else if 0x130000 ≤ o ∧ o < 0x130000 + 64 * 16 then .cmd ((o - 0x130000) / 64) (o % 64)
  else if 0x140000 ≤ o ∧ o < 0x140000 + 8 * 16 then .mtimecmp ((o - 0x140000) / 8)
  else if 0x141000 ≤ o ∧ o < 0x141000 + 8 * 64 then .union ((o - 0x141000) / 8)
  else .nothing

/-- The hart's access returned a value, or raised a fault. -/
def State.hartDone (s : State) (agent : Nat) (w : Word) : State := s.setHartAt agent { s.hartAt agent with value := w, fault := false }
def State.hartFault (s : State) (agent : Nat) : State := s.setHartAt agent { s.hartAt agent with fault := true }

/-- A load of 8 bytes from gallery f's control space; none where the offset holds nothing. A DISPATCH read takes a slot (R397). -/
def State.controlLoad (s : State) (f o : Nat) : Option (State × Word) :=
  match controlAt o with
  | .file _ _ _ | .nothing => none
  | .queue q k => ((s.queue f q).reg k).map fun w => (s, w)
  | .ring t k => ((s.ring f t).reg k).map fun w => (s, w)
  | .svc h k =>
    if k = 0 then
      let s1 := s.dispatchRead f h
      some (s1, (s1.hart f h).dispatch)
    else ((s.hart f h).reg k).map fun w => (s, w)
  | .cmd h k => ((s.cmdPort (16 * f + h)).reg k).map fun w => (s, w)
  | .mtimecmp h => some (s, (s.hartAt (16 * f + h)).mtimecmp)
  | .union hall => some (s, (unitGet 0 s.hallFlags hall).zeroExtend 64)

/-- A store of 8 bytes by a hart to gallery f's control space; none where the offset holds nothing. -/
def State.controlStore (s : State) (f o agent : Nat) (w : Word) : Option State :=
  match controlAt o with
  | .file _ _ _ | .nothing => none
  | .queue q k => ((s.queue f q).reg k).map fun _ => s.queueWrite f q k w
  | .ring t k => ((s.ring f t).reg k).map fun _ => if k = 0x20 then s.ringCmd f t w else s.setRing f t ((s.ring f t).put k w)
  | .svc h k =>
    let x := s.hart f h
    if k = 0 then some s
    else if k = 8 then some (s.completeWrite f h agent w)
    else if k = 0x10 then some (s.setHart f h { x with gensel := w.getLsbD 0 })
    else if k = 0x18 then some (s.setHart f h { x with slice := w })
    else none
  | .cmd h k =>
    let p := s.cmdPort (16 * f + h)
    (p.reg k).map fun _ =>
      if k = 0 then s.setCmdPort (16 * f + h) { p with mdest := w &&& 0xFFFFFFFF }
      else if k = 8 then s.setCmdPort (16 * f + h) { p with mw0 := w }
      else s
  | .mtimecmp h =>
    let x := s.hartAt (16 * f + h)
    some (s.setHartAt (16 * f + h) { x with mtimecmp := w, mtip := x.mtip && decide (w ≤ s.hartTime (16 * f + h)) })
  | .union hall => some (s.clearUnion hall (w.setWidth 6))

/-- A store of MW1 by a hart: it waits while the port has a command to be answered; else it sends the command and waits for the answer
(R385). -/
def State.storeMw1 (s : State) (a agent : Nat) (w : Word) : Out :=
  if (s.cmdPort a).waiting.isSome then .next s
  else (s.setHartAt agent { s.hartAt agent with awaiting := some a, fault := false }).sendCommand a w

/-- A hart's access to gallery f's control space at offset o (R376, R377): an interrupt file takes aligned accesses of 4 bytes and shows 0;
the other blocks take aligned ones of 8. -/
def State.hartControl (s : State) (agent f o : Nat) : HartAccess → Out
  | .load n => .next (match controlAt o, n with
    | .file _ _ k, 4 => if k % 4 = 0 then s.hartDone agent 0 else s.hartFault agent
    | _, 8 => if o % 8 = 0 then (match s.controlLoad f o with
        | some (s1, w) => s1.hartDone agent w
        | none => s.hartFault agent) else s.hartFault agent
    | _, _ => s.hartFault agent)
  | .store n w => match controlAt o, n with
    | .file h i k, 4 =>
      .next (if k = 0 then (s.msi f h i (w.toNat % 2 ^ 32)).hartDone agent 0
        else if k % 4 = 0 then s.hartDone agent 0 else s.hartFault agent)
    | .cmd h 0x10, 8 => s.storeMw1 (16 * f + h) agent w
    | _, 8 => .next (if o % 8 = 0 then (match s.controlStore f o agent w with
        | some s1 => s1.hartDone agent 0
        | none => s.hartFault agent) else s.hartFault agent)
    | _, _ => .next (s.hartFault agent)
  | _ => .next (s.hartFault agent)

/-! ### Accesses of a hart -/

/-- Bytes and needs of a memory access; none for what is no memory access of a size that harts have. -/
def hartNeed : HartAccess → Option (Nat × HartNeed)
  | .load n => if n ∈ [1, 2, 4, 8] then some (n, ⟨true, false, false⟩) else none
  | .store n _ => if n ∈ [1, 2, 4, 8] then some (n, ⟨false, true, false⟩) else none
  | .amo _ n _ _ => if n ∈ [4, 8] then some (n, ⟨true, true, false⟩) else none
  | .fetch => some (4, ⟨false, false, true⟩)
  | _ => none

/-- The request of a hart's access to a tile or a device; none for a fetch. -/
def hartKind : HartAccess → Option ReqKind
  | .load n => some (.load n)
  | .store n v => some (.store n v)
  | .amo op n v c => some (.amo op n v c true)
  | _ => none

/-- The value of pieces of memory, the first least significant, and a store to them. -/
def State.loadPieces (s : State) : List (Nat × Nat) → Nat
  | [] => 0
  | (k, n) :: r => (s.load k n).toNat + 2 ^ (8 * n) * s.loadPieces r
def State.storePieces (s : State) (v : Nat) : List (Nat × Nat) → State
  | [] => s
  | (k, n) :: r =>
    let s1 := s.storeBytes k n (v % 2 ^ (8 * n)) n
    (match serves k with
      | .edge p => s1.notifyPort p k n
      | _ => s1).storePieces (v / 2 ^ (8 * n)) r

/-- A hart's access to edge memory or an expander, performed at once (R140, R157); an uncorrectable error is an access fault. -/
def State.hartMemory (s : State) (agent : Nat) (l : List (Nat × Nat)) (k : HartAccess) : State :=
  let bad := l.any fun x => s.damagedBytes x.1 x.2
  let marked := l.foldl (fun (s : State) x => s.markBad x.1 x.2) s
  match k, l with
  | .store _ v, _ => (s.storePieces v.toNat l).hartDone agent 0
  | .amo op n v c, [(a, _)] =>
    if a % n ≠ 0 then s.hartFault agent
    else match s.amoAt a op n v c with
      | none => marked.hartFault agent
      | some (m, w, _) => (s.storePieces w.toNat l).hartDone agent m
  | .amo _ _ _ _, _ => s.hartFault agent
  | _, _ => if bad then marked.hartFault agent else s.hartDone agent (BitVec.ofNat 64 (s.loadPieces l))

/-- A hart asks a tile or a device: its store joins those not acknowledged (R162), a load or atomic is waited for. -/
def State.hartAsk (s : State) (agent : Nat) (kind : ReqKind) (off : Word) (fwd : Option (Nat × Bool)) (f : State → Req → State) : State :=
  let h := { s.hartAt agent with fault := false }
  let id := s.nextId
  let h1 := match kind with
    | .store _ _ => { h with stores := h.stores ++ [id] }
    | _ => { h with load := some id }
  f { s.setHartAt agent h1 with nextId := id + 1 } ⟨⟨gallerySite (agent / 16), 0, id, some agent⟩, kind, 0, off, 0, true, fwd⟩

/-- Atomics that the tile window takes (R375). -/
def ReqKind.windowOk : ReqKind → Bool
  | .amo op _ _ _ _ => op == .swap || op == .add || op == .or
  | _ => true

/-- A hart's access at a physical address outside memory: the tile window, a device, the control space, or nothing (R375). -/
def State.hartIo (s : State) (agent pa n : Nat) (k : HartAccess) : Out :=
  let site := gallerySite (agent / 16)
  if 0xC00000000000 ≤ pa ∧ pa < 0xC00050000000 then s.hartControl agent ((pa - 0xC00000000000) / 2 ^ 24) (pa % 2 ^ 24) k
  else match hartKind k with
    | none => .next (s.hartFault agent)
    | some kind =>
      if pa % n ≠ 0 then .next (s.hartFault agent)
      else if 0x800000000000 ≤ pa ∧ pa < 0x840000000000 then
        let o : Word := BitVec.ofNat 64 (pa - 0x800000000000)
        if !kind.windowOk then .next (s.hartFault agent)
        else .next (s.hartAsk agent kind o none fun s r =>
          if isCompute (offCoord o) then s.emitUnit site 8 (.tile (offCoord o)) (.req r) 0 true
          else s.discard ⟨.req r, 8, site, .tile (offCoord o), site, 0, none, 0, true, 0, [], 0, 0⟩ Cause.hallViolation)
      else match serves pa with
        | .pcie c | .ecam c => .next (s.hartAsk agent kind (BitVec.ofNat 64 pa) (some (pa, false)) fun s r => s.servePort (96 + c) r)
        | _ => .next (s.hartFault agent)

/-- The hart cannot go on yet: a load or atomic is outstanding, a FENCE waits for stores (R162), or a command for its answer (R385). -/
def State.hartBusy (s : State) (h : Hart) : Bool :=
  h.load.isSome || (h.fencing && !h.stores.isEmpty) || (match h.awaiting with
    | some a => (s.cmdPort a).waiting.isSome
    | none => false)

/-- A hart's memory access at an address as its program gives it: translated (R417), then made where it goes (R375). One made over the debug
transport is not translated. -/
def State.hartAccess (s : State) (agent a : Nat) (debug : Bool) (k : HartAccess) : Out :=
  match hartNeed k with
  | none => .next (s.hartFault agent)
  | some (n, need) =>
    let h := s.hartAt agent
    match (pagePieces a n).mapM fun x => (s.hartAddr h (if debug then .m else h.accessMode need) need x.1).map fun y => ((y.1, x.2), y.2) with
    | none => .next (s.hartFault agent)
    | some l =>
      let es := (l.flatMap (·.2)).filter fun e => !h.gtlb.contains e
      let s1 := s.setHartAt agent { h with gtlb := h.gtlb ++ es }
      let ps := l.map (·.1)
      if ps.all fun x => inMemory x.1 x.2 then .next (s1.hartMemory agent ps k)
      else match ps with
        | [(pa, _)] => s1.hartIo agent pa n k
        | _ => .next (s1.hartFault agent)

/-- What a hart does that the wafer sees; over the debug transport with the rights of M-mode. -/
def hartAct (agent addr : Nat) (debug : Bool) (k : HartAccess) (s : State) : Out :=
  let h := { s.hartAt agent with fencing := false, awaiting := none }
  let mode := if debug then .m else h.mode
  let s1 := s.setHartAt agent h
  match k with
  | .fence => .next (s.setHartAt agent { h with fencing := true })
  | .hfence vmid => .next (if mode = .m ∨ mode = .hs then
      s.setHartAt agent { h with gtlb := h.gtlb.filter fun e => decide (vmid ≠ 0) && e.vmid != vmid, fault := false }
    else s1.hartFault agent)
  | .csrRead r => .next (if csrAllowed mode r then s1.hartDone agent (h.csr agent (s.hartTime agent) (csrActual mode r))
    else s1.hartFault agent)
  | .csrWrite r w => .next (match csrAllowed mode r, h.putCsr (s.hartTime agent) (csrActual mode r) w with
      | true, some h1 => s.setHartAt agent { h1 with fault := false }
      | _, _ => s1.hartFault agent)
  | .enter x => .next (s.setHartAt agent { h with mode := x })
  | _ => s1.hartAccess agent addr debug k

/-- TILE_WINDOW_ACCESS (R375): an access, or another act that the wafer sees, of a gallery hart; one that cannot go on yet waits. The debug
transport does nothing until it is enabled (R472). -/
def execTileWindowAccess (agent addr : Nat) (k : HartAccess) (s : State) : Out :=
  if s.hartBusy (s.hartAt agent) then .next s
  else match k with
    | .debug x => if s.boot.jtag then hartAct agent addr true x s else .next s
    | _ => hartAct agent addr false k s

end Sys2Proof.Machine
end

