-- ==== Sys2Proof/Machine/Clock.lean ====
section
/-! DEFINITION. Clocks and wafer time (R439 to R446) and the pulse windows (R447, R448), which fail tiles; repair: stairs and shift
waves (R449 to R453), reports, names and detours of absent positions (R454, R455), the field log (R462), and kite lines (R58, R61, R456). -/

namespace Sys2Proof.Machine

/-! ### Markers and the governor -/

def Field.mset (x : Field) : Nat := (x.fclk.extractLsb' 0 5).toNat
def Field.mcur (x : Field) : Nat := (x.fclk.extractLsb' 8 5).toNat
def Field.str (x : Field) : Bool := x.fclk.getLsbD 16
def Field.thr (x : Field) : Bool := x.fclk.getLsbD 17
def Field.tmax (x : Field) : Nat := (x.fgov.extractLsb' 32 8).toNat

/-- FCLK with a new MCUR and STR; THR is MCUR < MSET (R440). -/
def Field.setClock (x : Field) (mcur : Nat) (str : Bool) : Field :=
  { x with fclk := BitVec.ofNat 64 (x.mset + 256 * mcur) ||| (if str then 0x10000 else 0) ||| (if mcur < x.mset then 0x20000 else 0) }

/-- φ as a marker finds it, when the frame's last cycle has run (R445). -/
def Field.endPhase (x : Field) : Nat := x.phase + x.remaining * (65536 / x.perFrame)
/-- The frame that a marker ends has run its cycles, those in which the model issued nothing among them (R439). -/
def Field.endFrame (x : Field) : Field :=
  { x with lcyc := x.lcyc + BitVec.ofNat 64 x.remaining, phase := 0, cyclesRun := x.cyclesRun + x.remaining }

/-- What the field's sensors read at the marker. -/
def Field.sense (x : Field) (r : Option Reading) : Field :=
  match r with
  | some r => { x with fgov := (x.fgov &&& 0xFFFFFFFF) ||| (r.tmax.zeroExtend 64 <<< 32), power := r.power }
  | none => x

/-- A sensor is above TLIM or a block's estimate above PCAP; every one is at or below the release bounds (R441). -/
def Field.hot (x : Field) : Bool := decide ((x.fgov.extractLsb' 0 8).toNat < x.tmax ∨ (x.fgov.extractLsb' 16 16).toNat < x.power)
def Field.cool (x : Field) : Bool := decide (x.tmax ≤ (x.fgov.extractLsb' 8 8).toNat ∧ 8 * x.power ≤ 7 * (x.fgov.extractLsb' 16 16).toNat)

/-- The governor at a marker, but for the rise of CLOCK_RAISE (R441): MCUR falls for heat or power at the first marker of the condition
and every 16 ticks while it holds, and towards a lower MSET; a stretch ends 64 cycles after the last droop. -/
def Field.govern (x : Field) : Field :=
  let down := (x.hot && x.hotTicks % 16 == 0 && decide (12 < x.mcur)) || decide (x.mset < x.mcur)
  let y := x.setClock (if down then x.mcur - 1 else x.mcur) (x.str && decide ((x.lcyc - x.stretchFrom).toNat < 64))
  { y with hotTicks := if x.hot then x.hotTicks + 1 else 0, coolTicks := if decide (y.mcur < y.mset) && x.cool then x.coolTicks + 1 else 0 }

/-- SLOW over the pulse interval that a marker with TICKS mod 2^16 = 0 ends; the window of its pulse opens (R446, R447). -/
def Field.closeInterval (x : Field) (ticks : Word) : Field :=
  if ticks.toNat % 65536 = 0 then
    let slow := min 65535 (65536 * x.mset * 4096 / x.cyclesRun)
    { x with fslow := (x.fslow &&& 0xFFFFFFFFFFFF0000) ||| BitVec.ofNat 64 slow, cyclesRun := 0, slows := x.slows ++ [slow] }
  else x

def Field.marker (x : Field) (ticks : Word) (r : Option Reading) : Field := ((x.endFrame.closeInterval ticks).sense r).govern

/-- The phase says that a marker is missing (R445). -/
def overdue (phase : Nat) (extra : Int) : Bool := decide ((5 * 16384 : Int) ≤ phase + extra)
/-- A tile, or a gallery, counts the tick of a missing marker by itself (R445). -/
def Tile.madeUp (t : Tile) : Tile := { t with lag := t.lag + 1, extra := t.extra - 65536 }
def Gallery.madeUp (g : Gallery) : Gallery := { g with lag := g.lag + 1, extra := g.extra - 65536 }
/-- MLOST after n ticks that were counted so (R440, R445). -/
def Field.countLost (x : Field) (n : Nat) : Field :=
  { x with fslow := (x.fslow &&& 0x0000FFFFFFFFFFFF) ||| BitVec.ofNat 64 (min 65535 ((x.fslow.extractLsb' 48 16).toNat + n) * 2 ^ 48) }

/-- A tile, or a gallery, at a marker that it receives or misses, which finds phase φ in the field: a tick that is overdue is counted first
(R445). -/
def Tile.marked (t : Tile) (missed : Bool) (phase : Nat) : Tile :=
  let u := if overdue phase t.extra then t.madeUp else t
  if missed then { u with lag := u.lag - 1, extra := u.extra + phase } else { u with extra := 0 }
def Gallery.marked (g : Gallery) (missed : Bool) (phase : Nat) : Gallery :=
  let u := if overdue phase g.extra then g.madeUp else g
  if missed then { u with lag := u.lag - 1, extra := u.extra + phase } else { u with extra := 0 }

/-- MCUR is to rise at this marker (R441): the 4,096 cool ticks are those up to the marker before it. -/
def Field.raiseDue (x : Field) : Bool := decide (4096 < x.coolTicks ∧ x.mcur < x.mset) && x.phase == 0

/-- Those that miss a marker are listed. -/
def State.listMissed (s : State) (missed : List Coord) : State :=
  missed.foldl (fun (s : State) c => if isGallery c then s.setGallery (fieldOf c) (s.gallery (fieldOf c)) else s.mapTileAt c id) s

/-- TICKS of every tile and gallery at a marker, and MLOST of the fields (R445). -/
def State.countTick (s : State) (missed : List Coord) : State :=
  let phase (f : Nat) : Nat := (s.field f).endPhase
  let late (f : Nat) : Nat := (s.listed.filter fun x => fieldOf x.1 == f && overdue (phase f) x.2.extra).length +
    (s.galleries.filter fun x => x.1 == f && overdue (phase f) x.2.extra).length
  let tile (c : Coord) (t : Tile) : Tile := t.marked (missed.contains c) (phase (fieldOf c))
  { s with tile := tile s.foc s.tile, tiles := s.tiles.map (fun (c, t) => (c, tile c t)),
           galleries := s.galleries.map (fun (f, g) => (f, g.marked (missed.any fun c => isGallery c && fieldOf c == f) (phase f))),
           fields := s.fields.map (fun (f, x) => (f, if late f = 0 then x else x.countLost (late f))), wtime := s.wtime + 1 }

/-- FRAME_MARKER (R445): TICKS advances everywhere but in the tiles that miss the marker; the governors act (R441). `missed` names a gallery
by any of its sites. What a marker brings about at once, a rise of MCUR (R441) or a shutdown (R473), the step puts on the agenda. -/
def execFrameMarker (missed : List Coord) (readings : List Reading) (s : State) : Out :=
  let s1 := (s.listMissed missed).countTick missed
  .next ((List.range Config.fields).foldl (fun (s : State) f =>
    s.setField f ((s.field f).marker s.wtime (readings.find? fun r => r.field == f))) s1)

/-- MISSING_MARKER (R445) at the tile in focus, or at the gallery whose site it is: φ has reached 5·2^14. -/
def execMissingMarker (s : State) : Out :=
  let f := fieldOf s.foc
  let x := s.field f
  let g := s.gallery f
  if isGallery s.foc then
    .next (if overdue x.phase g.extra then (s.setGallery f g.madeUp).setField f (x.countLost 1) else s)
  else .next (if overdue x.phase s.tile.extra then (s.mapTile (·.madeUp)).setField f (x.countLost 1) else s)

/-- CLOCK_RAISE (R441) at a marker: MCUR rises by one and the count of cool ticks restarts with the marker's own. -/
def execClockRaise (f : Nat) (s : State) : Out :=
  let x := s.field f
  .next (if x.raiseDue then s.setField f { x.setClock (x.mcur + 1) x.str with coolTicks := 1 } else s)

/-- STRETCH (R441): a droop detector fires. -/
def execStretch (f : Nat) (s : State) : Out :=
  let x := s.field f
  let n := min (2 ^ 32 - 1) ((x.fslow.extractLsb' 16 32).toNat + 1)
  let y := if x.str then x else { x with fslow := (x.fslow &&& 0xFFFF00000000FFFF) ||| BitVec.ofNat 64 (n * 65536) }
  .next (s.setField f { y.setClock x.mcur true with stretchFrom := x.lcyc })

/-- DELAY_LINE_REMEASURE (R444): crossings found skewed (at a multiple of 2^20 ticks) have a correction pending until their delay line
is reset, at a marker. -/
def execDelayLineRemeasure (skewed : List (Coord × Bool)) (s : State) : Out :=
  .next (skewed.foldl (fun (s : State) (c, pend) =>
    let f := fieldOf c
    let x := s.field f
    if pend then (if s.wtime.toNat % 2 ^ 20 = 0 ∧ c ∉ x.corrections then s.setField f { x with corrections := x.corrections ++ [c] } else s)
    else if x.phase = 0 then s.setField f { x with corrections := x.corrections.filter (· != c) } else s) s)

/-! ### Stairs -/

/-- Stair of a position: 128·band + column (R449, R450). -/
def stairOf (c : Coord) : Nat := 128 * (c.y % 112 / 28) + c.x % 128
/-- Physical place of the position's tile in its stair (R13, R449). -/
def placeOf (c : Coord) (t : Tile) : Nat := t.prow - 29 * (c.y % 112 / 28)
/-- Logical place of a position. -/
def logicalPlace (c : Coord) : Nat := c.y % 112 % 28
/-- Compute positions of stair st of field f, by logical place. -/
def stairCoords (f st : Nat) : List Coord :=
  ((List.range 28).map fun i => (⟨128 * (f % 8) + st % 128, 112 * (f / 8) + 28 * (st / 128) + i⟩ : Coord)).filter isCompute

/-- STAIRST (R450) from where the tiles lie; a position that a wave is replacing still counts as placed. -/
def State.stairWord (s : State) (f st state fplace : Nat) (lost : Option Coord) : Word :=
  let cs := (stairCoords f st).map fun c => (c, s.tileAt c)
  let gone (x : Coord × Tile) : Bool := x.2.absent && some x.1 != lost
  BitVec.ofNat 64 (state * 2 ^ 62 + fplace * 2 ^ 57 + ((cs.filter gone).map fun x => 2 ^ (29 + logicalPlace x.1)).sum +
    ((cs.filter fun x => !gone x).map fun x => 2 ^ placeOf x.1 x.2).sum)
def stState (w : Word) : Nat := (w.extractLsb' 62 2).toNat
def stFplace (w : Word) : Nat := (w.extractLsb' 57 5).toNat

def State.setStair (s : State) (f st state fplace : Nat) (lost : Option Coord) : State :=
  s.setField f ((s.field f).setStair st (s.stairWord f st state fplace lost))

/-! ### Reports, names and the field log -/

/-- A repair report (R454): to the hall's event queue by its steward's trap receiver, and a copy to queue 64 of the field's gallery. -/
def State.repairReport (s : State) (c : Coord) (cause : BitVec 8) (op0 op1 : Word) : State :=
  let t := s.tileAt c
  let ws := recordWords t.sys t.hid 0 1 0 ⟨cause, 0, 0, op0, op1, 0, 0⟩ (coordReg c t.prow) s.wtime
  { s with unitReports := s.unitReports ++ (if t.sys then [] else [(s.tileSteward c, ⟨ws, none⟩)]) ++ [(fieldOf c, ⟨ws, some 64⟩)] }
def positionWord (c : Coord) : Word := BitVec.ofNat 64 (c.y * 2 ^ 11 + c.x)

/-- A field-log record (R462). -/
def logRecord (f st place kind : Nat) (now : Word) : Word :=
  BitVec.ofNat 64 (f + (st / 128) * 2 ^ 7 + (st % 128) * 2 ^ 9 + place * 2 ^ 16 + kind * 2 ^ 21 + (now.toNat % 2 ^ 40) * 2 ^ 24)
/-- Fields of a record, and the position of one of kind 1 or 2. -/
def logField (r : Word) : Nat := (r.extractLsb' 0 7).toNat
def logStair (r : Word) : Nat := 128 * (r.extractLsb' 7 2).toNat + (r.extractLsb' 9 7).toNat
def logPlace (r : Word) : Nat := (r.extractLsb' 16 5).toNat
def logKind (r : Word) : Nat := (r.extractLsb' 21 3).toNat
def logCoord (r : Word) : Coord :=
  ⟨128 * (logField r % 8) + logStair r % 128, 112 * (logField r / 8) + 28 * (logStair r / 128) + logPlace r⟩
/-- Where the two copies of the field log lie in the flash (R457). -/
def logBases : List Nat := [0x18000000, 0x18040000]
/-- A copy of the log (R462): its GENERATION, and its records where it is valid. -/
def Boot.logGen (b : Boot) (k : Nat) : Nat := b.flashNat (k + 4) 4
def Boot.logCopy (b : Boot) (k : Nat) : Option (List Word) :=
  let n := b.flashNat (k + 8) 4
  if b.flashNat k 4 == 0x4C464C5A && decide (n ≤ 32764) && b.flashNat (k + 12) 4 == 0 &&
      (sha512 (b.flashBytes (k + 32) (8 * n))).take 16 == b.flashBytes (k + 16) 16 then
    some ((List.range n).map fun i => BitVec.ofNat 64 (b.flashNat (k + 32 + 8 * i) 8))
  else none
/-- The log in use: that of the valid copy with the greater GENERATION, the first with equal ones (R462). -/
def Boot.logInUse (b : Boot) : Option (Nat × List Word) :=
  logBases.foldl (fun o k => match o, b.logCopy k with
    | some (g, l), some m => if g < b.logGen k then some (b.logGen k, m) else some (g, l)
    | none, some m => some (b.logGen k, m)
    | o, none => o) none
/-- n little-endian bytes. -/
def leBytes (n v : Nat) : Bytes := (beBytes n v).reverse
/-- A copy as it is written (R462). -/
def logImage (gen : Nat) (rs : List Word) : Bytes :=
  let body := rs.flatMap fun r => leBytes 8 r.toNat
  leBytes 4 0x4C464C5A ++ leBytes 4 gen ++ leBytes 4 rs.length ++ leBytes 4 0 ++ (sha512 body).take 16 ++ body
/-- Both copies are written with the next GENERATION, the older one first (R462). -/
def Boot.writeLog (b : Boot) : Boot :=
  let gen := ((b.logInUse.map (·.1)).getD 0 + 1) % 2 ^ 32
  let older (k j : Nat) : Bool := (b.logCopy k).isNone || ((b.logCopy j).isSome && decide (b.logGen k ≤ b.logGen j))
  let order := if older 0x18000000 0x18040000 then logBases else logBases.reverse
  order.foldl (fun (b : Boot) k => b.flashWrite k (logImage gen b.flog)) b
/-- The records are added to the log, and both copies are written (R462). -/
def State.logWrite (s : State) (rs : List Word) : State :=
  { s with boot := ({ s.boot with flog := (s.boot.flog ++ rs).take 32764 } : Boot).writeLog }

/-- A repair in a hall asks its steward for new kite lines (R61). -/
def State.markStale (s : State) (c : Coord) : State :=
  let t := s.tileAt c
  if t.sys then s else s.setHall t.hid.toNat { s.hallOf t.hid.toNat with stale := true }

/-! ### Detours (R455) -/

def offset (c : Coord) (dx dy : Int) : Option Coord :=
  let x := (c.x : Int) + dx
  let y := (c.y : Int) + dy
  if 0 ≤ x ∧ x < Config.gridW ∧ 0 ≤ y ∧ y < Config.gridH then some ⟨x.toNat, y.toNat⟩ else none
/-- A detour along the row (or column) on one side serves: it is on the grid and its sites beside the position carry traffic. -/
def State.sideOk (s : State) (c : Coord) (row : Bool) (d : Int) : Bool :=
  (offset c (if row then 0 else d) (if row then d else 0)).isSome &&
    [-1, 0, 1].all fun e => match offset c (if row then e else d) (if row then d else e) with
      | some p => isCompute p && !(s.tileAt p).absent
      | none => true

/-- The entries of R455 for position c, by router in the order listed, with the sides on which its rows and columns pass it: south and north
of a row, east of a column, and for the responses east and west. -/
def detourRows (c : Coord) (south north east eastR westR : Int) : List (Coord × Word) :=
  let x := c.x
  let y := c.y
  let xm := Config.gridW - 1
  let ym := Config.gridH - 1
  let pv (d : Int) : Nat := if d = 1 then 2 else 0
  let ph (d : Int) : Nat := if d = 1 then 1 else 3
  let at_ (dx dy : Int) (es : List (Bool × Nat × Nat × Nat × Nat × Nat)) : List (Coord × Word) :=
    match offset c dx dy with
    | some r => (es.filter fun (_, _, x0, x1, y0, y1) => decide (x0 ≤ x1 ∧ y0 ≤ y1)).map
        fun (rs, p, x0, x1, y0, y1) => (r, rtexWord rs p x0 x1 y0 y1)
    | none => []
  -- requests
  at_ (-1) 0 [(false, 7, x, x, y, y), (false, pv south, x, xm, y + 1, ym), (false, pv north, x, xm, 0, y)] ++
  at_ 1 0 [(false, 7, x, x, y, y), (false, pv south, 0, x, y + 1, ym), (false, pv north, 0, x, 0, y)] ++
  at_ 0 (-1) [(false, ph east, x, x, y + 1, ym)] ++ at_ east (-1) [(false, 2, x, x, y + 1, ym)] ++
  (if y = 0 then [] else at_ 0 1 [(false, ph east, x, x, 0, y - 1)] ++ at_ east 1 [(false, 0, x, x, 0, y - 1)]) ++
  -- responses: x and y, east and south, west and north exchanged
  at_ 0 (-1) [(true, 7, x, x, y, y), (true, ph eastR, x + 1, xm, y, ym), (true, ph westR, 0, x, y, ym)] ++
  at_ 0 1 [(true, 7, x, x, y, y), (true, ph eastR, x + 1, xm, 0, y), (true, ph westR, 0, x, 0, y)] ++
  at_ (-1) 0 [(true, pv south, x + 1, xm, y, y)] ++ at_ (-1) south [(true, 1, x + 1, xm, y, y)] ++
  (if x = 0 then [] else at_ 1 0 [(true, pv south, 0, x - 1, y, y)] ++ at_ 1 south [(true, 3, 0, x - 1, y, y)])

/-- The entries of R455 for absent position c as things stand; none when neither side serves. -/
def State.detours (s : State) (c : Coord) : Option (List (Coord × Word)) :=
  let pick (row : Bool) (d : Int) : Option Int := if s.sideOk c row d then some d else if s.sideOk c row (-d) then some (-d) else none
  match pick true 1, pick true (-1), pick false 1, pick false (-1) with
  | some south, some north, some east, some west =>
    some ((detourRows c south north east east west).filter fun x => isCompute x.1 && !(s.tileAt x.1).absent)
  | _, _, _, _ => none

/-- The positions at the given offsets from c. -/
def around (c : Coord) (l : List (Int × Int)) : List Coord := l.filterMap fun d => offset c d.1 d.2
/-- Offsets of the positions beside a router, nearest first. -/
def beside : List (Int × Int) := [(0, -1), (1, 0), (0, 1), (-1, 0), (-1, -1), (1, -1), (-1, 1), (1, 1)]
/-- Offsets within n of a position. -/
def within (n : Nat) : List (Int × Int) :=
  let run : List Int := (List.range (2 * n + 1)).map fun i => (i : Int) - n
  run.flatMap fun dy => run.map fun dx => (dx, dy)

/-- Positions in the blocks that have been withdrawn, as the log names them; the block of c is one of them. -/
def State.withdrawnAt (s : State) : List Coord := (s.boot.flog.filter fun r => logKind r == 2).map logCoord
def State.blockGone (s : State) (c : Coord) : Bool := s.withdrawnAt.any fun q => decide (q.x / 16 = c.x / 16 ∧ q.y / 16 = c.y / 16)
/-- An absent position that is avoided by detours. -/
def State.avoided (s : State) (c : Coord) : Bool := isCompute c && (s.tileAt c).absent && !s.blockGone c

/-- The entries that discard packets for the block of position c (R455). -/
def heldEntries (c : Coord) : List Word :=
  let x := c.x / 16 * 16
  let y := c.y / 16 * 16
  [rtexWord false 7 x (x + 15) y (y + 15), rtexWord true 7 x (x + 15) y (y + 15)]
/-- The entries of the withdrawn blocks in or beside which router r lies. -/
def State.heldAt (s : State) (r : Coord) : List Word :=
  let near (q : Coord) : Bool :=
    decide (q.x / 16 * 16 ≤ r.x + 1 ∧ r.x ≤ q.x / 16 * 16 + 16 ∧ q.y / 16 * 16 ≤ r.y + 1 ∧ r.y ≤ q.y / 16 * 16 + 16)
  ((s.withdrawnAt.filter near).flatMap heldEntries).eraseDups
/-- Router r's detours of the absent positions beside it but for those to skip, the nearer positions first. -/
def State.detoursAt (s : State) (skip : List Coord) (r : Coord) : List Word :=
  ((around r beside).filter fun q => s.avoided q && !skip.contains q).flatMap fun q =>
    (((s.detours q).getD []).filter (·.1 == r)).map (·.2)
/-- Router r's entries that are no detour and no withdrawn block's. -/
def State.otherEntries (s : State) (r : Coord) : List Word :=
  let shapes := ((around r beside).filter fun q => (s.tileAt q).absent).flatMap fun q => detourRows q 1 1 1 1 1 ++ detourRows q (-1) (-1) (-1) (-1) (-1)
  (s.tileAt r).pr.rtex.toList.filter fun e => e.getLsbD 63 && !shapes.contains (r, e) && !(s.heldAt r).contains e
/-- The table of router r as it is to be written. -/
def State.tableOf (s : State) (skip : List Coord) (r : Coord) : List Word := s.heldAt r ++ s.detoursAt skip r ++ s.otherEntries r
/-- Writes the tables of routers. -/
def State.writeTables (s : State) (skip rs : List Coord) : State :=
  rs.foldl (fun (x : State) r => x.mapTileAt r fun t => { t with pr := { t.pr with rtex := rtexOf (s.tableOf skip r) } }) s

/-- The block that holds c, which has been withdrawn, is held (R455): its tiles are parked, and packets to them are discarded in it and just
outside it. The answer names a router of each other block whose table this would overfill, and whose block is therefore withdrawn too. -/
def State.holdBlock (s : State) (c : Coord) : State × List Coord :=
  let corner : Coord := ⟨c.x / 16 * 16, c.y / 16 * 16⟩
  let sites := (((List.range 18).flatMap fun (i : Nat) => (List.range 18).map fun (j : Nat) => ((i : Int) - 1, (j : Int) - 1)).filterMap fun d =>
    offset corner d.1 d.2).filter isCompute
  let s1 := s.writeTables [] sites
  let live := sites.filter fun r => decide (blockOf r = blockOf c) && !(s.tileAt r).absent && (s.tileAt r).pstate == 0
  (live.foldl (fun (s : State) r => s.startPark r false) s1,
    sites.filter fun r => decide (16 < (s.tableOf [] r).length) && !s.blockGone r)

/-- A withdrawn block is reported and logged (R454, R455, R462). -/
def State.withdrawn (s : State) (c : Coord) : State :=
  (s.repairReport c Cause.blockLost 0 (BitVec.ofNat 64 (c.y / 16 * 2 ^ 11 + c.x / 16))).logWrite
    [logRecord (fieldOf c) (stairOf c) (logicalPlace c) 2 s.wtime]

/-- Withdraws the blocks of positions in turn, with those that this calls for; `fuel` bounds their number. -/
def State.withdraw : Nat → List Coord → State → State
  | 0, _, s => s
  | _, [], s => s
  | fuel + 1, c :: rest, s =>
    if s.blockGone c then State.withdraw fuel rest s
    else
      let (s1, full) := (s.withdrawn c).holdBlock c
      State.withdraw fuel (rest ++ full) s1

/-- Position c is avoided (R455): the detours of it and of the absent positions beside it are written anew. The block of a position that
no side serves is withdrawn, and that of c where a router would need more than 16 entries. -/
def State.avoid (s : State) (c : Coord) : State :=
  let near := (around c (within 1)).filter s.avoided
  let stuck := near.filter fun q => (s.detours q).isNone
  let routers := (around c (within 2)).filter fun r => isCompute r && !(s.tileAt r).absent
  let fits (skip : List Coord) : Bool := routers.all fun r => decide ((s.tableOf skip r).length ≤ 16)
  let skip := if fits stuck then stuck else if fits (c :: stuck) then c :: stuck else near
  (s.writeTables skip routers).withdraw 64 skip

/-! ### Failures -/

/-- Parties whose requests a tile has taken and not answered. -/
def Tile.waiters (t : Tile) : List Who :=
  t.arms.map (·.who) ++ (t.wq.flatMap fun e => e.ops.filterMap fun o => match o with
    | .amo _ _ _ _ _ _ w _ => some w
    | .leaf _ _ _ w => some w
    | _ => none)

/-- A REPAIR on its way to the repair engine of the position's field (R451). -/
def Flight.isRepair (f : Flight) : Bool :=
  match f.msg with
  | .command op _ => op == 0x30
  | _ => false

/-- Position c stops (R452): what has reached it is discarded as at its neighbours, its waiting requests are refused, and the WAITVs that
it monitors end (R222), as do the gangs of which it is the origin (R305). -/
def State.lose (s : State) (c : Coord) : State :=
  let s0 := (s.gangLost c).dropTileMonitors c
  let (mine, rest) := s0.net.partition fun f => f.pos == c && f.dest == .tile c && !f.isRepair
  let s1 := mine.foldl (fun (s : State) f => s.discard f Cause.entryInvalid) { s0 with net := rest }
  let s3 := (s.tileAt c).waiters.foldl (fun (s : State) w => if w.src = c ∧ w.agent.isNone then s else s.answer c 9 w (.refuse Cause.sramBound) 0) s1
  s3.mapTileAt c fun t =>
    { t with absent := true, dispatchOn := false, arms := [], wq := [], ops := [], copies := [], inj := [], seeks := [], tokenWaits := [],
             reports := [], parkCmd := none, hallop := none, threads := t.threads.map fun h => { h with state := .free, wait := .none, record := none } }

/-- Position c is gone for good (R132, R451, R454, R455). -/
def State.goAbsent (s : State) (c : Coord) : State :=
  let name : BitVec 32 := (s.tileAt c).r.name.setWidth 32
  let s1 := if (s.tileAt c).absent then s else s.lose c
  let s2 := ((s1.forgetName name).repairReport c Cause.tileAbsent (name.zeroExtend 64) (positionWord c)).markStale c
  (s2.avoid c).logWrite [logRecord (fieldOf c) (stairOf c) (logicalPlace c) 1 s.wtime]

/-- Answers a REPAIR, if one asked. -/
def State.repairAnswer (s : State) (cmd : Option MgmtCmd) : State :=
  match cmd with
  | some c => s.answerFrom s.foc c 0 0
  | none => s

def State.setWaves (s : State) (f : Nat) (ws : List Wave) : State := s.setField f { s.field f with waves := ws }

/-- A fresh tile for the lost position (R452): reset, with what the operating system had written there. -/
def Tile.fresh (t : Tile) (c : Coord) (prow : Nat) : Tile :=
  let r := Tile.reset c
  { r with prow := prow, r := { r.r with name := t.r.name, hall := t.r.hall },
           pr := { r.pr with hallmap := t.pr.hallmap, trapdest := t.pr.trapdest, spaces := t.pr.spaces, balloon := t.pr.balloon, toke := t.pr.toke } }

/-- Clears a tile's storage: every SRAM byte and every descriptor; `fill` is what the instruction SRAM holds then. -/
def State.clearStorage (s : State) (c : Coord) (fill : BitVec 8) : State :=
  let b := tileBase c
  let inside (k : Nat) : Bool := decide (b ≤ k ∧ k < b + 2 ^ 20)
  let isram := if fill = 0xFF then [] else (List.range 0x4000).map fun k => (b + 0x10000 + k, fill)
  { s with mem := s.mem.filter (fun x => decide (x.1 < b)) ++ isram ++ s.mem.filter (fun x => decide (b + 2 ^ 20 ≤ x.1)),
           desc := s.desc.filter fun x => !inside (64 * x.1), bad := s.bad.filter fun w => !inside (8 * w),
           soft := s.soft.filter fun w => !inside (8 * w) }

/-- The route exceptions of a fresh tile's router as they are written again (R121, R452): those round a gallery, the detours of the absent
positions beside it, and the entries of withdrawn blocks. -/
def State.rewriteRtex (s : State) (c : Coord) : State :=
  let s1 := s.mapTileAt c fun t => { t with pr := { t.pr with rtex := (s.blankTile c).pr.rtex } }
  let s2 := s1.writeTables [] [c]
  if s.blockGone c then s2.startPark c false else s2

/-- The wave is over (R452): a fresh tile stands for the lost position. -/
def State.endWave (s : State) (f : Nat) (w : Wave) : State :=
  let s1 := ((s.clearStorage w.lost 0).mapTileAt w.lost fun t => t.fresh w.lost (29 * (w.stair / 128) + w.failed + 1)).rewriteRtex w.lost
  let s2 := (s1.setWaves f ((s1.field f).waves.filter (·.stair != w.stair))).setStair f w.stair 2 w.failed none
  let s3 := ((s2.repairReport w.lost Cause.tileLost ((s2.tileAt w.lost).r.name &&& 0xFFFFFFFF) (positionWord w.lost)).markStale w.lost).logWrite
    [logRecord f w.stair w.failed 0 s.wtime]
  s3.repairAnswer w.cmd

/-- A shift wave begins at position c (R452). -/
def State.startWave (s : State) (f : Nat) (c : Coord) (cmd : Option MgmtCmd) : State :=
  let st := stairOf c
  let place := placeOf c (s.tileAt c)
  let below := (stairCoords f st).filter fun k => decide (place < placeOf k (s.tileAt k))
  let held := below.filter fun k => (s.tileAt k).pstate == 0
  let s1 := held.foldl (fun (s : State) k => s.startPark k false) (s.lose c)
  let w : Wave := ⟨st, place, 27, c, held, cmd⟩
  let s2 := (s1.setWaves f ((s1.field f).waves ++ [w])).setStair f st 1 place (some c)
  if place = 27 then s2.endWave f w else s2

/-- The tiles that a wave holds and has not moved are unparked where they stand (R453). -/
def State.releaseHeld (s : State) (w : Wave) (but : Option Coord) : State :=
  (w.held.filter fun k => decide (some k ≠ but ∧ placeOf k (s.tileAt k) ≤ w.place)).foldl (fun (s : State) k => s.unpark k) s

/-- A second failure stops the wave (R453). -/
def State.stopWave (s : State) (f : Nat) (w : Wave) (c : Coord) (cmd : Option MgmtCmd) : State :=
  let g := placeOf c (s.tileAt c)
  let s1 := s.releaseHeld w (some c)
  let s2 := (if c = w.lost then s1 else s1.goAbsent c).goAbsent w.lost
  let s3 := (s2.setWaves f ((s2.field f).waves.filter (·.stair != w.stair))).setStair f w.stair 3 w.failed none
  ((s3.logWrite [logRecord f w.stair w.failed 0 s.wtime, logRecord f w.stair g 0 s.wtime]).repairAnswer w.cmd).repairAnswer cmd

/-- A failure at a place of a SHIFTING stair that carries no position stops the wave too (R453). -/
def State.endAtPlace (s : State) (f : Nat) (w : Wave) : State :=
  let s1 := (s.releaseHeld w none).goAbsent w.lost
  ((s1.setWaves f ((s1.field f).waves.filter (·.stair != w.stair))).logWrite [logRecord f w.stair w.failed 0 s.wtime]).repairAnswer w.cmd

/-- Position c fails (R451): by REPAIR or declared dead by R448. -/
def State.failTile (s : State) (c : Coord) (cmd : Option MgmtCmd) : State :=
  let f := fieldOf c
  let st := stairOf c
  let w := (s.field f).stair st
  match stState w with
  | 0 => s.startWave f c cmd
  | 1 => match (s.field f).waves.find? (·.stair == st) with
    | some v => s.stopWave f v c cmd
    | none => s.repairAnswer cmd
  | _ =>
    let place := placeOf c (s.tileAt c)
    let s1 := s.goAbsent c
    ((s1.setStair f st 3 (if stFplace w = 31 then place else stFplace w) none).logWrite [logRecord f st place 0 s.wtime]).repairAnswer cmd

/-- A landing, or a place of a stair that carries no logical place, fails (R451): no position is lost, but a wave stops (R453); the stair is
EXHAUSTED. A place that carries a position is that position's failure. -/
def State.failPlace (s : State) (l : Landing) : State :=
  let w := (s.field l.field).stair l.stair
  match (stairCoords l.field l.stair).find? fun c => !(s.tileAt c).absent && placeOf c (s.tileAt c) == l.place with
  | some c => s.failTile c none
  | none =>
    let s1 := match (s.field l.field).waves.find? (·.stair == l.stair) with
      | some v => s.endAtPlace l.field v
      | none => s
    (s1.setStair l.field l.stair 3 (if stFplace w = 31 then l.place else stFplace w) none).logWrite [logRecord l.field l.stair l.place 0 s.wtime]

/-- The tiles that were declared dead during a checkpoint fail after it (R471). -/
def State.failDoomed (s : State) : State :=
  (List.range Config.fields).foldl (fun (s : State) f =>
    let x := s.field f
    if x.doomed.isEmpty then s
    else (x.doomed.filter fun c => !(s.tileAt c).absent).foldl (fun (s : State) c => s.failTile c none) (s.setField f { x with doomed := [] })) s

/-- REPAIR (R451) of the position in focus; it waits while a checkpoint is being made (R471). -/
def execRepair (c : MgmtCmd) (s : State) : Out :=
  if !isCompute s.foc || (s.tile.absent && !((s.field (fieldOf s.foc)).waves.any fun w => w.lost == s.foc)) then .next (s.cmdAnswer c 1 0)
  else if s.checkpointing then .next s
  else .next ((s.expectAnswer c).failTile s.foc (some c))

/-- SHIFT_STEP (R452) of the focus tile: with the tile PARKED and its engines and queue idle, its context moves one place down. -/
def execShiftStep (s : State) : Out :=
  let f := fieldOf s.foc
  match (s.field f).waves.find? fun w => w.stair == stairOf s.foc with
  | none => .next s
  | some w =>
    let t := s.tile
    if placeOf s.foc t ≠ w.place ∨ s.foc = w.lost ∨ t.pstate ≠ 2 ∨ !(t.ops.isEmpty && t.copies.isEmpty && t.wq.isEmpty && t.monitors.isEmpty) then .next s
    else
      let s1 := s.mapTile fun t => { t with prow := t.prow + 1 }
      let s2 := if w.held.contains s.foc then s1.unpark s.foc else s1
      let w1 := { w with place := w.place - 1 }
      let s3 := (s2.setWaves f ((s2.field f).waves.map fun v => if v.stair = w.stair then w1 else v)).setStair f w.stair 1 w.failed (some w.lost)
      .next (if w1.place = w.failed then s3.endWave f w1 else s3)

/-! ### Pulse windows -/

/-- Miss counts at the close of a window with SLOW_k = slow (R448). -/
def Field.miss (x : Field) (slow : Nat) (silent : List Coord) : List (Coord × Nat) :=
  let counts := slow == 4096 && !x.thr && !x.str
  let shifting (c : Coord) : Bool := x.waves.any fun w => w.stair == stairOf c
  let keys := (silent ++ x.misses.map (·.1)).eraseDups
  (keys.map fun c =>
    let n := unitGet 0 x.misses c
    (c, if shifting c then n else if !silent.contains c then 0 else if counts then n + 1 else n)).filter (·.2 != 0)

/-- PULSE_WINDOW_CLOSE (R447, R448) of field f's oldest open window: `silent` are the field's tiles missing from the presence maps. A third
counted miss fails the tile (R451), or dooms it while a checkpoint is being made (R471). -/
def execPulseWindowClose (f : Nat) (silent : List Coord) (s : State) : Out :=
  let x := s.field f
  match x.slows with
  | [] => .next s
  | slow :: later =>
    if s.wtime.toNat < 65536 * (x.closed + 1) + (32768 * slow + 4095) / 4096 then .next s
    else
      let ours := silent.filter fun c => isCompute c && fieldOf c == f && !(s.tileAt c).absent
      let ms := x.miss slow ours
      let dead := (ms.filter fun (_, n) => decide (3 ≤ n)).map (·.1)
      let y := { x with closed := x.closed + 1, slows := later, misses := ms.filter fun (c, _) => !dead.contains c }
      .next (if s.checkpointing then s.setField f { y with doomed := y.doomed ++ dead }
        else dead.foldl (fun (s : State) c => s.failTile c none) (s.setField f y))

/-! ### Kite lines -/

/-- Neighbours in the order north, east, south, west with their direction numbers (R456). -/
def neighbours (c : Coord) : List (Nat × Coord) :=
  [(0, offset c 0 (-1)), (1, offset c 1 0), (2, offset c 0 1), (3, offset c (-1) 0)].filterMap fun (i, o) => o.map fun p => (i, p)

/-- A line under construction: tiles with their parents in the order they joined, and the links claimed (from child to parent). -/
structure Line_ where
  on : List (Coord × Option Coord)
  links : List (Coord × Coord)
  deriving DecidableEq, Repr, Inhabited

/-- One tile taken from the FIFO: its neighbours join in order. -/
def Line_.take (l : Line_) (live : List Coord) (taken : List (Coord × Coord)) (t : Coord) : Line_ :=
  (neighbours t).foldl (fun l (_, u) =>
    if live.contains u && !(l.on.any (·.1 == u)) && !taken.contains (u, t) && !l.links.contains (u, t) then
      ⟨l.on ++ [(u, some t)], l.links ++ [(u, t)]⟩
    else l) l

/-- The FIFO, from index k, for at most `fuel` tiles. -/
def Line_.grow (live : List Coord) (taken : List (Coord × Coord)) : Nat → Nat → Line_ → Line_
  | 0, _, l => l
  | fuel + 1, k, l => match l.on[k]? with
    | some (t, _) => Line_.grow live taken fuel (k + 1) (l.take live taken t)
    | none => l

/-- Root of line l: the live position nearest the hall's corner, then least y, then least x. -/
def kiteRoot (live : List Coord) (corner : Coord) : Option Coord :=
  let dist (c : Coord) : Nat := (c.x - corner.x) + (corner.x - c.x) + (c.y - corner.y) + (corner.y - c.y)
  let better (a b : Coord) : Bool := decide (dist a < dist b ∨ (dist a = dist b ∧ (a.y < b.y ∨ (a.y = b.y ∧ a.x < b.x))))
  live.foldl (fun o c => match o with
    | none => some c
    | some b => if better c b then some c else some b) none

/-- The lines of a hall (R456): for each of the NLINES its tree, or none where it is not built; line 0 keeps what it reached. -/
def kiteLines (live : List Coord) (corners : List Coord) : List (Option Line_) :=
  (corners.foldl (fun (acc : List (Option Line_) × List (Coord × Coord)) corner =>
    match kiteRoot live corner with
    | none => (acc.1 ++ [none], acc.2)
    | some r =>
      let l := Line_.grow live acc.2 live.length 0 ⟨[(r, none)], []⟩
      let whole := l.on.length == live.length
      if whole || acc.1.isEmpty then (acc.1 ++ [some l], acc.2 ++ l.links) else (acc.1 ++ [none], acc.2)) ([], [])).1

/-- PARENTl of tile c on a line of the hall whose first tile is at (x0, y0) (R58). -/
def Line_.parentWord (l : Line_) (c : Coord) (x0 y0 : Nat) : Word :=
  match l.on.find? (·.1 == c) with
  | none => 0
  | some (_, p) =>
    let kids := ((neighbours c).map fun (i, u) => if l.links.contains (u, c) then 2 ^ (26 + i) else 0).sum
    BitVec.ofNat 64 (2 ^ 31 + kids + (match p with
      | none => 2 ^ 30
      | some q => (q.y - y0) * 2 ^ 11 + (q.x - x0)))

/-- KITEW (R59, R456): weight 0 for lines not built (line 0 is not when it missed a tile), and weight 1 for line 0 when all would be 0. -/
def kiteWord (w : BitVec 16) (rent : Nat) (built : List Bool) : Word :=
  let keep (i : Nat) : Nat := if built.getD i false then ((w.extractLsb' (4 * i) 4).toNat) * 2 ^ (4 * i) else 0
  let sum := ((List.range 4).map keep).sum
  BitVec.ofNat 64 (rent * 2 ^ 16 + (if sum = 0 then 1 else sum))

/-- A packet that a gallery sends for a hall, or for a system placement: it carries the hall's HID, or the system mark, and the service name
(R66, R379); one for no tile is refused (R20). -/
def State.stewardPacket (s : State) (f : Nat) (hall : Option Nat) (c : Coord) (vc : BitVec 4) (p : Packet) : State :=
  let hid : BitVec 6 := (hall.map (BitVec.ofNat 6)).getD 0
  let sys := hall.isNone
  let site := gallerySite f
  let name := serviceName f
  let q : Packet := { p with word0 := (p.word0 &&& 0xFFFFFFFFC0FFFFFF) ||| (hid.zeroExtend 64 <<< 24),
                             word1 := (p.word1 &&& 0xFFFFFFFF00000000) ||| name.zeroExtend 64, sys := sys }
  if isCompute c then s.send (.packet q) vc site (.tile c) name none hid sys
  else s.discard ⟨.packet q, vc, site, .tile c, site, name, none, hid, sys, 0, [], 0, 0⟩ Cause.hallViolation

/-- Drops the hall's VC12 packets in inboxes and routers, each counted at its tile (R61). -/
def State.dropCollectives (s : State) (cs : List Coord) : State :=
  let lost (f : Flight) : Bool := f.vc == 12 && (match f.msg, f.dest with
    | .packet _, .tile c => cs.contains c
    | _, _ => false)
  let s1 := (s.net.filter lost).foldl (fun (s : State) f => match f.dest with
    | .tile c => s.mapTileAt c fun t => ({ t with dropped := t.dropped + 1 } : Tile).count 0x06 1
    | _ => s) { s with net := s.net.filter fun f => !lost f }
  cs.foldl (fun (s : State) c =>
    ((s.tileAt c).runs.filter fun r => r.vc == 12 && !r.held).foldl (fun (s : State) r =>
      s.mapTileAt c fun t => (({ t with dropped := t.dropped + 1 } : Tile).freeCells r.c0).count 0x06 1) s) s1

/-- Builds the kite lines of hall h (R456), writes PARENTl and KITEW, and sends the restart notices when `notice` (R61). -/
def State.buildKite (s : State) (h nlines : Nat) (notice : Bool) : State :=
  let cs := s.hallTiles h
  let live := cs.filter fun c => !(s.tileAt c).absent
  let (x0, y0, w, n) := s.hallBox h
  let corners := ([⟨x0, y0⟩, ⟨x0 + w - 1, y0⟩, ⟨x0, y0 + n - 1⟩, ⟨x0 + w - 1, y0 + n - 1⟩] : List Coord).take nlines
  let lines := kiteLines live corners
  let missed (c : Coord) : Bool := match lines.head? with
    | some (some l) => !(l.on.any (·.1 == c))
    | _ => false
  let word (c : Coord) (i : Nat) : Word := match lines.getD i none with
    | some l => if missed c then 0 else l.parentWord c x0 y0
    | none => 0
  let hall := s.hallOf h
  let kw := kiteWord hall.kitew hall.rent (lines.map fun o => o.any fun l => l.on.length == live.length)
  let s1 := live.foldl (fun (s : State) c => s.mapTileAt c fun t =>
    { t with r := { t.r with parent := Vector.ofFn fun i : Fin 4 => word c i.val, kitew := kw } }) s
  let s2 := (live.filter missed).foldl (fun (s : State) c =>
    s.repairReport c Cause.tileUnreached ((s.tileAt c).r.name &&& 0xFFFFFFFF) (positionWord c)) s1
  let count := if notice then hall.rebuilds + 1 else hall.rebuilds
  let s3 := s2.setHall h { hall with nlines := nlines, rebuilds := count, stale := false }
  if notice then
    let p (c : Coord) : Packet := ⟨headerWord (coordDest c) (BitVec.ofNat 6 h) false 0 false false (BitVec.ofNat 10 hall.rent) 12 1, 0,
      [BitVec.ofNat 64 ((count % 2 ^ 32) * 2 ^ 32 + 15 * 2 ^ 28 + 5 * 2 ^ 21), 0], false⟩
    (live.filter fun c => (List.finRange 4).any fun i => ((s3.tileAt c).th i).pinNow).foldl (fun (s : State) c =>
      s.stewardPacket (s.stewardOf h) (some h) c 12 (p c)) s3
  else s3

/-- KITE_LINE_REBUILD (R61, R456). -/
def execKiteLineRebuild (h nlines : Nat) (s : State) : Out :=
  if nlines = 0 ∨ 4 < nlines then .next s else .next ((s.dropCollectives (s.hallTiles h)).buildKite h nlines true)

end Sys2Proof.Machine
end

