-- ==== Sys2Proof/Machine/Keep.lean ====
section
/-! DEFINITION. The keep areas of the edge ports (R28, R468): where a checkpoint's image lies byte by byte, as it is written and as it is
read back. The manual gives each slot and the port state their places; what lies where inside them is the model's (DESIGN CHOICE,
log 23). -/

namespace Sys2Proof.Machine

/-! ### Places -/

/-- Where the keep area of edge port i begins: in the last 2 GiB of its module's data capacity (R28, R468). -/
def keepBase (i : Nat) : Nat := 2 ^ 36 * i + 15 * 2 ^ 32 - 2 ^ 31
/-- The slot of tile (x, y), with n = 1024·y + x: slot floor(n / 96) at port n mod 96 (R468). -/
def slotBase (c : Coord) : Nat :=
  let n := 1024 * c.y + c.x
  keepBase (n % 96) + 0x28000 * (n / 96 + 1)
/-- The port state, after slot 11,946 (R468). -/
def portBase (i : Nat) : Nat := keepBase i + 0x28000 * 11948
/-- The address is in a keep area, behind its header. -/
def inSlots (k : Nat) : Bool := decide (k < 96 * 2 ^ 36 ∧ keepBase (k / 2 ^ 36) + 0x28000 ≤ k ∧ k < keepBase (k / 2 ^ 36) + 2 ^ 31)

/-- Offset in its slot of a byte of a tile's storage, by its offset in the tile's window: data and instruction SRAM, inbox pool, cell store
and shadow bank, one behind the other. -/
def slotOffset (o : Nat) : Option Nat :=
  if o < 0x14000 then some o
  else if 0x20000 ≤ o ∧ o < 0x22000 then some (o - 0xC000)
  else if 0x30000 ≤ o ∧ o < 0x34000 then some (o - 0x1A000)
  else if 0x40000 ≤ o ∧ o < 0x42000 then some (o - 0x26000)
  else none
/-- The inverse. -/
def storageOffset (x : Nat) : Option Nat :=
  if x < 0x14000 then some x
  else if x < 0x16000 then some (x + 0xC000)
  else if x < 0x1A000 then some (x + 0x1A000)
  else if x < 0x1C000 then some (x + 0x26000)
  else none
/-- A byte of storage as the slot holds it: one of the instruction SRAM is complemented, so that erased words are zeros. -/
def slotByte (x : Nat) (v : BitVec 8) : BitVec 8 := if 0x10000 ≤ x ∧ x < 0x14000 then ~~~v else v

/-- Behind the storage: 1,280 descriptors of 4 bytes, 1,024 accumulators of 6, cell states of 4, knots of 16, and registers of 8. -/
def slotDesc : Nat := 0x1C000
def slotAcc : Nat := 0x1D400
def slotCst : Nat := 0x1EC00
def slotKnots : Nat := 0x1FC00
def slotRegs : Nat := 0x1FD00

/-- The position of a tile-window address. -/
def windowCoord (k : Nat) : Coord := offCoord (BitVec.ofNat 64 (k - 0x800000000000))

/-! ### Entries of a region -/

/-- Writes entries of `size` bytes from address lo. -/
def putEntries (m : List Host.Cell) (lo size : Nat) (l : List (Nat × Nat)) : List Host.Cell :=
  l.foldl (fun m x => Memory.writeN m (lo + size * x.1) size x.2) m
/-- The entries of a region of n that are not zero, by index. -/
def getEntries (m : List Host.Cell) (lo size n : Nat) : List (Nat × Nat) :=
  (((m.filter fun x => decide (lo ≤ x.1 ∧ x.1 < lo + size * n)).map fun x => (x.1 - lo) / size).eraseDups).map fun i =>
    (i, Memory.readN m (lo + size * i) size)

/-! ### Registers -/

/-- The plain tile registers in the order of their numbers. -/
def TileRegs.words (r : TileRegs) : List Word :=
  [r.tags, r.name, r.hall, r.treepool, r.treecfga, r.treecfgb, r.treereg, r.cellmode] ++ r.pwin.toList ++ r.parent.toList ++
    [r.kitew, r.timer, r.perfsel] ++ r.perf.toList
def TileRegs.ofWords (w : Nat → Word) : TileRegs where
  tags := w 0
  name := w 1
  hall := w 2
  treepool := w 3
  treecfga := w 4
  treecfgb := w 5
  treereg := w 6
  cellmode := w 7
  pwin := Vector.ofFn fun i : Fin 4 => w (8 + i.val)
  parent := Vector.ofFn fun i : Fin 4 => w (12 + i.val)
  kitew := w 16
  timer := w 17
  perfsel := w 18
  perf := Vector.ofFn fun i : Fin 4 => w (19 + i.val)

/-- The privileged tile registers in the order of their numbers. -/
def PrivRegs.words (r : PrivRegs) : List Word :=
  [r.entrybase, r.budget, r.vcw, r.hallmap, r.spaces, r.trapdest, r.pctx, r.balloon, r.balptr, r.toke, r.tokm, r.slice] ++ r.qlim.toList ++
    r.bkpt.toList ++ r.watch.toList ++ r.rtex.toList
def PrivRegs.ofWords (w : Nat → Word) : PrivRegs where
  entrybase := w 0
  budget := w 1
  vcw := w 2
  hallmap := w 3
  spaces := w 4
  trapdest := w 5
  pctx := w 6
  balloon := w 7
  balptr := w 8
  toke := w 9
  tokm := w 10
  slice := w 11
  qlim := Vector.ofFn fun i : Fin 16 => w (12 + i.val)
  bkpt := Vector.ofFn fun i : Fin 4 => w (28 + i.val)
  watch := Vector.ofFn fun i : Fin 4 => w (32 + i.val)
  rtex := Vector.ofFn fun i : Fin 16 => w (36 + i.val)

/-! ### Requests -/

/-- The atomics in the order of R219. -/
def amoOps : List AmoOp := [.add, .and, .or, .xor, .swap, .cas, .min, .max, .minu, .maxu, .fadd, .fmin, .fmax]

/-- A request in 24 words: its kind's tag and fields, the address and marks, the requester, and a line with its descriptor. `which` names
the list that it waits in, from 1. -/
def Req.words (r : Req) (which : Nat) : List Word :=
  let n (k : Nat) : Word := BitVec.ofNat 64 k
  let line (l : Line) : List Word := (List.range 8).map fun i => l.extractLsb' (64 * i) 64
  let (kind, ls) : List Word × List Word := match r.kind with
    | .load k => ([0, n k, 0, 0, 0], [])
    | .store k v => ([1, n k, v, 0, 0], [])
    | .amo op k x y ret => ([2, n k, x, y, n (2 * amoOps.idxOf op + if ret then 1 else 0)], [])
    | .waitv k e t => ([3, n k, e, t.getD 0, if t.isSome then 1 else 0], [])
    | .readLines k => ([4, n k, 0, 0, 0], [])
    | .writeLine l d => ([5, d.zeroExtend 64, 0, 0, 0], line l)
    | .leaf a b => ([6, 0, a, b, 0], [])
  kind ++ [n which, r.space.zeroExtend 64, r.off, r.hall.zeroExtend 64 ||| (if r.sys then 64 else 0), n r.who.src.x, n r.who.src.y,
    n r.who.tid.val, n r.who.id, n (r.who.agent.elim 0 (· + 1)), n (r.fwd.elim 0 fun f => 2 * f.1 + 2),
    if r.fwd.any (·.2) then 1 else 0] ++ (ls ++ List.replicate 8 0).take 8

/-- The request of 24 words, with its list. -/
def Req.ofWords (w : Nat → Word) : Nat × Req :=
  let n (i : Nat) : Nat := (w i).toNat
  let line : Line := (List.range 8).foldl (fun l i => l ||| ((w (16 + i)).zeroExtend 512 <<< (64 * i))) 0
  let kind : ReqKind := match n 0 with
    | 0 => .load (n 1)
    | 1 => .store (n 1) (w 2)
    | 2 => .amo (amoOps.getD (n 4 / 2) .add) (n 1) (w 2) (w 3) (n 4 % 2 = 1)
    | 3 => .waitv (n 1) (w 2) (if n 4 = 1 then some (w 3) else none)
    | 4 => .readLines (n 1)
    | 5 => .writeLine line ((w 1).setWidth 32)
    | _ => .leaf (w 2) (w 3)
  (n 5, ⟨⟨⟨n 9, n 10⟩, Fin.ofNat 4 (n 11), n 12, if n 13 = 0 then none else some (n 13 - 1)⟩, kind, (w 6).setWidth 16, w 7, (w 8).setWidth 6,
    (w 8).getLsbD 6, if n 14 = 0 then none else some (n 14 / 2 - 1, n 15 = 1)⟩)

/-- A number as words of 64 bits, and back. -/
def wordsNat (l : List Word) : Nat := l.foldr (fun w a => w.toNat + 2 ^ 64 * a) 0
def natWord (v i : Nat) : Word := BitVec.ofNat 64 (v / 2 ^ (64 * i))

/-- The requests of a port that its image holds: the side log, the held requests, and the operations taken (R468). -/
def Port.imaged (p : Port) : List (List Word) := p.log.map (·.words 1) ++ p.held.map (·.words 2) ++ p.devOps.map (·.words 3)
/-- The rest of what waits at a port. -/
def Port.waitingPart (p : Port) : Port :=
  { Port.reset with reported := p.reported, replays := p.replays, onHold := p.onHold, monitors := p.monitors, below := p.below, peer := p.peer }
/-- A port with the requests that its image holds. -/
def Port.withImaged (p : Port) (l : List (Nat × Req)) : Port :=
  let part (k : Nat) : List Req := (l.filter (·.1 == k)).map (·.2)
  { p with log := part 1, held := part 2, devOps := part 3 }

/-! ### Writing an image -/

/-- A tile's slot but for its storage and descriptors. -/
def slotTile (m : List Host.Cell) (c : Coord) (t : Tile) : List Host.Cell :=
  let b := slotBase c
  let regs := t.r.words ++ t.pr.words
  let m1 := putEntries m (b + slotAcc) 6 (t.acc.map fun x => (x.1, x.2.toNat))
  let m2 := putEntries m1 (b + slotCst) 4 (t.cst.map fun x => (x.1, x.2.toNat))
  let m3 := putEntries m2 (b + slotKnots) 16 (t.knots.map fun x => (x.1, x.2.toNat))
  putEntries m3 (b + slotRegs) 8 ((List.range regs.length).zip (regs.map (·.toNat)))

/-- Line number in a tile of descriptor index i, and back: data SRAM, then the cell store. -/
def descIndex (line : Nat) : Nat := if line < 1024 then line else line - 0xC00 + 1024
def descLine (i : Nat) : Nat := if i < 1024 then i else i - 1024 + 0xC00

/-- The slots and port states as the ports write them (R468): what an older image left there is gone. -/
def State.writeSlots (s : State) : State :=
  let tile (k : Nat) : Bool := decide (0x800000000000 ≤ k)
  let m0 := s.mem.filter fun x => !inSlots x.1
  let m1 := (s.mem.filter fun x => tile x.1).foldl (fun m x => match slotOffset (x.1 % 2 ^ 20) with
    | some o => Memory.write m (slotBase (windowCoord x.1) + o) (slotByte o x.2)
    | none => m) m0
  let m2 := (s.desc.filter fun x => tile (64 * x.1)).foldl (fun m x =>
    Memory.writeN m (slotBase (windowCoord (64 * x.1)) + slotDesc + 4 * descIndex (x.1 % 2 ^ 14)) 4 x.2.toNat) m1
  let m3 := (s.listed.filter fun x => isCompute x.1).foldl (fun m x => slotTile m x.1 x.2) m2
  let m4 := (s.ports.filter fun x => decide (x.1 < 96)).foldl (fun m x =>
    let l := x.2.imaged
    putEntries m (portBase x.1) 192 ((List.range l.length).zip (l.map wordsNat))) m3
  { s with mem := m4 }

/-- The rest of the image, which the model keeps as data. -/
def State.takeImage (s : State) : Image :=
  { seq := s.boot.ckctl.setWidth 32, time := s.wtime, features := s.boot.featacc, tiles := s.listed.filter fun x => isCompute x.1,
    bad := s.bad.filter fun w => decide (0x800000000000 ≤ 8 * w), net := s.net,
    ports := s.ports.map fun (i, p) => (i, if i < 96 then p.waitingPart else { p.waitingPart with log := p.log, held := p.held, devOps := p.devOps }) }

/-- Writes a header's fields (R468), which the manual names in this order: MAGIC, SEQ, WTIME, feature word, COMPLETE (their offsets 0, 4, 8, 16
and 32 are the model's: DESIGN CHOICE, log 23). -/
def State.writeHeader (s : State) (i : Nat) (x : Image) : State :=
  let k := keepBase i
  ((((s.store k 4 0x4B504B5A).store (k + 4) 4 (x.seq.zeroExtend 64)).store (k + 8) 8 x.time).store (k + 16) 8 (x.features.setWidth 64)).store
    (k + 24) 8 (x.features.extractLsb' 64 64) |>.store (k + 32) 4 1
/-- Every port writes its header, COMPLETE last; and the COMPLETE flags are cleared before (R469). -/
def State.writeHeaders (s : State) (x : Image) : State := (List.range Config.edgePorts).foldl (fun (s : State) i => s.writeHeader i x) s
def State.voidHeaders (s : State) : State := (List.range Config.edgePorts).foldl (fun (s : State) i => s.store (keepBase i + 32) 4 0) s
/-- Every port header is COMPLETE with this SEQ (R470). -/
def State.headersHold (s : State) (seq : BitVec 32) : Bool :=
  (List.range Config.edgePorts).all fun i =>
    s.load (keepBase i) 4 == 0x4B504B5A && s.load (keepBase i + 4) 4 == seq.zeroExtend 64 && s.load (keepBase i + 32) 4 == 1

/-! ### Reading an image back -/

/-- A tile from its image, in the place that the stairs give it, PARKED. -/
def Tile.fromImage (m : List Host.Cell) (c : Coord) (now img : Tile) : Tile :=
  let b := slotBase c
  let reg (i : Nat) : Word := BitVec.ofNat 64 (Memory.readN m (b + slotRegs + 8 * i) 8)
  let acc := getEntries m (b + slotAcc) 6 1024
  let t : Tile := { img with prow := now.prow, absent := now.absent || img.absent, lag := 0, extra := 0, parkFrom := 0,
                             r := TileRegs.ofWords reg, pr := PrivRegs.ofWords fun i => reg (23 + i),
                             acc := acc.map fun x => (x.1, BitVec.ofNat 48 x.2),
                             cst := (getEntries m (b + slotCst) 4 1024).map fun x => (x.1, BitVec.ofNat 32 x.2),
                             knots := (getEntries m (b + slotKnots) 16 16).map fun x => (x.1, BitVec.ofNat 128 x.2) }
  t.setPstate 2

/-- The tile storage and descriptors that the slots hold, by physical address and line. -/
def State.slotStorage (s : State) (c : Coord) : List (Nat × BitVec 8) :=
  let b := slotBase c
  (s.mem.filter fun x => decide (b ≤ x.1 ∧ x.1 < b + slotDesc)).filterMap fun x =>
    (storageOffset (x.1 - b)).map fun o => (tileBase c + o, slotByte (x.1 - b) x.2)
def State.slotDescs (s : State) (c : Coord) : List (Nat × Desc) :=
  (getEntries s.mem (slotBase c + slotDesc) 4 1280).map fun x => (tileBase c / 64 + descLine x.1, BitVec.ofNat 32 x.2)
/-- The positions whose slots hold anything. -/
def State.slotsInUse (s : State) : List Coord :=
  ((s.mem.filter fun x => inSlots x.1).map fun x =>
    let i := x.1 / 2 ^ 36
    let n := ((x.1 - keepBase i) / 0x28000 - 1) * 96 + i
    (⟨n % 1024, n / 1024⟩ : Coord)).eraseDups.filter isCompute
/-- The requests in port i's image. -/
def State.imagedReqs (s : State) (i : Nat) : List (Nat × Req) :=
  (getEntries s.mem (portBase i) 192 2730).map fun x => Req.ofWords (natWord x.2)

/-- Restores an image (R470): storage, tiles, mesh and ports. -/
def State.putImage (s : State) (i : Image) : State :=
  let cs := s.slotsInUse
  let s1 : State := { s with mem := (cs.flatMap s.slotStorage).foldl (fun m x => Memory.write m x.1 x.2) s.mem,
                             desc := (cs.flatMap s.slotDescs).foldl (fun l x => Tab.set descBlank l x.1 x.2) s.desc, bad := s.bad ++ i.bad,
                             net := i.net, ports := i.ports.map fun (k, p) => (k, if k < 96 then p.withImaged (s.imagedReqs k) else p),
                             boot := { s.boot with bootst := s.boot.bootst ||| 1 } }
  i.tiles.foldl (fun (x : State) (c, t) => x.mapTileAt c fun now => now.fromImage s.mem c t) s1

end Sys2Proof.Machine
end

