-- ==== Sys2Proof/Machine/Record.lean ====
section
/-! DEFINITION. Placement records (R64) read byte by byte, with the offset of the first fault (R65). The manual gives the heads of header,
section, chunk and packet; the widths of the numbers inside a chunk, and which offset stands for a fault, are the model's (DESIGN CHOICE,
log 17): an index is 4 bytes, a register 8; a fault has the offset of the field, entry or row that is at fault, or of the head of a
section, chunk or packet that is out of its bounds; faults are looked for in the order of the bytes. -/

namespace Sys2Proof.Machine

/-- The n bytes at offset o as a little-endian number; bytes beyond the end count as 0. -/
def leAt (l : Bytes) (o n : Nat) : Nat := ((l.drop o).take n).foldr (fun b a => b.toNat + 256 * a) 0
def word4At (l : Bytes) (o : Nat) : BitVec 32 := BitVec.ofNat 32 (leAt l o 4)
def word8At (l : Bytes) (o : Nat) : Word := BitVec.ofNat 64 (leAt l o 8)

/-- The offset of the first check that fails. -/
def firstFault (l : List (Bool × Nat)) : Option Nat := (l.find? fun x => !x.1).map (·.2)

/-- Some key stands twice. -/
def repeats {α : Type} [DecidableEq α] : List α → Bool
  | [] => false
  | a :: r => r.contains a || repeats r

/-! ### Values of chunks -/

/-- A THREADS row: stack top, SLIM, RSBASE, RSLIM, RMODE, TCM. -/
def threadRowOk (ws : List Word) : Bool :=
  let w (i : Nat) : Word := ws.getD i 0
  ws.length == 6 && decide ((w 0).toNat ≤ 0x10000) && only (w 1) 0xFFF0 && only (w 2) 0x1FFF8 && only (w 3) 0xFFF8 &&
    only (w 4) 0xFFFFFFFF00001F07 && csrValueOk 0 (w 4) && only (w 5) 1

/-- QUEUES values on the reset values (R135): QMIN at most QCAP, QCAP at most 256, and the QMINs at most 256 in sum. -/
def queuesOk (q : List (Nat × Nat × Nat)) : Bool :=
  let reset (c : Nat) : Nat := if 14 ≤ c then 16 else 0
  let minOfC (c : Nat) : Nat := match q.find? (·.1 == c) with
    | some (_, m, _) => m
    | none => reset c
  q.all (fun (c, m, k) => decide (c < 16 ∧ m ≤ k ∧ k ≤ 256)) && decide (((List.range 16).map minOfC).sum ≤ 256)

/-- A TILEREGS value: one of the five registers of type 9, with a value its map allows. -/
def tileregOk (n : Nat) (w : Word) : Bool :=
  if n = 0x106 then only w (stewardBits 0x106)
  else if 0x107 ≤ n ∧ n ≤ 0x10A then (match csrInfo n with
    | some f => only w f.rw && csrValueOk n w
    | none => false)
  else false

/-- The value of ENTRYBASE: an entry table within the first 64 KiB (R33). -/
def entryBaseOk (w : Word) : Bool :=
  let n := (w.extractLsb' 16 11).toNat
  only w 0x7FFFFC0 && decide (n ≤ 1024 ∧ 64 * (w.extractLsb' 6 10).toNat + 8 * n ≤ 65536)
/-- An entry with its reserved bits zero (R34). -/
def entryWordOk (w : Word) : Bool := only w 0xFFFF000700000FFF

/-! ### Chunks -/

/-- Numbers of the registers of a TILEREGS chunk, in its order (R64). -/
def tileregNumbers : List (BitVec 12) := [0x10A, 0x106, 0x107, 0x108, 0x109]

/-- A chunk of `n` items of `size` bytes behind an index of 4 bytes, for a resource of `bound` items. -/
def indexed (len size start bound : Nat) : Bool := decide (4 ≤ len ∧ (len - 4) % size = 0 ∧ start + (len - 4) / size ≤ bound)

/-- The chunk whose head is at offset o, added to a section; or the offset of its fault. -/
def readChunk (l : Bytes) (o : Nat) (t : TileSection) : Except Nat TileSection :=
  let len := leAt l (o + 4) 4
  let p := o + 8
  let start := leAt l p 4
  let count (size : Nat) : List Nat := List.range ((len - 4) / size)
  let answer (checks : List (Bool × Nat)) (u : TileSection) : Except Nat TileSection := match firstFault checks with
    | some e => .error e
    | none => .ok u
  let head : List (Bool × Nat) := [(decide (p ≤ l.length), o), (decide (1 ≤ leAt l o 2 ∧ leAt l o 2 ≤ 9), o), (leAt l (o + 2) 2 == 0, o + 2),
    (decide (p + len ≤ l.length), o)]
  match leAt l o 2 with
  | 1 => answer (head ++ [(indexed len 4 start 4096, o)])
      { t with isram := t.isram ++ (count 4).map fun i => (start + i, word4At l (p + 4 + 4 * i)) }
  | 2 => answer (head ++ [(decide (start % 64 = 0), p), (indexed len 1 start 65536, o)])
      { t with dsram := t.dsram ++ (count 1).map fun i => (start + i, l.getD (p + 4 + i) 0) }
  | 3 => answer (head ++ [(indexed len 4 start 1024, o)])
      { t with desc := t.desc ++ (count 4).map fun i => (start + i, word4At l (p + 4 + 4 * i)) }
  | 4 => answer (head ++ [(indexed len 68 start 256, o)])
      { t with cells := t.cells ++ (count 68).map fun i =>
          (start + i, BitVec.ofNat 512 (leAt l (p + 4 + 68 * i) 64), word4At l (p + 68 + 68 * i)) }
  | 5 =>
    let base := word8At l p
    let n := (base.extractLsb' 16 11).toNat
    let es := (List.range n).map fun i => word8At l (p + 8 + 8 * i)
    answer (head ++ [(entryBaseOk base, p), (len == 8 + 8 * n, o)] ++ (List.range n).map fun i => (entryWordOk (word8At l (p + 8 + 8 * i)), p + 8 + 8 * i))
      { t with entryBase := some base, entries := es }
  | 6 => answer (head ++ [(indexed len 16 start 16, o)] ++ (count 16).map fun i =>
        (knotCheck (BitVec.ofNat 128 (leAt l (p + 4 + 16 * i) 16)) == 0, p + 4 + 16 * i))
      { t with knots := t.knots ++ (count 16).map fun i => (start + i, BitVec.ofNat 128 (leAt l (p + 4 + 16 * i) 16)) }
  | 7 =>
    let rows := (List.finRange 4).filter fun i => decide (i.val < len / 56)
    let row (i : Tid) : List Word := (List.range 6).map fun k => word8At l (p + 56 * i.val + 8 * k)
    let pin (i : Tid) : Nat := leAt l (p + 56 * i.val + 48) 8
    let pinned := t.threads.any (·.2.2)
    answer (head ++ [(decide (len % 56 = 0 ∧ len ≤ 224), o)] ++ rows.flatMap fun i =>
        [(threadRowOk (row i), p + 56 * i.val), (decide (pin i ≤ 1), p + 56 * i.val + 48),
         (pin i == 0 || !(pinned || rows.any fun j => decide (j < i) && pin j != 0), p + 56 * i.val + 48)])
      { t with threads := t.threads ++ rows.map fun i => (i, row i, pin i != 0) }
  | 8 =>
    let q := (List.range 16).map fun c => (c, leAt l (p + 4 * c) 2, leAt l (p + 4 * c + 2) 2)
    let vcw := word8At l (p + 64)
    let budget := word8At l (p + 72)
    answer (head ++ [(len == 80, o), (queuesOk q, p), (only vcw 0xFFFFFFFF, p + 64), (only budget 0xFFFFFF && decide (256 ≤ budget.toNat), p + 72)])
      { t with qlim := q, vcw := some vcw, budget := some budget }
  | 9 =>
    let regs := (List.range 5).zip tileregNumbers
    answer (head ++ [(len == 40, o)] ++ regs.map fun (i, n) => (tileregOk n.toNat (word8At l (p + 8 * i)), p + 8 * i))
      { t with tileregs := regs.map fun (i, n) => (n, word8At l (p + 8 * i)) }
  | _ => answer (head ++ [(false, o)]) t

/-- n chunks from offset o, and the offset behind them. -/
def readChunks (l : Bytes) : Nat → Nat → TileSection → Except Nat (TileSection × Nat)
  | 0, o, t => .ok (t, o)
  | n + 1, o, t => match readChunk l o t with
    | .error e => .error e
    | .ok t1 => readChunks l n (o + 8 + leAt l (o + 4) 4) t1

/-! ### Sections, packets, records -/

/-- n tile sections from offset o; `inside` says which positions the hall has. -/
def readSections (l : Bytes) (inside : Nat → Nat → Bool) : Nat → Nat → List TileSection → Except Nat (List TileSection)
  | 0, _, ts => .ok ts
  | n + 1, o, ts =>
    let x := leAt l o 2
    let y := leAt l (o + 2) 2
    let t0 : TileSection := ⟨o, x, y, word4At l (o + 4), [], [], [], [], none, [], [], [], [], none, none, []⟩
    match firstFault [(decide (o + 16 ≤ l.length), o), (inside x y, o), (!ts.any fun u => u.x == x && u.y == y, o), (leAt l (o + 12) 4 == 0, o + 12)] with
    | some e => .error e
    | none => match readChunks l (leAt l (o + 8) 4) (o + 16) t0 with
      | .error e => .error e
      | .ok (t, o1) => readSections l inside n o1 (ts ++ [t])

/-- A packet of the record: position, wave, and the packet in full header form. -/
abbrev InitialPacket := Nat × Nat × Nat × Packet

/-- n packets from offset o. -/
def readPackets (l : Bytes) (inside : Nat → Nat → Bool) : Nat → Nat → List InitialPacket → Except Nat (List InitialPacket)
  | 0, _, ps => .ok ps
  | n + 1, o, ps =>
    let x := leAt l o 2
    let y := leAt l (o + 2) 2
    let w0 := word8At l (o + 8)
    let k := hdrLen w0
    let p : Packet := ⟨w0, word8At l (o + 16), (List.range (2 * k)).map fun i => word8At l (o + 24 + 8 * i), false⟩
    match firstFault [(decide (o + 24 + 16 * k ≤ l.length), o), (inside x y, o), (w0.extractLsb' 30 2 == 0, o + 8), (k != 0, o + 8)] with
    | some e => .error e
    | none => readPackets l inside n (o + 24 + 16 * k) (ps ++ [(x, y, leAt l (o + 4) 4, p)])

/-- The first fault of the header (R64, R65); `feat` are the features accepted (R463). -/
def headerFault (l : Bytes) (feat : BitVec 128) : Option Nat :=
  let f : BitVec 128 := BitVec.ofNat 128 (leAt l 24 16)
  firstFault [(leAt l 0 4 == 0x4C505946, 0), (leAt l 4 2 == 1, 4), (leAt l 6 2 == 0, 6), (leAt l 8 2 % 16 == 0, 8), (leAt l 10 2 % 16 == 0, 10),
    (decide (1 ≤ leAt l 20 1 ∧ leAt l 20 1 ≤ 4), 20), (leAt l 21 1 == 0, 21), (f &&& ~~~feat == 0, 24), (decide (leAt l 48 2 ≤ 1023), 48),
    (leAt l 50 14 == 0, 50), (decide (64 ≤ l.length), 63)]

/-- Reads a record for a hall whose tiles, by position in it, are those that `has` tells: the placement, or the offset of its fault. -/
def readRecord (l : Bytes) (feat : BitVec 128) (has : Nat → Nat → Bool) : Except Nat Placement :=
  let width := leAt l 8 2
  let height := leAt l 10 2
  let inside (x y : Nat) : Bool := decide (x < width ∧ y < height) && has x y
  match headerFault l feat with
  | some e => .error e
  | none => match readSections l inside (leAt l 12 4) 64 [] with
    | .error e => .error e
    | .ok ts => match readPackets l inside (leAt l 16 4) (leAt l 40 8) [] with
      | .error e => .error e
      | .ok ps => .ok ⟨BitVec.ofNat 128 (leAt l 24 16), width, height, leAt l 20 1, BitVec.ofNat 16 (leAt l 22 2), leAt l 48 2, ts, ps⟩

end Sys2Proof.Machine
end

