-- ==== Sys2Proof/Machine/Bringup.lean ====
section
/-! DEFINITION. Bring-up: the launch of a placement and its initial packets (R19, R64 to R66), boot, its watchdog and minimal mode (R457 to
R462), features (R463), checkpoints and power failure (R468 to R471, R473), and the JTAG unlock (R472). -/

namespace Sys2Proof.Machine

/-! ### Where a placement goes -/

/-- Compute tiles of the gallery blocks of field f that belong to no hall (R15, R19). -/
def State.systemTiles (s : State) (f : Nat) : List Coord :=
  ((List.range 32).flatMap fun (j : Nat) => (List.range 32).map fun (i : Nat) =>
    (⟨128 * (f % 8) + 48 + i, 112 * (f / 8) + 48 + j⟩ : Coord)).filter fun c => isCompute c && (s.tileAt c).sys

/-- The tiles of a placement and its corner: those of hall h < 64, or the system tiles of field h − 64, which only its gallery loads (R19;
the number is the model's: DESIGN CHOICE, log 24). -/
def State.placementTiles (s : State) (h : Nat) : List Coord × Nat × Nat :=
  if h < 64 then
    let (x0, y0, _, _) := s.hallBox h
    (s.hallTiles h, x0, y0)
  else (s.systemTiles (h - 64), 128 * ((h - 64) % 8) + 48, 112 * ((h - 64) / 8) + 48)
/-- The gallery that loads a placement: the hall's steward, or the field's own gallery. -/
def State.loader (s : State) (h : Nat) : Nat := if h < 64 then s.stewardOf h else h - 64

/-- What a record gives a launch, or the offset of its fault (R65). -/
def State.readPlacement (s : State) (h : Nat) (record : Bytes) : Except Nat Placement :=
  let (cs, x0, y0) := s.placementTiles h
  readRecord record s.boot.featacc fun x y => cs.contains ⟨x0 + x, y0 + y⟩
/-- Offset of the first fault of a record (R65), in the order of its bytes (DESIGN CHOICE, log 17); none where it may be launched. -/
def State.placementFault (s : State) (h : Nat) (record : Bytes) : Option Nat :=
  match s.readPlacement h record with
  | .error o => some o
  | .ok _ => none

/-! ### Clearing and loading -/

/-- A tile as step 2 of R66 leaves it: everything of an earlier placement is gone; what the operating system wrote before launch, the
router's tables and the reports on their way stay. Dispatch is stopped. -/
def Tile.cleared (t : Tile) (c : Coord) : Tile :=
  let z := Tile.reset c
  { z with lag := t.lag, extra := t.extra, prow := t.prow, absent := t.absent, softCount := t.softCount, names := t.names,
           holds := t.holds, reports := t.reports, lost := t.lost, parkCmd := t.parkCmd, parkFrom := t.parkFrom,
           balWait := t.balWait, balSrc := t.balSrc, hallop := t.hallop, dispatchOn := false,
           r := { z.r with name := t.r.name, hall := t.r.hall },
           pr := { t.pr with entrybase := z.pr.entrybase, budget := z.pr.budget, vcw := z.pr.vcw, qlim := z.pr.qlim,
                             bkpt := z.pr.bkpt, watch := z.pr.watch } }

/-- Steps 1 and 2 of R66 for the tile at c. -/
def State.clearForLaunch (s : State) (c : Coord) : State :=
  let s1 := (List.finRange 4).foldl (fun (s : State) i => s.dropMonitors c i) s
  (s1.clearStorage c 0xFF).mapTileAt c (·.cleared c)

/-- The thread state that a THREADS row gives. -/
def Thread.loadRow (t : Thread) (ws : List Word) (pin : Bool) : Thread :=
  let w (i : Nat) : Word := ws.getD i 0
  { t with stackTop := w 0, slim := w 1, rsbase := w 2, rslim := w 3, rmode := w 4, tcm := (w 5).getLsbD 0, pinRec := pin, pinNow := pin }

/-- The registers that a section gives its tile (R64). -/
def Tile.loadRegs (t : Tile) (x : TileSection) : Tile :=
  let t1 := x.threads.foldl (fun (t : Tile) (i, ws, pin) => t.mapTh i (·.loadRow ws pin)) t
  let t2 := x.knots.foldl (fun (t : Tile) (k, r) => { t with knots := Tab.set knotBlank t.knots k (r ||| (1 : BitVec 128) <<< 127) }) t1
  let q := x.qlim.foldl (fun (q : Vector Word 16) (c, m, k) => setV16 q c (BitVec.ofNat 64 (k * 65536 + m))) t2.pr.qlim
  let t3 := { t2 with pr := { t2.pr with entrybase := x.entryBase.getD t2.pr.entrybase, budget := x.budget.getD t2.pr.budget, qlim := q },
                      r := x.tileregs.foldl (fun (r : TileRegs) (n, w) => r.put n.toNat w) t2.r }
  match x.vcw with
  | some w => t3.vcwPut (w.setWidth 32)
  | none => t3

/-- Step 3 of R66: every chunk of a section is written into tile c. -/
def State.loadSection (s : State) (c : Coord) (x : TileSection) : State :=
  let b := tileBase c
  let s1 := x.isram.foldl (fun (s : State) (i, w) => s.store (b + 0x10000 + 4 * i) 4 (w.zeroExtend 64)) s
  let s2 := x.dsram.foldl (fun (s : State) (a, v) => s.store (b + a) 1 (v.zeroExtend 64)) s1
  let s3 := x.desc.foldl (fun (s : State) (i, d) => s.setDesc (b + 64 * i) d) s2
  let s4 := x.cells.foldl (fun (s : State) (i, l, d) => (s.storeLine (b + 0x30000 + 64 * i) l).setDesc (b + 0x30000 + 64 * i) d) s3
  let e := b + 64 * ((x.entryBase.getD 0).extractLsb' 6 10).toNat
  let s5 := ((List.range x.entries.length).zip x.entries).foldl (fun (s : State) (i, w) => s.store (e + 8 * i) 8 w) s4
  s5.mapTileAt c (·.loadRegs x)

/-- Sets the names of the sections' tiles, 0 among them, their old ones given up first (R66 step 4, R132). -/
def State.setNames (s : State) (xs : List (Coord × BitVec 32)) : State :=
  let put (s : State) (c : Coord) (n : BitVec 32) : State := (s.putName c (n.zeroExtend 64)).getD s
  let xs := xs.filter fun (c, n) => n != (s.tileAt c).r.name.setWidth 32
  (xs.filter fun (_, n) => n != 0).foldl (fun (s : State) (c, n) => put s c n) (xs.foldl (fun (s : State) (c, _) => put s c 0) s)

/-- What the loader keeps of a launched placement: a hall's tenant and steward are those of its creation (R380); the manual says no more of
how a steward enables a hall for bridge traffic than that FEATURES asks for it (R133, R463; DESIGN CHOICE, log 25). -/
def State.keepHall (s : State) (h tenant : Nat) (p : Placement) : State :=
  s.setHall h { s.hallOf h with bridge := p.features.getLsbD 3, nlines := p.nlines, kitew := p.kitew, rent := p.rent, stale := false,
                                waves := p.packets, rejected := none, tenant := tenant,
                                steward := if h < 64 then some (s.nearestGallery h) else some (h - 64) }

/-- Steps 1 to 5 of R66, with the waves of step 6 left to INITIAL_PACKET_WAVE; system tiles are on no kite line. -/
def State.launchHall (s : State) (h tenant : Nat) (p : Placement) : State :=
  let (cs, x0, y0) := s.placementTiles h
  let live := cs.filter fun c => !(s.tileAt c).absent
  let at_ (t : TileSection) : Coord := ⟨x0 + t.x, y0 + t.y⟩
  let tiles := p.tiles.filter fun t => live.contains (at_ t)
  let s1 := live.foldl (fun (s : State) c => s.clearForLaunch c) s
  let s2 := tiles.foldl (fun (s : State) t => s.loadSection (at_ t) t) s1
  let s3 := (s2.setNames (tiles.map fun t => (at_ t, t.name))).keepHall h tenant p
  let s4 := if h < 64 then s3.buildKite h p.nlines false else s3
  live.foldl (fun (s : State) c => s.mapTileAt c fun t => { t with dispatchOn := true }) s4

/-- LAUNCH (R65, R66): the record is rejected with the offset of its fault, or its placement is loaded and dispatch enabled. -/
def execLaunch (hall : Nat) (order : LaunchOrder) (s : State) : Out :=
  match s.readPlacement hall order.record with
  | .error off => .next (s.setHall hall { s.hallOf hall with rejected := some off })
  | .ok p => .next (s.launchHall hall order.tenant p)

/-- A packet that a placement's loader injected has not been accepted yet. -/
def State.stewardBusy (s : State) (f : Nat) (cs : List Coord) : Bool :=
  let site := gallerySite f
  (s.net.any fun x => x.src == site && (match x.msg, x.dest with
    | .packet _, .tile c => cs.contains c
    | _, _ => false)) || cs.any fun c => (s.tileAt c).balSrc.any (·.src == site)

/-- INITIAL_PACKET_WAVE (R66 step 6): with every packet of the earlier waves accepted, the packets of the lowest wave left are injected
in record order. A coordinate header names the tile the packet goes to. -/
def execInitialPacketWave (hall : Nat) (s : State) : Out :=
  let h := s.hallOf hall
  let f := s.loader hall
  let (cs, x0, y0) := s.placementTiles hall
  match h.waves with
  | [] => .next s
  | (_, _, w0, _) :: rest =>
    if s.stewardBusy f cs then .next s
    else
      let w := rest.foldl (fun (m : Nat) (_, _, k, _) => min m k) w0
      let send (s : State) (q : Nat × Nat × Nat × Packet) : State :=
        let c : Coord := ⟨x0 + q.1, y0 + q.2.1⟩
        let p := q.2.2.2
        let d : Word := if hdrNamed p.word0 then p.word0 &&& 0xFFFFFFFF00000000 else (coordDest c).zeroExtend 64 <<< 32
        s.stewardPacket f (if hall < 64 then some hall else none) c (hdrVc p.word0) { p with word0 := (p.word0 &&& 0xFFFFFFFF) ||| d }
      let s1 := s.setHall hall { h with waves := h.waves.filter fun (_, _, k, _) => k != w }
      .next ((h.waves.filter fun (_, _, k, _) => k == w).foldl send s1)

/-! ### Wafer reset and the boot registers -/

/-- BOOTST fields (R460). -/
def bootFails (w : Word) : Nat := (w.extractLsb' 2 2).toNat
def bootOk (w : Word) : Bool := w.getLsbD 1
def bootFull (w : Word) : Bool := w.getLsbD 16
/-- BOOTST with its fields. -/
def bootWord (reason : BitVec 8) (bank fast full : Bool) (fails : Nat) (ok restored : Bool) : Word :=
  (reason.zeroExtend 64 <<< 24) ||| (if bank then 0x40000 else 0) ||| (if fast then 0x20000 else 0) ||| (if full then 0x10000 else 0) |||
    BitVec.ofNat 64 (4 * (fails % 4)) ||| (if ok then 2 else 0) ||| (if restored then 1 else 0)

/-- What a wafer reset keeps (R458, R460, R462, R468): the fuses and the flash with its banks and logs, BOOTST, edge memory with its images
where it is retained, and what is still to happen. Everything else is at reset. -/
def State.waferReset (s : State) (retained : Bool) : State :=
  let edge (k : Nat) : Bool := retained && decide (k < 0x800000000000)
  let r := State.reset
  let b := s.boot
  { r with mem := s.mem.filter fun x => edge x.1, desc := s.desc.filter fun x => edge (64 * x.1), bad := s.bad.filter fun w => edge (8 * w),
           soft := s.soft.filter fun w => edge (8 * w), agenda := s.agenda,
           boot := { Boot.reset with bootst := b.bootst, keyDigest := b.keyDigest, minVer := b.minVer, flash := b.flash, uart := b.uart,
                                     resets := b.resets, image := if retained then b.image else none } }

/-! ### Banks and modes (R457, R458, R461) -/

/-- Where the banks lie in the flash (R457), B = true, and what a bank's header says. -/
def bankBase (bankB : Bool) : Nat := if bankB then 0x0C000000 else 0
def bankSize : Nat := 192 * 2 ^ 20
def Boot.bankVersion (b : Boot) (bankB : Bool) : Nat := b.flashNat (bankBase bankB + 4) 4
def Boot.bankLength (b : Boot) (bankB : Bool) : Nat := b.flashNat (bankBase bankB + 8) 8

/-- The header has the form of R457: MAGIC, a LENGTH of at most 191 MiB that holds the key, and zero bytes. -/
def Boot.bankForm (b : Boot) (bankB : Bool) : Bool :=
  b.flashNat (bankBase bankB) 4 == 0x5A314246 && decide (1024 ≤ b.bankLength bankB ∧ b.bankLength bankB ≤ 191 * 2 ^ 20) &&
    (b.flashBytes (bankBase bankB + 80) 432).all (· == 0)

/-- The checks of R458 but for MINVER: the form, the key's digest against the fuses, the signature over bytes 0 to 511 under that key, and the
body's digest. The key is its modulus and its exponent, of 512 bytes each, big-endian as is the signature (DESIGN CHOICE, log 73). -/
def Boot.bankSigned (b : Boot) (bankB : Bool) : Bool :=
  let k := bankBase bankB
  let key := b.flashBytes (k + 1024) 1024
  b.bankForm bankB && beNat (sha512 key) == b.keyDigest.toNat &&
    rsaVerifies (beNat (key.take 512)) (beNat (key.drop 512)) (b.flashBytes k 512) (b.flashBytes (k + 512) 512) &&
    sha512 (b.flashBytes (k + 1024) (b.bankLength bankB)) == b.flashBytes (k + 16) 64
/-- The bank is valid (R458). -/
def Boot.bankValid (b : Boot) (bankB : Bool) : Bool := b.bankSigned bankB && decide (b.minVer.toNat ≤ b.bankVersion bankB)

/-- What Pralodun boots (R458): bank B or A, or the reason why none (R461). -/
def Boot.pickBank (b : Boot) : Except (BitVec 8) Bool :=
  if b.bankValid false && (!b.bankValid true || decide (b.bankVersion true ≤ b.bankVersion false)) then .ok false
  else if b.bankValid true then .ok true
  else .error (if b.bankSigned false || b.bankSigned true then 2 else 1)

/-- The reason for minimal mode, if any (R461). -/
def Boot.minimalReason (b : Boot) (x : BootFindings) (fails : Nat) : Option (BitVec 8) :=
  if fails = 3 then some 3
  else match b.pickBank with
    | .error r => some r
    | .ok _ =>
      if !x.selfTestField0 then some 4
      else if !x.calibrated then some 5
      else if b.logInUse.isNone && !x.completed then some 6
      else none

/-! ### The maps of a boot (R459, R462) -/

/-- Places that the log holds for a stair in a kind. -/
def logPlaces (l : List Word) (f st kind : Nat) : List Nat :=
  (l.filter fun r => logField r == f && logStair r == st && logKind r == kind).map logPlace

/-- Places for the logical places that are left, in order: its own, or the next where that has failed or is taken. -/
def assignPlaces (failed : List Nat) : Nat → List Nat → List (Nat × Nat)
  | _, [] => []
  | free, l :: r =>
    let p := if l < free ∨ failed.contains l then l + 1 else l
    (l, p) :: assignPlaces failed (p + 1) r

/-- A stair as the log left it. A failed landing moves nothing, and leaves it EXHAUSTED (R451). -/
def State.restoreStair (s : State) (f st : Nat) : State :=
  let failed := logPlaces s.boot.flog f st 0
  let gone := logPlaces s.boot.flog f st 1
  let cs := stairCoords f st
  let s1 := (cs.filter fun c => gone.contains (logicalPlace c)).foldl (fun (s : State) c =>
    s.mapTileAt c fun t => { t with absent := true, dispatchOn := false }) s
  let left := cs.filter fun c => !gone.contains (logicalPlace c)
  let places := assignPlaces failed 0 (left.map logicalPlace)
  let s2 := left.foldl (fun (s : State) c =>
    s.mapTileAt c fun t => { t with prow := 29 * (st / 128) + unitGet (logicalPlace c) places (logicalPlace c) }) s1
  if failed.isEmpty && gone.isEmpty then s2
  else s2.setStair f st (if gone.isEmpty && decide (failed.length ≤ 1) && !failed.contains 28 then 2 else 3) (failed.headD 31) none

/-- The route exceptions round the galleries, which boot writes into every router (R16, R121). -/
def State.writeGalleryMaps (s : State) : State :=
  let s1 : State := { s with boot := { s.boot with mapped := true } }
  s1.listed.foldl (fun (s : State) x => s.mapTileAt x.1 fun t => { t with pr := { t.pr with rtex := rtexOf (galleryRtex x.1) } }) s1

/-- Every stair's state, then the detours and withdrawn blocks, from the log (R459 step 3). -/
def State.restoreMaps (s : State) : State :=
  let stairs := (s.boot.flog.map fun r => (logField r, logStair r)).eraseDups
  let s1 := stairs.foldl (fun (s : State) (f, st) => s.restoreStair f st) s
  let s2 := ((s1.boot.flog.filter fun r => logKind r == 1).map logCoord).foldl (fun (s : State) c => s.avoid c) s1
  ((s2.boot.flog.filter fun r => logKind r == 2).map logCoord).foldl (fun (s : State) c => (s.holdBlock c).1) s2

/-! ### BOOT -/

/-- The positions that a boot's tests fail (R459): those of the links in a fast boot; in a full one also the tiles and routers, and, for an
edge port whose memory training fails, the site by which the port is named (DESIGN CHOICE, log 64). -/
def positionsFailed (x : BootFindings) (full : Bool) : List Coord :=
  (if full then x.failed else []) ++ x.links ++ (if full then x.ports.map portSite else [])

/-- Step 4 of R459: what the tests fail is a failure under R451. -/
def State.testWafer (s : State) (x : BootFindings) (full : Bool) : State :=
  let s1 := (positionsFailed x full).foldl (fun (s : State) c => if isCompute c && !(s.tileAt c).absent then s.failTile c none else s) s
  if full then x.places.foldl (fun (s : State) l => s.failPlace l) s1 else s1

/-- Step 6 of R459: the bank's image is loaded into the harts of gallery (0, 0). -/
def State.loadHarts (s : State) (bankB : Bool) : State :=
  (List.range 16).foldl (fun (s : State) a => s.setHartAt a { s.hartAt a with image := some bankB }) s

/-- A boot (R459 to R462, R470), BOOTST being `old` and `fails` boots having failed before it: a wafer reset, then the log, the maps, the tests,
the images and the harts, or minimal mode. A boot is full when the one before it failed, by its watchdog or in minimal mode; FULLREQ is
used up by the boot it asks for (DEDUCED, log 64). -/
def State.bootFrom (s : State) (x : BootFindings) (old : Word) (fails : Nat) (failed : Bool) : State :=
  let s0 := s.waferReset x.retained
  let log := s0.boot.logInUse
  let full := bootFull old || log.isNone || failed
  let s1 : State := { s0 with boot := { s0.boot with flog := (log.map (·.2)).getD [] } }
  match s1.boot.minimalReason x fails, s1.boot.pickBank with
  | none, .ok bank =>
    let s2 : State := { s1 with boot := { s1.boot with bootst := bootWord (old.extractLsb' 24 8) bank (!full) false fails false false } }
    let s3 := s2.writeGalleryMaps.restoreMaps
    let s4 := match s3.boot.image with
      | some i => if s3.headersHold i.seq then s3.putImage i else s3
      | none => s3
    (s4.testWafer x full).loadHarts bank
  | reason, _ =>
    let r := reason.getD 1
    let w := bootWord r (old.getLsbD 18) (!full) false fails false false
    { s1 with boot := { s1.boot with bootst := w, minimal := some r, uart := s1.boot.uart ++ [r] } }

/-- BOOT (R459): the wafer is powered or reset. BOOTST is lost with module power (R460), and a reset out of minimal mode leaves FAILS 0
(R461). -/
def execBoot (x : BootFindings) (s : State) : Out :=
  let lost := x.powerCycle || !s.boot.powered
  let old : Word := if lost then 0 else s.boot.bootst
  let fails := if s.boot.minimal.isSome then 0 else bootFails old
  .next (s.bootFrom x old fails (fails != 0 || (!lost && s.boot.minimal.isSome)))

/-- BOOT_WATCHDOG (R460): OK is still 0 at tick 2^16·UNITS; FAILS rises, the wafer resets and boots again. What the tests of that boot find
is free (DESIGN CHOICE, log 64); edge memory has its power throughout. In minimal mode nothing is watched. -/
def execBootWatchdog (s : State) : Out :=
  let b := s.boot
  if bootOk b.bootst || b.minimal.isSome || decide (s.wtime.toNat < 65536 * b.boottmo.toNat) then .next s
  else
    let s1 : State := { s with boot := { b with resets := b.resets + 1 } }
    .next (s1.bootFrom { Config.findings b.resets with retained := true } b.bootst (min 3 (bootFails b.bootst + 1)) true)

/-- BOOT_OK (R460): OK := 1 clears FAILS, and the watchdog stops. -/
def execBootOk (s : State) : Out :=
  .next { s with boot := { s.boot with bootst := (s.boot.bootst ||| 2) &&& ~~~(0xC : Word) } }

/-- TFTP_STATUS_READ (R461): in minimal mode a read of "status" returns BOOTST. -/
def execTftpStatusRead (s : State) : Out :=
  if s.boot.minimal.isSome then .next { s with boot := { s.boot with tftpStatus := some s.boot.bootst } } else .next s

/-- TFTP_BANK_WRITE (R461): in minimal mode a write of "bank-a" or "bank-b" replaces that bank: the rest of it is erased. The next boot checks
it. -/
def execTftpBankWrite (bankB : Bool) (image : List (BitVec 8)) (s : State) : Out :=
  let k := bankBase bankB
  let erased : Boot := { s.boot with flash := s.boot.flash.filter fun x => !decide (k ≤ x.1 ∧ x.1 < k + bankSize) }
  .next (if s.boot.minimal.isSome then { s with boot := erased.flashWrite k (image.take bankSize) } else s)

/-- FEATURE_ACCEPT (R463): FEATACC0 or FEATACC1 is written once per boot, with offered features only. -/
def execFeatureAccept (hi : Bool) (v : Word) (s : State) : Out :=
  match s.boot.acceptFeatures hi v with
  | some b => .next { s with boot := b }
  | none => .next s

/-! ### Checkpoints -/

def Boot.ckState (b : Boot) : Nat := (b.ckctl.extractLsb' 60 2).toNat
def Boot.setCkState (b : Boot) (n : Nat) : Boot :=
  { b with ckctl := (b.ckctl &&& 0xCFFFFFFFFFFFFFFF) ||| BitVec.ofNat 64 (n * 2 ^ 60) }

/-- Every compute position of the wafer. -/
def computeCoords : List Coord :=
  (List.range Config.gridH).flatMap fun y => ((List.range Config.gridW).map fun x => (⟨x, y⟩ : Coord)).filter isCompute

/-- Parks every live tile for a checkpoint whose GO has been written (R469). -/
def State.parkForCheckpoint (s : State) : State :=
  let live := computeCoords.filter fun c => !(s.tileAt c).absent && (s.tileAt c).pstate == 0
  let s1 := live.foldl (fun (s : State) c => s.startPark c false) s
  { s1 with boot := { s1.boot with ckParked := live, goPending := false } }

/-- CHECKPOINT_GO (R469, R471): a write of GO, or one already written, starts a checkpoint by parking every live tile; GO during a
checkpoint is ignored. -/
def execCheckpointGo (s : State) : Out :=
  if s.boot.goPending then .next s.parkForCheckpoint
  else if s.boot.ckState = 0 ∨ s.boot.ckState = 3 then
    .next ({ s with boot := s.boot.putCkctl ((s.boot.ckctl &&& 0x40000000FFFFFFFF) ||| 0x8000000000000000) } : State).parkForCheckpoint
  else .next s

/-- Parking is done (R469): every tile is PARKED, the copy engines have finished and no gang is in flight. -/
def State.parkingDone (s : State) : Bool :=
  s.listed.all fun (c, t) => !isCompute c || t.absent ||
    (t.pstate == 2 && t.copies.isEmpty && !(t.ops.any fun o => o.eng == .copy) && !t.gangOpen)

/-- CHECKPOINT_WRITING (R469): with parking done, images are being written; no older image is complete any more. -/
def execCheckpointWriting (s : State) : Out :=
  if s.boot.ckState = 1 ∧ !s.boot.goPending ∧ s.parkingDone then
    .next { s.voidHeaders with boot := { s.boot.setCkState 2 with image := none } }
  else .next s

/-- The tiles that a checkpoint parked are unparked, if RESUME is set (R469): once. -/
def State.resumeParked (s : State) : State :=
  if s.boot.ckctl.getLsbD 62 then
    (s.boot.ckParked.filter fun c => (s.tileAt c).pstate == 2).foldl (fun (s : State) c => s.unpark c)
      { s with boot := { s.boot with ckParked := [] } }
  else s

/-- CHECKPOINT_DONE (R469): every slot is written, then every header with COMPLETE last; with RESUME, also when it is written after DONE, the
tiles that were LIVE are unparked. The tiles declared dead meanwhile fail now (R471). -/
def execCheckpointDone (s : State) : Out :=
  if s.boot.ckState = 2 then
    let i := s.takeImage
    let s1 : State := { s.writeSlots.writeHeaders i with boot := { s.boot.setCkState 3 with cktime := s.wtime, image := some i } }
    .next s1.resumeParked.failDoomed
  else .next (if s.boot.ckState = 3 ∧ !s.boot.ckParked.isEmpty then s.resumeParked else s)

/-! ### Power and debug -/

/-- Ticks of the 12 ms for which the supervisor holds power (R470, R4). -/
def holdTicks : Nat := 480000

/-- The supervisor at a failing supply (R470): it writes GO; 12 ms later at the earliest, power goes. -/
def State.supplyFails (s : State) : Out :=
  match s.boot.failAt with
  | none => execCheckpointGo { s with boot := { s.boot with failAt := some s.wtime } }
  | some t => if holdTicks ≤ (s.wtime - t).toNat then .next { s with boot := { s.boot with powered := false } } else .next s

/-- POWER_FAIL (R470). -/
def execPowerFail (s : State) : Out := s.supplyFails

/-- OVER_TEMPERATURE (R473): a sensor above 110 °C, or loss of coolant flow, triggers the power-fail supervisor. -/
def execOverTemperature (s : State) : Out := s.supplyFails

/-- JTAG_UNLOCK (R472): what the JTAG port shifts. A token whose signature verifies enables the debug transport until the next wafer reset;
IDCODE, BYPASS and boundary scan are offered at all times (what IDCODE and the pins read is free: DESIGN CHOICE, log 7). -/
def execJtagUnlock (scan : JtagScan) (s : State) : Out :=
  let b := s.boot
  .next { s with boot := match scan with
    | .unlock valid => { b with jtag := b.jtag || valid }
    | .idcode => { b with jtagData := Config.idcode.zeroExtend 64 }
    | .bypass bit => { b with jtagData := (BitVec.ofBool bit).zeroExtend 64 }
    | .sample => { b with jtagData := Config.pins s.wtime.toNat } }

end Sys2Proof.Machine
end

