-- ==== Sys2Proof/Machine/Command.lean ====
section
/-! DEFINITION. Management commands where they arrive (R383, R384, R413, R451): the OP is decoded, and the command is carried out without a
thread. A tile, the port at its coordinate and its field's repair engine each carry theirs out in the order of their arrival; one that cannot
be carried out yet holds up those behind it in its own order only. -/

namespace Sys2Proof.Machine

/-- A command that has arrived at the focus tile cannot be carried out yet. -/
def State.commandWaits (s : State) (op : BitVec 8) (c : MgmtCmd) : Bool :=
  match op.toNat with
  | 0x02 => s.writeWaits c.reg.toNat
  | 0x03 | 0x04 => s.threadWaits c (·.stopped)
  | 0x05 => s.threadWaits c (·.killable)
  | 0x06 => s.threadWaits c (·.haltable)
  | 0x07 => s.threadWaits c (· == .halt)
  | 0x10 | 0x11 => match s.portHere, granuleOf c.value with
    | some p, some (sp, g) => (s.port p).replaying sp g
    | _, _ => false
  | 0x12 => s.portHere.any fun p => s.shootWaits p c.value
  | 0x22 => s.tile.hallop.isSome || s.net.any fun f => f.atTile s.foc && (match f.msg with
    | .hallop _ _ => true
    | _ => false)
  | 0x23 => s.tile.pstate == 1
  | 0x30 => s.checkpointing
  | _ => false

/-- SHOOT at one port, which carries it out alone (R413, R416). -/
def shootHere (c : MgmtCmd) (s : State) : Out :=
  match s.portHere with
  | some p => .next ((s.invalidate p c.value).answerFrom (s.portEntry p) c 0 0)
  | none => .next (s.cmdAnswer c 2 0)

/-- Carries out a command at the focus tile (R383, R413, R419, R431, R451); any other OP has status 2. -/
def carryOut (op : BitVec 8) (c : MgmtCmd) (s : State) : Out :=
  match op.toNat with
  | 0x01 => execRead c s
  | 0x02 => if c.reg = 0x103 then execNameWrite c s else execWrite c s
  | 0x03 => execResume c s
  | 0x04 => execRedirect c s
  | 0x05 => execKill c s
  | 0x06 => execHaltCommand c s
  | 0x07 => execStep c s
  | 0x08 => execUnion c s
  | 0x10 => execRetry c s
  | 0x11 => execDeny c s
  | 0x12 => shootHere c s
  | 0x20 => execPark c s
  | 0x21 => execUnpark c s
  | 0x22 => execHallop c s
  | 0x23 => execQuery c s
  | 0x30 => execRepair c s
  | _ => .next (s.cmdAnswer c 2 0)

/-- Who carries out a command that has come to a coordinate: the tile, the port or IOMMU that is attached there (R413), or the repair
engine (R451). -/
inductive CommandLane where
  | tile | port | repair
  deriving DecidableEq, Repr

/-- An operation of a port: RETRY, DENY, SHOOT, or a READ or WRITE of a register 0x500 to 0x5FF (R413). -/
def ofPort (op : BitVec 8) (c : MgmtCmd) : Bool :=
  decide (0x10 ≤ op.toNat ∧ op.toNat ≤ 0x12) || ((op == 0x01 || op == 0x02) && decide (0x500 ≤ c.reg.toNat ∧ c.reg.toNat < 0x600))

/-- Who carries out a command at the focus tile. -/
def State.commandLane (s : State) (op : BitVec 8) (c : MgmtCmd) : CommandLane :=
  if op = 0x30 then .repair
  else if ofPort op c && (s.portHere.isSome || s.ueHere.isSome) then .port
  else .tile

/-- The first command of a lane that has arrived at the focus tile, unless it has to wait. -/
def State.commandHere (s : State) (l : CommandLane) : Option (Flight × BitVec 8 × MgmtCmd) :=
  (firstOf (s.net.filter fun f => f.atTile s.foc && (match f.msg with
    | .command op c => s.commandLane op c == l
    | _ => false))).bind fun f => match f.msg with
  | .command op c => if s.commandWaits op c then none else some (f, op, c)
  | _ => none

/-- Carries out a command that has come as a message. Its store has waited since MW1 was written: one that has timed out waits no more
(R385). An UNPARK that comes while the tile is RESTORING is not the one that goes on there (R419). -/
def carryOutArrived (op : BitVec 8) (c : MgmtCmd) (s : State) : Out :=
  let w := (s.cmdPort c.agent).waiting
  match (if op = 0x21 ∧ s.tile.pstate = 3 then .next (s.cmdAnswer c 3 0) else carryOut op c s) with
  | .next s1 => .next (s1.setCmdPort c.agent { s1.cmdPort c.agent with waiting := w })
  | o => o

/-- PACKET_ARRIVAL: a management command that has arrived is carried out; else the oldest unchecked packet of the inbox is queued for
dispatch, or consumed and reported (R35, R382). -/
def execPacketArrival (s : State) : Out :=
  match [CommandLane.tile, .port, .repair].findSome? s.commandHere with
  | some (f, op, c) => carryOutArrived op c { s with net := s.net.erase f }
  | none => checkPacket s

end Sys2Proof.Machine
end

