-- ==== Sys2Proof/Machine/Control.lean ====
section
/-! DEFINITION. Predicates, control transfer, the return store, hardware loops and the stack (R201 to R209). -/

namespace Sys2Proof.Machine

/-- PAND (R201). -/
def execPand (d a b : PReg) (s : State) : Out := .next ((s.setP d (s.pr a && s.pr b)).retire 1)
/-- POR (R201). -/
def execPor (d a b : PReg) (s : State) : Out := .next ((s.setP d (s.pr a || s.pr b)).retire 1)
/-- PXOR (R201). -/
def execPxor (d a b : PReg) (s : State) : Out := .next ((s.setP d (s.pr a ^^ s.pr b)).retire 1)
/-- PANDN (R201). -/
def execPandn (d a b : PReg) (s : State) : Out := .next ((s.setP d (s.pr a && !s.pr b)).retire 1)
/-- PNOT (R201). -/
def execPnot (d a : PReg) (s : State) : Out := .next ((s.setP d (!s.pr a)).retire 1)
/-- The PPACK layout of the predicates (R201). -/
def Thread.ppack (t : Thread) : Word := (t.p ||| 1).zeroExtend 64
/-- PPACK (R201). -/
def execPpack (d : GReg) (s : State) : Out := .next ((s.setG d s.th.ppack).retire 1)
/-- All seven predicates in one step (R201). -/
def Thread.punpk (t : Thread) (w : Word) : Thread := { t with p := w.setWidth 8 ||| 1 }
/-- PUNPK (R201). -/
def execPunpk (a : GReg) (s : State) : Out := .next ((s.mapTh (·.punpk (s.gr a))).retire 1)

/-! ### Transfers -/

/-- A transfer to t words, or SRAM_BOUND outside 0..4095 (R167, R202). -/
def transferTo (t : Int) (s : State) (k : BitVec 12 → Out) : Out :=
  if t < 0 ∨ 4095 < t then .next (s.trap Cause.sramBound (BitVec.ofInt 64 t)) else k (BitVec.ofNat 12 t.toNat)

/-- Target of a B or J form (R167). -/
def relTarget (s : State) (off : Int) : Int := s.th.pc.toNat + off

/-- BR (R202): taken when p xor neg; the hint is timing only (R171). -/
def execBr (p : PReg) (neg _hint : Bool) (off : BitVec 19) (s : State) : Out :=
  if s.pr p != neg then transferTo (relTarget s off.toInt) s fun t => .next (s.jump t) else .next (s.retire 1)
/-- JMP (R202). -/
def execJmp (off : BitVec 24) (s : State) : Out := transferTo (relTarget s off.toInt) s fun t => .next (s.jump t)
/-- JMPR (R202). -/
def execJmpr (a : GReg) (s : State) : Out := transferTo (s.gr a).toNat s fun t => .next (s.jump t)

/-- Pushes PC + 1 as the newest entry of the return store (R204); of word 4095 the 12 bits of the entry hold 0 (DESIGN CHOICE, log 26). -/
def Thread.pushRet (t : Thread) (old : List (BitVec 12)) : Thread := { t with rstore := old ++ [BitVec.ofNat 12 (t.pc.toNat + 1)] }

/-- CALL and CALLR (R204, R366): spills the oldest entry, as a thread store, when the store holds eight. -/
def calling (t : BitVec 12) (s : State) : Out :=
  match s.th.rstore with
  | oldest :: rest =>
    if s.th.rstore.length < 8 then .next ((s.mapTh (·.pushRet s.th.rstore)).jump t)
    else
      let a : Int := s.th.rsp.toNat - 8
      if a < s.th.rslim.toNat then .next (s.trapWith Cause.stackLimit (BitVec.ofInt 64 a) s.th.rsp s.th.rslim 8 0)
      else storing s a 8 (oldest.zeroExtend 64) fun s =>
        .next ((s.mapTh fun h => ({ h with rsp := BitVec.ofInt 64 a }).pushRet rest).jump t)
  | [] => .next ((s.mapTh (·.pushRet [])).jump t)

/-- CALL (R202, R204). -/
def execCall (off : BitVec 24) (s : State) : Out := transferTo (relTarget s off.toInt) s fun t => calling t s
/-- CALLR (R202, R204). -/
def execCallr (a : GReg) (s : State) : Out := transferTo (s.gr a).toNat s fun t => calling t s

/-- RET (R205): the newest entry, else the spill word at RSP under the rules of a load. -/
def execRet (s : State) : Out :=
  match s.th.rstore.getLast? with
  | some t => .next ((s.mapTh fun h => { h with rstore := h.rstore.dropLast }).jump t)
  | none =>
    if s.th.rsbase.toNat ≤ s.th.rsp.toNat then .next (s.trapWith Cause.returnUnderflow s.th.rsp s.th.rsp s.th.rsbase 0 0)
    else loading s s.th.rsp.toNat 8 fun w => .next ((s.mapTh fun h => { h with rsp := h.rsp + 8 }).jump (w.setWidth 12))

/-- LOOP (R206). -/
def execLoop (a : GReg) (n : BitVec 10) (s : State) : Out :=
  let pc := s.th.pc.toNat
  if s.th.loop.active then .next s.trapIllegal
  else if 4095 < pc + n.toNat then .next (s.trap Cause.sramBound (BitVec.ofNat 64 (pc + n.toNat)))
  else
    let k : BitVec 32 := (s.gr a).setWidth 32
    if k = 0 then .next (s.retire (n.toNat + 1))
    else .next ((s.mapTh fun t =>
      { t with pc := t.pc + 1, loop := ⟨true, BitVec.ofNat 12 (pc + n.toNat), BitVec.ofNat 12 (pc + 1), k⟩ }).retired)

/-! ### Stack (R209) -/

/-- ALLOC and FREE by 16·m: the new g31, or MISALIGN or STACK_LIMIT with the operands of R366. -/
def stackMove (m : BitVec 14) (new : Int) (limit : Word) (bad : Bool) (s : State) : Out :=
  let step : Word := BitVec.ofNat 64 (16 * m.toNat)
  if (s.gr 31).toNat % 16 ≠ 0 then .next (s.trapWith Cause.misalign (s.gr 31) (s.gr 31) 0 step 0)
  else if bad then .next (s.trapWith Cause.stackLimit (BitVec.ofInt 64 new) (s.gr 31) limit step 0)
  else .next ((s.setG 31 (BitVec.ofInt 64 new)).retire 1)

/-- ALLOC (R209). -/
def execAlloc (m : BitVec 14) (s : State) : Out :=
  let new : Int := (s.gr 31).toNat - 16 * m.toNat
  stackMove m new s.th.slim (new < s.th.slim.toNat) s
/-- FREE (R209). -/
def execFree (m : BitVec 14) (s : State) : Out :=
  let new : Int := (s.gr 31).toNat + 16 * m.toNat
  stackMove m new 0x10000 (0x10000 < new) s

end Sys2Proof.Machine
end

