-- ==== Sys2Proof/Machine/Tree.lean ====
section
/-! DEFINITION. The search-tree unit (R328 to R355): nodes and chains, what each operation does when the unit runs it, the packets it
forwards, and the issue of every instruction of major 0x35. -/

namespace Sys2Proof.Machine

/-! ### Nodes (R328 to R332) -/

/-- A node's header or an edge. -/
abbrev Rec128 := BitVec 128

/-- Replaces w bits at lo. -/
def putBits (h : Rec128) (lo w v : Nat) : Rec128 :=
  (h &&& ~~~(BitVec.ofNat 128 ((2 ^ w - 1) * 2 ^ lo))) ||| BitVec.ofNat 128 (v % 2 ^ w * 2 ^ lo)
def getBits (h : Rec128) (lo w : Nat) : Nat := h.toNat / 2 ^ lo % 2 ^ w

def hNsum (h : Rec128) : Nat := getBits h 0 32
def hNchild (h : Rec128) : Nat := getBits h 32 8
def hExpanded (h : Rec128) : Bool := h.getLsbD 40
def hTerminal (h : Rec128) : Bool := h.getLsbD 41
def hRoot (h : Rec128) : Bool := h.getLsbD 42
def hPending (h : Rec128) : Bool := h.getLsbD 43
def hFreed (h : Rec128) : Bool := h.getLsbD 44
def hExtended (h : Rec128) : Bool := h.getLsbD 45
def hCont (h : Rec128) : Bool := h.getLsbD 46
def hPslot (h : Rec128) : Nat := getBits h 48 4
def hClass (h : Rec128) : Nat := getBits h 52 4
def hDepth (h : Rec128) : Nat := getBits h 56 8
def hParent (h : Rec128) : Nat := getBits h 64 32
def hStep (h : Rec128) : Nat := getBits h 96 32

def eN (e : Rec128) : Nat := getBits e 0 32
def eW (e : Rec128) : Nat := getBits e 32 32
def eP (e : Rec128) : Nat := getBits e 64 16
def eVl (e : Rec128) : Nat := getBits e 80 16
def eChild (e : Rec128) : Nat := getBits e 96 32

/-- The pending mark (R328). -/
def pendMark : Nat := 0xFFFFFFFF
/-- Slots of a node of class c (R329). -/
def slotsOf (c : Nat) : Nat := 4 * 2 ^ c - 1

/-- A node that has been read: its local address and header. -/
structure TNode where
  addr : Nat
  hdr : Rec128
  deriving DecidableEq, Repr, Inhabited

def TNode.slots (n : TNode) : Nat := slotsOf (hClass n.hdr)
/-- Edges held in the node itself (R331). -/
def TNode.held (n : TNode) : Nat := if hExtended n.hdr then n.slots - 1 else min (hNchild n.hdr) n.slots
/-- Local address of slot i (R329). -/
def slotAddr (a i : Nat) : Nat := a + 16 * (i + 1)

def State.rec128 (s : State) (a : Nat) : Rec128 := BitVec.ofNat 128 (Memory.readN s.mem (s.pa a) 16)

/-- X and Y of the focus tile as a handle with granule 0; none where the tile has no hall (R328, R339). -/
def State.ownHandle (s : State) : Option Nat :=
  if s.tile.sys then none
  else
    let (x0, y0, _, _) := s.hallBox s.tile.hid.toNat
    some (((s.foc.y - y0) % 2048) * 2 ^ 21 + ((s.foc.x - x0) % 2048) * 2 ^ 10)

/-- TREE_STATE with the handle as operand 0 and the code as operand 1 (R339). -/
def treeFail {α : Type} (h code : Nat) : Chk α := .error ⟨Cause.treeState, 0, BitVec.ofNat 64 h, BitVec.ofNat 64 code, none⟩

/-- Some window's range touches the n bytes at a. -/
def Tile.inWindows (t : Tile) (a n : Nat) : Bool := (List.range ((a % 64 + n + 63) / 64)).any fun i => t.window_ (a / 64 + i) != .out

/-- Reads a line of a node (R332). -/
def State.nodeLine (s : State) (a : Nat) : Chk Line := do
  let (l, d) ← s.readLine (s.engineRead a) (BitVec.ofNat 64 a)
  need (dLegal d && dValid d && dFormat d == .node) Cause.formatMismatch 0
  pure l

/-- Reads the node at granule g, its first line first (R339 step 3); `ext` asks for an extension and `h` is the handle to report. -/
def State.readNode (s : State) (g h : Nat) (ext : Bool) : Chk TNode := do
  let a := 64 * g
  let l ← s.nodeLine a
  let hdr : Rec128 := l.extractLsb' 0 128
  let c := hClass hdr
  if 2 < c then treeFail h 7
  else
    let n := 64 * 2 ^ c
    if g % 2 ^ c ≠ 0 ∨ 0x10000 < a + n ∨ s.tile.inEntries a n ∨ s.tile.inWindows a n ∨ (ext && !hCont hdr) then treeFail h 7
    else
      let _ ← ((List.range (2 ^ c)).drop 1).mapM fun i => s.nodeLine (a + 64 * i)
      pure ⟨a, hdr⟩

/-- A handle names a granule of this tile. -/
def ownGranule (own h : Nat) : Bool := decide (h / 1024 = own / 1024 ∧ h % 1024 ≠ 0)

/-- The extensions after a node, at most `fuel` of them (R331). -/
def State.readChain (s : State) (own base : Nat) : Nat → TNode → Chk (List TNode)
  | 0, n => if hExtended n.hdr then treeFail base 7 else pure [n]
  | k + 1, n =>
    if hExtended n.hdr then do
      let lk := eChild (s.rec128 (slotAddr n.addr (n.slots - 1)))
      if !ownGranule own lk then treeFail base 7
      else
        let e ← s.readNode (lk % 1024) lk true
        let r ← s.readChain own base k e
        pure (n :: r)
    else pure [n]

/-- The chain of the node at granule g. -/
def State.chainAt (s : State) (own g : Nat) : Chk (List TNode) := do
  let n ← s.readNode g (own + g) false
  s.readChain own (own + g) 1024 n
/-- The chain of a base node: an extension is refused (R339 code 7). -/
def State.baseAt (s : State) (own g : Nat) : Chk (TNode × List TNode) := do
  let ch ← s.chainAt own g
  let b := ch.headD default
  if hCont b.hdr then treeFail (own + g) 7 else pure (b, ch)

/-- Edges of a chain in order: holder's address and slot. -/
def chainEdges (ch : List TNode) : List (Nat × Nat) :=
  (ch.flatMap fun n => (List.range n.held).map fun i => (n.addr, i)).take (hNchild (ch.headD default).hdr)

/-- The holder of an edge reference with its base and the base's chain (R348). -/
def State.holderAt (s : State) (own g : Nat) : Chk (TNode × TNode × List TNode) := do
  let h ← s.readNode g (own + g) false
  let bg := if hCont h.hdr then hParent h.hdr else own + g
  if !ownGranule own bg then treeFail (own + g) 7
  else
    let (b, ch) ← s.baseAt own (bg % 1024)
    pure (h, b, ch)

/-- Step s is older than STEP t (R340). -/
def olderStep (s t : Nat) : Bool := let d := (t + 2 ^ 32 - s) % 2 ^ 32; decide (1 ≤ d ∧ d ≤ 2 ^ 31 - 1)
/-- Stale (R340). -/
def staleAt (hdr : Rec128) (step : Nat) : Bool := hFreed hdr || olderStep step (hStep hdr)

/-! ### Writes, pools and packets -/

/-- Writes 16 bytes of a node. -/
def recEff (a : Nat) (w : Rec128) : Eff :=
  let sh := 8 * (a % 64)
  .merge (a / 64 * 64) ((BitVec.ofNat 512 (2 ^ 128 - 1)) <<< sh) ((w.setWidth 512) <<< sh) none false

def poolHead (p : Word) (c : Nat) : Nat := (p.extractLsb' (10 * c) 10).toNat
def poolCount (p : Word) (c : Nat) : Nat := (p.extractLsb' (10 * c + 30) 10).toNat
/-- Head and count of a class list replaced (R333). -/
def poolPut (p : Word) (c head count : Nat) : Word :=
  let clear : Word := BitVec.ofNat 64 (1023 * 2 ^ (10 * c) + 1023 * 2 ^ (10 * c + 30))
  (p &&& ~~~clear) ||| BitVec.ofNat 64 (head % 1024 * 2 ^ (10 * c) + count % 1024 * 2 ^ (10 * c + 30))

/-- Pops a free node (R343): the node and the pool after it. -/
def State.popNode (s : State) (own : Nat) (p : Word) (c : Nat) : Chk (TNode × Word) := do
  let g := poolHead p c
  need (g != 0 && poolCount p c != 0) Cause.poolEmpty 0
  let n ← s.readNode g (own + g) false
  if !hFreed n.hdr || hClass n.hdr != c then treeFail (own + g) 7
  else pure (n, poolPut p c (hParent n.hdr % 1024) (poolCount p c - 1))

def classNum : NodeClass → Nat
  | .c64 => 0 | .c128 => 1 | .c256 => 2

/-- A forwarded packet (R349): kind 0 backup, 1 abort, 2 free, 3 link, to the owner of h. -/
def State.treePacket (s : State) (q : QOp) (kind h step slot : Nat) (flip keep : Bool) (val : Nat) : Eff :=
  let (x0, y0, _, _) := s.hallBox s.tile.hid.toNat
  let c : Coord := ⟨(x0 + h / 1024 % 2048) % 2048, (y0 + h / 2 ^ 21 % 2048) % 2048⟩
  let r := s.tile.r.treereg
  let vc : BitVec 4 := (r.extractLsb' 40 3).zeroExtend 4
  let entry : BitVec 10 := r.extractLsb' 30 10 + BitVec.ofNat 10 kind
  let w0 := headerWord (coordDest c) s.tile.hid false 0 false q.tcm entry vc 1
  let p0 : Word := BitVec.ofNat 64 (h % 2 ^ 32 + step % 2 ^ 32 * 2 ^ 32)
  let p1 : Word := BitVec.ofNat 64 (h % 1024 + slot % 16 * 2 ^ 10 + (if flip then 2 ^ 14 else 0) + (if keep then 2 ^ 15 else 0) + val % 2 ^ 32 * 2 ^ 32)
  .send ⟨some q.tid, vc, .dest (.tile c), .packet ⟨w0, (s.tile.r.name.setWidth 32).zeroExtend 64, [p0, p1], s.tile.sys⟩, .no⟩

/-- v' of R345 and R348: negated under FLIP; a NaN gives the canonical NaN. -/
def flipVal (flip : Bool) (v : Nat) : Nat :=
  if (fpDecode .fp32 false v).isNaN then 0x7FC00000 else if flip then (v + 2 ^ 31) % 2 ^ 32 else v % 2 ^ 32

/-! ### Selection (R341, R342) -/

def f32 (w : Nat) : Fl FpVal := (fpDecode .fp32 false (w % 2 ^ 32), 0)
/-- An integer converted by rne. -/
def int32 (k : Nat) : Fl FpVal := rne32 (intVal k, 0) 0

/-- U of an edge. -/
def edgeScore (vloss cpuct qinit sq : Fl FpVal) (e : Rec128) : Fl FpVal :=
  let c := eN e + eVl e
  let q := if c = 0 then qinit else div32 (sub32' (f32 (eW e)) (mul32 vloss (int32 (eVl e)))) (int32 c)
  let x := div32 (mul32 (mul32 cpuct (fpDecode .bf16 false (eP e), 0)) sq) (int32 (c + 1))
  add32 q x
where
  /-- A difference by rne. -/
  sub32' (x y : Fl FpVal) : Fl FpVal := add32 x (neg32 y)

/-- The lowest index with the greatest score, NaN below every number (R341). -/
def bestIndex (us : List (Fl FpVal)) : Nat :=
  (((List.range us.length).zip us).foldl (fun (b : Option (Nat × FpVal)) (i, u) =>
    if u.1.isNaN then b
    else match b with
      | none => some (i, u.1)
      | some (_, v) => if fpLtV v u.1 then some (i, u.1) else b) none).elim 0 (·.1)

/-- The hashed target of a new node, as a handle with GRAN = 0 (R342). -/
def hashTarget (reg : Word) (holder slot : Nat) : Nat :=
  let h := (gen 0 (BitVec.ofNat 32 holder) (BitVec.ofNat 32 slot) 0).toNat
  let tx := ((reg.extractLsb' 0 11).toNat + h % 2 ^ (reg.extractLsb' 22 4).toNat) % 2048
  let ty := ((reg.extractLsb' 11 11).toNat + h / 2 ^ 16 % 2 ^ (reg.extractLsb' 26 4).toNat) % 2048
  ty * 2 ^ 21 + tx * 2 ^ 10

/-- TSEL's result word (R342). -/
def selWord (child status edge slot gran : Nat) : Word :=
  BitVec.ofNat 64 (child % 2 ^ 32 * 2 ^ 32 + status * 2 ^ 22 + edge % 256 * 2 ^ 14 + slot % 16 * 2 ^ 10 + gran % 1024)

def runSel (s : State) (q : QOp) (own : Nat) (d : GReg) (a b : Word) : Chk (Flags × List Eff) := do
  let g := a.toNat % 1024
  let step := b.toNat % 2 ^ 32
  let (k, ch) ← s.baseAt own g
  let ret (w : Word) : List Eff := [.ret d w q.words]
  if staleAt k.hdr step then pure (0, ret (selWord 0 5 0 0 g))
  else if hTerminal k.hdr then pure (0, ret (selWord 0 4 0 0 g))
  else if !hExpanded k.hdr then pure (0, ret (selWord 0 3 0 0 g))
  else
    let es := chainEdges ch
    let cfg := s.tile.r.treecfga
    let sq := sqrt32 (int32 (hNsum k.hdr))
    let us := es.map fun (n, i) =>
      edgeScore (f32 (cfg.toNat / 2 ^ 32)) (f32 cfg.toNat) (f32 s.tile.r.treecfgb.toNat) sq (s.rec128 (slotAddr n i))
    let i := bestIndex us
    match es[i]? with
    | none => treeFail (own + g) 3
    | some (n, sl) =>
      let e := s.rec128 (slotAddr n sl)
      if eVl e = 65535 then treeFail (own + g) 4
      else
        let e1 := putBits e 80 16 (eVl e + 1)
        let hg := n / 64
        let fl := us.foldl (fun (f : Flags) u => f ||| u.2) sq.2
        if eChild e = 0 then
          pure (fl, recEff (slotAddr n sl) (putBits e1 96 32 pendMark) ::
            ret (selWord (hashTarget s.tile.r.treereg (own + hg) sl) 1 i sl hg))
        else
          pure (fl, recEff (slotAddr n sl) e1 :: ret (selWord (eChild e) (if eChild e = pendMark then 2 else 0) i sl hg))

/-! ### Growth (R343 to R346) -/

/-- A header (R329). -/
def mkHeader (nsum nchild flags pslot cls depth parent step : Nat) : Rec128 :=
  BitVec.ofNat 128 (nsum % 2 ^ 32 + nchild % 256 * 2 ^ 32 + flags * 2 ^ 40 + pslot % 16 * 2 ^ 48 + cls * 2 ^ 52 + depth % 256 * 2 ^ 56 +
    parent % 2 ^ 32 * 2 ^ 64 + step % 2 ^ 32 * 2 ^ 96)

def runNew (s : State) (q : QOp) (own : Nat) (cls : NodeClass) (d : GReg) (a b c : Word) : Chk (Flags × List Eff) := do
  let parent := a.toNat % 2 ^ 32
  let slot := (a.extractLsb' 32 4).toNat
  let (n, pool) ← s.popNode own s.tile.r.treepool (classNum cls)
  let h := own + n.addr / 64
  let hdr := mkHeader 0 0 (if parent = 0 then 4 else 0) slot (classNum cls) c.toNat parent b.toNat
  pure (0, [recEff n.addr hdr, .treepool pool] ++
    (if parent = 0 then [] else [s.treePacket q 3 parent b.toNat slot false false h]) ++ [.ret d (BitVec.ofNat 64 h) q.words])

/-- Slot of an edge reference (R338). -/
def refSlot (r : Word) : Nat := (r.extractLsb' 10 4).toNat

def runLink (s : State) (q : QOp) (own : Nat) (a b c : Word) : Chk (Flags × List Eff) := do
  let g := a.toNat % 1024
  let sl := refSlot a
  let (h, base, _) ← s.holderAt own g
  let free : List Eff := [s.treePacket q 2 (c.toNat % 2 ^ 32) b.toNat 0 false false 0]
  if staleAt base.hdr (b.toNat % 2 ^ 32) then pure (0, free)
  else if h.held ≤ sl then treeFail (own + g) 3
  else
    let e := s.rec128 (slotAddr h.addr sl)
    pure (0, if eChild e = pendMark then [recEff (slotAddr h.addr sl) (putBits e 96 32 c.toNat)] else free)

/-- The extensions that hold r more edges: class, edges held, and whether the chain continues (R345). -/
def planChain : Nat → Nat → List (Nat × Nat × Bool)
  | 0, _ => []
  | k + 1, r =>
    if r = 0 then []
    else if r ≤ 3 then [(0, r, false)]
    else if r ≤ 7 then [(1, r, false)]
    else if r ≤ 15 then [(2, r, false)]
    else (2, 14, true) :: planChain k (r - 14)

/-- The priors: element i of the lines from a, by rne in BF16 (R345). -/
def State.readPriors (s : State) (a n : Nat) : Chk (List (Nat × Flags)) := do
  let faddr := BitVec.ofNat 64 a
  need (s.linesReadable a 1) Cause.sramBound faddr
  let (_, d0) ← s.readLine (s.engineRead a) faddr
  let f ← checkDesc d0 0 false
  let m := (n + f.count - 1) / f.count
  need (s.linesReadable a m) Cause.sramBound faddr
  let rows ← (List.range m).mapM fun i => do
    let b := a + 64 * i
    let (l, d) ← s.readLine (s.engineRead b) (BitVec.ofNat 64 b)
    let g ← checkDesc d 0 false
    need (g == f) Cause.formatMismatch 0
    pure (lineVals d f l)
  pure ((rows.flatten.take n).map fun v => cvtElem .bf16 false rneMode v)

/-- Pops the planned extensions in chain order. -/
def State.popPlan (s : State) (own : Nat) (p : Word) : List (Nat × Nat × Bool) → Chk (List TNode × Word)
  | [] => pure ([], p)
  | (c, _, _) :: r => do
    let (n, p1) ← s.popNode own p c
    let (ns, p2) ← s.popPlan own p1 r
    pure (n :: ns, p2)

/-- Edge records of one node of a new chain: k edges from edge number i0, then the link (R345). -/
def edgeEffs (ps : List (Nat × Flags)) (a i0 k : Nat) (link : Option (Nat × Nat)) : List Eff :=
  ((List.range k).map fun j => recEff (slotAddr a j) (BitVec.ofNat 128 ((ps.getD (i0 + j) (0, 0)).1 % 2 ^ 16 * 2 ^ 64))) ++
    (match link with
     | some (sl, h) => [recEff (slotAddr a sl) (BitVec.ofNat 128 (h % 2 ^ 32 * 2 ^ 96))]
     | none => [])

/-- The extensions' headers and edges (R345). -/
def extEffs (own base : Nat) (hdr : Rec128) (ps : List (Nat × Flags)) : Nat → List (TNode × Nat × Nat × Bool) → List Eff
  | _, [] => []
  | i0, (n, c, k, more) :: r =>
    let link := match r with
      | (m, _) :: _ => if more then some (slotsOf c - 1, own + m.addr / 64) else none
      | [] => none
    recEff n.addr (mkHeader 0 k (64 + if more then 32 else 0) 0 c (hDepth hdr) base (hStep hdr)) ::
      (edgeEffs ps n.addr i0 k link ++ extEffs own base hdr ps (i0 + k) r)

def runExp (s : State) (q : QOp) (own : Nat) (back flip : Bool) (a b c e : Word) : Chk (Flags × List Eff) := do
  let g := a.toNat % 1024
  let n := c.toNat % 256
  let v := c.toNat / 2 ^ 32
  let step := e.toNat % 2 ^ 32
  let (k, _) ← s.baseAt own g
  let tail (hdr : Rec128) : List Eff :=
    if back && !hRoot hdr then [s.treePacket q 0 (hParent hdr) step (hPslot hdr) flip false (flipVal flip v)] else []
  if staleAt k.hdr step then pure (0, [])
  else if hExpanded k.hdr || hTerminal k.hdr then treeFail (own + g) 5
  else if n = 0 then
    let hdr := putBits (putBits (putBits k.hdr 41 1 1) 43 1 0) 0 32 1
    pure (0, recEff k.addr hdr :: tail hdr)
  else
    let ps ← s.readPriors b.toNat n
    let slots := k.slots
    let plan := if n ≤ slots then [] else planChain 32 (n - (slots - 1))
    let pool := s.tile.r.treepool
    need ([0, 1, 2].all fun cl => decide ((plan.filter fun x => x.1 == cl).length ≤ poolCount pool cl)) Cause.poolEmpty 0
    let (ns, pool1) ← s.popPlan own pool plan
    let ext := !plan.isEmpty
    let k0 := if ext then slots - 1 else n
    let hdr := putBits (putBits (putBits (putBits (putBits k.hdr 32 8 n) 40 1 1) 45 1 (if ext then 1 else 0)) 43 1 0) 0 32 1
    let link := match ns with
      | m :: _ => some (slots - 1, own + m.addr / 64)
      | [] => none
    pure (orFlagsOf ps, edgeEffs ps k.addr 0 k0 link ++
      extEffs own (own + g) k.hdr ps k0 ((ns.zip plan).map fun (m, p) => (m, p.1, p.2.1, p.2.2)) ++
      [recEff k.addr hdr, .treepool pool1] ++ tail hdr)

def runLeaf (s : State) (own : Nat) (d : GReg) (a b c e : Word) : Chk (Flags × List Eff) := do
  let g := a.toNat % 1024
  let (k, _) ← s.baseAt own g
  if staleAt k.hdr (b.toNat % 2 ^ 32) then pure (0, [.g d 0xFFFFFFFFFFFFFFFE])
  else if hExpanded k.hdr || hTerminal k.hdr then treeFail (own + g) 5
  else if hPending k.hdr then pure (0, [.g d 0xFFFFFFFFFFFFFFFF])
  else
    let w0 : Word := BitVec.ofNat 64 (a.toNat % 2 ^ 32 + b.toNat % 2 ^ 32 * 2 ^ 32)
    pure (0, [recEff k.addr (putBits k.hdr 43 1 1), .leaf d c w0 e])

/-! ### Backup and abort (R348) -/

def satInc (n : Nat) : Nat := min (n + 1) (2 ^ 32 - 1)

def runBack (s : State) (q : QOp) (own : Nat) (value : Option Nat) (flip clr : Bool) (a b : Word) : Chk (Flags × List Eff) := do
  let g := a.toNat % 1024
  let sl := refSlot a
  let step := b.toNat % 2 ^ 32
  let (h, base, _) ← s.holderAt own g
  if staleAt base.hdr step then pure (0, [])
  else if h.held ≤ sl then treeFail (own + g) 3
  else
    let e := s.rec128 (slotAddr h.addr sl)
    if eVl e = 0 then treeFail (own + g) 4
    else
      let e1 := putBits e 80 16 (eVl e - 1)
      let up (kind : Nat) (fl : Bool) (v : Nat) : List Eff :=
        if hRoot base.hdr then [] else [s.treePacket q kind (hParent base.hdr) step (hPslot base.hdr) fl false v]
      match value with
      | some v =>
        let w := add32 (f32 (eW e)) (f32 v)
        let e2 := putBits (putBits e1 0 32 (satInc (eN e))) 32 32 (fpRound .fp32 false rneMode w.1).1
        pure (w.2, [recEff (slotAddr h.addr sl) e2, recEff base.addr (putBits base.hdr 0 32 (satInc (hNsum base.hdr)))] ++
          up 0 flip (flipVal flip v))
      | none =>
        let e2 := if clr && eChild e == pendMark then putBits e1 96 32 0 else e1
        pure (0, recEff (slotAddr h.addr sl) e2 :: up 1 false 0)

/-! ### Freeing, roots and reads (R350 to R352) -/

/-- Pushes the nodes of a chain onto their lists, base first (R350): the writes and the pool. -/
def pushNodes (own : Nat) : Word → List TNode → List Eff × Word
  | p, [] => ([], p)
  | p, n :: r =>
    let c := hClass n.hdr
    let head := poolHead p c
    let hdr := putBits (putBits (putBits n.hdr 40 7 0x10) 32 8 0) 64 32 (if head = 0 then 0 else own + head)
    let (es, p2) := pushNodes own (poolPut p c (n.addr / 64) (poolCount p c + 1)) r
    (recEff n.addr hdr :: es, p2)

def runFree (s : State) (q : QOp) (own : Nat) (keep : Bool) (a : Word) : Chk (Flags × List Eff) := do
  let g := a.toNat % 1024
  let sl := refSlot a
  let (h, b, ch) ← if keep then s.holderAt own g else do
    let (b, ch) ← s.baseAt own g
    pure (b, b, ch)
  if hFreed b.hdr then treeFail (own + g) 2
  else if keep ∧ h.held ≤ sl then treeFail (own + g) 3
  else
    let frees := (chainEdges ch).filterMap fun (n, i) =>
      let c := eChild (s.rec128 (slotAddr n i))
      if c = 0 ∨ c = pendMark ∨ (keep ∧ n = h.addr ∧ i = sl) then none else some (s.treePacket q 2 c 0 0 false false 0)
    let (es, pool) := pushNodes own s.tile.r.treepool ch
    let up := if keep && !hRoot b.hdr then [s.treePacket q 2 (hParent b.hdr) 0 (hPslot b.hdr) false true 0] else []
    pure (0, es ++ [.treepool pool] ++ frees ++ up)

def runInit (s : State) (q : QOp) (own : Nat) (cls : NodeClass) (a : Word) : Chk (Flags × List Eff) := do
  let g := a.toNat % 1024
  let c := (classNum cls)
  let n := 64 * 2 ^ c
  let p := s.tile.r.treepool
  if g % 2 ^ c ≠ 0 then treeFail (own + g) 7
  else do
    need (decide (64 * g + n ≤ 0x10000) && !s.tile.inEntries (64 * g) n && !s.tile.inWindows (64 * g) n) Cause.sramBound
      (BitVec.ofNat 64 (64 * g))
    let head := poolHead p c
    let hdr := mkHeader 0 0 0x10 0 c 0 (if head = 0 then 0 else own + head) 0
    let d := mkDesc .node 0x7F 0 q.tcm
    pure (0, ((List.range (2 ^ c)).map fun i => Eff.line (64 * g + 64 * i) (if i = 0 then hdr.setWidth 512 else 0) d) ++
      [.treepool (poolPut p c g (poolCount p c + 1))])

def runRoot (s : State) (q : QOp) (own : Nat) (a b : Word) : Chk (Flags × List Eff) := do
  let g := a.toNat % 1024
  let step := b.toNat % 2 ^ 32
  let (k, _) ← s.baseAt own g
  if hFreed k.hdr then treeFail (own + g) 2
  else if olderStep step (hStep k.hdr) then pure (0, [])
  else if hRoot k.hdr then pure (0, [recEff k.addr (putBits k.hdr 96 32 step)])
  else
    let hdr := putBits (putBits (putBits (putBits (putBits k.hdr 42 1 1) 64 32 0) 48 4 0) 56 8 0) 96 32 step
    pure (0, [recEff k.addr hdr, s.treePacket q 2 (hParent k.hdr) step (hPslot k.hdr) false true 0])

def runStat (s : State) (q : QOp) (own : Nat) (sel : BitVec 2) (d : GReg) (a b : Word) : Chk (Flags × List Eff) := do
  let g := a.toNat % 1024
  let ch ← s.chainAt own g
  let k := ch.headD default
  if sel.toNat < 2 then pure (0, [.ret d (k.hdr.extractLsb' (64 * sel.toNat) 64) q.words])
  else
    if hFreed k.hdr then treeFail (own + g) 2
    else if hCont k.hdr then treeFail (own + g) 7
    else match (chainEdges ch)[b.toNat % 256]? with
      | none => treeFail (own + g) 3
      | some (n, i) => pure (0, [.ret d ((s.rec128 (slotAddr n i)).extractLsb' (64 * (sel.toNat - 2)) 64) q.words])

/-- What a tree operation of the focus tile finds and writes (R353). -/
def runTree (s : State) (q : QOp) (o : TreeOp) : Chk (Flags × List Eff) :=
  let own := s.ownHandle.getD 0
  match o with
  | .sel d a b => runSel s q own d a b
  | .new cls d a b c => runNew s q own cls d a b c
  | .link a b c => runLink s q own a b c
  | .exp back flip a b c e => runExp s q own back flip a b c e
  | .back flip a b c => runBack s q own (some (c.toNat % 2 ^ 32)) flip false a b
  | .abort clr a b => runBack s q own none false clr a b
  | .root a b => runRoot s q own a b
  | .free keep a => runFree s q own keep a
  | .init cls a => runInit s q own cls a
  | .stat sel d a b => runStat s q own sel d a b
  | .leaf d a b c e => runLeaf s own d a b c e

/-! ### Issue (R339 steps 1 and 2) -/

/-- TREE_STATE at issue. -/
def State.trapTree (s : State) (h code : Nat) : State := s.trapWith Cause.treeState 0 (BitVec.ofNat 64 h) (BitVec.ofNat 64 code) 0 0

/-- A node handle names this tile and a granule other than 0 (R339). -/
def nodeHandle (s : State) (a : Word) (k : Out) : Out :=
  let h := a.toNat % 2 ^ 32
  match s.ownHandle with
  | none => .next (s.trapTree h 1)
  | some own => if ownGranule own h then k else .next (s.trapTree h 1)
/-- An edge reference names a granule other than 0 of a tile with a hall (R328, R338, R339). -/
def edgeRef (s : State) (a : Word) (k : Out) : Out :=
  match s.ownHandle with
  | none => .next (s.trapTree (a.toNat % 1024) 1)
  | some own => if a.toNat % 1024 = 0 then .next (s.trapTree own 1) else k

def issueTree (o : TreeOp) (n : Nat) (s : State) : Out := issueTop .tree (.tree o) n s

/-- An operation that returns a value (R54): it enters the queue once and its instruction waits there until the unit delivers. -/
def issueRet (o : TreeOp) (n : Nat) (s : State) : Out :=
  if s.tile.ops.any fun q => q.tid == s.tid && q.returns then .next s.stall
  else if s.engineRoom .tree then .next (((s.enqueue .tree (.tree o) n false).mapTh (·.addTop)).stallOn 0x03)
  else .next (s.stallEach 0x08)

def tsel (d a b : GReg) (n : Nat) (s : State) : Out := nodeHandle s (s.gr a) (issueRet (.sel d (s.gr a) (s.gr b)) n s)
/-- TSEL (R337, R341, R342). -/
def execTsel (d a b : GReg) (s : State) : Out := tsel d a b 1 s
/-- TSEL with a guard (R337, R341, R342). -/
def execTselXForm (gd : Guard) (d a b : GReg) (s : State) : Out := guarded gd 3 s fun s => tsel d a b 3 s
/-- TNEW (R337, R339, R343). -/
def execTnew (gd : Guard) (cls : NodeClass) (d a b c : GReg) (s : State) : Out :=
  guarded gd 3 s fun s =>
    let h := (s.gr a).toNat % 2 ^ 32
    if s.ownHandle.isNone || h == pendMark || (h == 0 && (s.gr a).extractLsb' 32 4 != 0) then .next (s.trapTree h 1)
    else if (s.gr a).extractLsb' 36 28 ≠ 0 ∨ (s.gr c).extractLsb' 8 56 ≠ 0 then .next s.trapIllegal
    else issueRet (.new cls d (s.gr a) (s.gr b) (s.gr c)) 3 s
/-- TNEW.LINK (R337, R344). -/
def execTnewLink (gd : Guard) (a b c : GReg) (s : State) : Out :=
  guarded gd 3 s fun s => edgeRef s (s.gr a) (issueTree (.link (s.gr a) (s.gr b) (s.gr c)) 3 s)
/-- TEXP (R337, R345). -/
def execTexp (gd : Guard) (back flip : Bool) (a b c e : GReg) (s : State) : Out :=
  guarded gd 3 s fun s => nodeHandle s (s.gr a)
    (if (s.gr c).extractLsb' 8 24 ≠ 0 then .next s.trapIllegal
     else if (s.gr c).extractLsb' 0 8 ≠ 0 ∧ (s.gr b).extractLsb' 0 6 ≠ 0 then .next (s.trap Cause.misalign (s.gr b))
     else if (s.gr c).extractLsb' 0 8 ≠ 0 ∧ !s.linesReadable (s.gr b).toNat 1 then .next (s.trap Cause.sramBound (s.gr b))
     else issueTree (.exp back flip (s.gr a) (s.gr b) (s.gr c) (s.gr e)) 3 s)
/-- TBACK (R337, R348). -/
def execTback (gd : Guard) (flip : Bool) (a b c : GReg) (s : State) : Out :=
  guarded gd 3 s fun s => edgeRef s (s.gr a) (issueTree (.back flip (s.gr a) (s.gr b) (s.gr c)) 3 s)
/-- TABORT (R337, R348). -/
def execTabort (a b : GReg) (s : State) : Out := edgeRef s (s.gr a) (issueTree (.abort false (s.gr a) (s.gr b)) 1 s)
/-- TABORT with a guard or CLR (R337, R348). -/
def execTabortXForm (gd : Guard) (clr : Bool) (a b : GReg) (s : State) : Out :=
  guarded gd 3 s fun s => edgeRef s (s.gr a) (issueTree (.abort clr (s.gr a) (s.gr b)) 3 s)
/-- TROOT (R337, R351). -/
def execTroot (a b : GReg) (s : State) : Out := nodeHandle s (s.gr a) (issueTree (.root (s.gr a) (s.gr b)) 1 s)
/-- TROOT with a guard (R337, R351). -/
def execTrootXForm (gd : Guard) (a b : GReg) (s : State) : Out :=
  guarded gd 3 s fun s => nodeHandle s (s.gr a) (issueTree (.root (s.gr a) (s.gr b)) 3 s)
/-- TFREE (R337, R350). -/
def execTfree (gd : Guard) (a : GReg) (s : State) : Out :=
  guarded gd 3 s fun s => nodeHandle s (s.gr a) (issueTree (.free false (s.gr a)) 3 s)
/-- TFREE.KEEP (R337, R350). -/
def execTfreeKeep (gd : Guard) (a : GReg) (s : State) : Out :=
  guarded gd 3 s fun s => edgeRef s (s.gr a) (issueTree (.free true (s.gr a)) 3 s)
/-- TFREE.INIT (R337, R350). -/
def execTfreeInit (gd : Guard) (cls : NodeClass) (a : GReg) (s : State) : Out :=
  guarded gd 3 s fun s => nodeHandle s (s.gr a) (issueTree (.init cls (s.gr a)) 3 s)
/-- TSTAT (R337, R352). -/
def execTstat (gd : Guard) (sel : BitVec 2) (d a b : GReg) (s : State) : Out :=
  guarded gd 3 s fun s => nodeHandle s (s.gr a) (issueRet (.stat sel d (s.gr a) (s.gr b)) 3 s)

/-- gd of a TLEAF waits for its answer, as a load's register does (R346). -/
def Thread.markPending (t : Thread) (d : GReg) : Thread :=
  { t with pending := if d = 0 then t.pending else t.pending ||| ((1 : BitVec 32) <<< d.toNat) }
/-- TLEAF (R337, R346): a release. -/
def execTleaf (gd : Guard) (d a b c e : GReg) (s : State) : Out :=
  guarded gd 3 s fun s => nodeHandle s (s.gr a)
    (match deviceFault s.tile false 0 (s.gr c).toNat 64 64 with
     | some cause => .next (s.trap cause (s.gr c))
     | none => whenReady s.released s fun s =>
       let o : TreeOp := .leaf d (s.gr a) (s.gr b) (s.gr c) (s.gr e)
       if s.engineRoom .tree then
         .next ((((s.enqueue .tree (.tree o) 3 false).mapTh (·.addTop)).mapTh (·.markPending d)).retire 3)
       else .next (s.stallEach 0x08))

end Sys2Proof.Machine
end

