-- ==== Sys2Proof/Machine/Engine.lean ====
section
/-! DEFINITION. The engines as units (R52, R53, R143, R297, R298): starting, confirming and completing operations, the lines of copies
(R232), and the scrubber (R109). An operation reads its sources at its start and writes its results at its completion (DEDUCED,
log 8). -/

namespace Sys2Proof.Machine

/-! ### Starting -/

/-- Place of an engine's round-robin pointer. -/
def engIdx : Engine → Fin 4
  | .matrix => 0 | .vector => 1 | .copy => 2 | .tree => 3

/-- The operation runs on the copy engine against the matrix engine's order of its thread (R298). -/
def QOp.ordered (o : QOp) : Bool := o.eng == .copy && (match o.op with
  | .cop c => c.ordered
  | _ => false)
/-- Started only with every earlier operation of its thread confirmed, being confirmed itself from its issue (a copy, ACMV), or seen by
other tiles from its start (a gang operation). -/
def QOp.late (o : QOp) : Bool := match o.op with
  | .cop (.copy _) | .cop (.acmv ..) | .mat (.gang _) => true
  | _ => false

/-- The operation may start: the thread's earlier private-alias accesses are performed (R143), and its earlier operations are where
R53 and R298 want them. Operations of a thread start in its order, whatever their engines: an engine held by a later one, which is
confirmed after the earlier (R53), could keep that from starting and its thread in RUN for ever (R32; DEDUCED, log 8). -/
def Tile.mayStart (t : Tile) (o : QOp) : Bool :=
  let before := t.ops.filter fun x => x.tid == o.tid && decide (x.seq < o.seq)
  !((t.th o.tid).pends.any fun p => p.loc && (match p.kind with
      | .amo _ _ => true
      | _ => false)) &&
    before.all (·.started) && !(o.late && before.any (!·.confirmed)) &&
    !(o.eng == .matrix && before.any (·.ordered)) && !(o.ordered && before.any (·.eng == .matrix))

/-- Threads in round-robin order from i. -/
def roundRobin (i : Fin 4) : List (Fin 4) := [i, i + 1, i + 2, i + 3]

/-- The next operation of engine e (R52): in thread round-robin, each thread's oldest waiting one. -/
def Tile.pickOp (t : Tile) (e : Engine) : Option QOp :=
  if t.ops.any fun o => o.eng == e && o.started then none
  else (roundRobin (t.rr[engIdx e])).findSome? fun i =>
    match t.ops.find? fun o => o.tid == i && o.eng == e && !o.started with
    | some o => if t.mayStart o then some o else none
    | none => none

/-- What an operation finds as it reads its sources; a gang operation finds out at its release. -/
def runOp (s : State) (q : QOp) : Option (Chk (Flags × List Eff)) :=
  match q.op with
  | .vec o => some (runVec s q o)
  | .tree o => some (runTree s q o)
  | .mat o => match o with
    | .ldb ea mask p0 np => some (runLdb s ea mask p0 np)
    | .prog w comb init => some (.ok (0, [.prog w comb init]))
    | .mac t imode ea rows stride r0 p0 np => some (runMac s t imode ea rows stride r0 p0 np)
    | .mrec init ea rows stride r0 p0 => some (runMrec s init ea rows stride r0 p0)
    | .acz r0 n fill => some (.ok (0, runAcz r0 n fill))
    | .gang _ => none
    | .knot ea k0 n => some (runKnot s ea k0 n)
    | .spl ea rows stride r0 => some (runSpl s ea rows stride r0)
    | .spld ea rows stride r0 c => some (runSpld s ea rows stride r0 c)
    | .refine k0 n => some (runRefine s k0 n)
  | .cop o => match o with
    | .copy _ => none
    | .stb _ ea p0 np => some (runStb s ea p0 np)
    | .acld _ ea r0 n => some (runAcld s ea r0 n)
    | .acst _ ea r0 n sc imode mode fmt => some (.ok (runAcst s q ea r0 n sc imode mode fmt))
    | .acmv _ r0 src n => some (.ok (0, runAcmv s r0 src n))
    | .msgrad init _ ea rows stride _ b c => some (runGrad s q init ea rows stride b c)

def Tile.mapOp (t : Tile) (seq : Nat) (f : QOp → QOp) : Tile := { t with ops := t.ops.map fun o => if o.seq = seq then f o else o }
def Tile.dropOp (t : Tile) (seq : Nat) : Tile := { t with ops := t.ops.filter (·.seq != seq) }

/-- ENGINE_START (R52, R284, R325): the engine takes its next operation and reads its sources as their home has them (R140); a copy
begins, a gang operation joins (R301). -/
def execEngineStart (e : Engine) (s : State) : Out :=
  match s.tile.pickOp e with
  | none => .next s
  | some q =>
    let s1 := s.mapTile fun t => { t with rr := t.rr.set (engIdx e) (q.tid + 1) }
    match q.op with
    | .cop (.copy c) => .next (s1.mapTile fun t => { t.dropOp q.seq with copies := t.copies ++ [c] })
    | .mat (.gang o) => .next ((s1.mapTile (·.mapOp q.seq fun x => { x with started := true })).gangStart q o)
    | _ =>
      match runOp (s.settled s.foc) q with
      | none => .next s
      | some (.ok (fl, effs)) =>
        .next (s1.mapTile (·.mapOp q.seq fun x => { x with started := true, result := some (.ok fl effs) }))
      | some (.error f) =>
        let s2 := match f.mark with
          | some a => s1.markBad (s.pa a) 64
          | none => s1
        .next (s2.mapTile (·.mapOp q.seq fun x => { x with started := true, result := some (.trap (f.info q.ipc)) }))

/-! ### Confirming -/

/-- The counters fall by an operation that leaves (R55). -/
def Thread.opLeft (t : Thread) (o : QOp) : Thread :=
  match o.op with
  | .cop _ => { t with outc := { t.outc with copies := t.outc.copies - 1 } }
  | _ => { t with outc := { t.outc with tops := t.outc.tops - 1 } }

/-- A discarded operation: its counter, its tag and the register it would have answered are as before it (R53). -/
def Tile.discardOp (t : Tile) (o : QOp) : Tile :=
  let t1 := (t.dropOp o.seq).mapTh o.tid fun h => match o.op with
    | .tree (.leaf d ..) => (h.opLeft o).clearPending d
    | _ => h.opLeft o
  match o.op with
  | .cop c =>
    { t1 with busy := t1.busy &&& ~~~tagBit c.tag,
              r := { t1.r with tags := if o.tagWas then t1.r.tags ||| tagBit c.tag else t1.r.tags &&& ~~~tagBit c.tag } }
  | _ => t1

/-- State at the checkpoint (R53). -/
def Thread.rollback (t : Thread) (c : Checkpoint) : Thread :=
  { t with g := c.g, p := c.p, pc := c.pc.setWidth 13, fflags := c.fflags, srseq := c.srseq, loop := c.loop }

/-- A precise trap at confirmation (R53): the operation and every later one of its thread are discarded, the checkpoint comes back and
the thread traps at the failing instruction. -/
def State.opTrap (s : State) (q : QOp) (i : TrapInfo) : State :=
  let gone := s.tile.ops.filter fun o => o.tid == q.tid && decide (q.seq ≤ o.seq)
  s.mapTile fun t =>
    ((gone.foldl (fun (t : Tile) o => t.discardOp o) t).mapGang fun g =>
      if gone.any fun o => match o.op with | .mat (.gang _) => o.started | _ => false then { g with committed := false }
      else g).mapTh q.tid fun h => (h.rollback q.ck).trap i

/-- The operation of engine e that can be confirmed: it has read its sources, and every earlier one of its thread is confirmed. -/
def Tile.confirmable (t : Tile) (e : Engine) : Option QOp :=
  t.ops.find? fun o => o.eng == e && o.started && !o.confirmed && o.result.isSome &&
    !(t.ops.any fun x => x.tid == o.tid && decide (x.seq < o.seq) && !x.confirmed) &&
    (match o.op, o.result with
     | .mat (.gang _), some (.ok _ _) => t.gang.committed
     | _, _ => true)

/-- ENGINE_CONFIRMATION (R53, R91): the trap it found, an FP_TRAP for an enabled flag, or its flags raised and no trap any more. -/
def execEngineConfirmation (e : Engine) (s : State) : Out :=
  match s.tile.confirmable e with
  | none => .next s
  | some q =>
    match q.result with
    | some (.trap i) => .next (s.opTrap q i)
    | some (.ok fl _) =>
      if flagTraps (s.tile.th q.tid).fflags fl then .next (s.opTrap q ⟨Cause.fpTrap, q.ipc, 0, fl.zeroExtend 64, 0, 0, 0⟩)
      else
        let s1 := s.mapTile fun t => (t.mapOp q.seq fun x => { x with confirmed := true }).mapGang fun g => match q.op with
          | .mat (.gang _) => { g with committed := false }
          | _ => g
        .next (s1.orFlagsLate s.foc q.tid fl)
    | none => .next s

/-! ### Completing -/

/-- A value that an operation returns while later ones of its thread are unconfirmed is part of what their checkpoints restore (R53). -/
def Tile.giveG (t : Tile) (i : Tid) (d : GReg) (w : Word) : Tile :=
  { t.mapTh i fun h => (h.setG d w).clearPending d with ops := t.ops.map fun o => if o.tid = i then o.received d w else o }

/-- A write of operation q (R143). -/
def State.applyEff (s : State) (q : QOp) : Eff → State
  | .g d w => s.mapTile (·.giveG q.tid d w)
  | .v d l t => s.mapTile (·.mapTh q.tid (·.setV d l t))
  | .m d w => s.mapTile (·.mapTh q.tid (·.setM d w))
  | .line a l d => s.homeLine s.foc a l d
  | .lateLine a l d => s.homeLine s.foc (s.engineWrite a) l d
  | .merge a mask l d p => s.homeMerge s.foc a mask l d p
  | .acc i w => s.mapTile fun t => { t with acc := Tab.set accBlank t.acc i w }
  | .cst i w => s.mapTile fun t => { t with cst := Tab.set cstBlank t.cst i w }
  | .prog w comb init => s.mapTile fun t => { t with uprog := w, comb := comb, init := init }
  | .knot i w => s.mapTile fun t => { t with knots := Tab.set knotBlank t.knots i w }
  | .treepool w => s.mapTile fun t => { t with r := { t.r with treepool := w } }
  | .send i => s.push s.foc i
  | .ret d w n => s.mapTile fun t => ((t.mapTh q.tid fun h => (h.setG d w).advance n).count 0x02 1)
  | .leaf d off w0 w1 =>
    let who : Who := ⟨s.foc, q.tid, s.nextId, none⟩
    let r : Req := ⟨who, .leaf w0 w1, 0, off, s.tile.hid, s.tile.sys, none⟩
    let p : Pend := ⟨s.nextId, .leaf d (w0.extractLsb' 0 32), 0, off, q.ipc, false, false, false⟩
    (({ s with nextId := s.nextId + 1 } : State).mapTile (·.mapTh q.tid fun t => { t.addLoad d with pends := t.pends ++ [p] })).push s.foc
      ⟨some q.tid, 8, .dest (reqDest 0 off), .req r, .no⟩

/-- The operation's writes, then its counter and tag, which ends the waits that it satisfies (R55, R56, R143, R236). -/
def State.completeOp (s : State) (q : QOp) (effs : List Eff) : State :=
  let s1 := effs.foldl (fun (s : State) x => s.applyEff q x) s
  s1.mapTile fun t =>
    let t1 := (t.dropOp q.seq).mapTh q.tid (·.opLeft q)
    match q.op with
    | .cop c => (t1.tagDone c.tag).wtagWakes
    | _ => t1

/-- Local address of line i of a copy's source, where it has a descriptor: through the visible half of a window (R113, R114). -/
def State.copySrcAddr (s : State) (c : CopyRec) (a : Nat) : Nat :=
  if a < 0x10000 then (({ s.tile with r := { s.tile.r with pwin := c.pwin.getD s.tile.r.pwin } } : Tile).readAddr a).getD a else a

/-- A line of a local copy source with its descriptor (R232), as its home has it (R140); from two inbox cells, the descriptor is 0. -/
def State.copyLine (s : State) (c : CopyRec) (src i : Nat) : Line × Desc :=
  let a := src + 64 * i
  if 0x20000 ≤ src ∧ src < 0x24000 then
    let half (k : Nat) : Line := BitVec.ofNat 512 (Memory.readN s.mem (s.pa (poolAddr (a + 32 * k))) 32)
    (half 0 ||| half 1 <<< 256, 0)
  else
    let b := s.copySrcAddr c a
    (s.seen s.foc b).takeLine (s.pa b)

/-- The line at a comes from inbox cells and holds an uncorrectable word: there is no descriptor to carry POISON (R82, R215). -/
def State.copyDamaged (s : State) (a : Nat) : Bool :=
  decide (0x20000 ≤ a ∧ a < 0x24000) && (s.isBad (s.pa (poolAddr a)) 32 || s.isBad (s.pa (poolAddr (a + 32))) 32)

/-- A local source line that the copy cannot carry, for damage or for its descriptor (R82), stops it with a deferred fault (R215, R233). -/
def State.copyFail (s : State) (c : CopyRec) (a : Nat) (cause : BitVec 8) : State :=
  let p : Pend := ⟨c.id, .copy c.id c.next 1, 0, BitVec.ofNat 64 a, c.ipc, false, false, false⟩
  (s.mapTile (·.mapCopy c.id fun x => { x with failed := true })).updTh s.foc c.tid fun t => t.defer cause p 0

/-- Sends a request of a copy. -/
def State.copyRequest (s : State) (c : CopyRec) (kind : ReqKind) (space : BitVec 16) (off : Word) (n : Nat) : State :=
  let who : Who := ⟨s.foc, c.tid, s.nextId, none⟩
  let r : Req := ⟨who, kind, space, off, s.tile.hid, s.tile.sys, none⟩
  let p : Pend := ⟨s.nextId, .copy c.id c.next n, space, off, c.ipc, false, false, false⟩
  let s1 := ({ s with nextId := s.nextId + 1 } : State).mapTile (·.mapCopy c.id fun x => { x with next := x.next + n })
  (s1.updTh s.foc c.tid fun t => { t with pends := t.pends ++ [p] }).push s.foc ⟨some c.tid, reqVc space, .dest (reqDest space off), .req r, .no⟩

/-- Moves or asks for the next line of a copy (R232); a space-0 source is asked for at once, so that one half of a window serves all of
it (R114). -/
def State.copyStep (s : State) (c : CopyRec) : State :=
  let i := c.next
  let src (a : Nat) (k : State → CopyRec → Line × Desc → State) : State :=
    let (l, d) := s.copyLine c a i
    let b := s.copySrcAddr c (a + 64 * i)
    let c1 := c.touched s.tile
    let s1 := (s.markSeen s.foc b 64).mapTile (·.mapCopy c.id fun x => { x with pwin := c1.pwin })
    if s.copyDamaged (a + 64 * i) then s.copyFail c (a + 64 * i) Cause.ecc
    else if c.dsc.isNone && !dPoison d && !dLegal d then s1.copyFail c (a + 64 * i) Cause.formatMismatch
    else k s1 c1 (l, c.dsc.getD d)
  match c.kind with
  | .loc dst a => src a fun s c (l, d) =>
      (s.homeLine s.foc (s.tile.copyDst c dst i) l d).mapTile (·.mapCopy c.id fun x => { x with next := i + 1, complete := i + 1 })
  | .get _ space off =>
    if space = 0 then s.copyRequest c (.readLines (c.n - i)) space (off + BitVec.ofNat 64 (64 * i)) (c.n - i)
    else s.copyRequest c (.readLines 1) space (off + BitVec.ofNat 64 (64 * i)) 1
  | .put a space off => src a fun s c (l, d) => s.copyRequest c (.writeLine l d) space (off + BitVec.ofNat 64 (64 * i)) 1

/-- The oldest copy whose next line can be taken up. -/
def Tile.copyReady (t : Tile) : Option CopyRec := t.copies.find? fun c => !c.failed && decide (c.next < c.n) && c.next == c.complete

/-- ENGINE_COMPLETION (R143, R232): a confirmed operation of the engine writes its results and leaves; else the copy engine takes the
next line of a copy. -/
def execEngineCompletion (e : Engine) (s : State) : Out :=
  match s.tile.ops.find? fun o => o.eng == e && o.started && o.confirmed with
  | some q =>
    match q.result with
    | some (.ok _ effs) => .next (s.completeOp q effs)
    | _ => .next s
  | none =>
    if e = .copy then
      match s.tile.copyReady with
      | some c => .next (s.copyStep c)
      | none => .next s
    else .next s

/-! ### The scrubber (R83, R109) -/

/-- Local address of scrubbed line i: data SRAM, then the cell store. -/
def scrubAddr (i : Nat) : Nat := if i < 1024 then 64 * i else 0x30000 + 64 * (i - 1024)

/-- SCRUB (R109): soft errors of the line are corrected and counted; an uncorrectable word sets POISON. -/
def execScrub (line : Nat) (s : State) : Out :=
  if 1280 ≤ line then .next s
  else
    let k := s.pa (scrubAddr line)
    let here (w : Nat) : Bool := w / 8 == k / 64
    let n := (s.soft.filter here).length
    let s1 : State := { s with soft := s.soft.filter fun w => !here w }
    .next ((s1.mapTile fun t => { t.count 0x0B (BitVec.ofNat 64 n) with softCount := t.softCount + n }).markBad k 64)

end Sys2Proof.Machine
end

