-- ==== Sys2Proof/Machine/Fpu.lean ====
section
/-! DEFINITION. Scalar floating point: majors 0x09 and 0x0A (R195 to R200). -/

namespace Sys2Proof.Machine

/-- Format of FP ALU code f (R195). -/
def fpCodeFmt (f : BitVec 2) : FpFmt := if f = 0 then .fp64 else if f = 1 then .fp32 else if f = 2 then .fp16 else .bf16

/-- A g register read in a format of R195: only its low bits (R187). -/
def fpRead (s : State) (f : BitVec 2) (w : Word) : FpVal := fpDecode (fpCodeFmt f) s.th.tcm w.toNat

/-- The rounding of a scalar instruction: its mode, with the random bits of R95 for mode 5. -/
def scalarRnd (s : State) (m : Option RMode) : Rounding := scalarRounding s.th.rmode s.th.srseq (modeOf s m)

/-- SRSEQ advances once per rounded result under mode 5 (R95). -/
def bumpSr (m : Option RMode) (s : State) : State :=
  if modeOf s m = .rsr then s.mapTh fun t => { t with srseq := t.srseq + 1 } else s

/-- Writes a rounded result and its flags, unless they trap (R91, R95). -/
def fpWrite (m : Option RMode) (d : GReg) (w : Word) (fl : Flags) (n : Nat) (s : State) : Out :=
  raising fl s fun s => .next (((bumpSr m s).setG d w).retire n)

/-- Rounds an exact result into format f (R87). -/
def fpResult (m : Option RMode) (f : BitVec 2) (d : GReg) (v : FpVal × Flags) (n : Nat) (s : State) : Out :=
  let (w, fl) := fpRound (fpCodeFmt f) s.th.tcm (scalarRnd s m) v.1
  fpWrite m d (BitVec.ofNat 64 w) (v.2 ||| fl) n s

/-- Low bits of a register in format f, as a result (R187). -/
def fpLow (f : BitVec 2) (w : Word) : Nat := w.toNat % 2 ^ fpWidthOf (fpCodeFmt f)

/-- One-hot class (R197). -/
def fpClassBit (f : FpFmt) (w : Nat) (v : FpVal) : Nat :=
  let (fb, eb, _) := fpParams f
  match v with
  | .nan sig => if sig then 8 else 9
  | .inf s => if s then 0 else 7
  | .fin s m _ _ =>
    if m = 0 then (if s then 3 else 4)
    else if w / 2 ^ fb % 2 ^ eb = 0 then (if s then 2 else 5)
    else (if s then 1 else 6)

/-- The operations of R197 but for the FMA family, on operands a and b in an instruction of n words (R197, R198). FCLASS, which classifies a
signalling NaN as such, raises no flag for it (DESIGN CHOICE, log 70). -/
def fpu (op : FpOp) (m : Option RMode) (f : BitVec 2) (d : GReg) (a b : Word) (n : Nat) (s : State) : Out :=
  let F := fpCodeFmt f
  let x := fpRead s f a
  let y := fpRead s f b
  let rdn := modeOf s m == .rdn
  let pd : PReg := d.setWidth 3
  let pick (isMax : Bool) : Out :=
    let k := fpMinMaxPick isMax x y
    let w := if k = 0 then fpLow f a else if k = 1 then fpLow f b else fpNaN F
    raising (fpMinMaxFlags x y) s fun s => .next ((s.setG d (BitVec.ofNat 64 w)).retire n)
  let signOp (w : Nat) : Out :=
    .next ((s.setG d (BitVec.ofNat 64 (if x.isNaN then fpNaN F else w))).retire n)
  let sb := fpSignBit F true
  let magA := fpLow f a % sb
  let cmp (r : Bool) (fl : Flags) : Out := raising fl s fun s => .next ((s.setP pd r).retire n)
  let anyNaN := x.isNaN || y.isNaN
  match op with
  | .fadd => fpResult m f d (fpAddV rdn x y) n s
  | .fsub => fpResult m f d (fpAddV rdn x y.neg) n s
  | .fmul => fpResult m f d (fpMulV x y) n s
  | .fdiv => fpResult m f d (fpDivV x y) n s
  | .fsqrt => fpResult m f d (fpSqrtV x) n s
  | .fmin => pick false
  | .fmax => pick true
  | .fneg => signOp (if x.sign then magA else magA + sb)
  | .fabs => signOp magA
  | .fsgnj => signOp (magA + (if fpLow f b / sb = 1 then sb else 0))
  | .feq => cmp (fpEqV x y) (fpMinMaxFlags x y)
  | .flt => cmp (!anyNaN && fpLtV x y) (sigFlag anyNaN)
  | .fle => cmp (!anyNaN && !fpLtV y x) (sigFlag anyNaN)
  | .funord => cmp anyNaN (fpMinMaxFlags x y)
  | .fclass => .next ((s.setG d (BitVec.ofNat 64 (2 ^ fpClassBit F a.toNat x))).retire n)

/-- FMA, FMS, FNMA: the product's and the addend's signs (R197). -/
def fpuFma (negP negC : Bool) (x : FpX) (f : BitVec 2) (d a : GReg) (b : RegLit) (c : GReg) (s : State) : Out :=
  let n := regLitWords b
  guarded x.guard n s fun s =>
    let va := fpRead s f (s.gr a)
    let vb := fpRead s f (regLitVal s b)
    let vc := fpRead s f (s.gr c)
    fpResult x.mode f d (fpFmaV (modeOf s x.mode == .rdn) (if negP then va.neg else va) vb (if negC then vc.neg else vc)) n s

/-- FADD (R197). -/
def execFadd (f : BitVec 2) (d a b : GReg) (s : State) : Out := fpu .fadd none f d (s.gr a) (s.gr b) 1 s
/-- FSUB (R197). -/
def execFsub (f : BitVec 2) (d a b : GReg) (s : State) : Out := fpu .fsub none f d (s.gr a) (s.gr b) 1 s
/-- FMUL (R197). -/
def execFmul (f : BitVec 2) (d a b : GReg) (s : State) : Out := fpu .fmul none f d (s.gr a) (s.gr b) 1 s
/-- FDIV (R197). -/
def execFdiv (f : BitVec 2) (d a b : GReg) (s : State) : Out := fpu .fdiv none f d (s.gr a) (s.gr b) 1 s
/-- FSQRT (R197). -/
def execFsqrt (f : BitVec 2) (d a : GReg) (s : State) : Out := fpu .fsqrt none f d (s.gr a) 0 1 s
/-- FMIN (R197, R198). -/
def execFmin (f : BitVec 2) (d a b : GReg) (s : State) : Out := fpu .fmin none f d (s.gr a) (s.gr b) 1 s
/-- FMAX (R197, R198). -/
def execFmax (f : BitVec 2) (d a b : GReg) (s : State) : Out := fpu .fmax none f d (s.gr a) (s.gr b) 1 s
/-- FNEG (R197, R198). -/
def execFneg (f : BitVec 2) (d a : GReg) (s : State) : Out := fpu .fneg none f d (s.gr a) 0 1 s
/-- FABS (R197, R198). -/
def execFabs (f : BitVec 2) (d a : GReg) (s : State) : Out := fpu .fabs none f d (s.gr a) 0 1 s
/-- FSGNJ (R197, R198). -/
def execFsgnj (f : BitVec 2) (d a b : GReg) (s : State) : Out := fpu .fsgnj none f d (s.gr a) (s.gr b) 1 s
/-- FMA (R197). -/
def execFma (x : FpX) (f : BitVec 2) (d a : GReg) (b : RegLit) (c : GReg) (s : State) : Out := fpuFma false false x f d a b c s
/-- FMS (R197). -/
def execFms (x : FpX) (f : BitVec 2) (d a : GReg) (b : RegLit) (c : GReg) (s : State) : Out := fpuFma false true x f d a b c s
/-- FNMA (R197). -/
def execFnma (x : FpX) (f : BitVec 2) (d a : GReg) (b : RegLit) (c : GReg) (s : State) : Out := fpuFma true false x f d a b c s
/-- FEQ (R197, R198). -/
def execFeq (f : BitVec 2) (d : PReg) (a b : GReg) (s : State) : Out := fpu .feq none f (d.setWidth 5) (s.gr a) (s.gr b) 1 s
/-- FLT (R197, R198). -/
def execFlt (f : BitVec 2) (d : PReg) (a b : GReg) (s : State) : Out := fpu .flt none f (d.setWidth 5) (s.gr a) (s.gr b) 1 s
/-- FLE (R197, R198). -/
def execFle (f : BitVec 2) (d : PReg) (a b : GReg) (s : State) : Out := fpu .fle none f (d.setWidth 5) (s.gr a) (s.gr b) 1 s
/-- FUNORD (R197, R198). -/
def execFunord (f : BitVec 2) (d : PReg) (a b : GReg) (s : State) : Out := fpu .funord none f (d.setWidth 5) (s.gr a) (s.gr b) 1 s
/-- FCLASS (R197). -/
def execFclass (f : BitVec 2) (d a : GReg) (s : State) : Out := fpu .fclass none f d (s.gr a) 0 1 s

/-- The X form of major 0x09 (R196). -/
def execFpAluXForm (op : FpOp) (x : FpX) (f : BitVec 2) (d a : GReg) (b : RegLit) (s : State) : Out :=
  guarded x.guard (regLitWords b) s fun s =>
    fpu op x.mode f d (s.gr a) (if op.isUnary then 0 else regLitVal s b) (regLitWords b) s

/-! ### Conversions (R199, R200) -/

/-- The floating format of a scalar code (R195); integer codes have none. -/
def codeFmt : FpCode → Option FpFmt
  | .f64 => some .fp64 | .f32 => some .fp32 | .f16 => some .fp16 | .bf16 => some .bf16
  | .e4m3 => some .e4m3 | .e5m2 => some .e5m2 | .e2m1 => some .e2m1
  | _ => none

/-- Range of an integer code, and whether it is the sign-extended INT32 (R68, R187). -/
def codeRange : FpCode → Int × Int
  | .i32 => (-(2 ^ 31), 2 ^ 31 - 1)
  | .u32 => (0, 2 ^ 32 - 1)
  | .i64 => (-(2 ^ 63), 2 ^ 63 - 1)
  | _ => (0, 2 ^ 64 - 1)

/-- The integer held in a register under an integer code (R187). -/
def codeInt (v : FpCode) (w : Word) : Int :=
  match v with
  | .i32 => (w.setWidth 32).toInt
  | .u32 => (w.setWidth 32).toNat
  | .i64 => w.toInt
  | _ => w.toNat

/-- FCVT u from v (R200). -/
def fcvt (m : Option RMode) (u v : FpCode) (d : GReg) (w : Word) (n : Nat) (s : State) : Out :=
  let src : FpVal := match codeFmt v with
    | some F => fpDecode F s.th.tcm w.toNat
    | none => intVal (codeInt v w)
  match codeFmt u with
  | some F =>
    let (r, fl) := fpRound F s.th.tcm (scalarRnd s m) src
    fpWrite m d (BitVec.ofNat 64 r) (sigFlag src.isSig ||| fl) n s
  | none =>
    let (lo, hi) := codeRange u
    let (r, fl) := fpToInt lo hi (scalarRnd s m) src
    fpWrite m d (BitVec.ofInt 64 r) fl n s

/-- FROUND in the format of code v (R200). -/
def fround (m : Option RMode) (v : FpCode) (d : GReg) (w : Word) (n : Nat) (s : State) : Out :=
  let F := (codeFmt v).getD .fp64
  let (r, fl) := fpIntegral (scalarRnd s m) (fpDecode F s.th.tcm w.toNat)
  fpWrite m d (BitVec.ofNat 64 (fpRound F s.th.tcm rneMode r).1) fl n s

/-- FCVT, R form (R199). -/
def execFcvt (u v : FpCode) (d a : GReg) (s : State) : Out := fcvt none u v d (s.gr a) 1 s
/-- FROUND, R form (R199). -/
def execFround (v : FpCode) (d a : GReg) (s : State) : Out := fround none v d (s.gr a) 1 s
/-- The X form of major 0x0A (R199). -/
def execFpConvertXForm (u v : FpCode) (rnd : Bool) (x : FpX) (d a : GReg) (s : State) : Out :=
  guarded x.guard 3 s fun s => if rnd then fround x.mode v d (s.gr a) 3 s else fcvt x.mode u v d (s.gr a) 3 s

end Sys2Proof.Machine
end

