-- ==== Sys2Proof/Machine/LoadStore.lean ====
section
/-! DEFINITION. Local loads and stores (R210, R211). -/

namespace Sys2Proof.Machine

/-- LD, M form. -/
def execLd (sz : BitVec 3) (d a : GReg) (off : BitVec 11) (s : State) : Out :=
  loading s (mEa s a off sz) (szBytes sz) fun w => .next ((s.setG d (extend sz w)).retire 1)
/-- ST, M form: the low bytes of gd. -/
def execSt (sz : BitVec 3) (d a : GReg) (off : BitVec 11) (s : State) : Out :=
  storing s (mEa s a off sz) (szBytes sz) (s.gr d) fun s => .next (s.retire 1)
/-- LD, X form: offset, index or post-increment. -/
def execLdXForm (gd : Guard) (sz : BitVec 3) (d a : GReg) (m : AddrMode) (s : State) : Out :=
  guarded gd 3 s fun s => loading s (xEa s a sz m) (szBytes sz) fun w => .next ((xPost (s.setG d (extend sz w)) a m).retire 3)
/-- ST, X form: with d = a the value before the increment is stored. -/
def execStXForm (gd : Guard) (sz : BitVec 3) (d a : GReg) (m : AddrMode) (s : State) : Out :=
  guarded gd 3 s fun s => storing s (xEa s a sz m) (szBytes sz) (s.gr d) fun s => .next ((xPost s a m).retire 3)

end Sys2Proof.Machine
end

