-- ==== Sys2Proof/Machine/Dispatch.lean ====
section
/-! DEFINITION. The dispatch of every instruction and event to its meaning, one arm per constructor of `Instr`. -/

namespace Sys2Proof.Machine

def exec (i : Instr) (s : State) : Host.Outcome State Fault Refusal :=
  match i with
  | .add d a b => Sys2Proof.Machine.execAdd d a b s
  | .sub d a b => Sys2Proof.Machine.execSub d a b s
  | .and d a b => Sys2Proof.Machine.execAnd d a b s
  | .or d a b => Sys2Proof.Machine.execOr d a b s
  | .xor d a b => Sys2Proof.Machine.execXor d a b s
  | .andn d a b => Sys2Proof.Machine.execAndn d a b s
  | .sll d a b => Sys2Proof.Machine.execSll d a b s
  | .srl d a b => Sys2Proof.Machine.execSrl d a b s
  | .sra d a b => Sys2Proof.Machine.execSra d a b s
  | .rol d a b => Sys2Proof.Machine.execRol d a b s
  | .ror d a b => Sys2Proof.Machine.execRor d a b s
  | .min d a b => Sys2Proof.Machine.execMin d a b s
  | .max d a b => Sys2Proof.Machine.execMax d a b s
  | .minu d a b => Sys2Proof.Machine.execMinu d a b s
  | .maxu d a b => Sys2Proof.Machine.execMaxu d a b s
  | .mul d a b => Sys2Proof.Machine.execMul d a b s
  | .mulh d a b => Sys2Proof.Machine.execMulh d a b s
  | .mulhu d a b => Sys2Proof.Machine.execMulhu d a b s
  | .mulhsu d a b => Sys2Proof.Machine.execMulhsu d a b s
  | .div d a b => Sys2Proof.Machine.execDiv d a b s
  | .divu d a b => Sys2Proof.Machine.execDivu d a b s
  | .rem d a b => Sys2Proof.Machine.execRem d a b s
  | .remu d a b => Sys2Proof.Machine.execRemu d a b s
  | .addsat d a b => Sys2Proof.Machine.execAddsat d a b s
  | .subsat d a b => Sys2Proof.Machine.execSubsat d a b s
  | .clz d a => Sys2Proof.Machine.execClz d a s
  | .ctz d a => Sys2Proof.Machine.execCtz d a s
  | .popc d a => Sys2Proof.Machine.execPopc d a s
  | .sextB d a => Sys2Proof.Machine.execSextB d a s
  | .sextH d a => Sys2Proof.Machine.execSextH d a s
  | .sextW d a => Sys2Proof.Machine.execSextW d a s
  | .zextB d a => Sys2Proof.Machine.execZextB d a s
  | .zextH d a => Sys2Proof.Machine.execZextH d a s
  | .zextW d a => Sys2Proof.Machine.execZextW d a s
  | .cmpEq d a b => Sys2Proof.Machine.execCmpEq d a b s
  | .cmpNe d a b => Sys2Proof.Machine.execCmpNe d a b s
  | .cmpLt d a b => Sys2Proof.Machine.execCmpLt d a b s
  | .cmpGe d a b => Sys2Proof.Machine.execCmpGe d a b s
  | .cmpLtu d a b => Sys2Proof.Machine.execCmpLtu d a b s
  | .cmpGeu d a b => Sys2Proof.Machine.execCmpGeu d a b s
  | .tst d a b => Sys2Proof.Machine.execTst d a b s
  | .sel gd d a src c => Sys2Proof.Machine.execSel gd d a src c s
  | .integerAluXForm op gd d a src => Sys2Proof.Machine.execIntegerAluXForm op gd d a src s
  | .addi d a imm => Sys2Proof.Machine.execAddi d a imm s
  | .andi d a imm => Sys2Proof.Machine.execAndi d a imm s
  | .ori d a imm => Sys2Proof.Machine.execOri d a imm s
  | .xori d a imm => Sys2Proof.Machine.execXori d a imm s
  | .li d imm => Sys2Proof.Machine.execLi d imm s
  | .addiLiteral d a v => Sys2Proof.Machine.execAddiLiteral d a v s
  | .andiLiteral d a v => Sys2Proof.Machine.execAndiLiteral d a v s
  | .oriLiteral d a v => Sys2Proof.Machine.execOriLiteral d a v s
  | .xoriLiteral d a v => Sys2Proof.Machine.execXoriLiteral d a v s
  | .liLiteral d v => Sys2Proof.Machine.execLiLiteral d v s
  | .slli d a n => Sys2Proof.Machine.execSlli d a n s
  | .srli d a n => Sys2Proof.Machine.execSrli d a n s
  | .srai d a n => Sys2Proof.Machine.execSrai d a n s
  | .rori d a n => Sys2Proof.Machine.execRori d a n s
  | .cmpiEq d a k => Sys2Proof.Machine.execCmpiEq d a k s
  | .cmpiNe d a k => Sys2Proof.Machine.execCmpiNe d a k s
  | .cmpiLt d a k => Sys2Proof.Machine.execCmpiLt d a k s
  | .cmpiGe d a k => Sys2Proof.Machine.execCmpiGe d a k s
  | .cmpiLtu d a k => Sys2Proof.Machine.execCmpiLtu d a k s
  | .cmpiGeu d a k => Sys2Proof.Machine.execCmpiGeu d a k s
  | .cmpiTst d a k => Sys2Proof.Machine.execCmpiTst d a k s
  | .fadd f d a b => Sys2Proof.Machine.execFadd f d a b s
  | .fsub f d a b => Sys2Proof.Machine.execFsub f d a b s
  | .fmul f d a b => Sys2Proof.Machine.execFmul f d a b s
  | .fdiv f d a b => Sys2Proof.Machine.execFdiv f d a b s
  | .fsqrt f d a => Sys2Proof.Machine.execFsqrt f d a s
  | .fmin f d a b => Sys2Proof.Machine.execFmin f d a b s
  | .fmax f d a b => Sys2Proof.Machine.execFmax f d a b s
  | .fneg f d a => Sys2Proof.Machine.execFneg f d a s
  | .fabs f d a => Sys2Proof.Machine.execFabs f d a s
  | .fsgnj f d a b => Sys2Proof.Machine.execFsgnj f d a b s
  | .fma x f d a b c => Sys2Proof.Machine.execFma x f d a b c s
  | .fms x f d a b c => Sys2Proof.Machine.execFms x f d a b c s
  | .fnma x f d a b c => Sys2Proof.Machine.execFnma x f d a b c s
  | .feq f d a b => Sys2Proof.Machine.execFeq f d a b s
  | .flt f d a b => Sys2Proof.Machine.execFlt f d a b s
  | .fle f d a b => Sys2Proof.Machine.execFle f d a b s
  | .funord f d a b => Sys2Proof.Machine.execFunord f d a b s
  | .fclass f d a => Sys2Proof.Machine.execFclass f d a s
  | .fpAluXForm op x f d a b => Sys2Proof.Machine.execFpAluXForm op x f d a b s
  | .fcvt u v d a => Sys2Proof.Machine.execFcvt u v d a s
  | .fround v d a => Sys2Proof.Machine.execFround v d a s
  | .fpConvertXForm u v rnd x d a => Sys2Proof.Machine.execFpConvertXForm u v rnd x d a s
  | .br p neg hint off => Sys2Proof.Machine.execBr p neg hint off s
  | .jmp off => Sys2Proof.Machine.execJmp off s
  | .call off => Sys2Proof.Machine.execCall off s
  | .jmpr a => Sys2Proof.Machine.execJmpr a s
  | .callr a => Sys2Proof.Machine.execCallr a s
  | .ret => Sys2Proof.Machine.execRet s
  | .loop a n => Sys2Proof.Machine.execLoop a n s
  | .pand d a b => Sys2Proof.Machine.execPand d a b s
  | .por d a b => Sys2Proof.Machine.execPor d a b s
  | .pxor d a b => Sys2Proof.Machine.execPxor d a b s
  | .pandn d a b => Sys2Proof.Machine.execPandn d a b s
  | .pnot d a => Sys2Proof.Machine.execPnot d a s
  | .ppack d => Sys2Proof.Machine.execPpack d s
  | .punpk a => Sys2Proof.Machine.execPunpk a s
  | .ld sz d a off => Sys2Proof.Machine.execLd sz d a off s
  | .st sz d a off => Sys2Proof.Machine.execSt sz d a off s
  | .ldXForm gd sz d a m => Sys2Proof.Machine.execLdXForm gd sz d a m s
  | .stXForm gd sz d a m => Sys2Proof.Machine.execStXForm gd sz d a m s
  | .ldg x => Sys2Proof.Machine.execLdg x s
  | .stg x => Sys2Proof.Machine.execStg x s
  | .ldx x sp => Sys2Proof.Machine.execLdx x sp s
  | .stx x sp => Sys2Proof.Machine.execStx x sp s
  | .amoAdd x => Sys2Proof.Machine.execAmoAdd x s
  | .amoAnd x => Sys2Proof.Machine.execAmoAnd x s
  | .amoOr x => Sys2Proof.Machine.execAmoOr x s
  | .amoXor x => Sys2Proof.Machine.execAmoXor x s
  | .amoSwap x => Sys2Proof.Machine.execAmoSwap x s
  | .amoCas x c => Sys2Proof.Machine.execAmoCas x c s
  | .amoMin x => Sys2Proof.Machine.execAmoMin x s
  | .amoMax x => Sys2Proof.Machine.execAmoMax x s
  | .amoMinu x => Sys2Proof.Machine.execAmoMinu x s
  | .amoMaxu x => Sys2Proof.Machine.execAmoMaxu x s
  | .amoFadd x => Sys2Proof.Machine.execAmoFadd x s
  | .amoFmin x => Sys2Proof.Machine.execAmoFmin x s
  | .amoFmax x => Sys2Proof.Machine.execAmoFmax x s
  | .waitv x c => Sys2Proof.Machine.execWaitv x c s
  | .waitvArm port => Sys2Proof.Machine.execWaitvArm port s
  | .waitvWake port => Sys2Proof.Machine.execWaitvWake port s
  | .waitvTimeout port => Sys2Proof.Machine.execWaitvTimeout port s
  | .alloc m => Sys2Proof.Machine.execAlloc m s
  | .free m => Sys2Proof.Machine.execFree m s
  | .csrr d csr => Sys2Proof.Machine.execCsrr d csr s
  | .csrw d a csr => Sys2Proof.Machine.execCsrw d a csr s
  | .csrs d a csr => Sys2Proof.Machine.execCsrs d a csr s
  | .csrc d a csr => Sys2Proof.Machine.execCsrc d a csr s
  | .pwinWrite w v => Sys2Proof.Machine.execPwinWrite w v s
  | .vcwWrite v => Sys2Proof.Machine.execVcwWrite v s
  | .waitc l src c t => Sys2Proof.Machine.execWaitc l src c t s
  | .send gd a b c ctl => Sys2Proof.Machine.execSend gd a b c ctl s
  | .sendi gd a b c e ctl => Sys2Proof.Machine.execSendi gd a b c e ctl s
  | .fwd gd a named vc entry => Sys2Proof.Machine.execFwd gd a named vc entry s
  | .post gd a b named vc amount => Sys2Proof.Machine.execPost gd a b named vc amount s
  | .cset gd d a b c imm => Sys2Proof.Machine.execCset gd d a b c imm s
  | .cread gd d a imm => Sys2Proof.Machine.execCread gd d a imm s
  | .cpy gd tag d a b dsc => Sys2Proof.Machine.execCpy gd tag d a b dsc s
  | .cpyxG gd tag space d a b dsc => Sys2Proof.Machine.execCpyxG gd tag space d a b dsc s
  | .cpyxP gd tag space d a b dsc => Sys2Proof.Machine.execCpyxP gd tag space d a b dsc s
  | .copyComplete tag => Sys2Proof.Machine.execCopyComplete tag s
  | .publ gd w => Sys2Proof.Machine.execPubl gd w s
  | .wtagAny a => Sys2Proof.Machine.execWtagAny a s
  | .wtagAll a => Sys2Proof.Machine.execWtagAll a s
  | .ftag d a => Sys2Proof.Machine.execFtag d a s
  | .ftagC d a => Sys2Proof.Machine.execFtagC d a s
  | .tclr a => Sys2Proof.Machine.execTclr a s
  | .wtagAnyLiteral m => Sys2Proof.Machine.execWtagAnyLiteral m s
  | .wtagAllLiteral m => Sys2Proof.Machine.execWtagAllLiteral m s
  | .ftagLiteral d m => Sys2Proof.Machine.execFtagLiteral d m s
  | .ftagCLiteral d m => Sys2Proof.Machine.execFtagCLiteral d m s
  | .tclrLiteral m => Sys2Proof.Machine.execTclrLiteral m s
  | .wtagWake => Sys2Proof.Machine.execWtagWake s
  | .fence scope => Sys2Proof.Machine.execFence scope s
  | .loopf => Sys2Proof.Machine.execLoopf s
  | .done => Sys2Proof.Machine.execDone s
  | .doneXForm gd => Sys2Proof.Machine.execDoneXForm gd s
  | .yield a => Sys2Proof.Machine.execYield a s
  | .yieldXForm gd a => Sys2Proof.Machine.execYieldXForm gd a s
  | .halt => Sys2Proof.Machine.execHalt s
  | .brk => Sys2Proof.Machine.execBrk s
  | .brkXForm gd code => Sys2Proof.Machine.execBrkXForm gd code s
  | .trap gd a b cause => Sys2Proof.Machine.execTrap gd a b cause s
  | .redpin d a => Sys2Proof.Machine.execRedpin d a s
  | .perf d a => Sys2Proof.Machine.execPerf d a s
  | .scall gd d a b len entry => Sys2Proof.Machine.execScall gd d a b len entry s
  | .scallReply => Sys2Proof.Machine.execScallReply s
  | .vadd x d a b => Sys2Proof.Machine.execVadd x d a b s
  | .vsub x d a b => Sys2Proof.Machine.execVsub x d a b s
  | .vadds x d a b => Sys2Proof.Machine.execVadds x d a b s
  | .vsubs x d a b => Sys2Proof.Machine.execVsubs x d a b s
  | .vmul x d a b => Sys2Proof.Machine.execVmul x d a b s
  | .vmulh x d a b => Sys2Proof.Machine.execVmulh x d a b s
  | .vmin x d a b => Sys2Proof.Machine.execVmin x d a b s
  | .vmax x d a b => Sys2Proof.Machine.execVmax x d a b s
  | .vand x d a b => Sys2Proof.Machine.execVand x d a b s
  | .vor x d a b => Sys2Proof.Machine.execVor x d a b s
  | .vxor x d a b => Sys2Proof.Machine.execVxor x d a b s
  | .vsll x d a b => Sys2Proof.Machine.execVsll x d a b s
  | .vsrl x d a b => Sys2Proof.Machine.execVsrl x d a b s
  | .vsra x d a b => Sys2Proof.Machine.execVsra x d a b s
  | .vabs x d a => Sys2Proof.Machine.execVabs x d a s
  | .vcmpEq x d a b => Sys2Proof.Machine.execVcmpEq x d a b s
  | .vcmpNe x d a b => Sys2Proof.Machine.execVcmpNe x d a b s
  | .vcmpLt x d a b => Sys2Proof.Machine.execVcmpLt x d a b s
  | .vcmpLe x d a b => Sys2Proof.Machine.execVcmpLe x d a b s
  | .vfadd x d a b => Sys2Proof.Machine.execVfadd x d a b s
  | .vfsub x d a b => Sys2Proof.Machine.execVfsub x d a b s
  | .vfmul x d a b => Sys2Proof.Machine.execVfmul x d a b s
  | .vfdiv x d a b => Sys2Proof.Machine.execVfdiv x d a b s
  | .vfsqrt x d a => Sys2Proof.Machine.execVfsqrt x d a s
  | .vfmin x d a b => Sys2Proof.Machine.execVfmin x d a b s
  | .vfmax x d a b => Sys2Proof.Machine.execVfmax x d a b s
  | .vfneg x d a => Sys2Proof.Machine.execVfneg x d a s
  | .vfabs x d a => Sys2Proof.Machine.execVfabs x d a s
  | .vfcmpEq x d a b => Sys2Proof.Machine.execVfcmpEq x d a b s
  | .vfcmpLt x d a b => Sys2Proof.Machine.execVfcmpLt x d a b s
  | .vfcmpLe x d a b => Sys2Proof.Machine.execVfcmpLe x d a b s
  | .vfcmpUnord x d a b => Sys2Proof.Machine.execVfcmpUnord x d a b s
  | .vfma x d a b => Sys2Proof.Machine.execVfma x d a b s
  | .vfms x d a b => Sys2Proof.Machine.execVfms x d a b s
  | .vfnma x d a b => Sys2Proof.Machine.execVfnma x d a b s
  | .vcvt gd rm d a part fmt => Sys2Proof.Machine.execVcvt gd rm d a part fmt s
  | .vqnt gd rm d a xv fmt => Sys2Proof.Machine.execVqnt gd rm d a xv fmt s
  | .vdqnt gd rm d a fmt => Sys2Proof.Machine.execVdqnt gd rm d a fmt s
  | .vrsum x d a => Sys2Proof.Machine.execVrsum x d a s
  | .vrmax x d a => Sys2Proof.Machine.execVrmax x d a s
  | .vrmin x d a => Sys2Proof.Machine.execVrmin x d a s
  | .vperm x d a b => Sys2Proof.Machine.execVperm x d a b s
  | .vslup x d a b => Sys2Proof.Machine.execVslup x d a b s
  | .vsldn x d a b => Sys2Proof.Machine.execVsldn x d a b s
  | .vrev x d a => Sys2Proof.Machine.execVrev x d a s
  | .vld x d a b => Sys2Proof.Machine.execVld x d a b s
  | .vst x d a b => Sys2Proof.Machine.execVst x d a b s
  | .vrng gd d a b c => Sys2Proof.Machine.execVrng gd d a b c s
  | .vsrnd gd d e a b c w part fmt => Sys2Proof.Machine.execVsrnd gd d e a b c w part fmt s
  | .vdrop gd rm d e a b c p => Sys2Proof.Machine.execVdrop gd rm d e a b c p s
  | .vopt x a => Sys2Proof.Machine.execVopt x a s
  | .vext x d a b => Sys2Proof.Machine.execVext x d a b s
  | .vins x d a b => Sys2Proof.Machine.execVins x d a b s
  | .vbcast gd d a fmt => Sys2Proof.Machine.execVbcast gd d a fmt s
  | .vtag x d a => Sys2Proof.Machine.execVtag x d a s
  | .vsett x d a => Sys2Proof.Machine.execVsett x d a s
  | .vmov x d a => Sys2Proof.Machine.execVmov x d a s
  | .mand x d a b => Sys2Proof.Machine.execMand x d a b s
  | .mor x d a b => Sys2Proof.Machine.execMor x d a b s
  | .mxor x d a b => Sys2Proof.Machine.execMxor x d a b s
  | .mandn x d a b => Sys2Proof.Machine.execMandn x d a b s
  | .mnot x d a => Sys2Proof.Machine.execMnot x d a s
  | .mpop x d a => Sys2Proof.Machine.execMpop x d a s
  | .mset x d a => Sys2Proof.Machine.execMset x d a s
  | .mget x d a => Sys2Proof.Machine.execMget x d a s
  | .mldb gd a p0 np1 => Sys2Proof.Machine.execMldb gd a p0 np1 s
  | .mldbS gd a c p0 np1 => Sys2Proof.Machine.execMldbS gd a c p0 np1 s
  | .mstb gd tag a p0 np1 => Sys2Proof.Machine.execMstb gd tag a p0 np1 s
  | .mprog gd a comb init => Sys2Proof.Machine.execMprog gd a comb init s
  | .mmac x imode p0 np1 => Sys2Proof.Machine.execMmac x imode p0 np1 s
  | .mmact x imode p0 np1 => Sys2Proof.Machine.execMmact x imode p0 np1 s
  | .mrec x init p0 => Sys2Proof.Machine.execMrec x init p0 s
  | .acz gd r0 nr1 fill => Sys2Proof.Machine.execAcz gd r0 nr1 fill s
  | .acld gd tag a r0 nr1 => Sys2Proof.Machine.execAcld gd tag a r0 nr1 s
  | .acst gd tag a r0 nr1 sc imode rm fmt => Sys2Proof.Machine.execAcst gd tag a r0 nr1 sc imode rm fmt s
  | .acmv gd tag r0 src nr1 => Sys2Proof.Machine.execAcmv gd tag r0 src nr1 s
  | .mgang gd acc imode stride a b c p0 np1 r0 => Sys2Proof.Machine.execMgang gd acc imode stride a b c p0 np1 r0 s
  | .gangJoin => Sys2Proof.Machine.execGangJoin s
  | .gangDone => Sys2Proof.Machine.execGangDone s
  | .gangTimeout => Sys2Proof.Machine.execGangTimeout s
  | .gangAbort => Sys2Proof.Machine.execGangAbort s
  | .mknot gd a k0 nk1 => Sys2Proof.Machine.execMknot gd a k0 nk1 s
  | .mspl x => Sys2Proof.Machine.execMspl x s
  | .mspld x c => Sys2Proof.Machine.execMspld x c s
  | .msgrad x init tag b c => Sys2Proof.Machine.execMsgrad x init tag b c s
  | .mrefine gd k0 nk1 => Sys2Proof.Machine.execMrefine gd k0 nk1 s
  | .tsel d a b => Sys2Proof.Machine.execTsel d a b s
  | .tselXForm gd d a b => Sys2Proof.Machine.execTselXForm gd d a b s
  | .tnew gd cls d a b c => Sys2Proof.Machine.execTnew gd cls d a b c s
  | .tnewLink gd a b c => Sys2Proof.Machine.execTnewLink gd a b c s
  | .texp gd back flip a b c e => Sys2Proof.Machine.execTexp gd back flip a b c e s
  | .tback gd flip a b c => Sys2Proof.Machine.execTback gd flip a b c s
  | .tabort a b => Sys2Proof.Machine.execTabort a b s
  | .tabortXForm gd clr a b => Sys2Proof.Machine.execTabortXForm gd clr a b s
  | .troot a b => Sys2Proof.Machine.execTroot a b s
  | .trootXForm gd a b => Sys2Proof.Machine.execTrootXForm gd a b s
  | .tfree gd a => Sys2Proof.Machine.execTfree gd a s
  | .tfreeKeep gd a => Sys2Proof.Machine.execTfreeKeep gd a s
  | .tfreeInit gd cls a => Sys2Proof.Machine.execTfreeInit gd cls a s
  | .tstat gd sel d a b => Sys2Proof.Machine.execTstat gd sel d a b s
  | .tleaf gd d a b c e => Sys2Proof.Machine.execTleaf gd d a b c e s
  | .engineStart e => Sys2Proof.Machine.execEngineStart e s
  | .engineConfirmation e => Sys2Proof.Machine.execEngineConfirmation e s
  | .engineCompletion e => Sys2Proof.Machine.execEngineCompletion e s
  | .packetArrival => Sys2Proof.Machine.execPacketArrival s
  | .inboxAccept vc => Sys2Proof.Machine.execInboxAccept vc s
  | .dispatch => Sys2Proof.Machine.execDispatch s
  | .handlerBudget => Sys2Proof.Machine.execHandlerBudget s
  | .writeQueueAccept => Sys2Proof.Machine.execWriteQueueAccept s
  | .writeQueueWriteBack => Sys2Proof.Machine.execWriteQueueWriteBack s
  | .remoteRead => Sys2Proof.Machine.execRemoteRead s
  | .answerArrival => Sys2Proof.Machine.execAnswerArrival s
  | .deferredFault => Sys2Proof.Machine.execDeferredFault s
  | .trapRecord => Sys2Proof.Machine.execTrapRecord s
  | .reportInjection => Sys2Proof.Machine.execReportInjection s
  | .injection => Sys2Proof.Machine.execInjection s
  | .seekAnswer vc => Sys2Proof.Machine.execSeekAnswer vc s
  | .seekUnresolved vc => Sys2Proof.Machine.execSeekUnresolved vc s
  | .routerForward k => Sys2Proof.Machine.execRouterForward k s
  | .nameTableAgeing => Sys2Proof.Machine.execNameTableAgeing s
  | .holdNotice port => Sys2Proof.Machine.execHoldNotice port s
  | .releaseNotice port => Sys2Proof.Machine.execReleaseNotice port s
  | .scrub line => Sys2Proof.Machine.execScrub line s
  | .tileTimerFire => Sys2Proof.Machine.execTileTimerFire s
  | .sliceTimerFire => Sys2Proof.Machine.execSliceTimerFire s
  | .read c => Sys2Proof.Machine.execRead c s
  | .write c => Sys2Proof.Machine.execWrite c s
  | .resume c => Sys2Proof.Machine.execResume c s
  | .redirect c => Sys2Proof.Machine.execRedirect c s
  | .kill c => Sys2Proof.Machine.execKill c s
  | .haltCommand c => Sys2Proof.Machine.execHaltCommand c s
  | .step c => Sys2Proof.Machine.execStep c s
  | .union c => Sys2Proof.Machine.execUnion c s
  | .nameWrite c => Sys2Proof.Machine.execNameWrite c s
  | .commandAnswer agent => Sys2Proof.Machine.execCommandAnswer agent s
  | .commandTimeout agent => Sys2Proof.Machine.execCommandTimeout agent s
  | .tileWindowAccess agent addr k => Sys2Proof.Machine.execTileWindowAccess agent addr k s
  | .hartTimerCompare agent => Sys2Proof.Machine.execHartTimerCompare agent s
  | .hallFlagUnionClear f hall mask => Sys2Proof.Machine.execHallFlagUnionClear f hall mask s
  | .eventQueueWrite f => Sys2Proof.Machine.execEventQueueWrite f s
  | .eventQueueHeadWrite f q ovf v => Sys2Proof.Machine.execEventQueueHeadWrite f q ovf v s
  | .callRecord f t => Sys2Proof.Machine.execCallRecord f t s
  | .dispatchRead f h => Sys2Proof.Machine.execDispatchRead f h s
  | .serviceSliceExpiry f h => Sys2Proof.Machine.execServiceSliceExpiry f h s
  | .complete f h v => Sys2Proof.Machine.execComplete f h v s
  | .completionSend f => Sys2Proof.Machine.execCompletionSend f s
  | .switch f t => Sys2Proof.Machine.execSwitch f t s
  | .ready f t => Sys2Proof.Machine.execReady f t s
  | .retire f t => Sys2Proof.Machine.execRetire f t s
  | .fail f t => Sys2Proof.Machine.execFail f t s
  | .callTimeout f t => Sys2Proof.Machine.execCallTimeout f t s
  | .switchWindowTimeout f t => Sys2Proof.Machine.execSwitchWindowTimeout f t s
  | .translationWalk port => Sys2Proof.Machine.execTranslationWalk port s
  | .faultReportRepeat port => Sys2Proof.Machine.execFaultReportRepeat port s
  | .retry c => Sys2Proof.Machine.execRetry c s
  | .deny c => Sys2Proof.Machine.execDeny c s
  | .shoot agent v => Sys2Proof.Machine.execShoot agent v s
  | .shootAcknowledgement agent receiver => Sys2Proof.Machine.execShootAcknowledgement agent receiver s
  | .deviceRequest c r => Sys2Proof.Machine.execDeviceRequest c r s
  | .bridgeOutbound p => Sys2Proof.Machine.execBridgeOutbound p s
  | .bridgeInbound p j ep k => Sys2Proof.Machine.execBridgeInbound p j ep k s
  | .park c => Sys2Proof.Machine.execPark c s
  | .quiescenceComplete => Sys2Proof.Machine.execQuiescenceComplete s
  | .preemptTimeout => Sys2Proof.Machine.execPreemptTimeout s
  | .unpark c => Sys2Proof.Machine.execUnpark c s
  | .query c => Sys2Proof.Machine.execQuery c s
  | .hallop c => Sys2Proof.Machine.execHallop c s
  | .balloonDiversion => Sys2Proof.Machine.execBalloonDiversion s
  | .balloonEntryAck => Sys2Proof.Machine.execBalloonEntryAck s
  | .redelivery => Sys2Proof.Machine.execRedelivery s
  | .tctlWrite f v => Sys2Proof.Machine.execTctlWrite f v s
  | .tokenRefill f => Sys2Proof.Machine.execTokenRefill f s
  | .frameMarker missed readings => Sys2Proof.Machine.execFrameMarker missed readings s
  | .missingMarker => Sys2Proof.Machine.execMissingMarker s
  | .clockRaise f => Sys2Proof.Machine.execClockRaise f s
  | .stretch f => Sys2Proof.Machine.execStretch f s
  | .delayLineRemeasure skewed => Sys2Proof.Machine.execDelayLineRemeasure skewed s
  | .pulseWindowClose f silent => Sys2Proof.Machine.execPulseWindowClose f silent s
  | .repair c => Sys2Proof.Machine.execRepair c s
  | .shiftStep => Sys2Proof.Machine.execShiftStep s
  | .kiteLineRebuild hall nlines => Sys2Proof.Machine.execKiteLineRebuild hall nlines s
  | .launch hall p => Sys2Proof.Machine.execLaunch hall p s
  | .initialPacketWave hall => Sys2Proof.Machine.execInitialPacketWave hall s
  | .boot b => Sys2Proof.Machine.execBoot b s
  | .bootWatchdog => Sys2Proof.Machine.execBootWatchdog s
  | .bootOk => Sys2Proof.Machine.execBootOk s
  | .tftpStatusRead => Sys2Proof.Machine.execTftpStatusRead s
  | .tftpBankWrite bankB image => Sys2Proof.Machine.execTftpBankWrite bankB image s
  | .featureAccept hi v => Sys2Proof.Machine.execFeatureAccept hi v s
  | .checkpointGo => Sys2Proof.Machine.execCheckpointGo s
  | .checkpointWriting => Sys2Proof.Machine.execCheckpointWriting s
  | .checkpointDone => Sys2Proof.Machine.execCheckpointDone s
  | .powerFail => Sys2Proof.Machine.execPowerFail s
  | .overTemperature => Sys2Proof.Machine.execOverTemperature s
  | .jtagUnlock scan => Sys2Proof.Machine.execJtagUnlock scan s
  | .serviceHartsHalted f t old => Sys2Proof.Machine.execServiceHartsHalted f t old s
  | .forwardedRequest port => Sys2Proof.Machine.execForwardedRequest port s
  | .deviceCompletion c v => Sys2Proof.Machine.execDeviceCompletion c v s

end Sys2Proof.Machine
end

