-- ==== Sys2Proof/Machine/Issue.lean ====
section
/-! DEFINITION. Issue of a thread's next instruction (log 3): what takes its place at the boundary (R45, R215, R217, R421, R472), the
fetch (R165, R168, R174), and what it waits for first (R53, R217). -/

namespace Sys2Proof

/-! ### The g registers of an instruction -/

def RegLit.gUses : RegLit → List GReg
  | .reg r => [r]
  | .lit _ => []
def Src2.gUses : Src2 → List GReg
  | .reg r => [r]
  | .imm _ => []
def VSrc.gUses : VSrc → List GReg
  | .g r => [r]
  | .v _ => []
def VIdx.gUses : VIdx → List GReg
  | .reg r => [r]
  | .imm _ => []
def AddrMode.gUses : AddrMode → List GReg
  | .idx c => [c]
  | _ => []
def SpaceSel.gUses : SpaceSel → List GReg
  | .reg e => [e]
  | .imm _ => []
def Target.gUses : Target → List GReg
  | .ext sp => sp.gUses
  | _ => []
def AmoArgs.gUses (x : AmoArgs) : List GReg := x.d :: x.a :: x.b :: x.tgt.gUses
def DevArgs.gUses (x : DevArgs) : List GReg := [x.d, x.a]

/-- The g registers that an instruction reads or writes; one whose answer is pending is waited for (R217). -/
def Instr.gUses : Instr → List GReg
  | .add d a b | .sub d a b | .and d a b | .or d a b | .xor d a b | .andn d a b | .sll d a b | .srl d a b | .sra d a b | .rol d a b
  | .ror d a b | .min d a b | .max d a b | .minu d a b | .maxu d a b | .mul d a b | .mulh d a b | .mulhu d a b | .mulhsu d a b
  | .div d a b | .divu d a b | .rem d a b | .remu d a b | .addsat d a b | .subsat d a b | .fadd _ d a b | .fsub _ d a b
  | .fmul _ d a b | .fdiv _ d a b | .fmin _ d a b | .fmax _ d a b | .fsgnj _ d a b | .tsel d a b | .tselXForm _ d a b
  | .tstat _ _ d a b | .scall _ d a b _ _ | .send _ d a b _ | .mgang _ _ _ _ d a b _ _ _ | .tnewLink _ d a b | .tback _ _ d a b => [d, a, b]
  | .cset _ _ a b c _ => [a, b, c]
  | .clz d a | .ctz d a | .popc d a | .sextB d a | .sextH d a | .sextW d a | .zextB d a | .zextH d a | .zextW d a | .addi d a _
  | .andi d a _ | .ori d a _ | .xori d a _ | .addiLiteral d a _ | .andiLiteral d a _ | .oriLiteral d a _ | .xoriLiteral d a _
  | .slli d a _ | .srli d a _ | .srai d a _ | .rori d a _ | .fsqrt _ d a | .fneg _ d a | .fabs _ d a | .fclass _ d a | .fcvt _ _ d a
  | .fround _ d a | .fpConvertXForm _ _ _ _ d a | .ld _ d a _ | .st _ d a _ | .csrw d a _ | .csrs d a _ | .csrc d a _ | .cread _ d a _
  | .ftag d a | .ftagC d a | .redpin d a | .perf d a | .post _ d a _ _ _ | .mldbS _ d a _ _ | .tabort d a | .tabortXForm _ _ d a
  | .troot d a | .trootXForm _ d a | .trap _ d a _ => [d, a]
  | .cmpEq _ a b | .cmpNe _ a b | .cmpLt _ a b | .cmpGe _ a b | .cmpLtu _ a b | .cmpGeu _ a b | .tst _ a b | .feq _ _ a b | .flt _ _ a b
  | .fle _ _ a b | .funord _ _ a b => [a, b]
  | .sel _ d a s _ => d :: a :: s.gUses
  | .integerAluXForm op _ d a s => (if op.isCmp then [] else [d]) ++ a :: s.gUses
  | .li d _ | .liLiteral d _ | .ppack d | .csrr d _ | .ftagLiteral d _ | .ftagCLiteral d _ => [d]
  | .cmpiEq _ a _ | .cmpiNe _ a _ | .cmpiLt _ a _ | .cmpiGe _ a _ | .cmpiLtu _ a _ | .cmpiGeu _ a _ | .cmpiTst _ a _ | .jmpr a | .callr a
  | .loop a _ | .punpk a | .fwd _ a _ _ _ | .wtagAny a | .wtagAll a | .tclr a | .yield a | .yieldXForm _ a | .mldb _ a _ _ | .mstb _ _ a _ _
  | .mprog _ a _ _ | .acld _ _ a _ _ | .acst _ _ a _ _ _ _ _ _ | .mknot _ a _ _ | .tfree _ a | .tfreeKeep _ a | .tfreeInit _ _ a
  | .vopt _ a | .vbcast _ _ a _ | .vsett _ _ a | .mset _ _ a => [a]
  | .fma _ _ d a b c | .fms _ _ d a b c | .fnma _ _ d a b c => d :: a :: c :: b.gUses
  | .fpAluXForm op _ _ d a b => (if op.isCmp then [] else [d]) ++ a :: b.gUses
  | .ldXForm _ _ d a m | .stXForm _ _ d a m => d :: a :: m.gUses
  | .ldg x | .stg x => x.gUses
  | .ldx x sp | .stx x sp => x.gUses ++ sp.gUses
  | .amoAdd x | .amoAnd x | .amoOr x | .amoXor x | .amoSwap x | .amoMin x | .amoMax x | .amoMinu x | .amoMaxu x | .amoFadd x | .amoFmin x
  | .amoFmax x => x.gUses
  | .amoCas x c | .waitv x c => c :: x.gUses
  | .alloc _ | .free _ => [31]
  | .sendi _ a b c e _ => a :: b :: c :: e.gUses
  | .cpy _ _ d a b dsc | .cpyxG _ _ _ d a b dsc | .cpyxP _ _ _ d a b dsc => d :: a :: b :: dsc.toList
  | .vadd _ _ _ b | .vsub _ _ _ b | .vadds _ _ _ b | .vsubs _ _ _ b | .vmul _ _ _ b | .vmulh _ _ _ b | .vmin _ _ _ b | .vmax _ _ _ b
  | .vand _ _ _ b | .vor _ _ _ b | .vxor _ _ _ b | .vsll _ _ _ b | .vsrl _ _ _ b | .vsra _ _ _ b | .vfadd _ _ _ b | .vfsub _ _ _ b
  | .vfmul _ _ _ b | .vfdiv _ _ _ b | .vfmin _ _ _ b | .vfmax _ _ _ b | .vfma _ _ _ b | .vfms _ _ _ b | .vfnma _ _ _ b => b.gUses
  | .vcmpEq _ _ _ b | .vcmpNe _ _ _ b | .vcmpLt _ _ _ b | .vcmpLe _ _ _ b | .vfcmpEq _ _ _ b | .vfcmpLt _ _ _ b | .vfcmpLe _ _ _ b
  | .vfcmpUnord _ _ _ b => b.gUses
  | .vslup _ _ _ b | .vsldn _ _ _ b => [b]
  | .vld x _ a b | .vst x _ a b => a :: b :: (x.bind (·.dsc)).toList
  | .vrng _ _ a b c | .vsrnd _ _ _ a b c _ _ _ | .vdrop _ _ _ _ a b c _ => a :: b :: c.gUses
  | .vext _ d _ b => d :: b.gUses
  | .vins _ _ a b => a :: b.gUses
  | .vtag _ d _ | .mpop _ d _ | .mget _ d _ => [d]
  | .mmac x _ _ _ | .mmact x _ _ _ | .mrec x _ _ | .mspl x => [x.a]
  | .mspld x c => [x.a, c]
  | .msgrad x _ _ b c => [x.a, b, c]
  | .tnew _ _ d a b c => [d, a, b, c]
  | .texp _ _ _ a b c e => [a, b, c, e]
  | .tleaf _ d a b c e => [d, a, b, c, e]
  | _ => []

/-! ### Running ahead of unconfirmed operations (R53) -/

/-- An engine instruction (R52): it enters a queue behind the thread's earlier operations, or waits for its engine's value (R54). -/
def Instr.isEngine : Instr → Bool
  | .vadd .. | .vsub .. | .vadds .. | .vsubs .. | .vmul .. | .vmulh .. | .vmin .. | .vmax .. | .vand .. | .vor .. | .vxor .. | .vsll ..
  | .vsrl .. | .vsra .. | .vabs .. | .vcmpEq .. | .vcmpNe .. | .vcmpLt .. | .vcmpLe .. | .vfadd .. | .vfsub .. | .vfmul .. | .vfdiv ..
  | .vfsqrt .. | .vfmin .. | .vfmax .. | .vfneg .. | .vfabs .. | .vfcmpEq .. | .vfcmpLt .. | .vfcmpLe .. | .vfcmpUnord .. | .vfma ..
  | .vfms .. | .vfnma .. | .vcvt .. | .vqnt .. | .vdqnt .. | .vrsum .. | .vrmax .. | .vrmin .. | .vperm .. | .vslup .. | .vsldn ..
  | .vrev .. | .vld .. | .vst .. | .vrng .. | .vsrnd .. | .vdrop .. | .vopt .. | .vext .. | .vins .. | .vbcast .. | .vtag .. | .vsett ..
  | .vmov .. | .mand .. | .mor .. | .mxor .. | .mandn .. | .mnot .. | .mpop .. | .mset .. | .mget .. | .mldb .. | .mldbS .. | .mstb ..
  | .mprog .. | .mmac .. | .mmact .. | .mrec .. | .acz .. | .acld .. | .acst .. | .acmv .. | .mgang .. | .mknot .. | .mspl .. | .mspld ..
  | .msgrad .. | .mrefine .. | .tsel .. | .tselXForm .. | .tnew .. | .tnewLink .. | .texp .. | .tback .. | .tabort .. | .tabortXForm ..
  | .troot .. | .trootXForm .. | .tfree .. | .tfreeKeep .. | .tfreeInit .. | .tstat .. | .tleaf .. | .cpy .. | .cpyxG .. | .cpyxP .. => true
  | _ => false

/-- A scalar instruction whose effects are confined to g and p registers, PC and FFLAGS (R53). One that reads FFLAGS is not: the flags of
the operations before it are still to come. -/
def Instr.confined : Instr → Bool
  | .add .. | .sub .. | .and .. | .or .. | .xor .. | .andn .. | .sll .. | .srl .. | .sra .. | .rol .. | .ror .. | .min .. | .max ..
  | .minu .. | .maxu .. | .mul .. | .mulh .. | .mulhu .. | .mulhsu .. | .div .. | .divu .. | .rem .. | .remu .. | .addsat ..
  | .subsat .. | .clz .. | .ctz .. | .popc .. | .sextB .. | .sextH .. | .sextW .. | .zextB .. | .zextH .. | .zextW .. | .cmpEq ..
  | .cmpNe .. | .cmpLt .. | .cmpGe .. | .cmpLtu .. | .cmpGeu .. | .tst .. | .sel .. | .integerAluXForm .. | .addi .. | .andi .. | .ori ..
  | .xori .. | .li .. | .addiLiteral .. | .andiLiteral .. | .oriLiteral .. | .xoriLiteral .. | .liLiteral .. | .slli .. | .srli ..
  | .srai .. | .rori .. | .cmpiEq .. | .cmpiNe .. | .cmpiLt .. | .cmpiGe .. | .cmpiLtu .. | .cmpiGeu .. | .cmpiTst .. | .fadd .. | .fsub ..
  | .fmul .. | .fdiv .. | .fsqrt .. | .fmin .. | .fmax .. | .fneg .. | .fabs .. | .fsgnj .. | .fma .. | .fms .. | .fnma .. | .feq ..
  | .flt .. | .fle .. | .funord .. | .fclass .. | .fpAluXForm .. | .fcvt .. | .fround .. | .fpConvertXForm .. | .br .. | .jmp .. | .jmpr ..
  | .pand .. | .por .. | .pxor .. | .pandn .. | .pnot .. | .ppack .. | .punpk .. | .alloc .. | .free .. | .waitc .. | .fence ..
  | .loopf | .ftag .. | .ftagLiteral .. => true
  | .csrr _ c => c != 1
  | .csrs _ a c | .csrc _ a c => a == 0 && c != 1
  | _ => false

/-- An instruction that a thread fetches, as opposed to an event. -/
def Instr.fetched (i : Instr) : Bool := !(encode i).isEmpty

end Sys2Proof

namespace Sys2Proof.Machine

/-- A g register of the instruction has an answer pending (R217). -/
def Thread.waitsFor (t : Thread) (i : Instr) : Bool := i.gUses.any fun r => t.pending.getLsbD r.toNat

/-- The thread's next instruction at pc (R165, R168, R174): none where it does not decode or ends beyond word 4095. -/
noncomputable def State.fetch (s : State) : Option Instr :=
  let i := s.th.pc.toNat
  match decode (s.iword i) (s.iword (i + 1)) (s.iword (i + 2)) (s.iword (i + 3)) (s.iword (i + 4)) with
  | .ok x => if i + lengthOf (s.iword i) ≤ 4096 then some x else none
  | .error _ => none

/-- A BKPT register matches the thread and its PC (R472). -/
def State.atBreak (s : State) : Bool :=
  s.tile.pr.bkpt.toList.any fun w => w.getLsbD 63 && w.getLsbD (56 + s.tid.val) && decide ((w.extractLsb' 0 12).toNat = s.th.pc.toNat)

/-- The thread has unconfirmed engine operations (R53). -/
def State.unconfirmed (s : State) : Bool := decide (0 < s.tile.unconfirmed s.tid)

/-- A held instruction counts one confirmation-wait event (R54). -/
def State.confirmWait (s : State) : State := s.stallOn 0x04

/-- The thread stops at its boundary, once its earlier operations let it. -/
def stopping (s : State) (k : State → Out) : Out := if s.tile.holding s.tid then .next s.stall else k s

/-- The match of BKPT is skipped for one issue only (R472). -/
def Thread.issued (t : Thread) : Thread := if t.stalled then t else { t with skipBkpt := false }

/-- What no checkpoint of an earlier operation lets an instruction do before that operation is confirmed: trap, or, for a scalar one, move
the loop state or SRSEQ (R53). -/
def Thread.overruns (t u : Thread) (i : Instr) : Bool :=
  u.state == .stop || (!i.isEngine && (u.loop != t.loop || u.srseq != t.srseq))

/-- An instruction held under R53: each scalar one counts a confirmation wait (R54). -/
def State.heldBack (s : State) (i : Instr) : State := if i.isEngine then s.stall else s.confirmWait

/-- Runs a decoded instruction, or waits: for pending registers (R217), and for unconfirmed operations where it may not run ahead of them
(R53). -/
def runInstr (i : Instr) (s : State) : Out :=
  if s.th.waitsFor i then .next s.stall
  else if s.unconfirmed && !i.confined && !i.isEngine then .next s.confirmWait
  else match exec i s with
    | .next s1 =>
      if s.unconfirmed && s.th.overruns s1.th i then .next (s.heldBack i)
      else .next (if s.th.skipBkpt then s1.mapTh (·.issued) else s1)
    | o => o

/-- What a thread in RUN does at its instruction boundary: the trap of a deferred fault (R215), of the budget (R45) or of a late
quiescence (R421), the wait for a held request (R217), a breakpoint (R472), or its next instruction, which waits while a message of the
one before it stands at the port (R225). -/
noncomputable def issue (s : State) : Out :=
  let t := s.th
  if t.deferred.isSome then stopping s execDeferredFault
  else if s.tile.limit ≤ t.cycles then stopping s execHandlerBudget
  else if s.tile.pstate = 1 ∧ s.tile.limit ≤ s.parkCycles s.foc then stopping s execPreemptTimeout
  else if t.heldWait && (t.wait == .none) then stopping s fun s => .next (s.mapTh fun t => { t with state := .pgwait, wait := .pgwait })
  else if s.offered then .next s.stall
  else if s.atBreak && !t.skipBkpt then
    stopping s fun s => .next ((s.trap Cause.breakpoint 0).mapTh fun t => { t with atBkpt := true })
  else match s.fetch with
    | some i => runInstr i s
    | none => if s.unconfirmed then .next s.stall else .next s.trapIllegal

end Sys2Proof.Machine
end

