-- ==== Sys2Proof/Machine/Schedule.lean ====
section
/-! DEFINITION. The default schedule (DESIGN CHOICE, log 3): which of the machine's own events may take place, which thread issues next, and the agenda.
Every order that the manual allows is an agenda; where the agenda is empty, threads and the machine's own events take turns. -/

namespace Sys2Proof

/-- Events that take place outside any tile, so that the tile named beside them plays no part. -/
def Instr.ofUnit : Instr → Bool
  | .waitvArm p | .waitvWake p | .waitvTimeout p => p.isSome
  | .routerForward _ | .commandAnswer _ | .commandTimeout _ | .tileWindowAccess .. | .hartTimerCompare _ | .hallFlagUnionClear ..
  | .eventQueueWrite _ | .eventQueueHeadWrite .. | .callRecord .. | .dispatchRead .. | .serviceSliceExpiry .. | .complete ..
  | .completionSend _ | .switch .. | .ready .. | .retire .. | .fail .. | .callTimeout .. | .switchWindowTimeout .. | .serviceHartsHalted ..
  | .translationWalk _ | .forwardedRequest _ | .faultReportRepeat _ | .shoot .. | .shootAcknowledgement .. | .deviceRequest ..
  | .deviceCompletion .. | .bridgeOutbound _ | .bridgeInbound .. | .tctlWrite .. | .tokenRefill _ | .frameMarker .. | .clockRaise _
  | .stretch _ | .delayLineRemeasure _ | .pulseWindowClose .. | .kiteLineRebuild .. | .launch .. | .initialPacketWave _ | .boot _
  | .bootWatchdog | .bootOk | .tftpStatusRead | .tftpBankWrite .. | .featureAccept .. | .checkpointGo | .checkpointWriting | .checkpointDone
  | .powerFail | .overTemperature | .jtagUnlock _ => true
  | .retry _ | .deny _ | .repair _ => true
  | .read c | .write c => decide (0x500 ≤ c.reg.toNat)
  | _ => false

/-- Events that still take place in minimal mode: those of gallery (0, 0), of its boot and its ports, and of the module (R461, R470, R472,
R473); time passes. -/
def Instr.inMinimal : Instr → Bool
  | .boot _ | .bootOk | .tftpStatusRead | .tftpBankWrite .. | .jtagUnlock _ | .powerFail | .overTemperature | .frameMarker .. => true
  | .tileWindowAccess agent .. | .hartTimerCompare agent | .commandAnswer agent | .commandTimeout agent => decide (agent < 16)
  | .eventQueueWrite f | .eventQueueHeadWrite f .. | .callRecord f _ | .dispatchRead f _ | .serviceSliceExpiry f _ | .complete f ..
  | .completionSend f | .switch f _ | .ready f _ | .retire f _ | .fail f _ | .callTimeout f _ | .switchWindowTimeout f _
  | .serviceHartsHalted f .. | .hallFlagUnionClear f .. => f == 0
  | _ => false

end Sys2Proof

namespace Sys2Proof.Machine

/-- An event of the schedule: its tile and thread, and the event. -/
abbrev Ev := Coord × Tid × Instr

/-! ### The machine's own events -/

def engines : List Engine := [.matrix, .vector, .copy, .tree]

/-- The tile's thread events. -/
noncomputable def threadEvents (c : Coord) : List Ev :=
  (List.finRange 4).flatMap fun i => [(c, i, .wtagWake), (c, i, .deferredFault), (c, i, .trapRecord)]

/-- A HALLOP to carry on or to begin where it was relayed. -/
noncomputable def State.hallopEvent (s : State) (c : Coord) : List Ev :=
  match (s.tileAt c).hallop with
  | some h => [(c, 0, .hallop h.cmd)]
  | none => s.net.filterMap fun f => match f.msg with
    | .hallop m _ => if f.atTile c then some (c, 0, .hallop m) else none
    | _ => none

/-- Channels on which a message has come to tile c. -/
def State.channelsAt (s : State) (c : Coord) : List (BitVec 4) := ((s.net.filter fun f => f.atTile c).map (·.vc)).eraseDups

/-- What may happen at tile c by itself: an UNPARK that is under way goes on (R425). -/
noncomputable def State.tileEvents (s : State) (c : Coord) : List Ev :=
  let t := s.tileAt c
  let at_ (i : Instr) : Ev := (c, 0, i)
  threadEvents c ++ engines.flatMap (fun e => [at_ (.engineCompletion e), at_ (.engineConfirmation e), at_ (.engineStart e)]) ++
    (t.copies.map fun k => at_ (.copyComplete k.tag)) ++
    [.gangAbort, .gangJoin, .gangDone, .gangTimeout, .answerArrival, .scallReply, .writeQueueAccept, .remoteRead, .waitvArm none,
      .writeQueueWriteBack, .waitvWake none, .waitvTimeout none, .reportInjection, .injection, .balloonDiversion, .balloonEntryAck,
      .redelivery, .packetArrival, .dispatch, .quiescenceComplete, .shiftStep, .sliceTimerFire, .tileTimerFire, .missingMarker].map at_ ++
    ((s.channelsAt c).map fun v => at_ (.inboxAccept v)) ++ (if t.pstate = 3 then [at_ (.unpark t.unparkCmd)] else []) ++
    (t.seeks.flatMap fun x => [at_ (.seekAnswer x.1), at_ (.seekUnresolved x.1)]) ++ s.hallopEvent c ++
    s.ports.flatMap fun x => [at_ (.holdNotice x.1), at_ (.releaseNotice x.1)]

/-- Ports that are listed or have a message. -/
def State.portsInUse (s : State) : List Nat :=
  (s.ports.map (·.1) ++ s.net.filterMap fun f => match f.dest with | .port p => some p | _ => none).eraseDups
def State.uesInUse (s : State) : List Nat := (s.net.filterMap fun f => match f.dest with | .ue p => some p | _ => none).eraseDups
/-- Galleries that are listed or have a message. -/
def State.galleriesInUse (s : State) : List Nat :=
  (s.galleries.map (·.1) ++ s.unitReports.map (·.1) ++ s.net.filterMap fun f => match f.dest with | .gallery g => some g | _ => none).eraseDups

/-- An operation at a root port that its expander completes by itself; a PCI Express device's completion comes from outside. -/
noncomputable def State.expanderDone (s : State) (c : Nat) : List Ev :=
  match (s.port (96 + c)).oldestOp with
  | some r => (match serves r.pa with
    | .cxl _ => [(s.foc, 0, .deviceCompletion c none)]
    | _ => [])
  | none => []

/-- A REPAIR that has reached the repair engine of the position it names. -/
noncomputable def State.repairsHere (s : State) : List Ev :=
  (s.net.filter fun f => f.isRepair && f.dest == .tile f.pos).map fun f => (f.pos, 0, .packetArrival)

/-- What may happen outside the tiles by itself. -/
noncomputable def State.unitEvents (s : State) : List Ev :=
  let u (i : Instr) : Ev := (s.foc, 0, i)
  ((List.range s.net.length).map fun k => u (.routerForward k)) ++
    (s.portsInUse.flatMap fun p => [u (.translationWalk p), u (.forwardedRequest p), u (.waitvArm (some p)), u (.waitvWake (some p)),
      u (.waitvTimeout (some p)), u (.faultReportRepeat p)]) ++
    ((List.range Config.rootPorts).flatMap s.expanderDone) ++ (s.uesInUse.map fun p => u (.bridgeOutbound p)) ++
    (s.galleriesInUse.flatMap fun f => [u (.eventQueueWrite f), u (.completionSend f)] ++
      ((List.range 16).flatMap fun t => [u (.callRecord f t), u (.callTimeout f t), u (.switchWindowTimeout f t)]) ++
      ((s.gallery f).svc.map fun x => u (.serviceSliceExpiry f x.1)) ++ ((s.gallery f).harts.map fun x => u (.hartTimerCompare (16 * f + x.1))) ++
      ((s.gallery f).cmd.flatMap fun x => [u (.commandAnswer (16 * f + x.1)), u (.commandTimeout (16 * f + x.1))] ++
        x.2.shoots.map fun r => u (.shootAcknowledgement (16 * f + x.1) r))) ++
    (s.fields.flatMap fun x => [u (.tokenRefill x.1), u (.clockRaise x.1), u (.pulseWindowClose x.1 [])]) ++
    (s.halls.flatMap fun x => (if x.2.stale then [u (.kiteLineRebuild x.1 x.2.nlines)] else []) ++
      (if x.2.waves.isEmpty then [] else [u (.initialPacketWave x.1)])) ++
    (s.galleries.map fun x => (gallerySite x.1, 0, .missingMarker)) ++ s.repairsHere ++ (if s.boot.goPending then [u .checkpointGo] else []) ++ [u .checkpointWriting, u .checkpointDone, u .bootWatchdog]

/-- Tiles at which something may happen: the listed ones and those that a message has reached. -/
def State.liveTiles (s : State) : List Coord :=
  ((s.listed.map (·.1) ++ (s.net.map (·.pos))).eraseDups).filter fun c => isCompute c && !(s.tileAt c).absent

/-- A field has run the cycles of its frame (R439). -/
def State.frameDue (s : State) : Bool := s.fields.any fun x => x.2.remaining == 0

/-- The states differ in more than what the performance counters of the focus tile show. -/
def State.moved (a b : State) : Bool := decide ({ b with tile := { b.tile with r := { b.tile.r with perf := a.tile.r.perf } } } ≠ a)

/-- The event does something now. -/
def State.enabled (s : State) (e : Ev) : Bool :=
  let s1 := s.focus e.1 e.2.1
  match exec e.2.2 s1 with
  | .next s2 => s1.moved s2
  | _ => false

/-- The first of the machine's own events that does something; in minimal mode the tiles stand still (R461). -/
noncomputable def State.ownEvent (s : State) : Option Ev :=
  (if s.boot.minimal.isSome then s.unitEvents.filter (·.2.2.inMinimal) else s.liveTiles.flatMap s.tileEvents ++ s.unitEvents).find? s.enabled

/-! ### Threads -/

/-- Thread i of tile c may issue: RUN on a live position that is not PARKED, and not found unready since the machine last moved. -/
def State.ready (s : State) (c : Coord) (i : Tid) : Bool :=
  let t := s.tileAt c
  (t.th i).state == .run && !(t.th i).stalled && !t.absent && decide (t.pstate ≤ 1)

/-- A position's place in the order of turns. -/
def turnKey (c : Coord) : Nat := 2048 * c.y + c.x

/-- The next thread to issue after thread i of tile c: the tile's later threads, its earlier ones, then the tiles in order. -/
def State.nextReady (s : State) (c : Coord) (i : Tid) : Option (Coord × Tid) :=
  let later (d : Coord) : Nat := if turnKey c < turnKey d then turnKey d else turnKey d + 2 ^ 32
  let others := (s.listed.map (·.1)).filter fun d => d != c && (List.finRange 4).any fun j => s.ready d j
  let best := others.foldl (fun (o : Option Coord) d => match o with
    | some b => if later d < later b then some d else some b
    | none => some d) none
  let mine := (roundRobin (i + 1)).find? fun j => s.ready c j
  match (List.finRange 4).find? fun j => decide (i < j) && s.ready c j, best with
  | some j, _ => some (c, j)
  | none, some d => ((List.finRange 4).find? fun j => s.ready d j).map fun j => (d, j)
  | none, none => mine.map fun j => (c, j)

/-- Threads found unready are tried again. -/
def Tile.retried (t : Tile) : Tile := { t with threads := t.threads.map fun h => { h with stalled := false } }
def State.retried (s : State) : State := { s with tile := s.tile.retried, tiles := s.tiles.map fun (c, t) => (c, t.retried) }

/-- Gives the turn to the next thread after thread i of tile c. -/
def State.rotate (s : State) (c : Coord) (i : Tid) : State :=
  match s.nextReady c i with
  | some (d, j) => s.focus d j
  | none => s

/-! ### The three kinds of step -/

def mapNext (f : State → State) : Out → Out
  | .next s => .next (f s)
  | o => o

/-- Lines of tile c's data SRAM and cell store that hold a word in error, by their scrub numbers (R109). -/
def State.faultyLines (s : State) (c : Coord) : List Nat :=
  let inTile (w : Nat) : Bool := decide (tileBase c ≤ 8 * w ∧ 8 * w < tileBase c + 0x34000)
  let line (w : Nat) : Option Nat :=
    let a := 8 * w - tileBase c
    if a < 0x10000 then some (a / 64) else if 0x30000 ≤ a then some (1024 + (a - 0x30000) / 64) else none
  (((s.soft ++ s.bad).filter inTile).filterMap line).eraseDups

/-- What the time brings to every tile: its name table ages every 2^14 ticks (R129), and the scrubber comes to each line at least once in
2^24 cycles, which 2^19 ticks never exceed (R109, R439); a line with no word in error is as it was. -/
noncomputable def State.periodic (s : State) : List (Coord × Tid × Option Instr) :=
  let now := s.wtime.toNat
  (if now % 2 ^ 14 = 0 then (s.listed.filter fun x => !x.2.names.isEmpty).map fun x => (x.1, 0, some .nameTableAgeing) else []) ++
    (if now % 2 ^ 19 = 0 then s.listed.flatMap fun x => (s.faultyLines x.1).map fun l => (x.1, 0, some (.scrub l)) else [])

/-- What happens at a marker that has come: clocks that rise (R441), and the shutdown for a sensor above 110 °C (R473). -/
noncomputable def State.atMarker (s : State) (readings : List Reading) : List (Coord × Tid × Option Instr) :=
  (s.fields.filterMap fun x => if x.2.raiseDue then some (s.foc, 0, some (.clockRaise x.1)) else none) ++
    (if readings.any (fun r => decide (110 < r.tmax.toNat)) then [(s.foc, 0, some .overTemperature)] else [])

/-- The agenda after a marker: what the marker brings comes before anything else, what the time brings after it. -/
noncomputable def State.afterMarker (readings : List Reading) (s : State) : State :=
  { s with agenda := s.atMarker readings ++ s.agenda ++ s.periodic }

/-- An event takes place at its tile, and threads found unready are tried again. -/
noncomputable def takePlace (e : Ev) (s : State) : Out :=
  mapNext (fun s1 => match e.2.2 with
    | .frameMarker _ readings => s1.retried.afterMarker readings
    | _ => s1.retried) (exec e.2.2 (s.focus e.1 e.2.1))

/-- A frame marker that every tile receives (R445). -/
noncomputable def marker (s : State) : Out := takePlace (s.foc, s.tid, .frameMarker [] []) s

/-- The machine's own turn: an event, after which the next thread has the turn; with none, the next thread issues at once, and where no
thread can, the time passes. -/
noncomputable def ownTurn (s : State) : Out :=
  match s.ownEvent with
  | some e => mapNext (fun s1 => s1.rotate s.foc s.tid) (takePlace e s)
  | none => match s.nextReady s.foc s.tid with
    | some (c, i) => issue { s.focus c i with turn := true }
    | none => marker s

/-- One entry of the agenda: an event, or a thread's next instruction. What cannot take place is passed over. An instruction waits for a
marker that is due (R439). -/
noncomputable def agendaTurn (e : Coord × Tid × Option Instr) (s : State) : Out :=
  match e with
  | (c, i, some x) =>
    if x.fetched || ((s.tileAt c).absent && !x.ofUnit) || (s.boot.minimal.isSome && !x.inMinimal) then .next s
    else takePlace (c, i, x) s
  | (c, i, none) =>
    let s1 := s.retried
    if s1.ready c i && s1.boot.minimal.isNone then
      (if s.frameDue then marker { s with agenda := e :: s.agenda } else issue (s1.focus c i))
    else .next s

/-- With no agenda: a due frame marker (R439), else the focus thread's next instruction when it has the turn and may issue, else the
machine's own turn. In minimal mode no thread issues (R461). -/
noncomputable def ownStep (s : State) : Out :=
  if s.boot.minimal.isSome then (match s.ownEvent with
    | some e => takePlace e s
    | none => marker s)
  else if s.frameDue then marker s
  else if !s.turn && s.ready s.foc s.tid then issue { s with turn := true }
  else ownTurn { s with turn := false }

/-- The entry is a BOOT, which power returns with. -/
def bootEntry (e : Coord × Tid × Option Instr) : Bool :=
  match e with
  | (_, _, some (.boot _)) => true
  | _ => false

end Sys2Proof.Machine
end

