-- ==== Sys2Proof/Machine/Step.lean ====
section
/-! DEFINITION. One step of the machine, and the placing of an instruction where the next step fetches it. -/

namespace Sys2Proof.Machine

/-- One step: the first entry of the agenda, else what the default schedule gives (log 3). Without power only a BOOT can happen. -/
noncomputable def step (s : State) : Host.Outcome State Fault Refusal :=
  match s.agenda with
  | [] => if s.boot.powered then ownStep s else .fault .unpowered
  | e :: rest => if s.boot.powered || bootEntry e then agendaTurn e { s with agenda := rest } else .fault .unpowered

/-- s with the words of an instruction stored at the PC of the focus thread, which is put into RUN at once, as a dispatch would have
left it; nothing else is scheduled before it. -/
def State.withFetchWord (s : State) (nbits w : Nat) : State :=
  let a := s.pa (0x10000 + 4 * s.th.pc.toNat)
  let ws := tableWords nbits w
  let s1 := ((List.range ws.length).zip ws).foldl (fun (s : State) (i, x) => s.store (a + 4 * i) 4 (x.zeroExtend 64)) s
  ({ s1 with agenda := [], turn := false } : State).mapTh fun t => { t with state := .run, stalled := false, noted := [], turnAt := none }

end Sys2Proof.Machine
end

