-- ==== Sys2Proof/Laws/Fields.lean ====
section
/-! SUPPORT. Every field of an encoded word reads back as what the encoder put there, and every code table reads back its codes. -/

namespace Sys2Proof

section Words
variable (maj : BitVec 6) (l : BitVec 2) (fn : BitVec 9) (d a b e c : BitVec 5) (i : BitVec 14) (sz : BitVec 3) (off : BitVec 11)
  (gd : Guard) (m : BitVec 16) (sub : BitVec 2)

theorem rWord_bit (k : Nat) : (rWord maj l fn d a b).getLsbD k =
    @BitVec.getLsbD (9 + 5 + 5 + 5 + 6 + 2) (fn ++ b ++ a ++ d ++ maj ++ l) k := rfl
theorem iWord_bit (k : Nat) : (iWord maj l d a i).getLsbD k =
    @BitVec.getLsbD (14 + 5 + 5 + 6 + 2) (i ++ a ++ d ++ maj ++ l) k := rfl
theorem mWord_bit (k : Nat) : (mWord maj sz d a off).getLsbD k =
    @BitVec.getLsbD (11 + 3 + 5 + 5 + 6 + 2) (off ++ sz ++ a ++ d ++ maj ++ 0#2) k := rfl
theorem xWord1_bit (k : Nat) : (xWord1 gd m sub e c).getLsbD k =
    @BitVec.getLsbD (16 + 1 + 3 + 2 + 5 + 5) (m ++ BitVec.ofBool gd.neg ++ gd.gp ++ sub ++ e ++ c) k := rfl

@[simp] theorem wL_rWord : wL (rWord maj l fn d a b) = l := by unfold wL; ext k hk; simp [rWord_bit]; grind
@[simp] theorem wMaj_rWord : wMaj (rWord maj l fn d a b) = maj := by unfold wMaj; ext k hk; simp [rWord_bit]; grind
@[simp] theorem wFn_rWord : wFn (rWord maj l fn d a b) = fn := by unfold wFn; ext k hk; simp [rWord_bit]; grind
@[simp] theorem wD_rWord : wD (rWord maj l fn d a b) = d := by unfold wD; ext k hk; simp [rWord_bit]; grind
@[simp] theorem wA_rWord : wA (rWord maj l fn d a b) = a := by unfold wA; ext k hk; simp [rWord_bit]; grind
@[simp] theorem wB_rWord : wB (rWord maj l fn d a b) = b := by unfold wB; ext k hk; simp [rWord_bit]; grind

@[simp] theorem wL_iWord : wL (iWord maj l d a i) = l := by unfold wL; ext k hk; simp [iWord_bit]; grind
@[simp] theorem wMaj_iWord : wMaj (iWord maj l d a i) = maj := by unfold wMaj; ext k hk; simp [iWord_bit]; grind
@[simp] theorem wD_iWord : wD (iWord maj l d a i) = d := by unfold wD; ext k hk; simp [iWord_bit]; grind
@[simp] theorem wA_iWord : wA (iWord maj l d a i) = a := by unfold wA; ext k hk; simp [iWord_bit]; grind
@[simp] theorem wImm14_iWord : wImm14 (iWord maj l d a i) = i := by unfold wImm14; ext k hk; simp [iWord_bit]; grind

@[simp] theorem wL_mWord : wL (mWord maj sz d a off) = 0 := by unfold wL; ext k hk; simp [mWord_bit]; grind
@[simp] theorem wMaj_mWord : wMaj (mWord maj sz d a off) = maj := by unfold wMaj; ext k hk; simp [mWord_bit]; grind
@[simp] theorem wD_mWord : wD (mWord maj sz d a off) = d := by unfold wD; ext k hk; simp [mWord_bit]; grind
@[simp] theorem wA_mWord : wA (mWord maj sz d a off) = a := by unfold wA; ext k hk; simp [mWord_bit]; grind
@[simp] theorem size_mWord : (mWord maj sz d a off).extractLsb' 18 3 = sz := by ext k hk; simp [mWord_bit]; grind
@[simp] theorem offset_mWord : (mWord maj sz d a off).extractLsb' 21 11 = off := by ext k hk; simp [mWord_bit]; grind

@[simp] theorem wImm16_xWord1 : wImm16 (xWord1 gd m sub e c) = m := by unfold wImm16; ext k hk; simp [xWord1_bit]; grind
@[simp] theorem wSub_xWord1 : wSub (xWord1 gd m sub e c) = sub := by unfold wSub; ext k hk; simp [xWord1_bit]; grind
@[simp] theorem wE_xWord1 : wE (xWord1 gd m sub e c) = e := by unfold wE; ext k hk; simp [xWord1_bit]; grind
@[simp] theorem wC_xWord1 : wC (xWord1 gd m sub e c) = c := by unfold wC; ext k hk; simp [xWord1_bit]; grind
theorem gp_xWord1 : (xWord1 gd m sub e c).extractLsb' 12 3 = gd.gp := by ext k hk; simp [xWord1_bit]; grind
theorem neg_xWord1 : (xWord1 gd m sub e c).extractLsb' 15 1 = BitVec.ofBool gd.neg := by
  ext k hk; simp [xWord1_bit]; grind
@[simp] theorem wGuard_xWord1 : wGuard (xWord1 gd m sub e c) = gd := by
  rcases gd with ⟨n, p⟩
  cases n <;> simp [wGuard, gp_xWord1, neg_xWord1]
end Words

/-- The literal's halves join to the literal (R166). -/
@[simp] theorem literal_halves (v : Word) : v.extractLsb' 32 32 ++ v.extractLsb' 0 32 = v := by
  ext k hk; simp; grind

/-! ### Register numbers -/

@[simp] theorem lo4_ext5 (r : BitVec 4) : lo4 (ext5 r) = r := by revert r; decide
@[simp] theorem lo3_ext5 (r : BitVec 3) : lo3 (ext5 r) = r := by revert r; decide
@[simp] theorem lo2_ext5 (r : BitVec 2) : lo2 (ext5 r) = r := by revert r; decide
@[simp] theorem is4_ext5 (r : BitVec 4) : is4 (ext5 r) = true := by revert r; decide
@[simp] theorem is3_ext5 (r : BitVec 3) : is3 (ext5 r) = true := by revert r; decide
@[simp] theorem is2_ext5 (r : BitVec 2) : is2 (ext5 r) = true := by revert r; decide
theorem ext5_lo4 (r : BitVec 5) (h : is4 r = true) : ext5 (lo4 r) = r := by revert r; decide
theorem ext5_lo3 (r : BitVec 5) (h : is3 r = true) : ext5 (lo3 r) = r := by revert r; decide
theorem ext5_lo2 (r : BitVec 5) (h : is2 r = true) : ext5 (lo2 r) = r := by revert r; decide

/-! ### Code tables -/

@[simp] theorem Fmt.ofCode_code (f : Fmt) : Fmt.ofCode f.code = some f := by cases f <;> decide
@[simp] theorem FpCode.ofCode_code (f : FpCode) : FpCode.ofCode f.code = some f := by cases f <;> decide
@[simp] theorem AluOp.ofFn_fn (o : AluOp) : AluOp.ofFn o.fn = some o := by cases o <;> decide
@[simp] theorem FpOp.ofCode_code (o : FpOp) : FpOp.ofCode o.code = some o := by cases o <;> decide
@[simp] theorem AmoOp.ofCode_code (o : AmoOp) : AmoOp.ofCode o.code = some o := by cases o <;> decide
@[simp] theorem NodeClass.ofCode_code (k : NodeClass) : NodeClass.ofCode k.code = some k := by cases k <;> decide
@[simp] theorem rmOf_rmBits (m : Option RMode) : rmOf (rmBits m) = some m := by
  rcases m with _ | m
  · decide
  · cases m <;> decide

end Sys2Proof
end

