-- ==== Sys2Proof/Laws/Decoding.lean ====
section
/-! SUPPORT. The decoder by length field: which sub-decoder reads a word, and the form that every encoding has. -/

namespace Sys2Proof

/-- The decoder over a list of words; a missing word reads 0. -/
noncomputable def readWords (ws : List IWord) : Except DecodeErr Instr :=
  decode (ws.getD 0 0) (ws.getD 1 0) (ws.getD 2 0) (ws.getD 3 0) (ws.getD 4 0)

theorem decode_short (w0 w1 w2 w3 w4 : IWord) (h : wL w0 = 0) (hm : majorOk (wMaj w0) = true) (hp : permits (wMaj w0) 0 = true) :
    decode w0 w1 w2 w3 w4 = decodeShort w0 none := by
  simp only [decode, h, hm, hp]; simp
theorem decode_literal (w0 w1 w2 w3 w4 : IWord) (h : wL w0 = 1) (hm : majorOk (wMaj w0) = true) (hp : permits (wMaj w0) 1 = true) :
    decode w0 w1 w2 w3 w4 = decodeShort w0 (some (w2 ++ w1)) := by
  simp only [decode, h, hm, hp]; simp
theorem decode_long (w0 w1 w2 w3 w4 : IWord) (h : wL w0 = 2) (hm : majorOk (wMaj w0) = true) (hp : permits (wMaj w0) 2 = true) :
    decode w0 w1 w2 w3 w4 = decodeX (wMaj w0).toNat (XF.of w0 w1 w2 w3 w4) := by
  simp only [decode, h, hm, hp]; simp
theorem decode_long_literal (w0 w1 w2 w3 w4 : IWord) (h : wL w0 = 3) (hm : majorOk (wMaj w0) = true)
    (hp : permits (wMaj w0) 3 = true) : decode w0 w1 w2 w3 w4 = decodeX (wMaj w0).toNat (XF.of w0 w1 w2 w3 w4) := by
  simp only [decode, h, hm, hp]; simp

/-- The fields of an X form are those that the encoder was given (R169). -/
theorem XF.of_xf (maj : BitVec 6) (fn : BitVec 9) (gd : Guard) (d a b : BitVec 5) (m : BitVec 16) (sub : BitVec 2) (e c : BitVec 5)
    (i w3 w4 : IWord) : XF.of (rWord maj 2 fn d a b) (xWord1 gd m sub e c) i w3 w4 = ⟨fn, b, a, d, m, gd, sub, e, c, i, none⟩ := by
  simp [XF.of]
theorem XF.of_xl (maj : BitVec 6) (fn : BitVec 9) (gd : Guard) (d a b : BitVec 5) (m : BitVec 16) (sub : BitVec 2) (e c : BitVec 5)
    (i : IWord) (v : Word) : XF.of (rWord maj 3 fn d a b) (xWord1 gd m sub e c) i (v.extractLsb' 0 32) (v.extractLsb' 32 32) =
      ⟨fn, b, a, d, m, gd, sub, e, c, i, some v⟩ := by
  simp [XF.of]

/-! ### The form of an encoding -/

/-- A list of words is an instruction of the length that its first word names (R165); an event's list is empty. -/
def HasForm (l : List IWord) : Prop := ∀ w r, l = w :: r → l.length = lengthOf w

theorem hasForm_nil : HasForm [] := by intro w r h; cases h
theorem hasForm_one (w : IWord) (h : wL w = 0) : HasForm [w] := by
  intro x r e; cases e; simp [lengthOf, h]
theorem hasForm_literal (w : IWord) (v : Word) (h : wL w = 1) : HasForm (w :: litWords v) := by
  intro x r e; cases e; simp [lengthOf, h, litWords]
theorem hasForm_xf {maj fn gd d a b m sub e c i} : HasForm (xf maj fn gd d a b m sub e c i) := by
  intro x r e; cases e; simp [lengthOf, xf]
theorem hasForm_xl {maj fn gd d a b m sub e c i v} : HasForm (xl maj fn gd d a b m sub e c i v) := by
  intro x r e; cases e; simp [lengthOf, xl, litWords]
theorem hasForm_rWord {maj fn d a b} : HasForm [rWord maj 0 fn d a b] := hasForm_one _ (by simp)
theorem hasForm_iWord {maj d a i} : HasForm [iWord maj 0 d a i] := hasForm_one _ (by simp)
theorem hasForm_mWord {maj sz d a off} : HasForm [mWord maj sz d a off] := hasForm_one _ (by simp)
theorem hasForm_encFpX {k x f d a b c} : HasForm (encFpX k x f d a b c) := by
  cases b
  · exact hasForm_xf
  · exact hasForm_xl
theorem hasForm_encSrc2 {fn gd d a s c} : HasForm (encSrc2 fn gd d a s c) := by cases s <;> exact hasForm_xf
theorem hasForm_encMode {fn maj gd d a m} : HasForm (encMode fn maj gd d a m) := by cases m <;> exact hasForm_xf
theorem hasForm_encDevice {maj fn gd t off d a b c} : HasForm (encDevice maj fn gd t off d a b c) := by
  cases off
  · exact hasForm_xf
  · exact hasForm_xl
theorem hasForm_encVec2 {maj fn x d a b} : HasForm (encVec2 maj fn x d a b) := by
  rcases x with _ | v <;> cases b
  · exact hasForm_rWord
  · exact hasForm_rWord
  · exact hasForm_xf
  · exact hasForm_xf
theorem hasForm_encVec1 {maj fn x d a b} : HasForm (encVec1 maj fn x d a b) := by
  rcases x with _ | v
  · exact hasForm_rWord
  · exact hasForm_xf
theorem hasForm_encVMem {fn x d a b} : HasForm (encVMem fn x d a b) := by
  rcases x with _ | v
  · exact hasForm_rWord
  · exact hasForm_xf
theorem hasForm_encRng {fn gd d a b e c m i} : HasForm (encRng fn gd d a b e c m i) := by
  cases c
  · exact hasForm_xf
  · exact hasForm_xl
theorem hasForm_encMove {fn x d a b} : HasForm (encMove fn x d a b) := by
  rcases x with _ | v
  · exact hasForm_rWord
  · exact hasForm_xf
theorem hasForm_encIdx {fn x d a i} : HasForm (encIdx fn x d a i) := by
  rcases x with _ | v <;> cases i
  · exact hasForm_rWord
  · exact hasForm_nil
  · exact hasForm_xf
  · exact hasForm_xf

end Sys2Proof
end

