-- ==== Sys2Proof/Safety.lean ====
section
/-! DEFINITION. What a safe run is, and the form of the state that every step keeps. -/

namespace Sys2Proof

/-- The guard that an X form carries (R172); none for a form without one. -/
def Instr.guarding : Instr → Option Guard
  | .sel g _ _ _ _ | .integerAluXForm _ g _ _ _ | .ldXForm g _ _ _ _ | .stXForm g _ _ _ _ | .send g _ _ _ _
  | .sendi g _ _ _ _ _ | .fwd g _ _ _ _ | .post g _ _ _ _ _ | .cset g _ _ _ _ _ | .cread g _ _ _ | .cpy g _ _ _ _ _
  | .cpyxG g _ _ _ _ _ _ | .cpyxP g _ _ _ _ _ _ | .publ g _ | .doneXForm g | .yieldXForm g _ | .brkXForm g _ | .trap g _ _ _
  | .scall g _ _ _ _ _ | .vcvt g _ _ _ _ _ | .vqnt g _ _ _ _ _ | .vdqnt g _ _ _ _ | .vrng g _ _ _ _
  | .vsrnd g _ _ _ _ _ _ _ _ | .vdrop g _ _ _ _ _ _ _ | .vbcast g _ _ _ | .mldb g _ _ _ | .mldbS g _ _ _ _ | .mstb g _ _ _ _
  | .mprog g _ _ _ | .acz g _ _ _ | .acld g _ _ _ _ | .acst g _ _ _ _ _ _ _ _ | .acmv g _ _ _ _ | .mgang g _ _ _ _ _ _ _ _ _
  | .mknot g _ _ _ | .mrefine g _ _ | .tselXForm g _ _ _ | .tnew g _ _ _ _ _ | .tnewLink g _ _ _ | .texp g _ _ _ _ _ _
  | .tback g _ _ _ _ | .tabortXForm g _ _ _ | .trootXForm g _ _ | .tfree g _ | .tfreeKeep g _ | .tfreeInit g _ _
  | .tstat g _ _ _ _ | .tleaf g _ _ _ _ _ => some g
  | .fma x _ _ _ _ _ | .fms x _ _ _ _ _ | .fnma x _ _ _ _ _ | .fpAluXForm _ x _ _ _ _ | .fpConvertXForm _ _ _ x _ _ | .ldg x
  | .stg x | .ldx x _ | .stx x _ | .amoAdd x | .amoAnd x | .amoOr x | .amoXor x | .amoSwap x | .amoCas x _ | .amoMin x
  | .amoMax x | .amoMinu x | .amoMaxu x | .amoFadd x | .amoFmin x | .amoFmax x | .waitv x _ | .mmac x _ _ _ | .mmact x _ _ _
  | .mrec x _ _ | .mspl x | .mspld x _ | .msgrad x _ _ _ _ => some x.guard
  | .vadd x _ _ _ | .vsub x _ _ _ | .vadds x _ _ _ | .vsubs x _ _ _ | .vmul x _ _ _ | .vmulh x _ _ _ | .vmin x _ _ _
  | .vmax x _ _ _ | .vand x _ _ _ | .vor x _ _ _ | .vxor x _ _ _ | .vsll x _ _ _ | .vsrl x _ _ _ | .vsra x _ _ _
  | .vabs x _ _ | .vcmpEq x _ _ _ | .vcmpNe x _ _ _ | .vcmpLt x _ _ _ | .vcmpLe x _ _ _ | .vfadd x _ _ _ | .vfsub x _ _ _
  | .vfmul x _ _ _ | .vfdiv x _ _ _ | .vfsqrt x _ _ | .vfmin x _ _ _ | .vfmax x _ _ _ | .vfneg x _ _ | .vfabs x _ _
  | .vfcmpEq x _ _ _ | .vfcmpLt x _ _ _ | .vfcmpLe x _ _ _ | .vfcmpUnord x _ _ _ | .vfma x _ _ _ | .vfms x _ _ _
  | .vfnma x _ _ _ | .vrsum x _ _ | .vrmax x _ _ | .vrmin x _ _ | .vperm x _ _ _ | .vslup x _ _ _ | .vsldn x _ _ _
  | .vrev x _ _ | .vld x _ _ _ | .vst x _ _ _ => x.map (·.guard)
  | .vopt x _ => x.map (·.1)
  | .vext x _ _ _ | .vins x _ _ _ | .vtag x _ _ | .vsett x _ _ | .vmov x _ _ | .mand x _ _ _ | .mor x _ _ _ | .mxor x _ _ _
  | .mandn x _ _ _ | .mnot x _ _ | .mpop x _ _ | .mset x _ _ | .mget x _ _ => x
  | _ => none

/-- The g registers that an instruction itself writes, its base included where the addressing mode moves it (R189 to R245, R275). Answers
and engine operations write the others named in it later. -/
def Instr.gWrites : Instr → List GReg
  | .add d _ _ | .sub d _ _ | .and d _ _ | .or d _ _ | .xor d _ _ | .andn d _ _ | .sll d _ _ | .srl d _ _ | .sra d _ _ | .rol d _ _
  | .ror d _ _ | .min d _ _ | .max d _ _ | .minu d _ _ | .maxu d _ _ | .mul d _ _ | .mulh d _ _ | .mulhu d _ _ | .mulhsu d _ _
  | .div d _ _ | .divu d _ _ | .rem d _ _ | .remu d _ _ | .addsat d _ _ | .subsat d _ _ | .clz d _ | .ctz d _ | .popc d _ | .sextB d _
  | .sextH d _ | .sextW d _ | .zextB d _ | .zextH d _ | .zextW d _ | .sel _ d _ _ _ | .addi d _ _ | .andi d _ _ | .ori d _ _
  | .xori d _ _ | .li d _ | .addiLiteral d _ _ | .andiLiteral d _ _ | .oriLiteral d _ _ | .xoriLiteral d _ _ | .liLiteral d _
  | .slli d _ _ | .srli d _ _ | .srai d _ _ | .rori d _ _ | .fadd _ d _ _ | .fsub _ d _ _ | .fmul _ d _ _ | .fdiv _ d _ _ | .fsqrt _ d _
  | .fmin _ d _ _ | .fmax _ d _ _ | .fneg _ d _ | .fabs _ d _ | .fsgnj _ d _ _ | .fma _ _ d _ _ _ | .fms _ _ d _ _ _ | .fnma _ _ d _ _ _
  | .fclass _ d _ | .fcvt _ _ d _ | .fround _ d _ | .fpConvertXForm _ _ _ _ d _ | .ppack d | .ld _ d _ _ | .csrr d _ | .csrw d _ _
  | .csrs d _ _ | .csrc d _ _ | .cread _ d _ _ | .ftag d _ | .ftagC d _ | .ftagLiteral d _ | .ftagCLiteral d _ | .redpin d _ | .perf d _
  | .scall _ d _ _ _ _ | .vext _ d _ _ | .vtag _ d _ | .mpop _ d _ | .mget _ d _ => [d]
  | .integerAluXForm op _ d _ _ => if op.isCmp then [] else [d]
  | .fpAluXForm op _ _ d _ _ => if op.isCmp then [] else [d]
  | .ldXForm _ _ d a m => match m with
    | .post _ => [d, a]
    | _ => [d]
  | .stXForm _ _ _ a m => match m with
    | .post _ => [a]
    | _ => []
  | .alloc _ | .free _ => [31]
  | _ => []

/-- The p registers that an instruction itself writes. -/
def Instr.pWrites : Instr → List PReg
  | .cmpEq d _ _ | .cmpNe d _ _ | .cmpLt d _ _ | .cmpGe d _ _ | .cmpLtu d _ _ | .cmpGeu d _ _ | .tst d _ _ | .cmpiEq d _ _
  | .cmpiNe d _ _ | .cmpiLt d _ _ | .cmpiGe d _ _ | .cmpiLtu d _ _ | .cmpiGeu d _ _ | .cmpiTst d _ _ | .feq _ d _ _ | .flt _ d _ _
  | .fle _ d _ _ | .funord _ d _ _ | .pand d _ _ | .por d _ _ | .pxor d _ _ | .pandn d _ _ | .pnot d _ | .cset _ d _ _ _ _ => [d]
  | .integerAluXForm op _ d _ _ => if op.isCmp then [d.setWidth 3] else []
  | .fpAluXForm op _ _ d _ _ => if op.isCmp then [d.setWidth 3] else []
  | .punpk _ => [1, 2, 3, 4, 5, 6, 7]
  | _ => []

/-- Instructions that write a control register (R212). -/
def Instr.writesCsr : Instr → Bool
  | .csrw .. | .csrs .. | .csrc .. => true
  | _ => false
/-- Scalar floating-point instructions, which raise flags and may round stochastically (R90, R95). -/
def Instr.isFp : Instr → Bool
  | .fadd .. | .fsub .. | .fmul .. | .fdiv .. | .fsqrt .. | .fmin .. | .fmax .. | .fma .. | .fms .. | .fnma .. | .feq .. | .flt .. | .fle ..
  | .funord .. | .fpAluXForm .. | .fcvt .. | .fround .. | .fpConvertXForm .. => true
  | _ => false
/-- The floating-point atomics: one that returns nothing and stays in the tile raises its flags at once (R219). -/
def Instr.isFpAmo : Instr → Bool
  | .amoFadd _ | .amoFmin _ | .amoFmax _ => true
  | _ => false
/-- Copies, of which one of no lines completes its tag at once (R232). -/
def Instr.copies : Instr → Bool
  | .cpy .. | .cpyxG .. | .cpyxP .. => true
  | _ => false
/-- Instructions that hand a packet or a decrement to the injection port as they end (R225 to R228). -/
def Instr.offers : Instr → Bool
  | .send .. | .sendi .. | .fwd .. | .post .. => true
  | _ => false
/-- Instructions that use the return store (R203). -/
def Instr.usesRet : Instr → Bool
  | .call _ | .callr _ | .ret => true
  | _ => false
/-- Instructions that store to data SRAM as they execute: stores, spills, and the records that CSET and YIELD change. Atomics, copies
and engines write later. -/
def Instr.storesHere : Instr → Bool
  | .st .. | .stXForm .. | .call _ | .callr _ | .cset .. | .yield _ | .yieldXForm .. => true
  | _ => false

end Sys2Proof

namespace Sys2Proof.Machine

/-- The model's two stores of bytes and descriptors are in their canonical forms. -/
def State.stored (s : State) : Bool := Memory.wf s.mem && Tab.wf descBlank s.desc

/-- The state of thread i of tile c. -/
def State.threadState (s : State) (c : Coord) (i : Tid) : TState := ((s.tileAt c).th i).state

/-- k steps from s end neither in a fault nor in a refusal. -/
noncomputable def Safe : Nat → State → Prop
  | 0, _ => True
  | k + 1, s => match step s with
    | .next t => Safe k t
    | _ => False

/-- A load of n bytes at ea by the focus thread passes every check of R211 and is served from local address b. -/
def State.readable (s : State) (ea : Int) (n b : Nat) : Prop :=
  0 ≤ ea ∧ ea ≤ 0xFFFFF ∧ ea.toNat % n = 0 ∧ s.loadAddr ea.toNat n = some b ∧ s.watched ea.toNat n true = false ∧
    s.tile.wqHolds b = false ∧ s.damaged (s.pa b) n = false

/-- A store of n bytes at ea by the focus thread passes every check of R211, and no write-queue entry holds its line. -/
def State.writable (s : State) (ea : Int) (n : Nat) : Prop :=
  0 ≤ ea ∧ ea ≤ 0xFFFFF ∧ ea.toNat % n = 0 ∧ s.storeOk ea.toNat n = true ∧ s.watched ea.toNat n false = false ∧
    s.tile.wqHolds ea.toNat = false

/-- The registers of the focus thread but SRSEQ, the other threads of its tile, all of memory and every descriptor are in t as in s. -/
def State.still (s t : State) : Prop :=
  t.th.g = s.th.g ∧ t.th.p = s.th.p ∧ t.th.v = s.th.v ∧ t.th.vtag = s.th.vtag ∧ t.th.m = s.th.m ∧ t.th.rmode = s.th.rmode ∧
    t.th.fflags = s.th.fflags ∧ t.th.tcm = s.th.tcm ∧ t.th.slim = s.th.slim ∧ t.th.rsp = s.th.rsp ∧ t.th.rsbase = s.th.rsbase ∧
    t.th.rslim = s.th.rslim ∧ t.th.rstore = s.th.rstore ∧ t.mem = s.mem ∧ t.desc = s.desc ∧
    ∀ i, i ≠ s.tid → t.tile.th i = s.tile.th i

/-- As `still`, and SRSEQ is as it was too. -/
def State.keeps (s t : State) : Prop := s.still t ∧ t.th.srseq = s.th.srseq

/-- As `keeps`, and the focus thread has gone on past an instruction of n words. -/
def State.passes (s t : State) (n : Nat) : Prop :=
  s.keeps t ∧ t.th.pc = (s.th.next n).pc ∧ t.th.loop = (s.th.next n).loop

/-- The focus thread's instruction of n words hands message m to the injection port (R225, R229): if m is the port's next and affordable it
enters at once and the thread is past the instruction; else the thread stays at it in RUN, with m offered. -/
def State.sendsAs (s t : State) (m : Inj) (n : Nat) : Prop :=
  let u := s.push s.foc m
  let enters : Prop := u.injPick = some (s.tile.inj.length, m) ∧ u.affords m = true
  (enters → s.passes t n ∧ t.tile.inj = s.tile.inj) ∧
  (¬ enters → s.keeps t ∧ t.th.pc = s.th.pc ∧ t.th.state = s.th.state ∧ t.tile.inj = s.tile.inj ++ [m])

/-- Instruction i of n words enters the queue of engine e with the operation `op`, at the queue's end, its thread's counters becoming `o`
and SRSEQ advancing by `adv`; the thread goes on (R52, R53, R55, R251). -/
def State.enters (s : State) (i : Instr) (e : Engine) (op : EOp) (n : Nat) (confirmed : Bool) (o : Outc) (adv : Nat) : Prop :=
  ∃ t q, exec i s = .next t ∧ s.still t ∧ t.th.srseq = s.th.srseq + BitVec.ofNat 64 adv ∧ t.th.outc = o ∧
    t.th.pc = (s.th.next n).pc ∧ t.th.loop = (s.th.next n).loop ∧ t.tile.ops = s.tile.ops ++ [q] ∧ q.tid = s.tid ∧ q.eng = e ∧
    q.op = op ∧ q.ipc = s.th.pc12 ∧ q.words = n ∧ q.tcm = s.th.tcm ∧ q.rmode = s.th.rmode ∧ q.srseq = s.th.srseq ∧
    q.ck = s.checkpoint ∧ q.started = false ∧ q.result = none ∧ q.confirmed = confirmed

/-- No thread of the focus tile is stopped by a trap. -/
def State.untrapped (s : State) : Bool := (List.finRange 4).all fun i => (s.tile.th i).state != .stop

end Sys2Proof.Machine
end

