-- ==== Sys2Proof/Certificates/Slice0/Obligations.lean ====
section
/-! DEFINITION. The statements for the provers, each as a proposition; none is proved here. -/

open Sys2Proof Sys2Proof.Machine

/-- The register form of each operation listed, of the two-operand integer operations of R190, writes its result, wrapped to 64 bits or
saturated, to gd and retires one word. x and y are read unsigned by toNat and signed by toInt. -/
def Obligations.IntegerResultsWrapOrSaturate : Prop :=
  ∀ (s : State) (d a b : GReg),
    let x := s.gr a
    let y := s.gr b
    let k := y.toNat % 64
    let gives (i : Instr) (v : Int) : Prop := exec i s = .next ((s.setG d (BitVec.ofInt 64 v)).retire 1)
    gives (.add d a b) (x.toNat + y.toNat) ∧ gives (.sub d a b) (x.toNat - y.toNat) ∧
    gives (.and d a b) (x &&& y).toNat ∧ gives (.or d a b) (x ||| y).toNat ∧ gives (.xor d a b) (x ^^^ y).toNat ∧
    gives (.andn d a b) (x &&& ~~~y).toNat ∧
    gives (.sll d a b) (x.toNat * 2 ^ k) ∧ gives (.srl d a b) (x.toNat / 2 ^ k) ∧ gives (.sra d a b) (x.toInt / 2 ^ k) ∧
    gives (.rol d a b) (x.toNat * 2 ^ k + x.toNat / 2 ^ (64 - k)) ∧
    gives (.ror d a b) (x.toNat / 2 ^ k + x.toNat * 2 ^ (64 - k)) ∧
    gives (.min d a b) (min x.toInt y.toInt) ∧ gives (.max d a b) (max x.toInt y.toInt) ∧
    gives (.minu d a b) (min x.toNat y.toNat : Nat) ∧ gives (.maxu d a b) (max x.toNat y.toNat : Nat) ∧
    gives (.mul d a b) (x.toNat * y.toNat) ∧ gives (.mulh d a b) (x.toInt * y.toInt / 2 ^ 64) ∧
    gives (.mulhu d a b) (x.toNat * y.toNat / 2 ^ 64) ∧ gives (.mulhsu d a b) (x.toInt * y.toNat / 2 ^ 64) ∧
    gives (.addsat d a b) (max (-2 ^ 63) (min (2 ^ 63 - 1) (x.toInt + y.toInt))) ∧
    gives (.subsat d a b) (max (-2 ^ 63) (min (2 ^ 63 - 1) (x.toInt - y.toInt)))

/-- R191: a zero divisor traps DIV_ZERO with ga and gb as operands and leaves gd; any other divisor gives the quotient rounded toward zero
or the remainder with the sign of ga, so that the most negative number divided by -1 gives itself with remainder 0; no integer ALU
operation, of either form, sets FFLAGS. -/
def Obligations.DivisionTrapsOnZeroElseTruncates : Prop :=
  ∀ (s : State) (d a b : GReg) (gd : Guard) (src : Src2) (c : PReg) (p : PReg) (op : AluOp),
    let x := s.gr a
    let y := s.gr b
    let z : Word := match src with
      | .reg r => s.gr r
      | .imm i => BitVec.ofInt 64 i.toInt
    let divides (i : Instr) (len : Nat) (y : Word) (v : Int) : Prop :=
      (y = 0 → exec i s = .next (s.trapWith 0x15 0 x y 0 0)) ∧ (y ≠ 0 → exec i s = .next ((s.setG d (BitVec.ofInt 64 v)).retire len))
    let t := s.trapWith 0x15 0 x y 0 0
    t.th.state = .stop ∧ t.th.record = some ⟨0, ⟨0x15, s.th.pc12, 0, x, y, 0, 0⟩, false⟩ ∧ t.th.g = s.th.g ∧
    divides (.div d a b) 1 y (x.toInt.tdiv y.toInt) ∧ divides (.divu d a b) 1 y (x.toNat / y.toNat) ∧
    divides (.rem d a b) 1 y (x.toInt.tmod y.toInt) ∧ divides (.remu d a b) 1 y (x.toNat % y.toNat) ∧
    (guardHolds gd s.th = true →
      divides (.integerAluXForm .div gd d a src) 3 z (x.toInt.tdiv z.toInt) ∧
      divides (.integerAluXForm .divu gd d a src) 3 z (x.toNat / z.toNat) ∧
      divides (.integerAluXForm .rem gd d a src) 3 z (x.toInt.tmod z.toInt) ∧
      divides (.integerAluXForm .remu gd d a src) 3 z (x.toNat % z.toNat)) ∧
    ∀ i ∈ [Instr.add d a b, .sub d a b, .and d a b, .or d a b, .xor d a b, .andn d a b, .sll d a b, .srl d a b, .sra d a b, .rol d a b,
        .ror d a b, .min d a b, .max d a b, .minu d a b, .maxu d a b, .mul d a b, .mulh d a b, .mulhu d a b, .mulhsu d a b, .div d a b,
        .divu d a b, .rem d a b, .remu d a b, .addsat d a b, .subsat d a b, .clz d a, .ctz d a, .popc d a, .sextB d a, .sextH d a,
        .sextW d a, .zextB d a, .zextH d a, .zextW d a, .cmpEq p a b, .cmpNe p a b, .cmpLt p a b, .cmpGe p a b, .cmpLtu p a b,
        .cmpGeu p a b, .tst p a b, .sel gd d a src c, .integerAluXForm op gd d a src],
      ∃ t, exec i s = .next t ∧ t.th.fflags = s.th.fflags

/-- The unary operations of R190: counts by the bits they count, extensions by the value of the slice. -/
def Obligations.UnaryResultsCountAndExtend : Prop :=
  ∀ (s : State) (d a : GReg),
    let x := s.gr a
    let gives (i : Instr) (v : Int) : Prop := exec i s = .next ((s.setG d (BitVec.ofInt 64 v)).retire 1)
    (∃ n : Nat, gives (.clz d a) n ∧ n ≤ 64 ∧ (∀ j, 64 - n ≤ j → x.getLsbD j = false) ∧ (n < 64 → x.getLsbD (63 - n) = true)) ∧
    (∃ n : Nat, gives (.ctz d a) n ∧ n ≤ 64 ∧ (∀ j, j < n → x.getLsbD j = false) ∧ (n < 64 → x.getLsbD n = true)) ∧
    gives (.popc d a) ((List.range 64).countP x.getLsbD) ∧
    gives (.sextB d a) (x.setWidth 8).toInt ∧ gives (.sextH d a) (x.setWidth 16).toInt ∧ gives (.sextW d a) (x.setWidth 32).toInt ∧
    gives (.zextB d a) (x.toNat % 2 ^ 8) ∧ gives (.zextH d a) (x.toNat % 2 ^ 16) ∧ gives (.zextW d a) (x.toNat % 2 ^ 32)

/-- The compares and TST of R190 and their immediate forms of R194 write pd, which for p0 discards the result, and retire one word. -/
def Obligations.ComparesWriteThePredicate : Prop :=
  ∀ (s : State) (d : PReg) (a b : GReg) (k : BitVec 11),
    let gives (i : Instr) (c : Prop) : Prop := ∃ r : Bool, (r = true ↔ c) ∧ exec i s = .next ((s.setP d r).retire 1)
    let x := s.gr a
    let rule (eq ne lt ge ltu geu tst : Instr) (y : Word) : Prop :=
      gives eq (x = y) ∧ gives ne (x ≠ y) ∧ gives lt (x.toInt < y.toInt) ∧ gives ge (y.toInt ≤ x.toInt) ∧
      gives ltu (x.toNat < y.toNat) ∧ gives geu (y.toNat ≤ x.toNat) ∧ gives tst (x &&& y ≠ 0)
    rule (.cmpEq d a b) (.cmpNe d a b) (.cmpLt d a b) (.cmpGe d a b) (.cmpLtu d a b) (.cmpGeu d a b) (.tst d a b) (s.gr b) ∧
    rule (.cmpiEq d a k) (.cmpiNe d a k) (.cmpiLt d a k) (.cmpiGe d a k) (.cmpiLtu d a k) (.cmpiGeu d a k) (.cmpiTst d a k)
      (BitVec.ofInt 64 k.toInt)

/-- R192, R193: immediates are sign-extended, literals taken whole, shifts by the amount in imm14, and the words retired are those of the
form. R189, R190: an X form of the integer ALU does what its R form does with gb or with the sign-extended imm32, retiring three words;
SEL writes ga or the second operand by pc. -/
def Obligations.ImmediatesAndLongForms : Prop :=
  (∀ (s : State) (d a : GReg) (i : BitVec 14) (v : Word) (n : BitVec 6),
      let x := s.gr a
      let gives (j : Instr) (w : Int) (len : Nat) : Prop := exec j s = .next ((s.setG d (BitVec.ofInt 64 w)).retire len)
      gives (.addi d a i) (x.toNat + i.toInt) 1 ∧ gives (.addiLiteral d a v) (x.toNat + v.toNat) 3 ∧
      gives (.andi d a i) (x &&& BitVec.ofInt 64 i.toInt).toNat 1 ∧ gives (.andiLiteral d a v) (x &&& v).toNat 3 ∧
      gives (.ori d a i) (x ||| BitVec.ofInt 64 i.toInt).toNat 1 ∧ gives (.oriLiteral d a v) (x ||| v).toNat 3 ∧
      gives (.xori d a i) (x ^^^ BitVec.ofInt 64 i.toInt).toNat 1 ∧ gives (.xoriLiteral d a v) (x ^^^ v).toNat 3 ∧
      gives (.li d i) i.toInt 1 ∧ gives (.liLiteral d v) v.toNat 3 ∧
      gives (.slli d a n) (x.toNat * 2 ^ n.toNat) 1 ∧ gives (.srli d a n) (x.toNat / 2 ^ n.toNat) 1 ∧
      gives (.srai d a n) (x.toInt / 2 ^ n.toNat) 1 ∧ gives (.rori d a n) (x.toNat / 2 ^ n.toNat + x.toNat * 2 ^ (64 - n.toNat)) 1) ∧
  (∀ (s : State) (op : AluOp) (gd : Guard) (d a : GReg) (src : Src2) (c : PReg),
      guardHolds gd s.th = true →
      (Instr.integerAluXForm op gd d a src).wf = true →
      let y : Word := match src with
        | .reg b => s.gr b
        | .imm i => BitVec.ofInt 64 i.toInt
      exec (.sel gd d a src c) s = .next ((s.setG d (if s.pr c then s.gr a else y)).retire 3) ∧
      (op.isCmp = true → exec (.integerAluXForm op gd d a src) s = .next ((s.setP (d.setWidth 3) (aluCond op (s.gr a) y)).retire 3)) ∧
      (op.isCmp = false → (aluDivides op && y == 0) = false →
        exec (.integerAluXForm op gd d a src) s = .next ((s.setG d (alu op (s.gr a) y)).retire 3)) ∧
      (aluDivides op = true → y = 0 → exec (.integerAluXForm op gd d a src) s = .next (s.trapWith 0x15 0 (s.gr a) y 0 0)))

/-- R172: an X form whose guard fails retires with no effect but the advance by its words. -/
def Obligations.FailedGuardOnlyAdvances : Prop :=
  ∀ (i : Instr) (g : Guard) (s : State), i.wf = true → i.guarding = some g → guardHolds g s.th = false →
    exec i s = .next (s.retire i.len)

/-- R197: the arithmetic operations give the exact result rounded once under the mode in force, with the flags of the exact operation and
of the rounding; an enabled flag among them traps FP_TRAP instead and nothing is written (R91, R195); mode 5 advances SRSEQ (R95). -/
def Obligations.FpArithmeticRoundsOnceOrTraps : Prop :=
  ∀ (s : State) (f : BitVec 2) (d a b c : GReg) (x : FpX) (l : RegLit),
    let F := fpCodeFmt f
    let val (w : Word) : FpVal := fpDecode F s.th.tcm w.toNat
    let y : Word := match l with
      | .reg r => s.gr r
      | .lit v => v
    let rounds (i : Instr) (m : Option RMode) (v : FpVal × Flags) : Prop :=
      let r := fpRound F s.th.tcm (scalarRnd s m) v.1
      let fl := v.2 ||| r.2
      (flagTraps s.th.fflags fl = true → exec i s = .next (s.trapWith 0x14 0 (fl.zeroExtend 64) 0 0 0)) ∧
      (flagTraps s.th.fflags fl = false → ∃ t, exec i s = .next t ∧ (d ≠ 0 → t.gr d = BitVec.ofNat 64 r.1) ∧
        (∀ q, q ≠ d → t.gr q = s.gr q) ∧ t.th.fflags = (s.th.fflags ||| fl.zeroExtend 64) ∧
        t.th.srseq = (if modeOf s m = .rsr then s.th.srseq + 1 else s.th.srseq) ∧ t.th.pc = (s.th.next i.len).pc)
    let rdn (m : Option RMode) : Bool := modeOf s m == .rdn
    let u := val (s.gr a)
    let v := val (s.gr b)
    rounds (.fadd f d a b) none (fpAddV (rdn none) u v) ∧ rounds (.fsub f d a b) none (fpAddV (rdn none) u v.neg) ∧
    rounds (.fmul f d a b) none (fpMulV u v) ∧ rounds (.fdiv f d a b) none (fpDivV u v) ∧ rounds (.fsqrt f d a) none (fpSqrtV u) ∧
    (guardHolds x.guard s.th = true →
      rounds (.fma x f d a l c) x.mode (fpFmaV (rdn x.mode) u (val y) (val (s.gr c))) ∧
      rounds (.fms x f d a l c) x.mode (fpFmaV (rdn x.mode) u (val y) (val (s.gr c)).neg) ∧
      rounds (.fnma x f d a l c) x.mode (fpFmaV (rdn x.mode) u.neg (val y) (val (s.gr c))) ∧
      rounds (.fpAluXForm .fadd x f d a l) x.mode (fpAddV (rdn x.mode) u (val y)) ∧
      rounds (.fpAluXForm .fsub x f d a l) x.mode (fpAddV (rdn x.mode) u (val y).neg) ∧
      rounds (.fpAluXForm .fmul x f d a l) x.mode (fpMulV u (val y)) ∧
      rounds (.fpAluXForm .fdiv x f d a l) x.mode (fpDivV u (val y)) ∧ rounds (.fpAluXForm .fsqrt x f d a l) x.mode (fpSqrtV u))

/-- R198 with R197, R196: minimum and maximum pick an operand unrounded, comparisons answer by value, NaNs as R198 says, and the sign
operations and FCLASS raise nothing, in both forms; a raised NV that is enabled traps instead (R91). The model's choices: FCLASS of a
signalling NaN raises no flag (log 70), and the X forms, which never round, take any mode (log 28). -/
def Obligations.FpSelectionAndSignOperations : Prop :=
  ∀ (s : State) (f : BitVec 2) (d a b : GReg) (p : PReg) (x : FpX) (l : RegLit),
    let F := fpCodeFmt f
    let A := s.gr a
    let B := s.gr b
    let Y : Word := match l with
      | .reg r => s.gr r
      | .lit w => w
    let u := fpDecode F s.th.tcm A.toNat
    let val (w : Word) : FpVal := fpDecode F s.th.tcm w.toNat
    let low (w : Word) : Nat := w.toNat % 2 ^ fpWidthOf F
    let top := 2 ^ (fpWidthOf F - 1)
    let quiet (i : Instr) (w : Nat) : Prop := exec i s = .next ((s.setG d (BitVec.ofNat 64 w)).retire i.len)
    let raises (i : Instr) (nv : Bool) (k : State → State) : Prop :=
      let fl : Flags := if nv then 0x10 else 0
      exec i s = .next (if flagTraps s.th.fflags fl then s.trapWith 0x14 0 (fl.zeroExtend 64) 0 0 0
        else (k (s.orFlags s.foc s.tid fl)).retire i.len)
    let less (w : Word) : Bool := fpLtV u (val w) || (fpEqV u (val w) && u.sign && !(val w).sign)
    let picks (i : Instr) (w : Word) (first : Bool) : Prop :=
      raises i (u.isSig || (val w).isSig) fun s => s.setG d (BitVec.ofNat 64
        (if u.isNaN && (val w).isNaN then fpNaN F else if u.isNaN then low w else if (val w).isNaN then low A
          else if first then low A else low w))
    let answers (i : Instr) (p : PReg) (nv c : Bool) : Prop := raises i nv fun s => s.setP p c
    let neg : Nat := if u.isNaN then fpNaN F else (low A + top) % (2 * top)
    let abs : Nat := if u.isNaN then fpNaN F else low A % top
    let signed (w : Word) : Nat := if u.isNaN then fpNaN F else low A % top + low w / top * top
    let sig (w : Word) : Bool := u.isSig || (val w).isSig
    let nan (w : Word) : Bool := u.isNaN || (val w).isNaN
    let classes (i : Instr) : Prop :=
      let fb := (fpParams F).1
      let eb := (fpParams F).2.1
      let minus : Prop := A.toNat / 2 ^ (fb + eb) % 2 = 1
      let expo := A.toNat / 2 ^ fb % 2 ^ eb
      let frac := A.toNat % 2 ^ fb
      let finite : Prop := expo + 1 < 2 ^ eb
      ∃ n : Nat, n < 10 ∧ quiet i (2 ^ n) ∧ (n = 8 ∨ n = 9 ↔ u.isNaN = true) ∧ (n = 8 ↔ u.isSig = true) ∧ (n = 0 ↔ u = .inf true) ∧
        (n = 7 ↔ u = .inf false) ∧ (n = 1 ↔ minus ∧ 0 < expo ∧ finite) ∧ (n = 6 ↔ ¬ minus ∧ 0 < expo ∧ finite) ∧
        (n = 2 ↔ minus ∧ expo = 0 ∧ frac ≠ 0) ∧ (n = 5 ↔ ¬ minus ∧ expo = 0 ∧ frac ≠ 0) ∧
        (n = 3 ↔ minus ∧ expo = 0 ∧ frac = 0) ∧ (n = 4 ↔ ¬ minus ∧ expo = 0 ∧ frac = 0)
    picks (.fmin f d a b) B (less B) ∧ picks (.fmax f d a b) B (!less B) ∧
    quiet (.fneg f d a) neg ∧ quiet (.fabs f d a) abs ∧ quiet (.fsgnj f d a b) (signed B) ∧
    answers (.feq f p a b) p (sig B) (fpEqV u (val B)) ∧ answers (.flt f p a b) p (nan B) (!nan B && fpLtV u (val B)) ∧
    answers (.fle f p a b) p (nan B) (!nan B && !fpLtV (val B) u) ∧ answers (.funord f p a b) p (sig B) (nan B) ∧ classes (.fclass f d a) ∧
    (guardHolds x.guard s.th = true →
      let X (op : FpOp) : Instr := .fpAluXForm op x f d a l
      let q : PReg := d.setWidth 3
      picks (X .fmin) Y (less Y) ∧ picks (X .fmax) Y (!less Y) ∧ quiet (X .fneg) neg ∧ quiet (X .fabs) abs ∧ quiet (X .fsgnj) (signed Y) ∧
      answers (X .feq) q (sig Y) (fpEqV u (val Y)) ∧ answers (X .flt) q (nan Y) (!nan Y && fpLtV u (val Y)) ∧
      answers (X .fle) q (nan Y) (!nan Y && !fpLtV (val Y) u) ∧ answers (X .funord) q (sig Y) (nan Y) ∧ classes (X .fclass))

/-- R200: conversions round to the destination, saturating integers under R89; FROUND gives an integral value of its own format. -/
def Obligations.ConversionsRoundAndSaturate : Prop :=
  ∀ (s : State) (u v : FpCode) (rnd : Bool) (x : FpX) (d a : GReg),
    let src : FpVal := match codeFmt v with
      | some F => fpDecode F s.th.tcm (s.gr a).toNat
      | none => intVal (codeInt v (s.gr a))
    let done (i : Instr) (m : Option RMode) (w : Word) (fl : Flags) : Prop :=
      exec i s = .next (if flagTraps s.th.fflags fl then s.trapWith 0x14 0 (fl.zeroExtend 64) 0 0 0
        else ((bumpSr m (s.orFlags s.foc s.tid fl)).setG d w).retire i.len)
    let converts (i : Instr) (m : Option RMode) : Prop := match codeFmt u with
      | some F =>
        let r := fpRound F s.th.tcm (scalarRnd s m) src
        done i m (BitVec.ofNat 64 r.1) ((if src.isSig then 0x10 else 0) ||| r.2)
      | none =>
        let lo : Int := if u = .i32 then -2 ^ 31 else if u = .i64 then -2 ^ 63 else 0
        let hi : Int := if u = .i32 then 2 ^ 31 - 1 else if u = .i64 then 2 ^ 63 - 1 else if u = .u32 then 2 ^ 32 - 1 else 2 ^ 64 - 1
        let r := fpToInt lo hi (scalarRnd s m) src
        done i m (BitVec.ofInt 64 r.1) r.2
    let integral (i : Instr) (m : Option RMode) : Prop := ∀ F, codeFmt v = some F →
      let r := fpIntegral (scalarRnd s m) src
      done i m (BitVec.ofNat 64 (fpRound F s.th.tcm rneMode r.1).1) r.2
    converts (.fcvt u v d a) none ∧ integral (.fround v d a) none ∧
    (guardHolds x.guard s.th = true →
      (rnd = false → converts (.fpConvertXForm u v rnd x d a) x.mode) ∧ (rnd = true → integral (.fpConvertXForm u v rnd x d a) x.mode))

/-- A number that a format holds comes back unchanged, with no flag, from any rounding into that format (R87); 0b1000 of E2M1 is no number
of it (R75). -/
def Obligations.RoundingKeepsRepresentableNumbers : Prop :=
  ∀ (F : FpFmt) (tcm : Bool) (m : Rounding) (w : Nat), w < 2 ^ fpWidthOf F → (fpDecode F tcm w).isNaN = false →
    (F = .e2m1 → w ≠ 8) → fpRound F tcm m (fpDecode F tcm w) = (w, 0)

/-- R201: the predicate operations write pd (p0 discards it), PPACK packs p0 to p7 into bits 0 to 7, PUNPK writes all seven at once. -/
def Obligations.PredicateOperationsCombineAndPack : Prop :=
  ∀ (s : State) (d a b : PReg) (r : GReg),
    let gives (i : Instr) (c : Bool) : Prop := exec i s = .next ((s.setP d c).retire 1)
    gives (.pand d a b) (s.pr a && s.pr b) ∧ gives (.por d a b) (s.pr a || s.pr b) ∧ gives (.pxor d a b) (s.pr a != s.pr b) ∧
    gives (.pandn d a b) (s.pr a && !s.pr b) ∧ gives (.pnot d a) (!s.pr a) ∧
    (∃ w : Word, exec (.ppack r) s = .next ((s.setG r w).retire 1) ∧ w.toNat < 256 ∧
      ∀ k : PReg, w.getLsbD k.toNat = s.pr k) ∧
    (∃ t, exec (.punpk r) s = .next t ∧ t.pr 0 = true ∧ (∀ k : PReg, k ≠ 0 → t.pr k = (s.gr r).getLsbD k.toNat) ∧
      (∀ q, t.gr q = s.gr q) ∧ t.mem = s.mem ∧ t.th.fflags = s.th.fflags ∧ t.th.pc = (s.th.next 1).pc)

/-- R167, R202, R207: BR when its predicate selects it, JMP and JMPR go to their target, or trap SRAM_BOUND outside words 0 to 4095; a BR
that is not taken checks nothing and goes on; a transfer out of a loop's body ends the loop. CALL and CALLR check their target so too. -/
def Obligations.BranchesAndJumpsTransferOrTrap : Prop :=
  ∀ (s : State) (p : PReg) (neg hint : Bool) (o : BitVec 19) (o' : BitVec 24) (a : GReg),
    let pc : Int := s.th.pc.toNat
    let beyond (i : Instr) (t : Int) : Prop := t < 0 ∨ 4095 < t → exec i s = .next (s.trapWith 0x04 (BitVec.ofInt 64 t) 0 0 0 0) ∧
      s.keeps (s.trapWith 0x04 (BitVec.ofInt 64 t) 0 0 0 0)
    let goes (i : Instr) (t : Int) : Prop :=
      (0 ≤ t ∧ t ≤ 4095 → exec i s = .next (s.jump (BitVec.ofNat 12 t.toNat)) ∧
        ((s.jump (BitVec.ofNat 12 t.toNat)).th.pc.toNat : Int) = t ∧
        (let l := (s.jump (BitVec.ofNat 12 t.toNat)).th.loop
         if s.th.loop.active && (decide (t < s.th.loop.start.toNat) || decide (s.th.loop.last.toNat < t)) then
           l = { s.th.loop with active := false, count := 0 }
         else l = s.th.loop)) ∧ beyond i t
    (s.pr p = neg → exec (.br p neg hint o) s = .next (s.retire 1)) ∧
    (s.pr p ≠ neg → goes (.br p neg hint o) (pc + o.toInt)) ∧ goes (.jmp o') (pc + o'.toInt) ∧ goes (.jmpr a) (s.gr a).toNat ∧
    beyond (.call o') (pc + o'.toInt) ∧ beyond (.callr a) (s.gr a).toNat ∧
    (0 ≤ pc + o'.toInt ∧ pc + o'.toInt ≤ 4095 → s.th.rstore.length < 8 → ∃ u, exec (.call o') s = .next u ∧ (u.th.pc.toNat : Int) = pc + o'.toInt)

/-- R204: with fewer than eight entries CALL and CALLR push the next word's index and transfer; with eight they spill the oldest below RSP
first, trapping STACK_LIMIT under RSLIM. R205: RET pops the newest entry; with none it reloads from RSP, or traps RETURN_UNDERFLOW at
RSBASE. The 12 bits of the index after word 4095, 0, are the model's choice (DEDUCED, log 26). -/
def Obligations.CallsAndReturnsUseTheReturnStore : Prop :=
  (∀ (s : State) (o : BitVec 24) (a : GReg),
      let r := s.th.rstore
      let back : BitVec 12 := BitVec.ofNat 12 (s.th.pc.toNat + 1)
      let low : Int := s.th.rsp.toNat - 8
      let calls (i : Instr) (t : Int) : Prop :=
        (t < 0 ∨ 4095 < t → exec i s = .next (s.trapWith 0x04 (BitVec.ofInt 64 t) 0 0 0 0)) ∧
        (0 ≤ t ∧ t ≤ 4095 →
          (r.length < 8 → ∃ u, exec i s = .next u ∧ u.th.rstore = r ++ [back] ∧ (u.th.pc.toNat : Int) = t ∧ u.th.rsp = s.th.rsp ∧
            u.mem = s.mem ∧ ∀ q, u.gr q = s.gr q) ∧
          (8 ≤ r.length → low < s.th.rslim.toNat →
            exec i s = .next (s.trapWith 0x0A (BitVec.ofInt 64 low) s.th.rsp s.th.rslim 8 0)) ∧
          (8 ≤ r.length → s.th.rslim.toNat ≤ low → s.writable low 8 → Memory.wf s.mem = true → ∃ u, exec i s = .next u ∧ u.th.rstore = r.tail ++ [back] ∧
            (u.th.pc.toNat : Int) = t ∧ (u.th.rsp.toNat : Int) = low ∧ (∀ q, u.gr q = s.gr q) ∧
            Memory.readN u.mem (s.pa low.toNat) 8 = (r.headD 0).toNat ∧
            ∀ k, k < s.pa low.toNat ∨ s.pa low.toNat + 8 ≤ k → Memory.read u.mem k = Memory.read s.mem k))
      calls (.call o) (s.th.pc.toNat + o.toInt) ∧ calls (.callr a) (s.gr a).toNat) ∧
  (∀ (s : State),
      (∀ l t, s.th.rstore = l ++ [t] → ∃ u, exec .ret s = .next u ∧ u.th.rstore = l ∧ u.th.pc.toNat = t.toNat ∧ u.th.rsp = s.th.rsp ∧
        u.mem = s.mem ∧ ∀ q, u.gr q = s.gr q) ∧
      (s.th.rstore = [] → s.th.rsbase.toNat ≤ s.th.rsp.toNat →
        exec .ret s = .next (s.trapWith 0x0B s.th.rsp s.th.rsp s.th.rsbase 0 0)) ∧
      (∀ b, s.th.rstore = [] → s.th.rsp.toNat < s.th.rsbase.toNat → s.readable s.th.rsp.toNat 8 b →
        ∃ u, exec .ret s = .next u ∧ u.th.rstore = [] ∧ u.th.pc.toNat = Memory.readN s.mem (s.pa b) 8 % 4096 ∧
          u.th.rsp = s.th.rsp + 8 ∧ u.mem = s.mem ∧ ∀ q, u.gr q = s.gr q))

/-- R206, R207: LOOP skips its body for a count of 0, else starts a loop over the n words after it, whose last word goes back until the
count is used; inside a loop it is illegal. R209: ALLOC and FREE move g31 by 16·m, or trap MISALIGN on an unaligned g31, then STACK_LIMIT
below SLIM or above 0x10000. -/
def Obligations.LoopsRepeatAndTheStackMoves : Prop :=
  (∀ (s : State) (a : GReg) (n : BitVec 10),
      let pc := s.th.pc.toNat
      let k := (s.gr a).toNat % 2 ^ 32
      (s.th.loop.active = true → exec (.loop a n) s = .next s.trapIllegal) ∧
      (s.th.loop.active = false → 4095 < pc + n.toNat →
        exec (.loop a n) s = .next (s.trapWith 0x04 (BitVec.ofNat 64 (pc + n.toNat)) 0 0 0 0)) ∧
      (n ≠ 0 → s.th.loop.active = false → pc + n.toNat ≤ 4095 →
        (k = 0 → ∃ t, exec (.loop a n) s = .next t ∧ t.th.pc.toNat = pc + n.toNat + 1 ∧ t.th.loop = s.th.loop ∧ t.mem = s.mem) ∧
        (k ≠ 0 → ∃ t, exec (.loop a n) s = .next t ∧ t.th.pc.toNat = pc + 1 ∧ t.th.loop.active = true ∧
          t.th.loop.start.toNat = pc + 1 ∧ t.th.loop.last.toNat = pc + n.toNat ∧ t.th.loop.count.toNat = k ∧ t.mem = s.mem ∧
          ∀ q, t.gr q = s.gr q)) ∧
      (∀ len : Nat, 1 ≤ len → len ≤ 5 → pc ≤ 4095 →
        let ends := s.th.loop.active = true ∧ pc ≤ s.th.loop.last.toNat ∧ s.th.loop.last.toNat < pc + len
        let t := s.retire len
        (ends → 1 < s.th.loop.count.toNat →
          t.th.pc.toNat = s.th.loop.start.toNat ∧ t.th.loop = { s.th.loop with count := s.th.loop.count - 1 }) ∧
        (ends → s.th.loop.count.toNat ≤ 1 →
          t.th.pc.toNat = pc + len ∧ t.th.loop = { s.th.loop with active := false, count := 0 }) ∧
        (¬ ends → t.th.pc.toNat = pc + len ∧ t.th.loop = s.th.loop))) ∧
  (∀ (s : State) (m : BitVec 14),
      let x := (s.gr 31).toNat
      let step := 16 * m.toNat
      let moves (i : Instr) (v : Int) (limit : Word) (bad : Prop) : Prop :=
        (x % 16 ≠ 0 → exec i s = .next (s.trapWith 0x03 (s.gr 31) (s.gr 31) 0 (BitVec.ofNat 64 step) 0)) ∧
        (x % 16 = 0 → bad → exec i s = .next (s.trapWith 0x0A (BitVec.ofInt 64 v) (s.gr 31) limit (BitVec.ofNat 64 step) 0)) ∧
        (x % 16 = 0 → ¬ bad → ∃ t, exec i s = .next t ∧ ((t.gr 31).toNat : Int) = v ∧ (∀ q, q ≠ 31 → t.gr q = s.gr q) ∧
          t.mem = s.mem ∧ t.th.pc = (s.th.next 1).pc ∧ t.th.slim = s.th.slim)
      moves (.alloc m) (x - step) s.th.slim ((x : Int) - step < s.th.slim.toNat) ∧
      moves (.free m) (x + step) 0x10000 (0x10000 < x + step))

/-- R210, R211: an LD that passes its checks writes the zero- or sign-extended little-endian bytes to gd; a post-increment then moves the
base; nothing else but the PC changes. -/
def Obligations.LocalLoadsDeliverTheirBytes : Prop :=
  ∀ (s : State) (gd : Guard) (sz : BitVec 3) (d a : GReg) (off : BitVec 11) (m : AddrMode) (b : Nat),
    let n : Nat := 2 ^ (sz.toNat % 4)
    let x := Memory.readN s.mem (s.pa b) n
    let w : Word := if 4 ≤ sz.toNat then BitVec.ofInt 64 (BitVec.ofNat (8 * n) x).toInt else BitVec.ofNat 64 x
    (s.readable ((s.gr a).toNat + off.toInt * n) n b → exec (.ld sz d a off) s = .next ((s.setG d w).retire 1)) ∧
    (guardHolds gd s.th = true → match m with
      | .off i => s.readable ((s.gr a).toNat + i.toInt) n b → exec (.ldXForm gd sz d a m) s = .next ((s.setG d w).retire 3)
      | .idx c => s.readable ((s.gr a).toNat + (s.gr c).toNat * n) n b →
        exec (.ldXForm gd sz d a m) s = .next ((s.setG d w).retire 3)
      | .post i => d ≠ a → s.readable (s.gr a).toNat n b → exec (.ldXForm gd sz d a m) s =
        .next (((s.setG d w).setG a (BitVec.ofInt 64 ((s.gr a).toNat + i.toInt))).retire 3))

/-- R210, R211: an ST that passes its checks writes exactly the low bytes of gd, little-endian; a post-increment moves the base; no other
byte of memory and no other register changes. -/
def Obligations.LocalStoresWriteExactlyTheirBytes : Prop :=
  ∀ (s : State) (gd : Guard) (sz : BitVec 3) (d a : GReg) (off : BitVec 11) (m : AddrMode),
    sz.toNat < 4 → Memory.wf s.mem = true →
    let n : Nat := 2 ^ sz.toNat
    let stores (i : Instr) (ea : Int) (base : Word) : Prop :=
      s.writable ea n → ∃ t : State, exec i s = .next t ∧
        (∀ k, k < n → Memory.read t.mem (s.pa ea.toNat + k) = (s.gr d).extractLsb' (8 * k) 8) ∧
        (∀ k, k < s.pa ea.toNat ∨ s.pa ea.toNat + n ≤ k → Memory.read t.mem k = Memory.read s.mem k) ∧
        (a ≠ 0 → t.gr a = base) ∧ (∀ q, q ≠ a → t.gr q = s.gr q) ∧ (∀ q, t.pr q = s.pr q) ∧ t.th.fflags = s.th.fflags ∧
        t.th.pc = (s.th.next i.len).pc
    stores (.st sz d a off) ((s.gr a).toNat + off.toInt * n) (s.gr a) ∧
    (guardHolds gd s.th = true → match m with
      | .off i => stores (.stXForm gd sz d a m) ((s.gr a).toNat + i.toInt) (s.gr a)
      | .idx c => stores (.stXForm gd sz d a m) ((s.gr a).toNat + (s.gr c).toNat * n) (s.gr a)
      | .post i => stores (.stXForm gd sz d a m) (s.gr a).toNat (BitVec.ofInt 64 ((s.gr a).toNat + i.toInt)))

/-- R211, R472: the checks of a local access in their order, each with its trap, in the M and X forms: the address space, alignment, the
permitted range, WATCH, and for a load an uncorrectable or poisoned line. Loads reach data and instruction SRAM and the handler's own
packet, stores data SRAM alone (R104). That ga is read as unsigned and the sum is exact, so that it never wraps into the SRAM, is the
model's choice (DEDUCED, log 30). -/
def Obligations.LocalAccessChecksTrapInOrder : Prop :=
  ∀ (s : State) (gd : Guard) (sz : BitVec 3) (d a : GReg) (off : BitVec 11) (m : AddrMode),
    let n : Nat := 2 ^ (sz.toNat % 4)
    let checks (ld st : Instr) (ea : Int) : Prop :=
      let k := ea.toNat
      let at_ (i : Instr) (c : BitVec 8) : Prop := exec i s = .next (s.trapWith c (BitVec.ofInt 64 ea) 0 0 0 0)
      (ea < 0 ∨ 0xFFFFF < ea → at_ ld 0x04 ∧ at_ st 0x04) ∧
      (0 ≤ ea → ea ≤ 0xFFFFF →
        (k % n ≠ 0 → at_ ld 0x03 ∧ at_ st 0x03) ∧
        (k % n = 0 → (s.loadAddr k n = none → at_ ld 0x04) ∧ (s.storeOk k n = false → at_ st 0x04) ∧
          ((s.loadAddr k n).isSome = true → s.watched k n true = true → at_ ld 0x18) ∧
          (s.storeOk k n = true → s.watched k n false = true → at_ st 0x18) ∧
          (∀ b, s.loadAddr k n = some b → s.watched k n true = false → s.tile.wqHolds b = false → s.damaged (s.pa b) n = true →
            ∃ t : State, exec ld s = .next t ∧ t.th = (s.trapWith 0x0E (BitVec.ofInt 64 ea) 0 0 0 0).th ∧ t.mem = s.mem)))
    checks (.ld sz d a off) (.st sz d a off) ((s.gr a).toNat + off.toInt * n) ∧
    (guardHolds gd s.th = true → checks (.ldXForm gd sz d a m) (.stXForm gd sz d a m) (match m with
      | .off i => (s.gr a).toNat + i.toInt
      | .idx c => (s.gr a).toNat + (s.gr c).toNat * n
      | .post _ => (s.gr a).toNat)) ∧
    (∀ j : Nat, (0x10000 ≤ j → s.storeOk j n = false) ∧ (0x10000 ≤ j ∧ j + n ≤ 0x14000 → s.loadAddr j n = some j) ∧
      (0x14000 ≤ j ∧ j < 0x20000 ∨ 0x22000 ≤ j → s.loadAddr j n = none) ∧
      (j + n ≤ 0x10000 → (∀ w ∈ s.tile.r.pwin.toList, w.getLsbD 63 = false) → s.loadAddr j n = some j))

/-- R212, R213: CSRR reads a register into gd; CSRW, CSRS and CSRC also write the bits they name: RW bits take them, W1C bits clear,
reserved bits and forbidden values are illegal, a privileged register traps PRIV, and the other registers keep their values. R83, R109,
R112, R38: SCRUB corrects and counts the single-bit errors of a line and poisons a line that it cannot correct; a PWIN write shows side A
and lets VIS of a disabled window stand; a VCW write refills every credit and forgets the dispatches before it. -/
def Obligations.ControlRegisterAndTileWrites : Prop :=
  (∀ (s : State) (d a : GReg) (c : BitVec 12),
      let n := c.toNat
      let reads (u : State) (k : Nat) : Option Word := readCsr u.wtime u.tile u.foc u.tid k
      let writes (i : Instr) (bits mask : Word) : Prop := ∀ old, reads s n = some old →
        (0x200 ≤ n → exec i s = .next (s.trapWith 0x02 0 0 0 0 0)) ∧
        ∀ f, csrInfo n = some f →
          let v : Word := (old &&& ~~~ (f.rw &&& mask) &&& ~~~ (f.w1c &&& bits)) ||| (f.rw &&& bits)
          let w : Word := if 0x10C ≤ n ∧ n ≤ 0x10F ∧ v.getLsbD 63 = true then v &&& ~~~ 0x4000000000000000 else v
          (f.rw ||| f.w1c = 0 → exec i s = .next ((s.setG d old).retire 1)) ∧
          (f.rw ||| f.w1c ≠ 0 → bits &&& ~~~ (f.rw ||| f.w1c ||| f.ro) ≠ 0 → exec i s = .next s.trapIllegal) ∧
          (f.rw ||| f.w1c ≠ 0 → bits &&& ~~~ (f.rw ||| f.w1c ||| f.ro) = 0 →
            (csrValueOk n v = false → exec i s = .next s.trapIllegal) ∧
            (csrValueOk n v = true → (0x10C ≤ n → n ≤ 0x10F → pwinOk s.tile (n - 0x10C) v = true ∧ s.tile.ops = [] ∧ s.tile.copies = []) →
              ∃ t : State, exec i s = .next t ∧ (d ≠ 0 → t.gr d = old) ∧ (∀ q, q ≠ d → t.gr q = s.gr q) ∧ t.mem = s.mem ∧
                t.th.pc = (s.th.next 1).pc ∧ (n < 0x131 → reads t n = some w) ∧
                ∀ k, k ≠ n → k ≠ 0x00C → k < 0x131 ∨ 0x134 < k → reads t k = reads s k))
      (reads s n = none → exec (.csrr d c) s = .next s.trapIllegal ∧ exec (.csrw d a c) s = .next s.trapIllegal ∧
        exec (.csrs d a c) s = .next s.trapIllegal ∧ exec (.csrc d a c) s = .next s.trapIllegal) ∧
      (∀ old, reads s n = some old → exec (.csrr d c) s = .next ((s.setG d old).retire 1)) ∧
      exec (.csrs d 0 c) s = exec (.csrr d c) s ∧ exec (.csrc d 0 c) s = exec (.csrr d c) s ∧
      writes (.csrw d a c) (s.gr a) (BitVec.allOnes 64) ∧
      (a ≠ 0 → writes (.csrs d a c) (s.gr a) (s.gr a) ∧ writes (.csrc d a c) 0 (s.gr a))) ∧
  (∀ (s : State) (line : Nat) (w : BitVec 2) (v : Word) (x : BitVec 32),
      let base := s.pa (scrubAddr line)
      let soft := s.soft.filter fun k => k / 8 = base / 64
      (line < 1280 → ∃ t : State, exec (.scrub line) s = .next t ∧ t.soft = (s.soft.filter fun k => k / 8 ≠ base / 64) ∧
        t.tile.softCount = s.tile.softCount + soft.length ∧ t.mem = s.mem ∧ t.tile.threads = s.tile.threads ∧
        (s.isBad base 64 = false → t.desc = s.desc ∧ t.bad = s.bad) ∧
        (s.isBad base 64 = true → Tab.wf descBlank s.desc = true → dPoison (t.descAt base) = true)) ∧
      (s.tile.ops = [] → s.tile.copies = [] → pwinOk s.tile w.toNat v = true → ∃ t : State, exec (.pwinWrite w v) s = .next t ∧ t.mem = s.mem ∧
        t.tile.threads = s.tile.threads ∧
        (t.tile.r.pwin[w.toNat]).extractLsb' 0 62 = v.extractLsb' 0 62 ∧ (t.tile.r.pwin[w.toNat]).getLsbD 63 = v.getLsbD 63 ∧
        (t.tile.r.pwin[w.toNat]).getLsbD 62 = (!v.getLsbD 63 && (s.tile.r.pwin[w.toNat]).getLsbD 62) ∧
        ∀ j : BitVec 2, j ≠ w → t.tile.r.pwin[j.toNat] = s.tile.r.pwin[j.toNat]) ∧
      ∃ t : State, exec (.vcwWrite x) s = .next t ∧ t.tile.pr.vcw = x.zeroExtend 64 ∧ t.tile.window = [] ∧ t.mem = s.mem ∧
        t.tile.threads = s.tile.threads ∧ ∀ c : Fin 8, t.tile.credits[c] = (x.extractLsb' (4 * c.val) 4).toNat)

/-- R116, R214: the checks of a device address, in order: the space (NONCANON), the offset (OFFSET_WRAP), and in space 0 the wafer's 2^42
bytes (NONCANON), alignment (MISALIGN) and one local range (SRAM_BOUND). R217: a checked LDG, STG, LDX or STX waits while 16 of its kind
are out; then its request enters the injection port for the tile or the granule's port, is counted and remembered, a load's register is
pending, and the thread goes on with every register as it was. The model's choices: the faulting address is the 64-bit offset (DEDUCED,
log 37), and the thread stalls in RUN while its channel holds an earlier message of it (DESIGN CHOICE, log 39). -/
def Obligations.DeviceRequestsAreCheckedAndLeave : Prop :=
  (∀ (s : State) (x : DevArgs) (sp : SpaceSel),
      let n := 2 ^ (x.sz.toNat % 4)
      let off : Int := (s.gr x.a).toNat + (match x.off with | .imm i => i.toInt | .lit v => v.toInt)
      let space : BitVec 16 := match sp with | .imm i => i | .reg e => (s.gr e).setWidth 16
      let base := s.tile.pr.spaces.toNat % 2 ^ 15
      let known : Prop := 1 ≤ space.toNat ∧ space.toNat ≤ 0x7FFF ∧ base ≤ space.toNat ∧ space.toNat ≤ base + 7 ∧
        s.tile.pr.spaces.getLsbD (16 + (space.toNat - base)) = true
      let traps (i : Instr) (c : BitVec 8) : Prop := exec i s = .next (s.trapWith c (BitVec.ofInt 64 off) 0 0 0 0)
      let l := off.toNat % 2 ^ 20
      guardHolds x.guard s.th = true →
      (¬ known → traps (.ldx x sp) 0x08 ∧ traps (.stx x sp) 0x08) ∧
      (known → off < 0 ∨ (2 : Int) ^ 64 < off + n → traps (.ldx x sp) 0x09 ∧ traps (.stx x sp) 0x09) ∧
      (off < 0 ∨ (2 : Int) ^ 64 < off + n → traps (.ldg x) 0x09 ∧ traps (.stg x) 0x09) ∧
      (2 ^ 42 ≤ off → off + n ≤ 2 ^ 64 → traps (.ldg x) 0x08 ∧ traps (.stg x) 0x08) ∧
      (0 ≤ off → off < 2 ^ 42 → off.toNat % n ≠ 0 → traps (.ldg x) 0x03 ∧ traps (.stg x) 0x03) ∧
      (0 ≤ off → off < 2 ^ 42 → off.toNat % n = 0 → (0x14000 ≤ l ∧ l < 0x20000 ∨ 0x22000 ≤ l ∧ l < 0x30000 ∨ 0x34000 ≤ l) →
        traps (.ldg x) 0x04 ∧ traps (.stg x) 0x04)) ∧
  (∀ (s : State) (x : DevArgs) (sp : SpaceSel),
      let n := 2 ^ (x.sz.toNat % 4)
      let off : Int := (s.gr x.a).toNat + (match x.off with | .imm i => i.toInt | .lit v => v.toInt)
      let w : Word := BitVec.ofInt 64 off
      let space : BitVec 16 := match sp with | .imm i => i | .reg e => (s.gr e).setWidth 16
      let leaves (i : Instr) (space : BitVec 16) (load : Bool) : Prop :=
        deviceFault s.tile (space != 0) space off n n = none →
        (16 ≤ (if load then s.th.outc.loads else s.th.outc.stores) ∨ s.portFree = false → exec i s = .next s.stall) ∧
        ((if load then s.th.outc.loads else s.th.outc.stores) < 16 → s.portFree = true → ∃ t, exec i s = .next t ∧ s.passes t i.len ∧
          t.tile.inj = s.tile.inj ++ [⟨some s.tid, if space = 0 then 8 else 10,
            .dest (if space = 0 then .tile ⟨off.toNat / 2 ^ 31, off.toNat / 2 ^ 20 % 2 ^ 11⟩ else .port (entryPort space w)),
            .req ⟨⟨s.foc, s.tid, s.nextId, none⟩, if load then .load n else .store n (s.gr x.d), space, w, s.tile.hid, s.tile.sys, none⟩,
            .no⟩] ∧
          t.th.outc = (if load then { s.th.outc with loads := s.th.outc.loads + 1 } else { s.th.outc with stores := s.th.outc.stores + 1 }) ∧
          (load = true → x.d ≠ 0 → t.th.pending.getLsbD x.d.toNat = true) ∧
          t.th.pends = s.th.pends ++ [⟨s.nextId, if load then .load x.d x.sz else .store, space, w, s.th.pc12, false, false, false⟩])
      guardHolds x.guard s.th = true →
      leaves (.ldg x) 0 true ∧ leaves (.stg x) 0 false ∧
      (space ≠ 0 → leaves (.ldx x sp) space true ∧ leaves (.stx x sp) space false))

/-- R218 to R220: an AMO to a tile or a translated space leaves as a request; one to the thread's own data SRAM enters the write queue.
One that leaves counts in LOADS and marks gd pending when it returns a value, in STORES when gd is g0; one that queues counts in LOADS
when it returns a value, and one that returns none is acknowledged as it is accepted, so that STORES stays. Both wait while 16 of their
kind are out. R219: the new word of each atomic, of 4 or 8 bytes holding m, with operand s and compare value c; FADD rounds to nearest
even. The model's choices: the stall while an earlier message of the thread waits (DESIGN CHOICE, log 39), and the acknowledgement with
its flags at acceptance (DEDUCED, log 67). -/
def Obligations.AtomicsIssueAndCompute : Prop :=
  (∀ (s : State) (x : AmoArgs) (c : GReg),
      let k := if x.w then 8 else 4
      let off : Int := (s.gr x.a).toNat + (match x.off with | .imm i => i.toInt | .lit v => v.toInt)
      let w : Word := BitVec.ofInt 64 off
      let ret := x.d != 0
      let count := if ret then s.th.outc.loads else s.th.outc.stores
      let counted (t : State) : Prop := s.passes t (match x.off with | .imm _ => 3 | .lit _ => 5) ∧
        t.th.outc = (if ret then { s.th.outc with loads := s.th.outc.loads + 1 } else { s.th.outc with stores := s.th.outc.stores + 1 }) ∧
        (ret = true → t.th.pending.getLsbD x.d.toNat = true) ∧ t.nextId = s.nextId + 1
      let leaves (i : Instr) (op : AmoOp) (cc : Word) (space : BitVec 16) : Prop :=
        deviceFault s.tile (space != 0) space off k k = none →
        (16 ≤ count ∨ s.portFree = false → exec i s = .next s.stall) ∧
        (count < 16 → s.portFree = true → ∃ t : State, exec i s = .next t ∧ counted t ∧
          t.tile.inj = s.tile.inj ++ [⟨some s.tid, if space = 0 then 8 else 10, .dest (reqDest space w),
            .req ⟨⟨s.foc, s.tid, s.nextId, none⟩, .amo op k (s.gr x.b) cc ret, space, w, s.tile.hid, s.tile.sys, none⟩, .no⟩])
      let queues (i : Instr) (op : AmoOp) (cc : Word) : Prop :=
        0 ≤ off → off ≤ 0xFFFFF → off.toNat % k = 0 → s.storeOk off.toNat k = true → s.watched off.toNat k false = false →
        (16 ≤ count → exec i s = .next s.stall) ∧
        (count < 16 → s.queueTurn off.toNat = false → exec i s = .next s.stallTurn) ∧
        (count < 16 → s.queueTurn off.toNat = true → ∃ t : State, exec i s = .next t ∧ t.mem = s.mem ∧
          (ret = true → counted t) ∧
          (ret = false → t.th.g = s.th.g ∧ t.th.p = s.th.p ∧ t.th.outc = s.th.outc ∧ t.th.pends = s.th.pends ∧
            t.th.pc = (s.th.next (match x.off with | .imm _ => 3 | .lit _ => 5)).pc ∧
            t.th.fflags &&& ~~~(0x3F : Word) = s.th.fflags &&& ~~~(0x3F : Word) ∧
            (op ∉ [AmoOp.fadd, .fmin, .fmax] → t.th.fflags = s.th.fflags)) ∧
          t.tile.wq = wqMerge s.tile.wq (off.toNat / 64)
            (.amo op off.toNat k (s.gr x.b) cc ret ⟨s.foc, s.tid, s.nextId, none⟩ true))
      let issues (i : Instr) (op : AmoOp) (cc : Word) : Prop := match x.tgt with
        | .glob => leaves i op cc 0
        | .ext sp => let space : BitVec 16 := match sp with | .imm j => j | .reg e => (s.gr e).setWidth 16
          space ≠ 0 → leaves i op cc space
        | .loc => queues i op cc
      guardHolds x.guard s.th = true →
      issues (.amoAdd x) .add 0 ∧ issues (.amoAnd x) .and 0 ∧ issues (.amoOr x) .or 0 ∧ issues (.amoXor x) .xor 0 ∧
      issues (.amoSwap x) .swap 0 ∧ issues (.amoCas x c) .cas (s.gr c) ∧ issues (.amoMin x) .min 0 ∧ issues (.amoMax x) .max 0 ∧
      issues (.amoMinu x) .minu 0 ∧ issues (.amoMaxu x) .maxu 0 ∧ issues (.amoFadd x) .fadd 0 ∧ issues (.amoFmin x) .fmin 0 ∧
      issues (.amoFmax x) .fmax 0) ∧
  (∀ (k : Nat) (m s c : Word), (k = 4 ∨ k = 8) → m.toNat < 2 ^ (8 * k) →
      let y := s.toNat % 2 ^ (8 * k)
      let F : FpFmt := if k = 4 then .fp32 else .fp64
      let int (v : Nat) : Int := (BitVec.ofNat (8 * k) v).toInt
      let u := fpDecode F false m.toNat
      let v := fpDecode F false y
      let less : Bool := fpLtV u v || (fpEqV u v && u.sign && !v.sign)
      let gives (op : AmoOp) (r : Nat) : Prop := amoApply op k m s c = (BitVec.ofNat 64 r, 0)
      let picks (op : AmoOp) (first : Bool) : Prop := amoApply op k m s c = (BitVec.ofNat 64
        (if u.isNaN && v.isNaN then fpNaN F else if u.isNaN then y else if v.isNaN then m.toNat else if first then m.toNat else y),
        if u.isSig || v.isSig then 0x10 else 0)
      gives .add ((m.toNat + y) % 2 ^ (8 * k)) ∧ gives .and (m.toNat &&& y) ∧ gives .or (m.toNat ||| y) ∧ gives .xor (m.toNat ^^^ y) ∧
      gives .swap y ∧ gives .cas (if m.toNat = c.toNat % 2 ^ (8 * k) then y else m.toNat) ∧
      gives .min (if int y < int m.toNat then y else m.toNat) ∧ gives .max (if int m.toNat < int y then y else m.toNat) ∧
      gives .minu (min m.toNat y) ∧ gives .maxu (max m.toNat y) ∧
      (let r := fpRound F false rneMode (fpAddV false u v).1
       amoApply .fadd k m s c = (BitVec.ofNat 64 r.1, (fpAddV false u v).2 ||| r.2)) ∧
      picks .fmin less ∧ picks .fmax (!less))

/-- R221, R222: a checked WAITV leaves for the word's home, or arms at its own tile, and the thread enters WAITV at the instruction. R237,
R149 to R151: WAITC, FENCE and LOOPF go on once what they wait for is done, and else wait at their PC. The model's choices: the faulting
address is the 64-bit offset (DEDUCED, log 37), and the stall while an earlier message of the thread waits (DESIGN CHOICE, log 39). -/
def Obligations.WaitsHoldTheThread : Prop :=
  (∀ (s : State) (x : AmoArgs) (c : GReg),
      let k := if x.w then 8 else 4
      let n := match x.off with | .imm _ => 3 | .lit _ => 5
      let off : Int := (s.gr x.a).toNat + (match x.off with | .imm i => i.toInt | .lit v => v.toInt)
      let w : Word := BitVec.ofInt 64 off
      let kind : ReqKind := .waitv k (BitVec.ofNat 64 ((s.gr x.b).toNat % 2 ^ (8 * k))) (if c = 0 then none else some (s.gr c))
      let waits (t : State) : Prop := s.keeps t ∧ t.th.pc = s.th.pc ∧ t.th.state = .waitv ∧ t.th.wait = .waitv s.nextId n ∧
        t.nextId = s.nextId + 1
      let space : BitVec 16 := match x.tgt with
        | .ext (.imm j) => j
        | .ext (.reg e) => (s.gr e).setWidth 16
        | _ => 0
      let far : Bool := match x.tgt with
        | .ext _ => true
        | _ => false
      let req : Req := ⟨⟨s.foc, s.tid, s.nextId, none⟩, kind, space, w, s.tile.hid, s.tile.sys, none⟩
      guardHolds x.guard s.th = true →
      (x.tgt ≠ .loc → deviceFault s.tile far space off k k = none → s.portFree = true → ∃ t : State, exec (.waitv x c) s = .next t ∧
        waits t ∧ t.tile.inj = s.tile.inj ++ [⟨some s.tid, if space = 0 then 8 else 10, .dest (reqDest space w), .req req, .no⟩]) ∧
      (x.tgt ≠ .loc → deviceFault s.tile far space off k k = none → s.portFree = false → exec (.waitv x c) s = .next s.stall) ∧
      (∀ e, x.tgt ≠ .loc → deviceFault s.tile far space off k k = some e → exec (.waitv x c) s = .next (s.trapWith e w 0 0 0 0)) ∧
      (∀ b, x.tgt = .loc → 0 ≤ off → off ≤ 0xFFFFF → off.toNat % k = 0 → s.loadAddr off.toNat k = some b →
        ∃ t : State, exec (.waitv x c) s = .next t ∧ waits t ∧ t.tile.arms = s.tile.arms ++
          [{ req with off := BitVec.ofNat 64 (if off < 0x10000 then off.toNat else b) }])) ∧
  (∀ (s : State) (l st c t : BitVec 4) (scope : BitVec 3),
      let o := s.th.outc
      let low : Prop := o.loads ≤ l.toNat ∧ o.stores ≤ st.toNat ∧ o.copies ≤ c.toNat ∧ o.tops ≤ t.toNat
      let loops (p : Pend) : Bool := !p.loc && p.space == 0 && offCoord p.off == s.foc &&
        (match p.kind with | .copy _ _ _ | .leaf _ _ => false | _ => true)
      let reaches (space : BitVec 16) (off : Word) : Bool :=
        if space = 0 then s.inScope scope.toNat (offCoord off) else decide (scope.toNat = 5)
      let covers (p : Pend) : Bool := !p.logged && (match p.kind with | .copy _ _ _ | .waitv _ => false | _ => true) &&
        (p.loc || reaches p.space p.off)
      let copies (k : CopyKind) : Bool := match k with
        | .put _ space off => reaches space off
        | _ => true
      let leaves (o : EOp) : Bool := match o with
        | .cop (.copy k) => !copies k.kind
        | _ => false
      let logs : Prop := (∃ i, ∃ p ∈ (s.tile.th i).pends, p.logged = true) ∨
        (∃ x ∈ s.ports, ∃ r ∈ x.2.log, r.who.src = s.foc ∧ r.who.agent = none) ∨
        ∃ x ∈ s.ports, ∃ y ∈ x.2.replays, ∃ r ∈ y.sent, r.who.src = s.foc ∧ r.who.agent = none ∧ s.underway (·.who == r.who) = true
      let fenced : Prop := (∀ p ∈ s.th.pends, covers p = false) ∧
        (∀ k ∈ s.tile.copies, k.tid = s.tid → copies k.kind = false) ∧ (∀ q ∈ s.tile.ops, q.tid = s.tid → leaves q.op = true) ∧ (scope = 5 → ¬ logs)
      scope.toNat ≤ 5 →
      (low → ∃ u : State, exec (.waitc l st c t) s = .next u ∧ s.passes u 1) ∧
      (¬ low → exec (.waitc l st c t) s = .next s.stall) ∧
      ((∀ p ∈ s.th.pends, loops p = false) → ∃ u : State, exec .loopf s = .next u ∧ s.passes u 1) ∧
      ((∃ p ∈ s.th.pends, loops p = true) → exec .loopf s = .next s.stall) ∧
      (fenced → ∃ u : State, exec (.fence scope) s = .next u ∧ s.passes u 1) ∧
      (¬ fenced → exec (.fence scope) s = .next s.stall))

/-- R224 to R226: SEND and SENDI hand a packet to the injection port: its header holds the CTL fields, the hall and TCM, its tag is gc,
its payload the words at gb, or gb and the second operand. VC12 without a pin traps PRIV, then SEND checks alignment and range, and a
coordinate DEST with low bits set is illegal. R227, R228: FWD resends the handler's own packet once, with a new destination, channel and
entry; POST sends a decrement when everything the thread did before is performed. The model's choices: the stall while an earlier message
of the thread waits (DESIGN CHOICE, log 39), and that a release waits for every answer and operation of the thread (DEDUCED, log 38). -/
def Obligations.PacketsAndDecrementsLeave : Prop :=
  (∀ (s : State) (gd : Guard) (a b c : GReg) (e : RegLit) (ctl : Ctl),
      let dest : BitVec 32 := (s.gr a).setWidth 32
      let n := 2 * ctl.len.toNat
      let badDest : Prop := ctl.named = false ∧ dest.toNat % 1024 ≠ 0
      let sends (i : Instr) (len : Nat) (ws : List Word) : Prop := ∃ (t : State), ∃ p, exec i s = .next t ∧
        s.sendsAs t ⟨some s.tid, ctl.vc, (s.destOf ctl.named ctl.vc dest).1, .packet p, .sent len⟩ len ∧
        p.payload = ws ∧ p.sys = s.tile.sys ∧ p.word1.extractLsb' 32 32 = (s.gr c).setWidth 32 ∧
        p.word1.extractLsb' 0 32 = s.tile.r.name.setWidth 32 ∧
        p.word0.extractLsb' 32 32 = (s.destOf ctl.named ctl.vc dest).2 ∧ hdrLen p.word0 = ctl.len.toNat ∧ hdrVc p.word0 = ctl.vc ∧
        hdrEntry p.word0 = ctl.entry ∧ hdrTcm p.word0 = s.th.tcm ∧ hdrNarrow p.word0 = ctl.narrow ∧ hdrNsucc p.word0 = ctl.nsucc ∧
        hdrNamed p.word0 = ctl.named ∧ hdrHall p.word0 = s.tile.hid
      guardHolds gd s.th = true →
      (s.vc12Ok ctl dest = false → exec (.send gd a b c ctl) s = .next (s.trapWith 0x02 0 0 0 0 0) ∧
        exec (.sendi gd a b c e ctl) s = .next (s.trapWith 0x02 0 0 0 0 0)) ∧
      (s.vc12Ok ctl dest = true →
        (badDest → exec (.sendi gd a b c e ctl) s = .next s.trapIllegal) ∧
        (¬ badDest → s.sendFree = false → exec (.sendi gd a b c e ctl) s = .next s.stall) ∧
        (¬ badDest → s.sendFree = true → sends (.sendi gd a b c e ctl) (match e with | .reg _ => 3 | .lit _ => 5)
          [s.gr b, match e with | .reg r => s.gr r | .lit v => v]) ∧
        ((s.gr b).toNat % 16 ≠ 0 → exec (.send gd a b c ctl) s = .next (s.trapWith 0x03 (s.gr b) 0 0 0 0)) ∧
        ((s.gr b).toNat % 16 = 0 →
          (s.payloadAddrs (s.gr b).toNat n = none → exec (.send gd a b c ctl) s = .next (s.trapWith 0x04 (s.gr b) 0 0 0 0)) ∧
          ∀ as, s.payloadAddrs (s.gr b).toNat n = some as →
            (badDest → exec (.send gd a b c ctl) s = .next s.trapIllegal) ∧
            (¬ badDest → s.sendFree = true → (∀ x ∈ as, s.tile.wqHolds x = false ∧ s.damaged (s.pa x) 8 = false) →
              sends (.send gd a b c ctl) 3 (as.map fun x => BitVec.ofNat 64 (Memory.readN s.mem (s.pa x) 8)))))) ∧
  (∀ (s : State) (gd : Guard) (a b : GReg) (named : Bool) (vc : BitVec 3) (pvc : BitVec 4) (entry : BitVec 10) (amount : BitVec 8),
      let dest : BitVec 32 := (s.gr a).setWidth 32
      let badDest : Prop := named = false ∧ dest.toNat % 1024 ≠ 0
      guardHolds gd s.th = true →
      ((∀ c0 n, s.th.work ≠ .packet c0 n) ∨ s.th.fwdUsed = true → exec (.fwd gd a named vc entry) s = .next s.trapIllegal) ∧
      (∀ c0 n, s.th.work = .packet c0 n → s.th.fwdUsed = false →
        let word (i : Nat) : Word := BitVec.ofNat 64 (Memory.readN s.mem (s.pa (0x20000 + (32 * c0 + 8 * i) % 0x2000)) 8)
        let h := word 0
        (badDest → exec (.fwd gd a named vc entry) s = .next s.trapIllegal) ∧
        (¬ badDest → s.sendFree = false → exec (.fwd gd a named vc entry) s = .next s.stall) ∧
        (¬ badDest → s.sendFree = true → ∃ (t : State), ∃ p, exec (.fwd gd a named vc entry) s = .next t ∧
          s.sendsAs t ⟨some s.tid, vc.zeroExtend 4, (s.destOf named (vc.zeroExtend 4) dest).1, .packet p, .fwd 3⟩ 3 ∧
          (t.th.fwdUsed = true ∨ t.offered = true) ∧
          p.payload = (List.range (2 * hdrLen h)).map (fun i => word (2 + i)) ∧ hdrLen p.word0 = hdrLen h ∧
          hdrVc p.word0 = vc.zeroExtend 4 ∧ hdrEntry p.word0 = entry ∧ hdrNsucc p.word0 = hdrNsucc h ∧ hdrTcm p.word0 = hdrTcm h ∧
          hdrNarrow p.word0 = hdrNarrow h ∧ hdrNamed p.word0 = named ∧ p.word1.extractLsb' 32 32 = (word 1).extractLsb' 32 32)) ∧
      (0xFFFF < (s.gr b).toNat → exec (.post gd a b named pvc amount) s = .next (s.trapWith 0x04 (s.gr b) 0 0 0 0)) ∧
      ((s.gr b).toNat ≤ 0xFFFF → badDest → exec (.post gd a b named pvc amount) s = .next s.trapIllegal) ∧
      ((s.gr b).toNat ≤ 0xFFFF → ¬ badDest → s.released = false ∨ s.sendFree = false → exec (.post gd a b named pvc amount) s = .next s.stall) ∧
      ((s.gr b).toNat ≤ 0xFFFF → ¬ badDest → s.released = true → s.sendFree = true → ∃ t : State, exec (.post gd a b named pvc amount) s = .next t ∧
        s.sendsAs t ⟨some s.tid, pvc, (s.destOf named pvc dest).1, .decr (s.gr b) amount.toNat, .sent 3⟩ 3))

/-- R230, R46, R47: CSET writes a record and answers 1, or answers 0 and writes nothing while the record is queued; CREAD reads word 0. A
count of zero queues the record at once. Misaligned, out-of-range and damaged records trap. A decrement that reaches the tile's data SRAM
lowers the record's COUNT; one that takes it to zero or below queues the record; one for a queued or spent record is dropped and counted.
The model's choices: the order of the address checks (DEDUCED, log 18), the wait for the write queue (DEDUCED, log 35), and that CSET and
CREAD of a word of a poisoned line trap as of an uncorrectable one (DEDUCED, log 36). -/
def Obligations.RecordsAreSetCountedAndQueued : Prop :=
  (∀ (s : State) (gd : Guard) (d a b c : GReg) (p : PReg) (i : BitVec 32),
      let ea : Int := (s.gr a).toNat + i.toInt
      let f : Word := BitVec.ofInt 64 ea
      let k := ea.toNat
      let rec0 : Word := BitVec.ofNat 64 (Memory.readN s.mem (s.pa k) 8)
      let w0 : Word := (s.gr b).extractLsb' 32 32 ++ ((0 : BitVec 6) ++ (s.gr b).extractLsb' 0 26)
      let both (x : BitVec 8) : Prop := exec (.cset gd p a b c i) s = .next (s.trapWith x f 0 0 0 0) ∧
        exec (.cread gd d a i) s = .next (s.trapWith x f 0 0 0 0)
      guardHolds gd s.th = true →
      (f.toNat % 16 ≠ 0 → both 0x03) ∧
      (f.toNat % 16 = 0 → ea < 0 ∨ 0x10000 ≤ ea → both 0x04) ∧
      (f.toNat % 16 = 0 → 0 ≤ ea → ea < 0x10000 → s.tile.inEntries k 16 = true ∨ s.tile.window_ (k / 64) ≠ .out → both 0x04) ∧
      (k % 16 = 0 → 0 ≤ ea → ea < 0x10000 → s.tile.inEntries k 16 = false → s.tile.window_ (k / 64) = .out →
        s.tile.wqHolds k = false → s.damaged (s.pa k) 8 = true → ∀ x ∈ [Instr.cset gd p a b c i, .cread gd d a i],
          ∃ t : State, exec x s = .next t ∧ t.th = (s.trapWith 0x0E f 0 0 0 0).th ∧ t.mem = s.mem) ∧
      (k % 16 = 0 → 0 ≤ ea → ea < 0x10000 → s.tile.inEntries k 16 = false → s.tile.window_ (k / 64) = .out →
        s.tile.wqHolds k = false → s.damaged (s.pa k) 8 = false →
        exec (.cread gd d a i) s = .next ((s.setG d rec0).retire 3) ∧
        (s.queueTurn k = false → exec (.cset gd p a b c i) s = .next s.stallTurn) ∧
        (s.queueTurn k = true → rec0.getLsbD 26 = true → exec (.cset gd p a b c i) s = .next ((s.setP p false).retire 3)) ∧
        (s.queueTurn k = true → rec0.getLsbD 26 = false → Memory.wf s.mem = true → ∃ t : State, exec (.cset gd p a b c i) s = .next t ∧ (p ≠ 0 → t.pr p = true) ∧
          (∀ q, q ≠ p → t.pr q = s.pr q) ∧ (∀ q, t.gr q = s.gr q) ∧ t.th.pc = (s.th.next 3).pc ∧
          (w0.toNat % 65536 ≠ 0 → Memory.readN t.mem (s.pa k) 8 = w0.toNat ∧ Memory.readN t.mem (s.pa k + 8) 8 = (s.gr c).toNat ∧
            t.tile.ring = s.tile.ring ∧ t.tile.chain = s.tile.chain ∧
            ∀ j, j < s.pa k ∨ s.pa k + 16 ≤ j → Memory.read t.mem j = Memory.read s.mem j) ∧
          (w0.toNat % 65536 = 0 → s.tile.ring.length < 64 → s.tile.chain = [] → t.tile.ring = s.tile.ring ++ [k] ∧
            Memory.readN t.mem (s.pa k) 8 = w0.toNat + 2 ^ 26 ∧
            ∀ j, j < s.pa k ∨ s.pa k + 16 ≤ j → Memory.read t.mem j = Memory.read s.mem j)))) ∧
  (∀ (s : State) (k d : Nat),
      let at_ := s.pa k
      let w : Word := BitVec.ofNat 64 (Memory.readN s.mem at_ 8)
      let n := w.toNat % 65536
      let t := s.decrement s.foc (BitVec.ofNat 64 k) d
      k % 16 = 0 → k < 65536 → s.tile.inEntries k 16 = false → s.damaged at_ 8 = false → Memory.wf s.mem = true →
      (w.getLsbD 26 = true ∨ n = 0 → t.mem = s.mem ∧ t.tile.late = s.tile.late + 1) ∧
      (w.getLsbD 26 = false → d < n → Memory.readN t.mem at_ 8 = w.toNat - d ∧ t.tile.ring = s.tile.ring) ∧
      (w.getLsbD 26 = false → n ≠ 0 → n ≤ d → s.tile.ring.length < 64 → s.tile.chain = [] →
        t.tile.ring = s.tile.ring ++ [k] ∧ (Memory.readN t.mem at_ 8) % 65536 = 0 ∧ (BitVec.ofNat 64 (Memory.readN t.mem at_ 8)).getLsbD 26 = true) ∧
      (∀ j, (w.getLsbD 26 = false → n ≠ 0 → s.tile.ring.length < 64 ∧ s.tile.chain = []) → j < at_ ∨ at_ + 8 ≤ j →
        Memory.read t.mem j = Memory.read s.mem j) ∧
      (∀ q, t.gr q = s.gr q))

/-- R231, R232, R56: CPY, CPYX.G and CPYX.P check the tag, the descriptor, the alignment of their local addresses and then their ranges,
each with its trap; a copy of no lines completes its tag at once, unless an earlier engine operation of its thread is unconfirmed (R53);
another enters the copy queue with its tag busy and its DONE bit clear, and counts in COPIES. A copy of no lines is stated here with no
thread in WTAG; O25 states which waits a completed tag ends. The faulting address of the device range is the 64-bit offset, by the model's
choice (DEDUCED, log 37). -/
def Obligations.CopiesIssueOnTheirTags : Prop :=
  ∀ (s : State) (gd : Guard) (tag : BitVec 6) (sp : BitVec 16) (d a b : GReg) (dsc : Option GReg),
    let n := (s.gr b).toNat
    let x := s.gr a
    let y := s.gr d
    let ds : Option Desc := dsc.map fun c => (s.gr c).setWidth 32
    let cpy : Instr := .cpy gd tag d a b dsc
    let get : Instr := .cpyxG gd tag sp d a b dsc
    let put : Instr := .cpyxP gd tag sp d a b dsc
    let traps (i : Instr) (c : BitVec 8) (f : Word) : Prop := exec i s = .next (s.trapWith c f 0 0 0 0)
    let srcOk (w : Word) : Prop := srcAligned w.toNat = true ∧ s.copySrcOk w.toNat n = true
    let dstOk (w : Word) : Prop := w.toNat % 64 = 0 ∧ s.copyDstOk w.toNat n = true
    let devOk : Prop := deviceFault s.tile false sp x.toNat (64 * n) 64 = none
    let headOk : Prop := s.tile.tagBusy tag = false ∧ ∀ e, ds = some e → dLegal e = true
    let done (t : State) : Prop := s.passes t 3 ∧ t.tile.r.tags.getLsbD tag.toNat = true ∧ t.tile.busy.getLsbD tag.toNat = false ∧
      t.th.outc = s.th.outc ∧ t.tile.ops = s.tile.ops
    let queued (t : State) (kind : CopyKind) : Prop := s.passes t 3 ∧ ∃ q r, t.tile.ops = s.tile.ops ++ [q] ∧ q.tid = s.tid ∧
      q.eng = .copy ∧ q.op = .cop (.copy r) ∧ r.tid = s.tid ∧ r.tag = tag ∧ r.kind = kind ∧ r.n = n ∧ r.dsc = ds ∧
      t.tile.busy.getLsbD tag.toNat = true ∧ t.tile.r.tags.getLsbD tag.toNat = false ∧
      (∀ j, j ≠ tag.toNat → t.tile.r.tags.getLsbD j = s.tile.r.tags.getLsbD j) ∧
      t.th.outc = { s.th.outc with copies := s.th.outc.copies + 1 }
    let atOnce : Prop := n = 0 ∧ s.tile.unconfirmed s.tid = 0
    let calm : Prop := ∀ i, (s.tile.th i).state ≠ .wtag
    guardHolds gd s.th = true →
    (s.tile.tagBusy tag = true → traps cpy 0x1A 0 ∧ traps get 0x1A 0 ∧ traps put 0x1A 0) ∧
    (s.tile.tagBusy tag = false → (∃ e, ds = some e ∧ dLegal e = false) → traps cpy 0x0D 0 ∧ traps get 0x0D 0 ∧ traps put 0x0D 0) ∧
    (headOk →
      (srcAligned x.toNat = false → traps cpy 0x03 x) ∧ (srcAligned y.toNat = false → traps put 0x03 y) ∧
      (y.toNat % 64 ≠ 0 → traps get 0x03 y ∧ (srcAligned x.toNat = true → traps cpy 0x03 y)) ∧
      (srcAligned x.toNat = true → y.toNat % 64 = 0 → s.copySrcOk x.toNat n = false → traps cpy 0x04 x) ∧
      (srcAligned y.toNat = true → s.copySrcOk y.toNat n = false → traps put 0x04 y) ∧
      (y.toNat % 64 = 0 → s.copyDstOk y.toNat n = false → traps get 0x04 y ∧ (srcOk x → traps cpy 0x04 y)) ∧
      (∀ c, deviceFault s.tile false sp x.toNat (64 * n) 64 = some c → (dstOk y → traps get c x) ∧ (srcOk y → traps put c x)) ∧
      (16 ≤ s.th.outc.copies → (srcOk x → dstOk y → exec cpy s = .next s.stall) ∧ (dstOk y → devOk → exec get s = .next s.stall) ∧
        (srcOk y → devOk → exec put s = .next s.stall))) ∧
    -- copies of no lines
    (headOk → s.th.outc.copies < 16 → atOnce → calm →
      (srcOk x → dstOk y → ∃ t : State, exec (.cpy gd tag d a b dsc) s = .next t ∧ done t) ∧
      (dstOk y → devOk → ∃ t : State, exec (.cpyxG gd tag sp d a b dsc) s = .next t ∧ done t) ∧
      (srcOk y → devOk → ∃ t : State, exec (.cpyxP gd tag sp d a b dsc) s = .next t ∧ done t)) ∧
    -- copies that enter the queue
    (headOk → s.th.outc.copies < 16 → ¬ atOnce → s.tile.queued s.tid .copy < 2 →
      (srcOk x → dstOk y → ∃ t : State, exec (.cpy gd tag d a b dsc) s = .next t ∧ queued t (.loc y.toNat x.toNat)) ∧
      (dstOk y → devOk → ∃ t : State, exec (.cpyxG gd tag sp d a b dsc) s = .next t ∧ queued t (.get y.toNat sp x)) ∧
      (srcOk y → devOk → ∃ t : State, exec (.cpyxP gd tag sp d a b dsc) s = .next t ∧ queued t (.put y.toNat sp x)))

/-- R234, R114, R155: PUBL of a disabled window is illegal; it waits for its thread's operations and copies into data SRAM, then flips
VIS. R56, R236: a copy whose lines are done, or that stopped, sets its tag, which is not busy any more, leaves COPIES, and ends the waits
that its tag satisfies in the same step. -/
def Obligations.PublishesFlipAndCopiesComplete : Prop :=
  ∀ (s : State) (gd : Guard) (w : BitVec 2) (tag : BitVec 6) (c : CopyRec),
    let win := s.tile.r.pwin[w.toNat]
    let done : Prop := (∀ o ∈ s.tile.ops, o.tid = s.tid → o.op.publWaits = false) ∧
      ∀ k ∈ s.tile.copies, k.tid = s.tid → k.kind.intoSram = false
    (guardHolds gd s.th = true →
      (win.getLsbD 63 = false → exec (.publ gd w) s = .next s.trapIllegal) ∧
      (win.getLsbD 63 = true → ¬ done → exec (.publ gd w) s = .next s.stall) ∧
      (win.getLsbD 63 = true → done → ∃ t : State, exec (.publ gd w) s = .next t ∧ s.passes t 3 ∧
        t.tile.r.pwin[w.toNat] = win ^^^ 0x4000000000000000 ∧
        ∀ j : Fin 4, j.val ≠ w.toNat → t.tile.r.pwin[j] = s.tile.r.pwin[j])) ∧
    (s.tile.copies.find? (fun k => k.tag == tag && (k.complete == k.n || k.failed)) = some c →
      ∃ t : State, exec (.copyComplete tag) s = .next t ∧ t.tile.r.tags.getLsbD tag.toNat = true ∧ t.tile.busy.getLsbD tag.toNat = false ∧
        (∀ j, j ≠ tag.toNat → t.tile.r.tags.getLsbD j = s.tile.r.tags.getLsbD j) ∧
        t.tile.copies = s.tile.copies.filter (fun k => k.id != c.id) ∧
        (t.tile.th c.tid).outc.copies = (s.tile.th c.tid).outc.copies - 1 ∧ t.mem = s.mem ∧
        ∀ i all m n, (s.tile.th i).state = .wtag → (s.tile.th i).wait = .wtag all m n → (s.tile.th i).stepping = false →
          let dn := t.tile.r.tags
          if (if all then m &&& ~~~ dn = 0 else m = 0 ∨ m &&& dn ≠ 0) then
            (t.tile.th i).state = .run ∧ (t.tile.th i).wait = .none ∧ (t.tile.th i).pc = ((s.tile.th i).next n).pc
          else (t.tile.th i).state = .wtag) ∧
    (s.tile.copies.find? (fun k => k.tag == tag && (k.complete == k.n || k.failed)) = none → exec (.copyComplete tag) s = .next s)

/-- R235, R236: WTAG traps TAG_INVALID on tags that can never complete, goes on when its condition holds and else waits in WTAG until
WTAG_WAKE; FTAG gives the lowest DONE bit or 64, FTAG.C also clears it; TCLR clears the bits of tags that are not busy. -/
def Obligations.TagOperations : Prop :=
  ∀ (s : State) (d a : GReg) (v : Word),
    let dn := s.tile.r.tags
    let live := s.tile.busy ||| dn
    let waits (all : Bool) (i : Instr) (m : Word) (n : Nat) : Prop :=
      let hold : Prop := if all then m &&& ~~~ dn = 0 else m = 0 ∨ m &&& dn ≠ 0
      let never : Prop := if all then m &&& ~~~ live ≠ 0 else m ≠ 0 ∧ m &&& live = 0
      (never → exec i s = .next (s.trapWith 0x1A 0 0 0 0 0)) ∧
      (¬ never → hold → exec i s = .next (s.retire n)) ∧
      (¬ never → ¬ hold → ∃ t : State, exec i s = .next t ∧ s.keeps t ∧ t.th.pc = s.th.pc ∧ t.th.state = .wtag ∧ t.th.wait = .wtag all m n)
    let finds (clr : Bool) (i : Instr) (m : Word) (n : Nat) : Prop := ∃ (t : State), ∃ k, exec i s = .next t ∧ k ≤ 64 ∧
      (∀ j, j < k → (dn &&& m).getLsbD j = false) ∧ (k < 64 → (dn &&& m).getLsbD k = true) ∧ (d ≠ 0 → t.gr d = BitVec.ofNat 64 k) ∧
      (∀ q, q ≠ d → t.gr q = s.gr q) ∧ (∀ j, t.tile.r.tags.getLsbD j = (dn.getLsbD j && !(clr && decide (j = k)))) ∧ t.mem = s.mem ∧
      t.th.pc = (s.th.next n).pc
    let clears (i : Instr) (m : Word) (n : Nat) : Prop := ∃ t : State, exec i s = .next t ∧ s.passes t n ∧ t.tile.busy = s.tile.busy ∧
      ∀ j, j < 64 → t.tile.r.tags.getLsbD j = (dn.getLsbD j && !(m.getLsbD j && !s.tile.busy.getLsbD j))
    waits false (.wtagAny a) (s.gr a) 1 ∧ waits true (.wtagAll a) (s.gr a) 1 ∧ waits false (.wtagAnyLiteral v) v 3 ∧
    waits true (.wtagAllLiteral v) v 3 ∧
    finds false (.ftag d a) (s.gr a) 1 ∧ finds true (.ftagC d a) (s.gr a) 1 ∧ finds false (.ftagLiteral d v) v 3 ∧
    finds true (.ftagCLiteral d v) v 3 ∧ clears (.tclr a) (s.gr a) 1 ∧ clears (.tclrLiteral v) v 3 ∧
    (∀ all m n, s.th.state = .wtag → s.th.wait = .wtag all m n →
      (if all then m &&& ~~~ dn = 0 else m = 0 ∨ m &&& dn ≠ 0) → s.th.stepping = false → ∃ t : State, exec .wtagWake s = .next t ∧ s.passes t n ∧
        t.th.state = .run ∧ t.th.wait = .none)

/-- R145, R240, R51: DONE waits until everything the thread did is performed, then ends the handler: the thread is FREE with its registers
as they are, a recorded pin in force; a packet handler's cells are freed, after its successors' decrements if it has any. R241: YIELD
checks its record's address, waits as DONE does, takes the record's whole COUNT as one decrement, and ends the handler. The model's
choices: a release waits for every answer and operation of the thread (DEDUCED, log 38), YIELD stalls while the write queue holds its
record's line (DEDUCED, log 35), and a firing leaves as the port takes it (DESIGN CHOICE, log 39). -/
def Obligations.HandlersEndOrYield : Prop :=
  (∀ (s : State) (gd : Guard),
      let ended (h : Thread) : Prop := h.state = .free ∧ h.work = .none ∧ h.g = s.th.g ∧ h.p = s.th.p ∧ h.pinNow = s.th.pinRec ∧
        h.fwdUsed = false
      let ends (i : Instr) : Prop :=
        (s.released = false ∨ s.portFree = false → exec i s = .next s.stall) ∧
        (s.released = true → s.portFree = true →
          ((∀ c0 n, s.th.work ≠ .packet c0 n) → ∃ t : State, exec i s = .next t ∧ ended t.th ∧ t.mem = s.mem ∧ t.tile.runs = s.tile.runs ∧
            t.tile.inj = s.tile.inj) ∧
          ∀ c0 n, s.th.work = .packet c0 n →
            let h := s.cellWord c0 0
            let w := s.cellWord c0 (2 + 2 * hdrLen h - 1)
            let slot : BitVec 16 := w.extractLsb' 32 16
            let m : Inj := ⟨some s.tid, (w.extractLsb' 56 8).setWidth 4, .name (w.setWidth 32),
              .decr (BitVec.ofNat 64 (8 * slot.toNat)) (w.extractLsb' 48 8).toNat, .last c0⟩
            let cells := s.tile.runs.filter (fun r => r.c0 != c0)
            (hdrNsucc h = 0 ∨ s.th.fwdUsed = true → ∃ t : State, exec i s = .next t ∧ ended t.th ∧ t.mem = s.mem ∧ t.tile.runs = cells ∧
              t.tile.inj = s.tile.inj) ∧
            (hdrNsucc h = 1 → s.th.fwdUsed = false → w.setWidth 32 ≠ (0 : BitVec 32) →
              (w.extractLsb' 56 8).toNat ≤ 7 ∨ (w.extractLsb' 56 8).toNat = 13 → w.extractLsb' 48 8 ≠ 0 →
              ∃ t : State, exec i s = .next t ∧ s.keeps t ∧ t.th.pc = s.th.pc ∧ t.th.state = s.th.state ∧ t.tile.runs = s.tile.runs ∧
                t.tile.inj = s.tile.inj ++ [m] ∧ ended ((t.tile.entered m).th s.tid) ∧ (t.tile.entered m).runs = cells))
      ends .done ∧ (guardHolds gd s.th = true → ends (.doneXForm gd))) ∧
  (∀ (s : State) (gd : Guard) (a : GReg),
      let k := (s.gr a).toNat
      let u := s.decrement s.foc (s.gr a) (Memory.readN s.mem (s.pa k) 8 % 65536)
      let yields (i : Instr) : Prop :=
        (k % 16 ≠ 0 → exec i s = .next (s.trapWith 0x03 (s.gr a) 0 0 0 0)) ∧
        (k % 16 = 0 → 0x10000 ≤ k ∨ s.tile.inEntries k 16 = true → exec i s = .next (s.trapWith 0x04 (s.gr a) 0 0 0 0)) ∧
        (k % 16 = 0 → k < 0x10000 → s.tile.inEntries k 16 = false →
          (s.released = false ∨ s.portFree = false ∨ s.tile.wqHolds k = true → exec i s = .next s.stall) ∧
          (s.released = true → s.portFree = true → s.tile.wqHolds k = false → s.queueTurn k = false → exec i s = .next s.stallTurn) ∧
          (s.released = true → s.portFree = true → s.tile.wqHolds k = false → s.queueTurn k = true → ∃ t : State, exec i s = .next t ∧
            t.th.g = s.th.g ∧ t.mem = u.mem ∧ t.tile.ring = u.tile.ring ∧ t.tile.chain = u.tile.chain ∧ t.tile.late = u.tile.late ∧
            ((∀ c0 n, s.th.work = .packet c0 n → hdrNsucc (u.cellWord c0 0) = 0 ∨ s.th.fwdUsed = true) →
              t.th.state = .free ∧ t.th.work = .none)))
      yields (.yield a) ∧ (guardHolds gd s.th = true → yields (.yieldXForm gd a)))

/-- R32, R243, R386, R389: HALT stops with a notice; TRAP and BRK take their trap; every trap stops the thread at its instruction with its
record to be sent and nothing else of it changed, and a resume goes on at the PC, or past a HALT, BRK or TRAP. R244, R245: REDPIN records
a pin for one thread at a time, or an unpin, and answers what it recorded; PERF adds to the counters of the software event and reads the
field's cycle count. -/
def Obligations.TrapsHaltsPinsAndEvents : Prop :=
  (∀ (s : State) (gd : Guard) (a b : GReg) (code : BitVec 16) (cause : BitVec 8) (f o0 o1 o2 o3 : Word),
      let stops (t : State) (kind : BitVec 2) (info : TrapInfo) (skip : Nat) : Prop := s.keeps t ∧ t.th.pc = s.th.pc ∧
        t.th.loop = s.th.loop ∧ t.th.record = some ⟨kind, info, false⟩ ∧ t.th.wait = .none ∧
        (t.th.resume).state = .run ∧ (t.th.resume).pc = s.th.pc + BitVec.ofNat 13 skip ∧ (t.th.resume).g = s.th.g
      let pc := s.th.pc12
      (∃ t : State, exec .halt s = .next t ∧ t.th.state = .halt ∧ stops t 2 ⟨0, pc, 0, 0, 0, 0, 0⟩ 1) ∧
      (∃ t : State, exec .brk s = .next t ∧ t.th.state = .stop ∧ stops t 0 ⟨0x17, pc, 0, 0, 0, 0, 0⟩ 1) ∧
      (guardHolds gd s.th = true →
        (∃ t : State, exec (.brkXForm gd code) s = .next t ∧ t.th.state = .stop ∧
          stops t 0 ⟨0x17, pc, 0, BitVec.ofNat 64 code.toNat, 0, 0, 0⟩ 3) ∧
        (∃ t : State, exec (.trap gd a b cause) s = .next t ∧ t.th.state = .stop ∧ stops t 0 ⟨cause, pc, 0, s.gr a, s.gr b, 2, 0⟩ 3)) ∧
      (s.trapWith cause f o0 o1 o2 o3).th.state = .stop ∧ stops (s.trapWith cause f o0 o1 o2 o3) 0 ⟨cause, pc, f, o0, o1, o2, o3⟩ 0) ∧
  (∀ (s : State) (d a : GReg),
      let want := (s.gr a).getLsbD 0
      let free : Prop := ∀ i : Tid, i ≠ s.tid → (s.tile.th i).pinRec = false ∧ (s.tile.th i).unpinned = false
      let gives (t : State) (w : Word) : Prop := (d ≠ 0 → t.gr d = w) ∧ (∀ q, q ≠ d → t.gr q = s.gr q) ∧ (∀ q, t.pr q = s.pr q) ∧
        t.mem = s.mem ∧ t.th.pc = (s.th.next 1).pc ∧ t.th.pinNow = s.th.pinNow
      (want = false → ∃ t : State, exec (.redpin d a) s = .next t ∧ gives t 0 ∧ t.th.pinRec = false) ∧
      (want = true → s.th.pinRec = true ∨ free → ∃ t : State, exec (.redpin d a) s = .next t ∧ gives t 1 ∧ t.th.pinRec = true) ∧
      (want = true → s.th.pinRec = false → ¬ free → ∃ t : State, exec (.redpin d a) s = .next t ∧ gives t 0 ∧ t.th.pinRec = false) ∧
      (∃ t : State, exec (.perf d a) s = .next t ∧ gives t (s.field (fieldOf s.foc)).lcyc ∧
        ∀ i : Fin 4, s.tile.r.perfsel.extractLsb' (8 * i.val) 8 = 0x0A →
          t.tile.r.perf[i] = s.tile.r.perf[i] + BitVec.ofNat 64 ((s.gr a).toNat % 2 ^ 32)))

/-- R242: SCALL checks the record and its entry, sends the call to the tile's ring port when everything before it is performed, and waits;
the reply is written to gd, or traps SCALL_FAULT when its status is 0xFF. The model's choices: a release waits for every answer and
operation of the thread (DEDUCED, log 38), and the stall while an earlier message of the thread waits (DESIGN CHOICE, log 39). -/
def Obligations.ServiceCallsWaitForTheirReply : Prop :=
  ∀ (s : State) (gd : Guard) (d a b : GReg) (len : BitVec 2) (entry : BitVec 10) (w : Word),
    let i : Instr := .scall gd d a b len entry
    let p := (s.gr a).toNat
    let k := 2 * (len.toNat + 1)
    guardHolds gd s.th = true →
    (s.th.wait = .none →
      (p % 16 ≠ 0 → exec i s = .next (s.trapWith 0x03 (s.gr a) 0 0 0 0)) ∧
      (p % 16 = 0 → 0x10000 < p + 8 * k → exec i s = .next (s.trapWith 0x04 (s.gr a) 0 0 0 0)) ∧
      (p % 16 = 0 → p + 8 * k ≤ 0x10000 → s.entryOk s.foc entry.toNat 14 = false →
        exec i s = .next (s.trapWith 0x16 0 0 0 0 0)) ∧
      (∀ as, p % 16 = 0 → p + 8 * k ≤ 0x10000 → s.entryOk s.foc entry.toNat 14 = true →
        (List.range k).mapM (fun j => s.tile.readAddr (p + 8 * j)) = some as →
        (∀ x ∈ as, s.tile.wqHolds x = false ∧ s.damaged (s.pa x) 8 = false) →
        (s.released = false ∨ s.portFree = false → exec i s = .next s.stall) ∧
        (s.released = true → s.portFree = true → s.tile.ringName = 0 → exec i s = .next (s.trapWith 0x16 0 0 0 0 0)) ∧
        (s.released = true → s.portFree = true → s.tile.ringName ≠ 0 → ∃ t : State, exec i s = .next t ∧ s.keeps t ∧ t.th.pc = s.th.pc ∧
          t.th.wait = .scall d none ∧ t.th.stalled = true ∧
          t.tile.inj = s.tile.inj ++ [⟨some s.tid, 14, .name s.tile.ringName, .call ⟨s.foc, s.tid, s.tile.hid, (s.gr b).setWidth 32, entry,
            len, as.map fun x => BitVec.ofNat 64 (Memory.readN s.mem (s.pa x) 8)⟩, .no⟩]))) ∧
    (s.th.wait = .scall d (some w) → w.toNat % 256 ≠ 255 → ∃ t : State, exec i s = .next t ∧ (d ≠ 0 → t.gr d = w) ∧
      (∀ q, q ≠ d → t.gr q = s.gr q) ∧ t.th.wait = .none ∧ t.th.pc = (s.th.next 3).pc ∧ t.mem = s.mem) ∧
    (s.th.wait = .scall d (some w) → w.toNat % 256 = 255 → ∃ t : State, exec i s = .next t ∧ t.th.state = .stop ∧
      t.th.record = some ⟨0, ⟨0x16, s.th.pc12, 0, 0, 0, 0, 0⟩, false⟩ ∧ t.th.pc = s.th.pc ∧ s.keeps t) ∧
    (∀ f, s.net.find? (fun f => f.atTile s.foc && (match f.msg with | .scallReply _ _ => true | _ => false)) = some f →
      f.msg = .scallReply s.tid w → s.th.wait = .scall d none → ∃ t : State, exec .scallReply s = .next t ∧ t.net = s.net.erase f ∧
        t.th.wait = .scall d (some w) ∧ t.th.stalled = false ∧ s.keeps t)

/-- R52, R252 to R262: every vector arithmetic, compare, conversion, reduction and permutation instruction enters the vector queue with
its operation, its scalar operands read at issue, when the queue has room, and else waits; those that round under mode 5 advance SRSEQ by
128, reductions between integer formats excepted. The model's choice (DEDUCED, log 59): a reduction under mode 5 waits for the thread's
earlier vector operations. -/
def Obligations.VectorArithmeticEntersItsQueue : Prop :=
  ∀ (s : State) (x : Option VX) (gd : Guard) (rm : Option RMode) (d a r : VReg) (m : MReg) (b : VSrc) (g : GReg) (part : BitVec 3)
    (fmt : Fmt) (xv : Bool),
    let md := vmodOf s x d
    let mc := vmodOf s x 0
    let y : VOpd := match b with | .v r => .v r | .g q => .s (s.gr q)
    let n := match x with | none => 1 | some _ => 3
    let gx : Guard := match x with | none => .none | some v => v.guard
    let top : Outc := { s.th.outc with tops := s.th.outc.tops + 1 }
    let full : State := s.stallEach 0x08
    let issues (i : Instr) (o : VecOp) (len adv : Nat) : Prop :=
      (s.engineRoom .vector = true → s.enters i .vector (.vec o) len false top adv) ∧
      (s.engineRoom .vector = false → exec i s = .next full)
    let rounds (u : RMode) : Nat := if u = .rsr then 128 else 0
    let int (i : Instr) (o : IntVOp) (y : VOpd) : Prop := issues i (.int o md d a y) n 0
    let cmp (i : Instr) (o : CmpVOp) : Prop := issues i (.cmp o mc m a y) n 0
    let fp (i : Instr) (o : FpVOp) (y : VOpd) : Prop := issues i (.fp o md d a y) n (rounds md.mode)
    let red (i : Instr) (o : RedVOp) : Prop :=
      let f := dFormat (s.th.vt a)
      (md.mode = .rsr → s.vecBusy = true → exec i s = .next s.stall) ∧
      (md.mode ≠ .rsr ∨ s.vecBusy = false →
        issues i (.red o md d a) n (if f.isInt = true ∧ (md.rfmt.getD f).isInt = true then 0 else rounds md.mode))
    let um := modeOf s rm
    (guardHolds gx s.th = true →
      (int (.vadd x d a b) .add y ∧ int (.vsub x d a b) .sub y ∧ int (.vadds x d a b) .adds y ∧ int (.vsubs x d a b) .subs y ∧
        int (.vmul x d a b) .mul y ∧ int (.vmulh x d a b) .mulh y ∧ int (.vmin x d a b) .min y ∧ int (.vmax x d a b) .max y ∧
        int (.vand x d a b) .and y ∧ int (.vor x d a b) .or y ∧ int (.vxor x d a b) .xor y ∧ int (.vsll x d a b) .sll y ∧
        int (.vsrl x d a b) .srl y ∧ int (.vsra x d a b) .sra y ∧ int (.vabs x d a) .abs (.v a)) ∧
      (cmp (.vcmpEq x m a b) .eq ∧ cmp (.vcmpNe x m a b) .ne ∧ cmp (.vcmpLt x m a b) .lt ∧ cmp (.vcmpLe x m a b) .le ∧
        cmp (.vfcmpEq x m a b) .feq ∧ cmp (.vfcmpLt x m a b) .flt ∧ cmp (.vfcmpLe x m a b) .fle ∧ cmp (.vfcmpUnord x m a b) .funord) ∧
      (fp (.vfadd x d a b) .fadd y ∧ fp (.vfsub x d a b) .fsub y ∧ fp (.vfmul x d a b) .fmul y ∧ fp (.vfdiv x d a b) .fdiv y ∧
        fp (.vfsqrt x d a) .fsqrt (.v a) ∧ fp (.vfmin x d a b) .fmin y ∧ fp (.vfmax x d a b) .fmax y ∧ fp (.vfneg x d a) .fneg (.v a) ∧
        fp (.vfabs x d a) .fabs (.v a) ∧ fp (.vfma x d a b) .fma y ∧ fp (.vfms x d a b) .fms y ∧ fp (.vfnma x d a b) .fnma y) ∧
      red (.vrsum x d a) .sum ∧ red (.vrmax x d a) .max ∧ red (.vrmin x d a) .min ∧
      issues (.vperm x d a r) (.perm .perm md d a r 0) n 0 ∧ issues (.vslup x d a g) (.perm .slup md d a 0 (s.gr g)) n 0 ∧
      issues (.vsldn x d a g) (.perm .sldn md d a 0 (s.gr g)) n 0 ∧ issues (.vrev x d a) (.perm .rev md d a 0 0) n 0) ∧
    (guardHolds gd s.th = true →
      issues (.vcvt gd rm d a part fmt) (.cvt um d a part fmt) 3 (rounds um) ∧
      issues (.vqnt gd rm d a xv fmt) (.qnt um d a xv fmt) 3 (rounds um) ∧
      issues (.vdqnt gd rm d a fmt) (.dqnt um d a fmt) 3 (rounds um))

/-- R263 to R275: vector loads and stores check their address and descriptor at issue; they, VRNG, VSRND, VDROP, VOPT and the moves and
mask operations then enter the vector queue with their g operands as read at issue. -/
def Obligations.VectorMemoryAndMovesEnterTheirQueue : Prop :=
  ∀ (s : State) (x : Option VMemX) (u : Option Guard) (o : Option (Guard × Option RMode)) (gd : Guard) (rm : Option RMode)
    (d e a' : VReg) (m m1 m2 : MReg) (a b : GReg) (c : RegLit) (ix : VIdx) (w : BitVec 6) (part : BitVec 3) (fmt : Fmt) (p : BitVec 32),
    let top : Outc := { s.th.outc with tops := s.th.outc.tops + 1 }
    let room := s.engineRoom .vector = true
    let enters (i : Instr) (o : VecOp) (n adv : Nat) : Prop := s.enters i .vector (.vec o) n false top adv
    let cv : Word := match c with | .reg r => s.gr r | .lit v => v
    let cl := match c with | .reg _ => 3 | .lit _ => 5
    let ea : Int := (s.gr a).toNat + (s.gr b).toNat + (match x with | some v => v.imm.toInt | none => 0)
    let dsc : Option Desc := (x.bind (·.dsc)).map fun r => (s.gr r).setWidth 32
    let zero := match x with | none => false | some v => v.zero
    let em : MReg := match x with | none => 0 | some v => v.e
    let xn := match x with | none => 1 | some _ => 3
    let un := match u with | none => 1 | some _ => 3
    let bn := match o with | none => 1 | some _ => 3
    let traps (i : Instr) (cause : BitVec 8) (f : Word) : Prop := exec i s = .next (s.trapWith cause f 0 0 0 0)
    let idx := match ix with | .reg r => (s.gr r).toNat | .imm k => k.toNat
    let rounds (v : RMode) (k : Nat) : Nat := if v = .rsr then k else 0
    let om := modeOf s (o.bind (·.2))
    let af := s.gr a
    (guardHolds ((x.map (·.guard)).getD .none) s.th = true →
      (ea < 0 ∨ 0xFFFFF < ea → traps (.vld x d a b) 0x04 (BitVec.ofInt 64 ea) ∧ traps (.vst x d a b) 0x04 (BitVec.ofInt 64 ea)) ∧
      (0 ≤ ea → ea ≤ 0xFFFFF → ea % 64 ≠ 0 →
        traps (.vld x d a b) 0x03 (BitVec.ofInt 64 ea) ∧ traps (.vst x d a b) 0x03 (BitVec.ofInt 64 ea)) ∧
      (0 ≤ ea → ea ≤ 0xFFFFF → ea % 64 = 0 →
        (s.linesReadable ea.toNat 1 = false → traps (.vld x d a b) 0x04 (BitVec.ofInt 64 ea)) ∧
        (s.linesWritable ea.toNat 1 = false → traps (.vst x d a b) 0x04 (BitVec.ofInt 64 ea)) ∧
        (∀ v, dsc = some v → dLegal v = false → (s.linesReadable ea.toNat 1 = true → traps (.vld x d a b) 0x0D 0) ∧
          (s.linesWritable ea.toNat 1 = true → traps (.vst x d a b) 0x0D 0)) ∧
        ((∀ v, dsc = some v → dLegal v = true) → room →
          (s.linesReadable ea.toNat 1 = true → enters (.vld x d a b) (.ld zero em d ea.toNat dsc) xn 0) ∧
          (s.linesWritable ea.toNat 1 = true → enters (.vst x d a b) (.st em d ea.toNat dsc) xn 0)))) ∧
    (guardHolds gd s.th = true → room →
      enters (.vrng gd d a b c) (.rng d (s.gr a) (s.gr b) cv) cl 0 ∧
      enters (.vsrnd gd d e a b c w part fmt) (.srnd d e (s.gr a) (s.gr b) cv w part fmt) cl 0 ∧
      enters (.vdrop gd rm d e a b c p) (.drop (modeOf s rm) d e (s.gr a) (s.gr b) cv p) cl 0 ∧
      enters (.vbcast gd d a fmt) (.bcast d (s.gr a) fmt) 3 0) ∧
    (guardHolds ((o.map (·.1)).getD .none) s.th = true → af.toNat % 64 = 0 → s.linesReadable af.toNat 1 = true → room →
      enters (.vopt o a) (.opt om af.toNat) bn (rounds om 256)) ∧
    (guardHolds (u.getD .none) s.th = true → room →
      enters (.vins u d a ix) (.ins d (s.gr a) idx) un 0 ∧
      (dLegal (af.setWidth 32) = true → enters (.vsett u d a) (.sett d (af.setWidth 32)) un 0) ∧
      enters (.vmov u d a') (.mov d a') un 0 ∧ enters (.mand u m m1 m2) (.mask .and m m1 m2 0) un 0 ∧
      enters (.mor u m m1 m2) (.mask .or m m1 m2 0) un 0 ∧ enters (.mxor u m m1 m2) (.mask .xor m m1 m2 0) un 0 ∧
      enters (.mandn u m m1 m2) (.mask .andn m m1 m2 0) un 0 ∧ enters (.mnot u m m1) (.mask .not m m1 m1 0) un 0 ∧
      enters (.mset u m a) (.mask .set m m m (s.gr a)) un 0) ∧
    (guardHolds (u.getD .none) s.th = true → dLegal (af.setWidth 32) = false → traps (.vsett u d a) 0x0D 0)

/-- R54, R275: VEXT, VTAG, MPOP and MGET wait until the thread's vector operations are complete, then write an element (sign-extended for
a signed integer format, 64-bit lanes without a valid tag; an E2M1 tag traps FORMAT_MISMATCH, R254), the tag, the number of set mask bits,
or the mask to gd. That VEXT traps so on an E2M1 tag is the model's choice (DEDUCED, log 29). -/
def Obligations.VectorValuesReturnToScalarRegisters : Prop :=
  ∀ (s : State) (u : Option Guard) (d : GReg) (a : VReg) (ix : VIdx) (m : MReg),
    let n := match u with | none => 1 | some _ => 3
    let idx := match ix with | .reg r => (s.gr r).toNat | .imm k => k.toNat
    let tag := s.th.vt a
    let f := dFormat tag
    let lanes := if dValid tag = true ∧ f.isNumeric = true then f.count else 8
    let w := 512 / lanes
    let x := ((s.th.vr a).toNat / 2 ^ (w * (idx % lanes))) % 2 ^ w
    let signed := dValid tag = true ∧ (f = .int8 ∨ f = .int16 ∨ f = .int32)
    let returns (i : Instr) (v : Word) : Prop :=
      (s.vecBusy = true → exec i s = .next (s.stallOn 0x03)) ∧
      (s.vecBusy = false → exec i s = .next ((s.setG d v).retire n))
    guardHolds (u.getD .none) s.th = true →
    (s.vecBusy = true → exec (.vext u d a ix) s = .next (s.stallOn 0x03)) ∧
    (s.vecBusy = false → dValid tag = true → f = .e2m1 → exec (.vext u d a ix) s = .next (s.trapWith 0x0D 0 0 0 0 0)) ∧
    (¬ (dValid tag = true ∧ f = .e2m1) → s.vecBusy = false → exec (.vext u d a ix) s = .next ((s.setG d (if signed then BitVec.ofInt 64 (BitVec.ofNat w x).toInt else BitVec.ofNat 64 x)).retire n)) ∧
    returns (.vtag u d a) (BitVec.ofNat 64 tag.toNat) ∧
    returns (.mpop u d m) (BitVec.ofNat 64 ((List.range 64).countP (s.th.mr m).getLsbD)) ∧ returns (.mget u d m) (s.th.mr m)

/-- R80, R247, R255, R274, R275: integer lanes take the operation's result modulo 2^width where the mask selects them, and keep their
value or become 0 elsewhere; VREV reverses, VBCAST fills, VMOV copies a register with its tag, and mask operations work bit by bit. -/
def Obligations.VectorElementsFollowTheirMasks : Prop :=
  ∀ (s : State) (q : QOp) (x : VMod) (d a b : VReg) (F : Fmt) (i : Nat) (ca cb : Bool) (m n k : MReg) (v : Word),
    let t := s.tile.th q.tid
    let w := F.width
    let e (l : Line) (j : Nat) : Nat := l.toNat / 2 ^ (w * j) % 2 ^ w
    let val (u : Nat) : Int := if F = .uint8 ∨ u < 2 ^ (w - 1) then u else (u : Int) - 2 ^ w
    let lo : Int := if F = .uint8 then 0 else -2 ^ (w - 1)
    let hi : Int := if F = .uint8 then 255 else 2 ^ (w - 1) - 1
    let sat (u : Int) : Int := max lo (min hi u)
    let X := e (t.vr a) i
    let Y := e (t.vr b) i
    let on := (t.mr x.e).getLsbD i
    let lane (l : Line) (r : Int) : Prop := (e l i : Int) = if on then r % 2 ^ w else if x.zero then 0 else (e (t.vr d) i : Int)
    let gives (o : IntVOp) (r : Int) : Prop := ∃ l, runVec s q (.int o x d a (.v b)) = .ok (0, [.v d l (plainTag F q.tcm)]) ∧ lane l r
    (F.isInt = true → i < F.count → t.vt a = plainTag F ca → t.vt b = plainTag F cb → x.rfmt = none →
      gives .add (val X + val Y) ∧ gives .sub (val X - val Y) ∧ gives .adds (sat (val X + val Y)) ∧ gives .subs (sat (val X - val Y)) ∧
      gives .mul (val X * val Y) ∧ gives .mulh (val X * val Y / 2 ^ w) ∧ gives .min (min (val X) (val Y)) ∧
      gives .max (max (val X) (val Y)) ∧ gives .and (X &&& Y : Nat) ∧ gives .or (X ||| Y : Nat) ∧ gives .xor (X ^^^ Y : Nat) ∧
      gives .sll (X * 2 ^ (Y % w) : Nat) ∧ gives .srl (X / 2 ^ (Y % w) : Nat) ∧ gives .sra (val X / 2 ^ (Y % w)) ∧
      gives .abs (sat (val X).natAbs) ∧
      (∃ l, runVec s q (.perm .rev x d a b 0) = .ok (0, [.v d l (plainTag F ca)]) ∧ lane l (e (t.vr a) (F.count - 1 - i))) ∧
      ∃ l, runVec s q (.bcast d v F) = .ok (0, [.v d l (plainTag F q.tcm)]) ∧ e l i = v.toNat % 2 ^ w) ∧
    runVec s q (.mov d a) = .ok (0, [.v d (t.vr a) (t.vt a)]) ∧
    (let bits (o : MaskVOp) (g : Bool → Bool → Bool) : Prop := ∃ r, runVec s q (.mask o m n k v) = .ok (0, [.m m r]) ∧
        ∀ j, j < 64 → r.getLsbD j = g ((t.mr n).getLsbD j) ((t.mr k).getLsbD j)
     bits .and (· && ·) ∧ bits .or (· || ·) ∧ bits .xor (· != ·) ∧ bits .andn (fun y z => y && !z) ∧ bits .not (fun y _ => !y)) ∧
    runVec s q (.mask .set m n k v) = .ok (0, [.m m v])

/-- R279 to R296, R316 to R323: every matrix, accumulator and spline instruction whose alignment, range, shape and tag checks hold enters
the matrix queue, or the copy engine's with its tag busy and counted in COPIES; the first check that fails traps MISALIGN, SRAM_BOUND,
MATRIX_SHAPE or TAG_INVALID. That ACST of RAW under mode 5 advances SRSEQ as other formats do is the model's choice (DEDUCED, log 59). -/
def Obligations.MatrixOperationsEnterTheirQueues : Prop :=
  ∀ (s : State) (gd : Guard) (x : StreamArgs) (tag : BitVec 6) (a b c : GReg) (p0 np1 : BitVec 7) (r0 n1 src : BitVec 6) (k0 nk1 : BitVec 4)
    (im : Bool) (cb fill : BitVec 2) (ini : BitVec 3) (sc : BitVec 8) (rm : Option RMode) (fmt : Fmt),
    let ga := s.gr a
    let top : Outc := { s.th.outc with tops := s.th.outc.tops + 1 }
    let cop : Outc := { s.th.outc with copies := s.th.outc.copies + 1 }
    let np := np1.toNat + 1
    let nr := n1.toNat + 1
    let xr := x.nr1.toNat + 1
    let xa := (s.gr x.a).toNat
    let aligned (r : GReg) : Prop := (s.gr r).toNat % 64 = 0
    let inside (r : GReg) : Prop := (s.gr r).toNat + 64 * x.stride.toNat * x.nr1.toNat < 0x10000
    let tagOk : Prop := s.tile.tagBusy tag = false
    let mat (i : Instr) (o : MatOp) : Prop := s.engineRoom .matrix = true → s.enters i .matrix (.mat o) 3 false top 0
    let copies (i : Instr) (e : Engine) (o : CopOp) (conf : Bool) (adv : Nat) : Prop := s.th.outc.copies < 16 → s.engineRoom e = true →
      s.enters i e (.cop o) 3 conf cop adv ∧
        ∀ t, exec i s = .next t → t.tile.busy.getLsbD tag.toNat = true ∧ t.tile.r.tags.getLsbD tag.toNat = false
    let traps (i : Instr) (cause : BitVec 8) (f : Word) : Prop := exec i s = .next (s.trapWith cause f 0 0 0 0)
    let m := modeOf s rm
    let bits := 16 * nr * acstWidth fmt
    (guardHolds gd s.th = true →
      (¬ aligned a → traps (.mldb gd a p0 np1) 0x03 ga ∧ traps (.mldbS gd a c p0 np1) 0x03 ga ∧ traps (.mstb gd tag a p0 np1) 0x03 ga) ∧
      (aligned a → 128 < p0.toNat + np → traps (.mldb gd a p0 np1) 0x19 0 ∧ traps (.mstb gd tag a p0 np1) 0x19 0) ∧
      (aligned a → p0.toNat + np ≤ 128 →
        mat (.mldb gd a p0 np1) (.ldb ga.toNat none p0.toNat np) ∧
        ((s.gr c).toNat % 32 = 0 → mat (.mldbS gd a c p0 np1) (.ldb ga.toNat (some (s.gr c).toNat) p0.toNat np)) ∧
        (tagOk → copies (.mstb gd tag a p0 np1) .copy (.stb tag ga.toNat p0.toNat np) false 0) ∧
        (¬ tagOk → traps (.mstb gd tag a p0 np1) 0x1A 0)) ∧
      ((∀ j, j < 4 → microOk (ga.extractLsb' (16 * j) 16) = true) → mat (.mprog gd a cb ini) (.prog ga cb ini)) ∧
      (r0.toNat + nr ≤ 64 → mat (.acz gd r0 n1 fill) (.acz r0.toNat nr fill) ∧
        (aligned a → s.linesReadable ga.toNat (2 * nr) = true → tagOk →
          copies (.acld gd tag a r0 n1) .copy (.acld tag ga.toNat r0.toNat nr) false 0) ∧
        (bits % 512 = 0 → aligned a → s.linesWritable ga.toNat (bits / 512) = true → tagOk →
          copies (.acst gd tag a r0 n1 sc im rm fmt) .copy (.acst tag ga.toNat r0.toNat nr sc im m fmt) false (if m = .rsr then 1024 else 0)) ∧
        (src.toNat + nr ≤ 64 → tagOk → copies (.acmv gd tag r0 src n1) .copy (.acmv tag r0.toNat src.toNat nr) true 0)) ∧
      (64 < r0.toNat + nr → traps (.acz gd r0 n1 fill) 0x19 0 ∧ traps (.acld gd tag a r0 n1) 0x19 0 ∧
        traps (.acst gd tag a r0 n1 sc im rm fmt) 0x19 0 ∧ traps (.acmv gd tag r0 src n1) 0x19 0) ∧
      (k0.toNat + nk1.toNat + 1 ≤ 16 → mat (.mrefine gd k0 nk1) (.refine k0.toNat (nk1.toNat + 1)) ∧
        (ga.toNat % 16 = 0 → ga.toNat + 16 * (nk1.toNat + 1) ≤ 0x10000 → (∀ w ∈ s.tile.r.pwin.toList, w.getLsbD 63 = false) →
          mat (.mknot gd a k0 nk1) (.knot ga.toNat k0.toNat (nk1.toNat + 1))))) ∧
    (guardHolds x.guard s.th = true →
      (¬ aligned x.a → traps (.mmac x im p0 np1) 0x03 (s.gr x.a) ∧ traps (.mmact x im p0 np1) 0x03 (s.gr x.a) ∧
        traps (.mrec x im p0) 0x03 (s.gr x.a) ∧ traps (.mspl x) 0x03 (s.gr x.a) ∧ traps (.mspld x c) 0x03 (s.gr x.a) ∧
        traps (.msgrad x im tag b c) 0x03 (s.gr x.a)) ∧
      (aligned x.a → inside x.a →
        (p0.toNat + np ≤ 128 → x.r0.toNat + xr ≤ 64 →
          mat (.mmac x im p0 np1) (.mac false im xa xr x.stride.toNat x.r0.toNat p0.toNat np)) ∧
        (p0.toNat + np ≤ 128 → x.r0.toNat + xr * np ≤ 64 →
          mat (.mmact x im p0 np1) (.mac true im xa xr x.stride.toNat x.r0.toNat p0.toNat np)) ∧
        (x.r0.toNat + xr ≤ 64 → mat (.mrec x im p0) (.mrec im xa xr x.stride.toNat x.r0.toNat p0.toNat) ∧
          mat (.mspl x) (.spl xa xr x.stride.toNat x.r0.toNat) ∧
          (aligned c → inside c → mat (.mspld x c) (.spld xa xr x.stride.toNat x.r0.toNat (s.gr c).toNat))) ∧
        (aligned c → inside c → aligned b → s.linesWritable (s.gr b).toNat 256 = true → tagOk →
          copies (.msgrad x im tag b c) .matrix
            (.msgrad im tag xa xr x.stride.toNat x.r0.toNat (s.gr b).toNat (s.gr c).toNat) false 0)))

/-- R337 to R352: tree instructions whose handle or edge reference names this tile enter the tree queue (TLEAF as a release, its register
pending), and else trap TREE_STATE; those that return a value wait in the queue with their PC at the instruction. The model's choices
(DEDUCED): TEXP checks its priors only when n is not 0 (log 63), and TLEAF, a release, waits for every answer and operation of the thread
(log 38). -/
def Obligations.TreeOperationsEnterTheirQueue : Prop :=
  ∀ (s : State) (gd : Guard) (d a b c e : GReg) (cls : NodeClass) (back flip clr : Bool) (sel : BitVec 2) (own : Nat),
    let h := (s.gr a).toNat % 2 ^ 32
    let top : Outc := { s.th.outc with tops := s.th.outc.tops + 1 }
    let A := s.gr a
    let B := s.gr b
    let C := s.gr c
    let E := s.gr e
    let enters (i : Instr) (o : TreeOp) (n : Nat) : Prop := s.engineRoom .tree = true → s.enters i .tree (.tree o) n false top 0
    let returns (i : Instr) (o : TreeOp) (n : Nat) : Prop :=
      s.engineRoom .tree = true → (∀ q ∈ s.tile.ops, q.tid = s.tid → q.returns = false) →
        ∃ (t : State), ∃ q, exec i s = .next t ∧ s.keeps t ∧ t.th.pc = s.th.pc ∧ t.th.stalled = true ∧ t.th.outc = top ∧
          t.tile.ops = s.tile.ops ++ [q] ∧ q.tid = s.tid ∧ q.eng = .tree ∧ q.op = .tree o ∧ q.words = n ∧ q.started = false
    let node (i : Instr) (k : Prop) : Prop :=
      (ownGranule own h = false → exec i s = .next (s.trapWith 0x12 0 (BitVec.ofNat 64 h) 1 0 0)) ∧ (ownGranule own h = true → k)
    let edge (i : Instr) (k : Prop) : Prop :=
      (A.toNat % 1024 = 0 → exec i s = .next (s.trapWith 0x12 0 (BitVec.ofNat 64 own) 1 0 0)) ∧ (A.toNat % 1024 ≠ 0 → k)
    s.ownHandle = some own →
    node (.tsel d a b) (returns (.tsel d a b) (.sel d A B) 1) ∧ node (.troot a b) (enters (.troot a b) (.root A B) 1) ∧
    edge (.tabort a b) (enters (.tabort a b) (.abort false A B) 1) ∧
    (guardHolds gd s.th = true →
      node (.tselXForm gd d a b) (returns (.tselXForm gd d a b) (.sel d A B) 3) ∧
      node (.trootXForm gd a b) (enters (.trootXForm gd a b) (.root A B) 3) ∧
      edge (.tabortXForm gd clr a b) (enters (.tabortXForm gd clr a b) (.abort clr A B) 3) ∧
      edge (.tnewLink gd a b c) (enters (.tnewLink gd a b c) (.link A B C) 3) ∧
      edge (.tback gd flip a b c) (enters (.tback gd flip a b c) (.back flip A B C) 3) ∧
      edge (.tfreeKeep gd a) (enters (.tfreeKeep gd a) (.free true A) 3) ∧
      node (.tfree gd a) (enters (.tfree gd a) (.free false A) 3) ∧
      node (.tfreeInit gd cls a) (enters (.tfreeInit gd cls a) (.init cls A) 3) ∧
      node (.tstat gd sel d a b) (returns (.tstat gd sel d a b) (.stat sel d A B) 3) ∧
      (h ≠ 0 → h ≠ pendMark → A.toNat < 2 ^ 36 → C.toNat < 256 → returns (.tnew gd cls d a b c) (.new cls d A B C) 3) ∧
      (h = pendMark → exec (.tnew gd cls d a b c) s = .next (s.trapWith 0x12 0 (BitVec.ofNat 64 h) 1 0 0)) ∧
      node (.texp gd back flip a b c e)
        ((C.extractLsb' 8 24 ≠ 0 → exec (.texp gd back flip a b c e) s = .next s.trapIllegal) ∧
          (C.extractLsb' 8 24 = 0 → C.extractLsb' 0 8 ≠ 0 →
            (B.toNat % 64 ≠ 0 → exec (.texp gd back flip a b c e) s = .next (s.trapWith 0x03 B 0 0 0 0)) ∧
            (B.toNat % 64 = 0 → s.linesReadable B.toNat 1 = false →
              exec (.texp gd back flip a b c e) s = .next (s.trapWith 0x04 B 0 0 0 0))) ∧
          (C.extractLsb' 8 24 = 0 → C.extractLsb' 0 8 = 0 ∨ B.toNat % 64 = 0 ∧ s.linesReadable B.toNat 1 = true →
            enters (.texp gd back flip a b c e) (.exp back flip A B C E) 3)) ∧
      node (.tleaf gd d a b c e)
        ((∀ x, deviceFault s.tile false 0 C.toNat 64 64 = some x → exec (.tleaf gd d a b c e) s = .next (s.trapWith x C 0 0 0 0)) ∧
          (deviceFault s.tile false 0 C.toNat 64 64 = none →
            (s.released = false → exec (.tleaf gd d a b c e) s = .next s.stall) ∧
            (s.released = true → enters (.tleaf gd d a b c e) (.leaf d A B C E) 3 ∧
              ∀ t, s.engineRoom .tree = true → exec (.tleaf gd d a b c e) s = .next t → d ≠ 0 → t.th.pending.getLsbD d.toNat = true))))

/-- No thread instruction, as it executes, changes a general or predicate register but its destinations; a vector register, tag or mask;
another thread of its tile, unless a copy of no lines ends its wait for a tag (R236); a cell, accumulator, constant, knot or privileged
register, but the token buckets that a message entering the port is charged to (R435); another tile, a port, a gallery, a hall; or a
field's registers and counts but for the cycles that its own field counts (R245). Control registers change by CSRW, CSRS and CSRC alone,
RSP and the return store by CALL, CALLR and RET too, FFLAGS by scalar floating point and by the floating-point atomics too (R176, R201,
R213, R219). -/
def Obligations.ThreadInstructionsWriteOnlyTheirDestinations : Prop :=
  ∀ (i : Instr) (s t : State), i.fetched = true → exec i s = .next t →
    (∀ q, q ∉ i.gWrites → t.gr q = s.gr q) ∧ (∀ q, q ∉ i.pWrites → t.pr q = s.pr q) ∧
    t.th.v = s.th.v ∧ t.th.vtag = s.th.vtag ∧ t.th.m = s.th.m ∧
    (∀ j, j ≠ s.tid → i.copies = false ∨ (s.tile.th j).state ≠ .wtag → t.tile.th j = s.tile.th j) ∧
    (∀ j, j ≠ s.tid → (t.tile.th j).g = (s.tile.th j).g ∧ (t.tile.th j).p = (s.tile.th j).p ∧ (t.tile.th j).v = (s.tile.th j).v) ∧
    (i.writesCsr = false → t.th.rmode = s.th.rmode ∧ t.th.tcm = s.th.tcm ∧ t.th.slim = s.th.slim ∧ t.th.rsbase = s.th.rsbase ∧
      t.th.rslim = s.th.rslim ∧ t.tile.r.treecfga = s.tile.r.treecfga ∧ t.tile.r.cellmode = s.tile.r.cellmode ∧
      t.tile.r.timer = s.tile.r.timer) ∧
    (i.writesCsr = false → i.usesRet = false → t.th.rsp = s.th.rsp) ∧ (i.usesRet = false → t.th.rstore = s.th.rstore) ∧
    (i.writesCsr = false → i.isFp = false → i.isFpAmo = false → t.th.fflags = s.th.fflags) ∧
    t.tile.acc = s.tile.acc ∧ t.tile.cst = s.tile.cst ∧ t.tile.knots = s.tile.knots ∧ t.tile.uprog = s.tile.uprog ∧
    t.tile.pr = { s.tile.pr with toke := t.tile.pr.toke, tokm := t.tile.pr.tokm } ∧
    (i.offers = false → t.tile.pr = s.tile.pr) ∧ t.tiles = s.tiles ∧ t.foc = s.foc ∧ t.tid = s.tid ∧ t.ports = s.ports ∧
    t.galleries = s.galleries ∧ t.boot = s.boot ∧ t.halls = s.halls ∧
    ∀ f, t.field f = { s.field f with lcyc := (t.field f).lcyc, phase := (t.field f).phase, cyclesRun := (t.field f).cyclesRun }

/-- R104: as it executes, a thread instruction changes no byte of memory outside its own tile's data SRAM, and one that is no store, spill
or record operation changes none at all; a record that joins the overflow chain also links its last record to it (R47). -/
def Obligations.ThreadInstructionsStoreOnlyToTheirDataSram : Prop :=
  ∀ (i : Instr) (s t : State), i.fetched = true → exec i s = .next t →
    (i.storesHere = false → t.mem = s.mem) ∧
    (Memory.wf s.mem = true → ∀ k, k < s.pa 0 ∨ s.pa 0x10000 ≤ k → (∀ b ∈ s.tile.chain, k < s.pa b ∨ s.pa b + 8 ≤ k) →
      Memory.read t.mem k = Memory.read s.mem k)

/-- R52, R53, R54, R91, R143, R232: an engine takes its next operation and reads its sources as their home has them; with every earlier
operation of the thread confirmed it raises its flags, or traps with the checkpoint restored and the later operations discarded; a
confirmed operation writes its results and leaves its counter and tag; one that returns a value retires its instruction; a local copy
moves its next line with its descriptor, or stops at one whose descriptor is not legal (R82). The model's choices (DEDUCED): sources are
read at the start and results written at the completion (log 8), and a descriptor that the copy gives, or that is poisoned, is carried as
it is (log 31). -/
def Obligations.EnginesRunTheirOperations : Prop :=
  ∀ (s : State) (e : Engine) (q : QOp) (fl : Flags) (effs : List Eff) (f : Fail) (i : TrapInfo) (c : CopyRec) (dst src : Nat),
    let opsWith (g : QOp → QOp) : List QOp := s.tile.ops.map fun o => if o.seq = q.seq then g o else o
    let rr := s.tile.rr.set (engIdx e) (q.tid + 1)
    let h := s.tile.th q.tid
    let others (t : State) : Prop := ∀ j, j ≠ q.tid → t.tile.th j = s.tile.th j
    let precise (t : State) (x : TrapInfo) : Prop := t.mem = s.mem ∧ others t ∧ (t.tile.th q.tid).state = .stop ∧
      (t.tile.th q.tid).record = some ⟨0, x, false⟩ ∧ (t.tile.th q.tid).g = q.ck.g ∧ (t.tile.th q.tid).p = q.ck.p ∧
      (t.tile.th q.tid).pc = q.ck.pc.setWidth 13 ∧ (t.tile.th q.tid).fflags = q.ck.fflags ∧ (t.tile.th q.tid).srseq = q.ck.srseq ∧
      (t.tile.th q.tid).v = h.v ∧ ∀ o ∈ t.tile.ops, o ∈ s.tile.ops ∧ ¬ (o.tid = q.tid ∧ q.seq ≤ o.seq)
    let started (o : List QOp) (k : List CopyRec) : State := { s with tile := { s.tile with rr := rr, ops := o, copies := k } }
    -- start
    (s.tile.pickOp e = some q →
      (q.op = .cop (.copy c) → exec (.engineStart e) s = .next
        (started (s.tile.ops.filter (·.seq != q.seq)) (s.tile.copies ++ [c]))) ∧
      (runOp (s.settled s.foc) q = some (.ok (fl, effs)) → exec (.engineStart e) s = .next
        (started (opsWith fun o => { o with started := true, result := some (.ok fl effs) }) s.tile.copies)) ∧
      (runOp (s.settled s.foc) q = some (.error f) → f.mark = none → exec (.engineStart e) s = .next
        (started (opsWith fun o => { o with started := true, result := some (.trap ⟨f.cause, q.ipc, f.faddr, f.op0, f.op1, 0, 0⟩) }) s.tile.copies))) ∧
    -- confirmation
    (s.tile.confirmable e = some q →
      (q.result = some (.ok fl effs) → flagTraps h.fflags fl = false → ∃ t : State, exec (.engineConfirmation e) s = .next t ∧ t.mem = s.mem ∧
        others t ∧ t.tile.th q.tid = { h with fflags := h.fflags ||| fl.zeroExtend 64 } ∧
        t.tile.ops.map (fun o => (o.seq, o.confirmed)) = s.tile.ops.map fun o => (o.seq, decide (o.seq = q.seq) || o.confirmed)) ∧
      (q.result = some (.ok fl effs) → flagTraps h.fflags fl = true → ∃ t : State, exec (.engineConfirmation e) s = .next t ∧
        precise t ⟨0x14, q.ipc, 0, fl.zeroExtend 64, 0, 0, 0⟩) ∧
      (q.result = some (.trap i) → ∃ t : State, exec (.engineConfirmation e) s = .next t ∧ precise t i)) ∧
    -- completion
    (s.tile.ops.find? (fun o => o.eng == e && o.started && o.confirmed) = some q → q.result = some (.ok fl effs) →
      ∃ t : State, exec (.engineCompletion e) s = .next t ∧ (∀ o ∈ t.tile.ops, o.seq ≠ q.seq) ∧
        (∀ d w, effs = [.g d w] → d ≠ 0 → (t.tile.th q.tid).gr d = w) ∧
        (∀ r l x, effs = [.v r l x] → (t.tile.th q.tid).vr r = l ∧ (t.tile.th q.tid).vt r = x) ∧
        (∀ r w, effs = [.m r w] → r ≠ 0 → (t.tile.th q.tid).mr r = w) ∧
        (∀ k w, effs = [.acc k w] → Tab.wf accBlank s.tile.acc = true → Tab.get accBlank t.tile.acc k = w) ∧
        (∀ r w n, effs = [.ret r w n] → h.stepping = false → (t.tile.th q.tid).pc = (h.next n).pc ∧ (r ≠ 0 → (t.tile.th q.tid).gr r = w)) ∧
        (∀ k l x, effs = [.line k l x] → s.tile.wqHolds k = false → Memory.wf s.mem = true → Tab.wf descBlank s.desc = true →
          t.loadLine (s.pa k) = l ∧ t.descAt (s.pa k) = x) ∧
        (effs = [] → (t.tile.th q.tid).g = h.g ∧ t.mem = s.mem ∧
          match q.op with
          | .cop k => (t.tile.th q.tid).outc = { h.outc with copies := h.outc.copies - 1 } ∧
              t.tile.busy.getLsbD k.tag.toNat = false ∧ t.tile.r.tags.getLsbD k.tag.toNat = true
          | _ => (t.tile.th q.tid).outc = { h.outc with tops := h.outc.tops - 1 })) ∧
    -- the next line of a copy
    (let from_ := src + 64 * c.next
     let into := s.tile.copyDst c dst c.next
     let d := s.descAt (s.pa from_)
     let half := some (c.pwin.getD s.tile.r.pwin)
     s.tile.ops.find? (fun o => o.eng == .copy && o.started && o.confirmed) = none → s.tile.copyReady = some c →
     c.kind = .loc dst src → 0x30000 ≤ src → Memory.wf s.mem = true → Tab.wf descBlank s.desc = true →
     s.isBad (s.pa from_) 64 = false → s.tile.wqHolds from_ = false → s.tile.wqHolds into = false →
     (c.dsc.isSome = true ∨ dPoison d = true ∨ dLegal d = true → ∃ t : State, exec (.engineCompletion .copy) s = .next t ∧
       t.loadLine (s.pa into) = s.loadLine (s.pa from_) ∧ t.descAt (s.pa into) = c.dsc.getD d ∧
       t.tile.copies = s.tile.copies.map fun x =>
         if x.id = c.id then { x with next := c.next + 1, complete := c.next + 1, pwin := half } else x) ∧
     (c.dsc = none → dPoison d = false → dLegal d = false → ∃ t : State, exec (.engineCompletion .copy) s = .next t ∧
       (∀ k < 0x40000, Memory.read t.mem (s.pa k) = Memory.read s.mem (s.pa k)) ∧
       t.tile.copies = s.tile.copies.map fun x => if x.id = c.id then { x with failed := true, pwin := half } else x))

/-- R300 to R305: MGANG checks its shape and enters the matrix queue; as it starts, its join goes to the origin, which keeps each until
every member's is there; members whose values differ abort the gang; a member's result waits for every report and is then committed; a
member that is missing 65,536 ticks after the origin's own join, or an abort, ends it. That joins and aborts name operations, that the
timeout is the origin's, and that a gang without the origin's join counts from the oldest join that has come, is the model's choice
(DEDUCED and DESIGN CHOICE, log 61). -/
def Obligations.GangsJoinAndCommitOrAbort : Prop :=
  ∀ (s : State) (gd : Guard) (acc im : Bool) (st : BitVec 10) (a b c : GReg) (p0 np1 : BitVec 7) (r0 : BitVec 6) (f : Flight) (i : Tid)
    (k : Nat) (o : GangOp) (q : QOp) (own j : Join) (fl : Flags) (effs : List Eff) (cause : BitVec 8) (who : Coord),
    let g : GangOp := ⟨false, acc, im, st.toNat, s.gr a, p0.toNat, np1.toNat + 1, r0.toNat, s.gr b, s.gr c⟩
    let top : Outc := { s.th.outc with tops := s.th.outc.tops + 1 }
    let ms := o.members s.hallOrigin
    let origin := o.member s.hallOrigin 0 0
    let gang (t : State) (x : Coord) : GangSt := (t.tileAt x).gang
    let resultOf (t : Tile) (r : Result) : Prop := ∀ x ∈ t.ops, x.seq = q.seq → x.result = some r
    let aborted (t : State) (z : Coord) (x : BitVec 8) (y : Coord) : Prop :=
      ∃ m ∈ t.net, ∃ n, m.dest = .tile z ∧ m.vc = 12 ∧ m.msg = .gangAbort x y n
    let cleared (t : State) (at_ : Coord) (zs : List Coord) : Prop :=
      (∀ x ∈ (gang t at_).joins, x.c ∉ zs) ∧ ∀ x ∈ (gang t at_).dones, x.1 ∉ zs
    let reported (x : Coord) : Prop := ∃ y, s.joinOf origin x = some y ∧ (x, y.seq) ∈ (gang s origin).dones
    let mine := own.op.members s.hallOrigin
    -- issue, and the start in the engine
    (guardHolds gd s.th = true →
      (s.gangShape g = false → exec (.mgang gd acc im st a b c p0 np1 r0) s = .next (s.trapWith 0x19 0 0 0 0 0)) ∧
      (s.gangShape g = true → s.engineRoom .matrix = true →
        s.enters (.mgang gd acc im st a b c p0 np1 r0) .matrix (.mat (.gang g)) 3 false top 0)) ∧
    (s.tile.pickOp .matrix = some q → q.op = .mat (.gang o) → ∃ t : State, ∃ m, exec (.engineStart .matrix) s = .next t ∧ t.mem = s.mem ∧
      t.tile.threads = s.tile.threads ∧ t.net = s.net ++ [m] ∧ m.dest = .tile origin ∧ m.vc = 12 ∧
      m.msg = .gangJoin q.tid q.seq { o with weights := s.tile.cellMode == 0 } ∧ ∀ x ∈ t.tile.ops, x.seq = q.seq → x.started = true) ∧
    -- joins
    (s.net.find? (fun f => f.atTile s.foc && f.msg.isJoin) = some f → f.msg = .gangJoin i k o →
      let js := s.tile.gang.joins.filter (fun j => j.c != f.src) ++ [⟨f.src, i, k, o, s.wtime + s.tile.lag⟩]
      let kept : State := { s with net := s.net.erase f, tile := { s.tile with gang := { s.tile.gang with joins := js } } }
      (kept.joinOf s.foc s.foc = none → exec .gangJoin s = .next kept) ∧
      (kept.joinOf s.foc s.foc = some own →
        ((∃ m ∈ mine, kept.joinOf s.foc m = none) → exec .gangJoin s = .next kept) ∧
        ((∀ m ∈ mine, (kept.joinOf s.foc m).isSome = true) →
          (mine.filterMap (kept.joinOf s.foc)).find? (fun j => !j.op.sameGang own.op) = some j →
          ∃ t : State, exec .gangJoin s = .next t ∧ t.mem = s.mem ∧ (∀ x ∈ mine, aborted t x 0x19 j.c) ∧ cleared t s.foc mine))) ∧
    -- reports
    (s.tile.gangOp = some (q, o) → q.result = some (.ok fl effs) → s.tile.gang.committed = false →
      (s.foc, q.seq) ∉ (gang s origin).dones → (s.joinOf origin s.foc).isSome = true →
      (flagTraps (s.tile.th q.tid).fflags fl = true → ∃ t : State, exec .gangDone s = .next t ∧ t.mem = s.mem ∧
        resultOf t.tile (.trap ⟨0x14, q.ipc, 0, fl.zeroExtend 64, 0, 0, 0⟩) ∧ cleared t origin ms ∧
        ∀ x ∈ ms, x ≠ s.foc → (s.joinOf origin x).isSome = true → aborted t x 0x14 s.foc) ∧
      (flagTraps (s.tile.th q.tid).fflags fl = false → ∃ t : State, exec .gangDone s = .next t ∧ t.mem = s.mem ∧ t.net = s.net ∧
        ((∃ x ∈ ms, x ≠ s.foc ∧ ¬ reported x) → (gang t origin).dones = (gang s origin).dones ++ [(s.foc, q.seq)]) ∧
        ((∀ x ∈ ms, x ≠ s.foc → reported x) → (∀ x ∈ ms, (gang t x).committed = true) ∧ cleared t origin ms))) ∧
    -- the timeout
    (s.tile.gang.joins.find? (fun j => j.c == s.foc) = some own → mine.find? (fun c => (s.joinOf s.foc c).isNone) = some who →
      (65536 ≤ (s.wtime + s.tile.lag - own.tick).toNat → ∃ t : State, exec .gangTimeout s = .next t ∧ t.mem = s.mem ∧
        (∀ x ∈ mine, (s.joinOf s.foc x).isSome = true → aborted t x 0 who) ∧ cleared t s.foc mine) ∧
      ((s.wtime + s.tile.lag - own.tick).toNat < 65536 → exec .gangTimeout s = .next s)) ∧
    (∀ js, s.tile.gang.joins.find? (fun j => j.c == s.foc) = none → s.tile.gang.joins = j :: js →
      (j.op.members s.hallOrigin).find? (fun c => (s.joinOf s.foc c).isNone) = some who →
      (65536 ≤ (s.wtime + s.tile.lag - j.tick).toNat → ∃ t : State, exec .gangTimeout s = .next t ∧ t.mem = s.mem ∧
        (∀ x ∈ j.op.members s.hallOrigin, (s.joinOf s.foc x).isSome = true → aborted t x 0 who) ∧
        cleared t s.foc (j.op.members s.hallOrigin)) ∧
      ((s.wtime + s.tile.lag - j.tick).toNat < 65536 → exec .gangTimeout s = .next s)) ∧
    -- an abort
    (s.net.find? (fun f => f.atTile s.foc && f.msg.isGangAbort) = some f → f.msg = .gangAbort cause who k →
      (s.tile.gangOp = some (q, o) → s.tile.gang.committed = false → s.inGang s.foc k = true → ∃ t : State,
        exec .gangAbort s = .next t ∧ t.net = s.net.erase f ∧ t.mem = s.mem ∧
        (who ≠ s.foc → resultOf t.tile (.trap ⟨0x1B, q.ipc, 0, BitVec.ofNat 64 ((who.y - s.hallOrigin.y) * 2 ^ 11 + (who.x - s.hallOrigin.x)),
          cause.zeroExtend 64, 0, 0⟩)) ∧
        (who = s.foc → resultOf t.tile (.trap ⟨cause, q.ipc, 0, 0, 0, 0, 0⟩))) ∧
      (s.inGang s.foc k = false → exec .gangAbort s = .next { s with net := s.net.erase f }))

/-- R47, R82, R117, R152, R153, R219, R346, R382, R474: the inbound port takes the next write into the write queue and acknowledges there
a store or an atomic that returns nothing; refuses what R117 forbids; holds off what finds the queue full or a local operation before it;
a remote read answers the bytes as the home has them, unless their line is damaged; the oldest entry is read and then written back with
its merged operations in arrival order. A refused or answered request's answer goes to its requester on VC9. What a remote read finds
beside the write queue, and when an atomic is acknowledged, is the model's choice (DEDUCED, log 67). -/
def Obligations.TheInboundPortServesRequests : Prop :=
  ∀ (s : State) (f : Flight) (r : Req) (e : WEntry) (rest : List WEntry) (addr : Word) (d n : Nat) (v x y : Word) (op : AmoOp) (who : Who),
    let a := (r.off.extractLsb' 0 20).toNat
    let queued (k : Nat) (o : WOp) (t : State) : Prop := t.mem = s.mem ∧ t.tile.wq = wqMerge s.tile.wq (k / 64) o ∧ t.tile.threads = s.tile.threads
    let kept (t : State) : Prop := t.mem = s.mem ∧ t.tile.wq = s.tile.wq ∧ t.tile.threads = s.tile.threads
    let answered (v : AnsVal) (fl : Flags) (t : State) : Prop := ∃ z : Flight, t.net = s.net.erase f ++ [z] ∧ z.dest = .tile r.who.src ∧ z.vc = 9 ∧
      z.msg = .ans ⟨r.who, v, fl⟩
    let waits (t : State) : Prop := kept t ∧ t.net = s.net
    let room (k : Nat) : Bool := s.tile.wqFree k && !s.localFirst f.stamp
    let stores : Prop := a + n ≤ 0x10000 ∧ 0 < n ∧ a % n = 0 ∧ s.tile.inEntries a n = false ∧ s.tile.window_ (a / 64) = .out
    let asks : Prop := s.portHead = some f ∧ f.msg = .req r ∧ r.who.agent = none ∧ s.copyOf r.who = none
    let counts : Prop := s.portHead = some f ∧ f.msg = .decr addr d ∧ f.misnamed s.tile = false ∧ s.tile.foreign f.hall f.sys = false
    -- acceptance
    (asks → s.tile.foreign r.hall r.sys = false → r.kind = .store n v → stores → room a = true →
      ∃ t, exec .writeQueueAccept s = .next t ∧ queued a (.store a n v) t ∧ answered .ack 0 t) ∧
    (asks → s.tile.foreign r.hall r.sys = false → r.kind = .store n v → stores → room a = false →
      ∃ t, exec .writeQueueAccept s = .next t ∧ waits t) ∧
    (asks → s.tile.foreign r.hall r.sys = false → r.kind = .store n v → ¬ stores →
      ∃ t, exec .writeQueueAccept s = .next t ∧ kept t ∧ answered (.refuse 0x04) 0 t) ∧
    (asks → s.tile.foreign r.hall r.sys = false → r.kind = .amo op n x y true → stores → room a = true →
      ∃ t, exec .writeQueueAccept s = .next t ∧ queued a (.amo op a n x y true r.who false) t ∧ t.net = s.net.erase f) ∧
    (asks → s.tile.foreign r.hall r.sys = false → r.kind = .amo op n x y false → stores → room a = true → s.tile.wqHolds a = false →
      s.damaged (s.pa a) n = false → ∃ t, exec .writeQueueAccept s = .next t ∧ queued a (.amo op a n x y false r.who false) t ∧
        answered .ack (amoApply op n (s.load (s.pa a) n) x y).2 t) ∧
    (asks → s.tile.foreign r.hall r.sys = true → r.kind.writes = true →
      ∃ t, exec .writeQueueAccept s = .next t ∧ t.mem = s.mem ∧ t.tile.wq = s.tile.wq ∧ answered (.refuse 0x05) 0 t) ∧
    (counts → room addr.toNat = true → exec .writeQueueAccept s = .next { s with net := s.net.erase f, tile :=
      { s.tile with wq := wqMerge s.tile.wq (addr.toNat / 64) (.decr addr d f.hall f.sys) } }) ∧
    (counts → room addr.toNat = false → ∃ t, exec .writeQueueAccept s = .next t ∧ waits t) ∧
    -- reads
    (asks → s.tile.foreign r.hall r.sys = false → r.kind = .load n →
      (s.tile.remoteRead a n = none → ∃ t, exec .remoteRead s = .next t ∧ kept t ∧ answered (.refuse 0x04) 0 t) ∧
      ∀ b, s.tile.remoteRead a n = some b →
        ((s.seen s.foc b).damaged (s.pa b) n = false → ∃ t, exec .remoteRead s = .next t ∧ kept t ∧
          answered (.value (BitVec.ofNat 64 (Memory.readN (s.seen s.foc b).mem (s.pa b) n))) 0 t) ∧
        ((s.seen s.foc b).damaged (s.pa b) n = true → ∃ t, exec .remoteRead s = .next t ∧ kept t ∧ answered (.refuse 0x0E) 0 t) ∧
        (s.tile.wqHolds b = false → s.seen s.foc b = s)) ∧
    -- write-back
    (s.tile.wq = e :: rest →
      (e.wasRead = false → exec .writeQueueWriteBack s = .next { s with tile := { s.tile with wq := { e with wasRead := true } :: rest } }) ∧
      (e.wasRead = true →
        (∀ k, e.ops = [.store k n v] → s.isBad (s.pa k) n = false → ∃ t : State, exec .writeQueueWriteBack s = .next t ∧ t.tile.wq = rest ∧
          t.mem = Memory.writeN s.mem (s.pa k) n v.toNat ∧ t.net = s.net ∧ t.tile.threads = s.tile.threads) ∧
        (∀ k ret, e.ops = [.amo op k n x y ret who false] → who.agent = none → s.damaged (s.pa k) n = false →
          let m : Word := BitVec.ofNat 64 (Memory.readN s.mem (s.pa k) n)
          ∃ t : State, exec .writeQueueWriteBack s = .next t ∧ t.tile.wq = rest ∧
            t.mem = Memory.writeN s.mem (s.pa k) n (amoApply op n m x y).1.toNat ∧
            (ret = false → t.net = s.net) ∧
            (ret = true → ∃ z : Flight, t.net = s.net ++ [z] ∧ z.dest = .tile who.src ∧ z.msg = .ans ⟨who, .value m, (amoApply op n m x y).2⟩)) ∧
        (∀ h y, e.ops = [.decr addr d h y] →
          exec .writeQueueWriteBack s = .next (({ s with tile := { s.tile with wq := rest } } : State).decrement s.foc addr d))))

/-- R154, R215, R217, R222: an answer writes its value, lowers its counter and is forgotten; a refusal is described once and counted after
that; a WAITV whose thread still waits is armed while its word holds the expected value and a monitor is free, and is woken by a write or
its deadline; a deferred fault traps the thread at its boundary. -/
def Obligations.AnswersEndOutstandingRequests : Prop :=
  ∀ (s : State) (f : Flight) (a : Ans) (p : Pend) (d : GReg) (sz : BitVec 3) (w x : Word) (cause : BitVec 8) (r : Req) (rest : List Req)
    (n port : Nat) (tmo : Option Word) (m : Monitor) (i : TrapInfo),
    let h := s.tile.th a.who.tid
    let gone := h.pends.filter (·.id != p.id)
    let arrives (g : State → Prop) : Prop := ∃ t : State, exec .answerArrival s = .next t ∧ t.net = s.net.erase f ∧ t.mem = s.mem ∧
      (∀ j, j ≠ a.who.tid → t.tile.th j = s.tile.th j) ∧ g t
    let tells (c : Coord) (v : Word) (t : State) : Prop := ∃ z : Flight, t.net = s.net ++ [z] ∧ z.dest = .tile c ∧ z.msg = .ans ⟨m.who, .value v, 0⟩
    -- answers
    (s.net.find? (fun f => f.atTile s.foc && (match f.msg with | .ans _ => true | _ => false)) = some f → f.msg = .ans a →
      a.who.src = s.foc → a.flags = 0 → h.pends.find? (·.id == a.who.id) = some p → h.state = .run →
      (a.val = .value w → p.kind = .load d sz → arrives fun t =>
        (t.tile.th a.who.tid).pends = gone ∧ (t.tile.th a.who.tid).outc = { h.outc with loads := h.outc.loads - 1 } ∧
        (d ≠ 0 → (t.tile.th a.who.tid).gr d = extend sz w) ∧ (∀ q, q ≠ d → (t.tile.th a.who.tid).gr q = h.gr q) ∧
        (t.tile.th a.who.tid).pending.getLsbD d.toNat = false ∧ (t.tile.th a.who.tid).pc = h.pc) ∧
      (a.val = .ack → p.kind = .store → arrives fun t =>
        t.tile.th a.who.tid = { h with pends := gone, outc := { h.outc with stores := h.outc.stores - 1 } }) ∧
      (a.val = .held → (∀ b c e, p.kind ≠ .copy b c e) → p.kind ≠ .waitv d → arrives fun t => (t.tile.th a.who.tid).g = h.g ∧
        ∀ q ∈ (t.tile.th a.who.tid).pends, q.id = p.id → q.held = true) ∧
      (a.val = .refuse cause → p.kind = .store → h.record = none → arrives fun t =>
        let u := t.tile.th a.who.tid
        u.g = h.g ∧ u.pends = gone ∧ u.outc = { h.outc with stores := h.outc.stores - 1 } ∧
        (h.deferred = none → u.deferred = some ⟨cause, 0, p.off, p.space.zeroExtend 64, p.ipc.zeroExtend 64, 1, 0⟩ ∧ u.further = 0) ∧
        (h.deferred.isSome = true → u.deferred = h.deferred ∧ u.further = min 255 (h.further + 1)))) ∧
    -- WAITV at its home tile and at a port
    (s.tile.arms = r :: rest → r.kind = .waitv n x tmo →
      let b := s.tile.wordAt r.off.toNat
      s.tile.wqHolds b = false →
      (s.stillWaits r.who = false → exec (.waitvArm none) s = .next { s with tile := { s.tile with arms := rest } }) ∧
      (s.stillWaits r.who = true → s.damaged (s.pa b) n = false → BitVec.ofNat 64 (Memory.readN s.mem (s.pa b) n) = x →
        s.tile.monitors.length < 16 →
        exec (.waitvArm none) s = .next { s with tile := { s.tile with
                                                            arms := rest
                                                            monitors := s.tile.monitors ++ [⟨r.off.toNat, n, r.who,
                                                              tmo.map fun w => (s.wtime + s.tile.lag).toNat + w.toNat, none⟩] } })) ∧
    ((s.port port).firstArm = some r → r.kind = .waitv n x tmo → s.stillWaits r.who = true → s.damaged r.pa n = false →
      BitVec.ofNat 64 (Memory.readN s.mem r.pa n) = x → (s.port port).monitors.length < 1024 →
      ∃ t : State, exec (.waitvArm (some port)) s = .next t ∧ t.net = s.net ∧ t.mem = s.mem ∧ t.tile = s.tile ∧
        (t.port port).monitors = (s.port port).monitors ++ [⟨r.pa, n, r.who, tmo.map fun w => s.wtime.toNat + w.toNat, none⟩] ∧
        (t.port port).devOps = (s.port port).devOps.erase r) ∧
    (m.who.agent = none → m.who.src ≠ s.foc →
      (s.tile.monitors.findSome? (fun m => m.hit.map fun v => (m, v)) = some (m, w) →
        ∃ t : State, exec (.waitvWake none) s = .next t ∧ t.tile.monitors = s.tile.monitors.erase m ∧ t.mem = s.mem ∧ tells m.who.src w t) ∧
      (s.tile.monitors.find? (fun m => m.hit.isNone && (match m.deadline with
          | some d => decide (d ≤ (s.wtime + s.tile.lag).toNat)
          | none => false) && !s.tile.wqHolds (s.tile.wordAt m.addr)) = some m →
        ∃ t : State, exec (.waitvTimeout none) s = .next t ∧ t.tile.monitors = s.tile.monitors.erase m ∧ t.mem = s.mem ∧
          tells m.who.src (BitVec.ofNat 64 (Memory.readN s.mem (s.pa (s.tile.wordAt m.addr)) m.n)) t)) ∧
    (m.who.agent = none →
      ((s.port port).monitors.findSome? (fun m => m.hit.map fun v => (m, v)) = some (m, w) →
        ∃ t : State, exec (.waitvWake (some port)) s = .next t ∧ (t.port port).monitors = (s.port port).monitors.erase m ∧ t.mem = s.mem ∧
          tells m.who.src w t) ∧
      ((s.port port).monitors.find? (fun m => m.hit.isNone && (match m.deadline with
          | some d => decide (d ≤ s.wtime.toNat)
          | none => false)) = some m →
        ∃ t : State, exec (.waitvTimeout (some port)) s = .next t ∧ (t.port port).monitors = (s.port port).monitors.erase m ∧ t.mem = s.mem ∧
          tells m.who.src (BitVec.ofNat 64 (Memory.readN s.mem m.addr m.n)) t)) ∧
    -- the deferred fault
    (s.th.deferred = some i → s.th.state = .run → s.th.wait = .none → s.tile.holding s.tid = false →
      ∃ t : State, exec .deferredFault s = .next t ∧ t.th.state = .stop ∧ t.th.deferred = none ∧ t.th.pc = s.th.pc ∧ t.th.g = s.th.g ∧
        t.mem = s.mem ∧ t.th.record = some ⟨0, { i with pc := s.th.pc12 }, true⟩ ∧ ∀ j, j ≠ s.tid → t.tile.th j = s.tile.th j)

/-- R164, R386, R388: a thread's record goes to its steward's trap receiver once the thread's stores and atomics are performed, with the
records lost since the last one, as a named packet, once the port accepts VC14; a report that no thread issued goes when no thread's
record is ready. -/
def Obligations.RecordsAndReportsAreSent : Prop :=
  ∀ (s : State) (r : RecordOut) (g : Option Nat) (ws : List Word) (rest : List (Option Nat × List Word)),
    let sent (t : State) (k : Nat) (xs : List Word) : Prop := ∃ z q, t.net = s.net ++ [z] ∧ z.dest = .gallery k ∧ z.vc = 14 ∧
      z.name = some (BitVec.ofNat 32 (0xFF000001 + 0x10000 * k)) ∧ z.msg = .record ⟨xs, q⟩
    let lost : BitVec 9 := BitVec.ofNat 9 (min s.tile.lost 511)
    let takes : Prop := s.inputFree s.foc 14 = true
    let head (kind : BitVec 2) (cause : BitVec 8) (pc : BitVec 12) (tid : BitVec 2) (entry : BitVec 16) : Word :=
      lost ++ BitVec.ofBool s.tile.sys ++ s.tile.hid ++ entry ++ (0 : BitVec 4) ++ pc ++ (0 : BitVec 4) ++ kind ++ tid ++ cause
    let place : Word := BitVec.ofNat 64 (s.tile.prow * 2 ^ 32 + fieldOf s.foc * 2 ^ 22 + s.foc.x * 2 ^ 11 + s.foc.y)
    let quiet : Prop := ∀ i : Tid, ∀ x, (s.tile.th i).record = some x → (s.tile.th i).recordReady x = false
    (s.th.record = some r → r.deferred = false →
      r.kind ≠ 0 ∨ (s.th.outc.stores = 0 ∧ ∀ p ∈ s.th.pends, (∀ d b, p.kind ≠ .amo d b) ∨ p.held = true) → takes →
      ∃ t : State, exec .trapRecord s = .next t ∧ t.th.record = none ∧ t.th.state = s.th.state ∧ t.th.pc = s.th.pc ∧ t.mem = s.mem ∧
        t.tile.lost = 0 ∧ sent t (s.tile.pr.trapdest.extractLsb' 16 8).toNat
          [head r.kind r.info.cause r.info.pc (BitVec.ofNat 2 s.tid.val) (s.th.entry.setWidth 16), r.info.faddr, r.info.op0, r.info.op1,
            r.info.op2, r.info.op3, place, s.wtime + s.tile.lag]) ∧
    (s.th.record = some r → r.deferred = false → r.kind = 0 → s.th.outc.stores ≠ 0 → exec .trapRecord s = .next s) ∧
    (s.tile.reports = (g, ws) :: rest → quiet → takes →
      ∃ t : State, exec .reportInjection s = .next t ∧ t.tile.reports = rest ∧ t.tile.lost = 0 ∧ t.tile.threads = s.tile.threads ∧ t.mem = s.mem ∧
        ∀ w l, ws = w :: l → sent t (g.getD (s.tile.pr.trapdest.extractLsb' 16 8).toNat) ((lost ++ w.extractLsb' 0 55) :: l)) ∧
    (s.tile.reports = (g, ws) :: rest → ¬ quiet ∨ ¬ takes → exec .reportInjection s = .next s)

/-- R35, R36, R37, R41, R43, R45, R49, R130, R136, R382: an accepted packet takes the cells of its run and is checked; a packet of a
disabled entry or of a hall without XHALL is consumed and reported, and one of a hall that PEERS does not admit is consumed and reported
to both stewards; a dispatch gives a waiting packet or codelet to a FREE thread in the state of R41, or drops a codelet whose entry is not
admitted; a handler whose count reaches LIMIT traps BUDGET. -/
def Obligations.PacketsAreAcceptedCheckedAndDispatched : Prop :=
  ∀ (s : State) (vc : BitVec 4) (f : Flight) (p : Packet) (r : CellRun) (c : Choice) (a c0 : Nat),
    let u : Tile := s.tile
    let k := hdrVc p.word0
    let n := (hdrLen p.word0 + 2) / 2
    let word (j : Nat) : Word := BitVec.ofNat 64 (Memory.readN s.mem (s.pa (0x20000 + (32 * r.c0 + 8 * j) % 0x2000)) 8)
    let e := hdrEntry (word 0)
    let started (h t : Thread) (pc : BitVec 12) (entry g29 g1 g2 : Word) (w : Work) : Prop := t.state = .run ∧ t.pc = pc.setWidth 13 ∧
      t.gr 1 = g1 ∧ t.gr 2 = g2 ∧ t.gr 29 = g29 ∧ t.gr 31 = h.stackTop ∧
      (∀ q : GReg, q ≠ 1 → q ≠ 2 → q ≠ 29 → q ≠ 31 → t.gr q = 0) ∧ t.p = 1 ∧ t.v = Vector.replicate 16 0 ∧
      t.vtag = Vector.replicate 16 0 ∧ t.entry = entry ∧ t.rsp = h.rsbase ∧ t.rstore = [] ∧ t.loop = ⟨false, 0, 0, 0⟩ ∧ t.cycles = 0 ∧
      t.work = w ∧ t.rmode = h.rmode ∧ t.fflags = h.fflags ∧ t.srseq = h.srseq ∧ t.tcm = h.tcm ∧ t.slim = h.slim
    let entryIs (xh kind : Bool) (v : BitVec 4) (i : BitVec 10) : Word := (0 : BitVec 48) ++ BitVec.ofBool xh ++ BitVec.ofBool kind ++ v ++ i
    let told (cause : BitVec 8) (w : Word) : Prop := w.extractLsb' 0 8 = cause ∧ w.extractLsb' 10 2 = 1
    let sender : Nat := ((s.tileAt r.src).pr.trapdest.extractLsb' 16 8).toNat
    -- acceptance
    (s.headPacket vc = some (f, p) → f.misnamed u = false → u.diverting = false →
      (qcap u k.toNat < n → ∃ t : State, exec (.inboxAccept vc) s = .next t ∧ t.net = s.net.erase f ∧ t.tile.runs = u.runs ∧ t.mem = s.mem ∧
        t.tile.dropped = u.dropped + 1) ∧
      (n ≤ qcap u k.toNat → u.cellTest k.toNat n = true → u.findRun n = some c0 → ∃ t : State, exec (.inboxAccept vc) s = .next t ∧
        t.net = s.net.erase f ∧ t.tile.lastCell = (c0 + n - 1) % 256 ∧ t.tile.threads = u.threads ∧
        t.tile.runs = u.runs ++ [⟨c0, n, k, u.foreign (hdrHall p.word0) p.sys, false, false, p.sys, f.src⟩] ∧
        (p.payload = [] → t.mem = Memory.writeN (Memory.writeN s.mem (tileBase s.foc + 0x20000 + (32 * c0) % 0x2000) 8 p.word0.toNat)
          (tileBase s.foc + 0x20000 + (32 * c0 + 8) % 0x2000) 8 p.word1.toNat)) ∧
      (n ≤ qcap u k.toNat → u.cellTest k.toNat n = false → ∃ t : State, exec (.inboxAccept vc) s = .next t ∧ t.net = s.net ∧ t.mem = s.mem ∧
        t.tile.runs = u.runs)) ∧
    -- the entry checks, where no command is waiting
    (s.commandHere .tile = none → s.commandHere .port = none → s.commandHere .repair = none → u.runs.find? (fun r => !r.checked) = some r →
      (s.entryOk s.foc e.toNat r.vc.toNat = true → r.foreign = false → (hdrNsucc (word 0)).toNat ≤ 4 →
        (hdrNsucc (word 0)).toNat ≤ 2 * hdrLen (word 0) → ∃ t : State, exec .packetArrival s = .next t ∧ t.mem = s.mem ∧ t.net = s.net ∧
          t.tile = { u with runs := u.runs.map fun x => if x.c0 = r.c0 then { x with checked := true } else x } ∧
          (s.isBad (s.pa (u.entryBase + 8 * e.toNat)) 8 = false → t.desc = s.desc)) ∧
      (s.entryOk s.foc e.toNat r.vc.toNat = false → r.foreign = false → ∃ t : State, exec .packetArrival s = .next t ∧
        t.tile.runs = u.runs.filter (fun x => x.c0 != r.c0) ∧ t.mem = s.mem ∧ t.tile.threads = u.threads ∧
        t.tile.dropped = u.dropped + 1 ∧ (u.reports.length < 8 → ∃ w l, t.tile.reports = u.reports ++ [(none, w :: 0 :: word 0 :: word 1 :: l)] ∧
          w.extractLsb' 0 8 = 0x10 ∧ w.extractLsb' 10 2 = 1)) ∧
      (s.entryOk s.foc e.toNat r.vc.toNat = true → r.foreign = true → entryXhall (s.entryAt s.foc e.toNat) = false →
        ∃ t : State, exec .packetArrival s = .next t ∧ t.tile.runs = u.runs.filter (fun x => x.c0 != r.c0) ∧ t.mem = s.mem ∧
          t.tile.threads = u.threads ∧ t.tile.dropped = u.dropped + 1 ∧
          (u.reports.length < 7 → r.vc.toNat ≤ 7 → ∃ w l, told 0x10 w ∧ (r.sys = true → t.tile.reports = u.reports ++ [(none, w :: l)]) ∧
            (r.sys = false → ∃ x k, told 0x05 x ∧ t.tile.reports = u.reports ++ [(none, w :: l), (some sender, x :: k)]) ∧
            l.take 3 = [0, word 0, word 1])) ∧
      (s.entryOk s.foc e.toNat r.vc.toNat = true → r.foreign = true → entryXhall (s.entryAt s.foc e.toNat) = true → r.vc.toNat ≤ 7 →
        (hdrNsucc (word 0)).toNat ≤ 4 → (hdrNsucc (word 0)).toNat ≤ 2 * hdrLen (word 0) → r.sys = false →
        u.pr.hallmap.getLsbD (hdrHall (word 0)).toNat = false → ∃ t : State, exec .packetArrival s = .next t ∧
          t.tile.runs = u.runs.filter (fun x => x.c0 != r.c0) ∧ t.mem = s.mem ∧ t.tile.threads = u.threads ∧
          t.tile.dropped = u.dropped + 1 ∧ (u.reports.length < 7 → ∃ w l, told 0x05 w ∧ l.take 3 = [0, word 0, word 1] ∧
            t.tile.reports = u.reports ++ [(some sender, w :: l), (none, w :: l)]))) ∧
    -- dispatch
    (u.dispatchOn = true → u.pstate = 0 → s.choose = some c →
      (c.what = .packet r → hdrNarrow (word 0) = false ∨ hdrTcm (word 0) = (u.th c.thread).tcm → ∃ t : State, exec .dispatch s = .next t ∧
        t.mem = s.mem ∧ (∀ j, j ≠ c.thread → t.tile.th j = u.th j) ∧
        started (u.th c.thread) (t.tile.th c.thread) (entryIaddr (s.entryAt s.foc e.toNat)) (entryIs r.foreign false r.vc e)
          (BitVec.ofNat 64 (0x20000 + 32 * r.c0)) (word 1)
          (BitVec.ofNat 64 (16 * hdrLen (word 0) - 8 * (hdrNsucc (word 0)).toNat)) (.packet r.c0 r.n)) ∧
      (c.what = .packet r → hdrNarrow (word 0) = true → hdrTcm (word 0) ≠ (u.th c.thread).tcm → ∃ t : State, exec .dispatch s = .next t ∧
        (t.tile.th c.thread).state = .stop ∧ ∃ i, (t.tile.th c.thread).record = some ⟨0, i, false⟩ ∧ i.cause = 0x0C) ∧
      (c.what = .ring a → u.monitors = [] → u.chain = [] →
        let w : Word := BitVec.ofNat 64 (Memory.readN s.mem (s.pa a) 8)
        s.isBad (s.pa a) 8 = false → u.wqHolds a = false →
        (s.entryOk s.foc (w.extractLsb' 16 10).toNat 13 = true → ∃ t : State, exec .dispatch s = .next t ∧ t.tile.ring = u.ring.drop 1 ∧
          t.mem = Memory.writeN s.mem (s.pa a) 8 ((w &&& ~~~(0x4000000 : Word)) ||| 0x10000000).toNat ∧ (∀ j, j ≠ c.thread → t.tile.th j = u.th j) ∧
          started (u.th c.thread) (t.tile.th c.thread) (entryIaddr (s.entryAt s.foc (w.extractLsb' 16 10).toNat))
            (entryIs false true 13 (w.extractLsb' 16 10)) (BitVec.ofNat 64 a) (w >>> 32)
            (BitVec.ofNat 64 (Memory.readN s.mem (s.pa (a + 8)) 8)) (.codelet a)) ∧
        (s.entryOk s.foc (w.extractLsb' 16 10).toNat 13 = false → ∃ t : State, exec .dispatch s = .next t ∧ t.tile.ring = u.ring.drop 1 ∧
          t.mem = Memory.writeN s.mem (s.pa a) 8 (w &&& ~~~(0x4000000 : Word)).toNat ∧ t.tile.threads = u.threads ∧
          t.tile.droppedRecords = u.droppedRecords + 1))) ∧
    -- the budget
    (s.th.state = .run → (u.pr.budget.extractLsb' 0 24).toNat ≤ s.th.cycles → u.holding s.tid = false →
      exec .handlerBudget s = .next (s.trapWith 0x0F 0 0 0 0 0)) ∧
    (s.th.cycles < (u.pr.budget.extractLsb' 0 24).toNat → exec .handlerBudget s = .next s)

/-- R120, R122, R125, R129 to R131, R134, R411, R435, R436: the first message that may leave is stamped, charged once no refill is due,
and injected, and the SEND that offered it retires; one for an unbound name is flooded to the tree neighbours of kite line 0 and holds its
channel until the answer, or is reported unresolved; a message goes in dimension order unless a detour entry or a gallery is in its way;
its head and the flits behind it move from input to input, none is lost, and no input holds more than four of a channel, but where the
port takes an arrived request; a router that a packet passes learns its sender's name; idle names age and are forgotten; a message with
nowhere to go is reported; a full port sends a tile a hold notice and later a release. The model's choices: the words of a report under
R20 and the order at one router (log 10), and that an unresolved seek ends with an answer of the management agent (log 69). -/
def Obligations.MessagesEnterAndCrossTheMesh : Prop :=
  ∀ (s : State) (i : Inj) (rest : List Inj) (c d : Coord) (f : Flight) (k port w : Nat) (x : Tid) (n : BitVec 32) (vc : BitVec 4) (p : Packet),
    let u : Tile := s.tile
    let hall : BitVec 6 := if u.sys then 0 else u.hid
    let name : BitVec 32 := u.r.name.setWidth 32
    let sent (z : Flight) (m : Msg) (to_ : Coord) (x : Option (BitVec 32)) : Prop := z.msg = m ∧ z.vc = i.vc ∧ z.pos = s.foc ∧
      z.dest = .tile to_ ∧ z.src = s.foc ∧ z.srcName = name ∧ z.name = x ∧ z.hall = hall ∧ z.sys = u.sys ∧ z.hops = 0 ∧
      (to_ = s.foc → z.trail = [] ∧ z.left = 0) ∧ (to_ ≠ s.foc → z.trail = [⟨s.foc, 4, 0⟩] ∧ z.left = m.flits)
    let first : Prop := u.inj = i :: rest ∧ (∀ j ∈ rest, j.tid = i.tid) ∧ i.entered = .no
    let free : Prop := (s.field (fieldOf s.foc)).tctl.getLsbD 0 = false
    let enters (x : Coord) : Prop := x = s.foc ∨ s.inputFree s.foc i.vc = true
    let left (t : State) : Prop := t.tile.inj = rest ∧ t.mem = s.mem ∧ t.tile.threads = u.threads
    let reports (t : State) (at_ : Coord) (cause : BitVec 8) (a b : Word) : Prop := ∃ x w l,
      (t.tileAt at_).reports = (s.tileAt at_).reports ++ [(x, w :: 0 :: a :: b :: l)] ∧ w.extractLsb' 0 8 = cause
    -- injection
    (first → free → i.addr = .dest (.tile c) → isCompute c = true → enters c → (∀ q, i.msg ≠ .packet q) →
      ∃ (t : State) (z : Flight), exec .injection s = .next t ∧ left t ∧ t.net = s.net ++ [z] ∧ sent z i.msg c none) ∧
    (first → free → i.addr = .dest (.tile c) → isCompute c = true → enters c → i.msg = .packet p →
      ∃ (t : State) (z : Flight), ∃ q, exec .injection s = .next t ∧ left t ∧ t.net = s.net ++ [z] ∧ sent z (.packet q) c none ∧
        q.payload = p.payload ∧ hdrHall q.word0 = hall ∧ q.word1.extractLsb' 0 32 = name ∧
        q.word1.extractLsb' 32 32 = p.word1.extractLsb' 32 32 ∧ q.sys = u.sys) ∧
    (first → i.addr = .dest (.tile c) → isCompute c = false → i.msg = .packet p → isGallery s.foc = false → u.reports.length < 8 →
      ∃ t : State, exec .injection s = .next t ∧ left t ∧ t.net = s.net ∧ ∃ q, q = stampPacket u p ∧ reports t s.foc 0x05 q.word0 q.word1) ∧
    (first → (s.field (fieldOf s.foc)).tctl.getLsbD 0 = true → i.addr = .dest (.tile c) → isCompute c = true → c ≠ s.foc →
      i.msg = .packet p → i.vc.toNat ≤ 7 → s.inputFree s.foc i.vc = true →
      ((s.field (fieldOf s.foc)).refillDue = true → rest = [] → exec .injection s = .next s) ∧
      ((s.field (fieldOf s.foc)).refillDue = false → u.tokenWaits.all (· == i) = true →
      let lv := (u.pr.tokm.extractLsb' 0 16).toNat
      let cost := hdrLen p.word0 + 1
      (cost ≤ lv → ∃ t : State, exec .injection s = .next t ∧ left t ∧ (t.tile.pr.tokm.extractLsb' 0 16).toNat = lv - cost ∧
        (t.tile.pr.tokm.extractLsb' 32 16).toNat = min 65535 ((u.pr.tokm.extractLsb' 32 16).toNat + cost)) ∧
      (lv < cost → rest = [] ∨ u.tokenWaits = [] → ∃ t : State, exec .injection s = .next t ∧ t.net = s.net ∧ t.tile.inj = u.inj ∧
        t.mem = s.mem ∧ t.tile.pr.tokm.getLsbD 31 = true) ∧
      (lv < cost → u.tokenWaits = [i] → u.pr.tokm.getLsbD 31 = true → (∀ j ∈ rest, ∃ n, s.costOf j = some (false, n)) →
        exec .injection s = .next s))) ∧
    (u.inj = [i] → i.tid = some x → i.entered = .sent w → free → i.addr = .dest (.tile c) → isCompute c = true → enters c →
      ((u.th x).state = .run → ∃ t : State, exec .injection s = .next t ∧ t.tile.inj = [] ∧ t.mem = s.mem ∧
        t.tile.th x = (u.th x).advance w ∧ ∀ j, j ≠ x → t.tile.th j = u.th j) ∧
      ((u.th x).state ≠ .run → exec .injection s = .next s)) ∧
    (first → free → i.addr = .name n → 0 < n.toNat → n.toNat < 0xF0000000 → u.seeks = [] →
      (∀ e, u.names.find? (fun e => e.name == n && e.sys == u.sys && (e.sys || e.hall == u.hid)) = some e → (∀ q, i.msg ≠ .packet q) →
        enters e.at_ → ∃ (t : State) (z : Flight), exec .injection s = .next t ∧ left t ∧ t.net = s.net ++ [z] ∧ sent z i.msg e.at_ (some n)) ∧
      (u.names.find? (fun e => e.name == n && e.sys == u.sys && (e.sys || e.hall == u.hid)) = none → name ≠ n →
        s.inputFree s.foc i.vc = true → ∃ (t : State) (zs : List Flight), exec .injection s = .next t ∧ left t ∧ t.tile.seeks = [(i.vc, i)] ∧
          t.net = s.net ++ zs ∧ zs.map (·.dest) = (s.lineNeighbours s.foc).map .tile ∧
          ∀ z ∈ zs, (∃ m, z.msg = .seek m (some s.foc)) ∧ z.vc = i.vc ∧ z.name = some n ∧ z.src = s.foc)) ∧
    -- the end of a seek
    (f.atTile s.foc = true → f.msg = .seekAnswer n → s.net = [f] → u.seeks = [(vc, i)] → i.addr = .name n →
      exec (.seekAnswer vc) s = .next { s with net := [], tile := { u with seeks := [] } }) ∧
    (u.seeks.find? (·.1 == vc) = some (vc, i) → i.addr = .name n → s.seeking vc n = false →
      ∃ (t : State) (z : Flight), exec (.seekUnresolved vc) s = .next t ∧ t.net = s.net ++ [z] ∧ z.msg = .seekAnswer n ∧
        z.dest = .tile s.foc ∧ z.vc = 15 ∧ t.mem = s.mem ∧ t.tile.seeks = u.seeks ∧
        ∃ x, t.unitReports = s.unitReports ++ [x] ∧ (x.2.words.headD 0).extractLsb' 0 8 = 0x10 ∧ x.2.words.getD 4 0 = 1) ∧
    -- the way: dimension order, but for detours
    (f.dest = .tile d → f.pos ≠ d → f.hops + 1 < Config.hopLimit →
      let way : Nat := if isResponse f.vc
        then (if f.pos.y < d.y then 2 else if d.y < f.pos.y then 0 else if f.pos.x < d.x then 1 else 3)
        else (if f.pos.x < d.x then 1 else if d.x < f.pos.x then 3 else if f.pos.y < d.y then 2 else 0)
      let entry := rtexPort (s.tileAt f.pos).pr.rtex.toList (isResponse f.vc) d
      ∀ into, isGallery into = false → (into = d → (s.tileAt d).absent = false) →
        (entry = none → linkTo f.pos way = some into → s.nextHop f = some (way, into)) ∧
        (entry = some port → port < 4 → linkTo f.pos port = some into → s.nextHop f = some (port, into)) ∧
        (entry = some 7 → s.nextHop f = none)) ∧
    -- a movement
    (∀ m, s.net[k]? = some f → (s.movesOf k f).find? (s.granted k f) = some m → (∀ q came, s.arrived f = true → f.msg ≠ .seek q came) →
      s.arrived f = true ∨ f.buffered = true ∨ s.headFront k f = false ∨ (s.nextHop f).isSome = true →
      ∃ (t : State) (z : Flight), exec (.routerForward k) s = .next t ∧ t.net = s.net.set k z ∧ t.mem = s.mem ∧
        z.msg = f.msg ∧ z.vc = f.vc ∧ z.dest = f.dest ∧ z.src = f.src ∧ z.hall = f.hall ∧ z.sys = f.sys ∧
        z.left + (z.trail.map (·.n)).sum = f.left + (f.trail.map (·.n)).sum ∧
        (∀ q into, m = .head q into → s.nextHop f = some (q, into) ∧ z.pos = into ∧ z.hops = f.hops + 1 ∧
          (f.srcName ≠ 0 → isGallery into = false → ∃ e ∈ (t.tileAt into).names, e.name = f.srcName ∧ e.at_ = f.src ∧ e.age = 0))) ∧
    ((∀ x dir v, s.flitsIn x dir v ≤ 4) → (∀ g, s.net[k]? = some g → s.sunk g = false) → ∀ t, exec (.routerForward k) s = .next t → ∀ x dir v, t.flitsIn x dir v ≤ 4) ∧
    (s.net[k]? = some f → s.arrived f = false → f.buffered = false → s.headFront k f = true → s.nextHop f = none → f.msg = .packet p → isGallery f.pos = false →
      (s.tileAt f.pos).reports.length < 8 → ∃ t : State, exec (.routerForward k) s = .next t ∧
        t.net = s.net.take k ++ s.net.drop (k + 1) ∧ reports t f.pos 0x10 p.word0 p.word1) ∧
    -- names and notices
    exec .nameTableAgeing s = .next { s with tile := { u with
      names := (u.names.filter (·.age < 7)).map fun e => { e with age := e.age + 1 } } } ∧
    (s.noticeFrom port = none → (s.port port).onHold.contains s.foc = false → 64 ≤ (s.port port).countOf s.foc →
      ∃ (t : State) (z : Flight), exec (.holdNotice port) s = .next t ∧ (t.port port).onHold = (s.port port).onHold ++ [s.foc] ∧
        t.net = s.net ++ [z] ∧ z.dest = .tile s.foc ∧ z.vc = 15 ∧ z.msg = .hold port true ∧ t.tile = u ∧ t.mem = s.mem) ∧
    (s.noticeFrom port = none → (s.port port).onHold.contains s.foc = true → (s.port port).countOf s.foc ≤ 48 →
      (s.port port).entries.length ≤ 3968 → (s.port port).allHeld.length ≤ 896 →
      ∃ (t : State) (z : Flight), exec (.releaseNotice port) s = .next t ∧
        (t.port port).onHold = (s.port port).onHold.filter (· != s.foc) ∧ t.net = s.net ++ [z] ∧ z.dest = .tile s.foc ∧ z.vc = 15 ∧
        z.msg = .hold port false ∧ t.tile = u ∧ t.mem = s.mem) ∧
    (s.noticeFrom port = some (f, true) →
      exec (.holdNotice port) s = .next { s with net := s.net.erase f, tile := { u with holds := u.holds ++ [port] } }) ∧
    (s.noticeFrom port = some (f, false) →
      exec (.releaseNotice port) s = .next { s with net := s.net.erase f, tile := { u with holds := u.holds.filter (· != port) } })

/-- R383 to R385: READ and WRITE answer and set the registers that a thread, tile, port and field controller have: an unknown number is
status 2, a thread that runs is status 3, and a value outside the register's map is status 1; the image of a SAVED thread follows a write;
UNION reads and clears the block's flag union; a NAME in the hardware range or already borne is refused. That a set bit above a register
narrower than 64 bits makes a WRITE of it status 1 is a reading of R2 (DEDUCED, log 33). -/
def Obligations.ManagementReadsAndWritesRegisters : Prop :=
  ∀ (s : State) (c : MgmtCmd) (k : Nat),
    let i := c.thread
    let h := s.tile.th i
    let n := c.reg.toNat
    let answer (st : BitVec 8) (v : Word) (t : State) : Prop := ∃ z : Flight, t.net = s.net ++ [z] ∧ z.vc = 14 ∧ z.dest = .gallery (c.agent / 16) ∧
      z.msg = .cmdAnswer c.agent st c.seq v
    let same (t : State) : Prop := t.mem = s.mem ∧ t.tile = s.tile
    -- the registers of a SAVED thread i lie in the shadow bank from 0x600·i (R423)
    let stays (t : State) : Prop := if h.state = .saved then
        ∀ a, a < s.pa (0x40000 + 0x600 * i.val) ∨ s.pa (0x40000 + 0x600 * i.val) + 0x600 ≤ a → Memory.read t.mem a = Memory.read s.mem a
      else t.mem = s.mem
    let reads (m : Nat) (v : Word) : Prop := n = m → ∃ t : State, exec (.read c) s = .next t ∧ same t ∧ answer 0 v t
    let writes (m : Nat) (v : Word) (t' : Thread) : Prop := n = m → c.value = v → ∃ t : State, exec (.write c) s = .next t ∧ t.tile.th i = t' ∧
      (∀ j, j ≠ i → t.tile.th j = s.tile.th j) ∧ stays t ∧ answer 0 0 t
    let refused (m : Nat) (p : Word → Prop) (st : BitVec 8) : Prop := n = m → p c.value → ∃ t : State, exec (.write c) s = .next t ∧ same t ∧
      answer st 0 t
    -- reads
    (∀ r : GReg, r ≠ 0 → reads (0x400 + r.toNat) (h.gr r)) ∧ reads 0x400 0 ∧ reads 0x420 (h.p.zeroExtend 64) ∧
    reads 0x421 (h.pc12.zeroExtend 64) ∧ reads 0x423 (BitVec.ofNat 64 h.cycles) ∧
    reads 0x422 (match h.state with
      | .free => 0 | .run => 1 | .waitv => 2 | .wtag => 3 | .pgwait => 4 | .stop => 5 | .halt => 6 | .saved => 7) ∧
    (0x424 ≤ n → n < 0x430 → ∃ t : State, exec (.read c) s = .next t ∧ same t ∧ answer 2 0 t) ∧
    -- thread registers: only in STOP, HALT or SAVED
    (h.state = .stop ∨ h.state = .halt ∨ h.state = .saved →
      (∀ r : GReg, ∀ v, r ≠ 0 → writes (0x400 + r.toNat) v { h with g := h.g.set r.toNat v }) ∧
      (∀ v, v &&& 0xFFFFFFFFFFFFF000 = 0 → writes 0x421 v { h with pc := (v.setWidth 12).zeroExtend 13, noted := [], turnAt := none }) ∧
      refused 0x421 (fun v => v &&& 0xFFFFFFFFFFFFF000 ≠ 0) 1 ∧ refused 0x420 (fun v => v &&& 0xFFFFFFFFFFFFFF00 ≠ 0) 1 ∧
      (∀ v, v &&& 0xFFFFFFFFFFFFFF00 = 0 → writes 0x420 v { h with p := v.setWidth 8 ||| 1 }) ∧
      (∀ v, writes 0x422 v h) ∧ refused 0x00A (fun v => v &&& 0xFFFFFFFFFFFF0000 ≠ 0) 1) ∧
    (h.state = .run ∨ h.state = .free → ∀ r : GReg, refused (0x400 + r.toNat) (fun _ => True) 3) ∧
    -- tile registers
    (n = 0x201 → c.value.toNat < 16777216 → 256 ≤ c.value.toNat → ∃ t : State, exec (.write c) s = .next t ∧ t.tile.pr.budget = c.value ∧
      t.tile.threads = s.tile.threads ∧ t.mem = s.mem ∧ answer 0 0 t) ∧
    refused 0x201 (fun v => v.toNat < 256 ∨ 16777216 ≤ v.toNat) 1 ∧
    refused 0x424 (fun _ => True) 2 ∧
    -- ports and field controllers
    (s.portHere = some k → n = 0x500 → c.value &&& 0xFFFF000000000FFF = 0 → ∃ t : State, exec (.write c) s = .next t ∧ same t ∧
      t.port k = { s.port k with sptbase := c.value } ∧ answer 0 0 t) ∧
    (s.portHere = some k → refused 0x500 (fun v => v &&& 0xFFFF000000000FFF ≠ 0) 1) ∧
    (n = 0x600 → ∃ t : State, exec (.write c) s = .next t ∧ same t ∧ (t.field (fieldOf s.foc)).tpool = c.value ∧ answer 0 0 t) ∧
    -- UNION and NAME
    (let b := 70 * (s.foc.x / 16) + s.foc.y / 16
     ∃ t : State, exec (.union c) s = .next t ∧ same t ∧ answer 0 ((unitGet 0 s.blockFlags b).zeroExtend 64) t ∧
      unitGet 0 t.blockFlags b = if c.value.getLsbD 0 then 0 else unitGet 0 s.blockFlags b) ∧
    (c.value.toNat < 0xF0000000 → c.value = 0 ∨ s.bears (c.value.setWidth 32) s.foc = false → ∃ t : State, exec (.nameWrite c) s = .next t ∧
      t.tile.r.name = c.value ∧ t.tile.threads = s.tile.threads ∧ t.mem = s.mem ∧ answer 0 0 t ∧
      ∀ e ∈ t.tile.names, e.name ≠ c.value.setWidth 32 ∧ e.name ≠ s.tile.r.name.setWidth 32) ∧
    (0xF0000000 ≤ c.value.toNat ∨ c.value ≠ 0 ∧ s.bears (c.value.setWidth 32) s.foc = true → ∃ t : State, exec (.nameWrite c) s = .next t ∧
      same t ∧ answer 1 0 t)

/-- R383, R384, R385, R389: RESUME, REDIRECT, KILL, HALT and STEP act on a thread in the states they allow and answer status 3 in others;
a command is carried out as it arrives at its tile, and one with an OP that does not exist is answered with status 2; an answer completes
the hart's store with its status, sequence number and value, one for which no store waits is discarded (DEDUCED, log 54), and 65,536 ticks
without one complete it with 0xFF. -/
def Obligations.ThreadCommandsStartStopAndKill : Prop :=
  ∀ (s : State) (c : MgmtCmd) (a : Nat) (f : Flight) (st : BitVec 8) (seq : BitVec 32) (v w : Word),
    let i := c.thread
    let h := s.tile.th i
    let answer (st : BitVec 8) (t : State) : Prop := ∃ z : Flight, t.net = s.net ++ [z] ∧ z.vc = 14 ∧ z.dest = .gallery (c.agent / 16) ∧
      z.msg = .cmdAnswer c.agent st c.seq 0
    let calm : Prop := h.record = none ∧ (∀ d r, h.wait ≠ .scall d r) ∧ h.stepping = false ∧ s.tile.holding i = false ∧
      (h.state = .run → s.tile.offering i = false)
    let acts (x : Instr) (g : Thread → Prop) : Prop := ∃ t : State, exec x s = .next t ∧ g (t.tile.th i) ∧
      (∀ j, j ≠ i → t.tile.th j = s.tile.th j) ∧ t.mem = s.mem ∧ answer 0 t
    let keeps (t : Thread) : Prop := t.g = h.g ∧ t.p = h.p ∧ t.v = h.v ∧ t.m = h.m ∧ t.fflags = h.fflags ∧ t.srseq = h.srseq ∧
      t.rstore = h.rstore
    let refused (x : Instr) : Prop := ∃ t : State, exec x s = .next t ∧ t.tile = s.tile ∧ t.mem = s.mem ∧ answer 3 t
    let port := unitGet CmdPort.reset (s.gallery (a / 16)).cmd (a % 16)
    let portOf (t : State) : CmdPort := unitGet CmdPort.reset (t.gallery (a / 16)).cmd (a % 16)
    let carried (x : Instr) : Prop := ∀ t, exec x { s with net := s.net.erase f } = .next t →
      exec .packetArrival s = .next (t.setCmdPort c.agent { t.cmdPort c.agent with waiting := (s.cmdPort c.agent).waiting })
    (h.state = .stop ∨ h.state = .halt → calm →
      acts (.resume c) (fun t => keeps t ∧ t.state = .run ∧ t.pc = h.pc + BitVec.ofNat 13 h.resumeSkip ∧ t.cycles = 0) ∧
      acts (.redirect c) (fun t => keeps t ∧ t.state = .run ∧ t.pc = (c.value.setWidth 12 : BitVec 12).setWidth 13 ∧ t.cycles = 0)) ∧
    (h.state = .stop ∨ h.state = .halt ∨ h.state = .waitv ∨ h.state = .wtag ∨ h.state = .pgwait → calm →
      acts (.kill c) (fun t => t.state = .free ∧ t.work = .none ∧ t.deferred = none ∧ t.outc.loads = 0 ∧ t.outc.stores = 0 ∧
        ∀ p ∈ t.pends, p.logged = true ∨ ∃ x y z, p.kind = .copy x y z)) ∧
    (h.state = .run ∨ h.state = .waitv ∨ h.state = .wtag ∨ h.state = .pgwait → calm →
      acts (.haltCommand c) (fun t => keeps t ∧ t.state = .halt ∧ t.pc = h.pc ∧ t.record = some ⟨2, ⟨0, h.pc12, 0, 0, 0, 0, 0⟩, false⟩)) ∧
    (h.state = .halt → calm → acts (.step c) (fun t => keeps t ∧ t.state = .run ∧ t.stepping = true ∧
      t.pc = h.pc + BitVec.ofNat 13 h.resumeSkip ∧ t.cycles = h.cycles)) ∧
    (h.state = .run → refused (.resume c) ∧ refused (.redirect c) ∧ refused (.kill c) ∧ refused (.step c)) ∧
    (h.state = .free → refused (.resume c) ∧ refused (.redirect c) ∧ refused (.kill c) ∧ refused (.haltCommand c) ∧ refused (.step c)) ∧
    (h.state = .stop → refused (.haltCommand c) ∧ refused (.step c)) ∧
    -- at the tile it was sent to, and at the issuing port
    (∀ op, s.commandHere .tile = some (f, op, c) ∨ s.commandHere .tile = none ∧ s.commandHere .port = some (f, op, c) →
      (op = 0x01 → carried (.read c)) ∧ (op = 0x03 → carried (.resume c)) ∧ (op = 0x05 → carried (.kill c)) ∧
      (op = 0x06 → carried (.haltCommand c)) ∧ (op = 0x08 → carried (.union c)) ∧ (op = 0x10 → carried (.retry c)) ∧
      (op = 0x09 → ∃ (t : State) (z : Flight), exec .packetArrival s = .next t ∧ t.tile = s.tile ∧ t.mem = s.mem ∧
        t.net = s.net.erase f ++ [z] ∧ z.vc = 14 ∧ z.msg = .cmdAnswer c.agent 2 c.seq 0)) ∧
    (firstOf (s.net.filter fun f => s.arrived f && f.msg.answers a) = some f →
      f.msg = .cmdAnswer a st seq v →
      (port.waiting = some (w, seq) → ∃ t : State, exec (.commandAnswer a) s = .next t ∧ t.net = s.net.erase f ∧ t.mem = s.mem ∧
        portOf t = { port with status := st, seq := seq, mval := v, waiting := none }) ∧
      (port.waiting = none ∨ (∃ q, port.waiting = some (w, q) ∧ q ≠ seq) →
        exec (.commandAnswer a) s = .next { s with net := s.net.erase f })) ∧
    (port.waiting = some (w, seq) → port.shoots = [] →
      (65536 ≤ (s.wtime - w).toNat → ∃ t : State, exec (.commandTimeout a) s = .next t ∧ t.net = s.net ∧ t.mem = s.mem ∧
        portOf t = { port with status := 0xFF, waiting := none }) ∧
      ((s.wtime - w).toNat < 65536 → exec (.commandTimeout a) s = .next s))

/-- R162, R374, R375, R376, R377, R390, R391: a hart's access to memory is performed, one to the tile window leaves as a request or
faults, and one to the control space reads or writes its registers; a FENCE waits for the hart's stores; its timers fire at their compare
values; writing 1 clears a hall flag; a record goes to its queue's tail, to the overflow area when the queue is full, or is counted lost,
with an MSI into an empty area; a head write that leaves its area non-empty sends an MSI. -/
def Obligations.GalleryQueuesTakeRecords : Prop :=
  ∀ (s : State) (f h hall n off k : Nat) (x : HartAccess) (mask : BitVec 6) (v w : Word) (q : EvQueue) (r : Record) (rest : List (Nat × Record)),
    let a := 16 * f + h
    let H := s.hartAt a
    let cell : Coord := ⟨off / 2147483648, off / 1048576 % 2048⟩
    let g := s.gallery f
    let ready : Prop := h < 16 ∧ H.mode = .m ∧ H.mstatus.getLsbD 17 = false ∧ s.hartBusy H = false
    let size_ : Prop := k = 1 ∨ k = 2 ∨ k = 4 ∨ k = 8
    let window := 0x800000000000 + off
    let asks (at_ : Nat) (x : HartAccess) (kind : ReqKind) (H' : Hart) : Prop := ∃ (t : State) (z : Flight),
      exec (.tileWindowAccess a at_ x) s = .next t ∧ t.mem = s.mem ∧ t.net = s.net ++ [z] ∧ z.vc = 8 ∧ z.dest = .tile cell ∧
      z.msg = .req ⟨⟨gallerySite f, 0, s.nextId, some a⟩, kind, 0, BitVec.ofNat 64 off, 0, true, none⟩ ∧ t.hartAt a = H'
    let faults (at_ : Nat) (x : HartAccess) : Prop := ∃ t : State, exec (.tileWindowAccess a at_ x) s = .next t ∧ t.mem = s.mem ∧ t.net = s.net ∧
      (t.hartAt a).fault = true ∧ (t.hartAt a).load = none
    let returns (at_ : Nat) (x : HartAccess) (v : Word) : Prop := ∃ t : State, exec (.tileWindowAccess a at_ x) s = .next t ∧ t.mem = s.mem ∧
      t.net = s.net ∧ (t.hartAt a).value = v ∧ (t.hartAt a).fault = false
    let control (o : Nat) : Nat := 0xC00000000000 + f * 16777216 + o
    let queueOf (t : State) : EvQueue := unitGet EvQueue.reset (t.gallery f).queues n
    let size := 2 ^ (q.cfg.extractLsb' 0 5).toNat
    let hart := (q.cfg.extractLsb' 8 13).toNat
    let file := (q.cfg.extractLsb' 21 3).toNat
    let ident := (q.cfg.extractLsb' 24 8).toNat
    let pending (t : State) : Prop := ident ≠ 0 → file ≤ 5 → ident ∈ (unitGet IntFile.reset (t.hartAt hart).files file).eip
    let written (t : State) (p : Nat) : Prop := ∀ j, j < 8 → Memory.readN t.mem (p + 8 * j) 8 = (r.words.getD j 0).toNat
    let kept (t : State) : Prop := ∀ p, p < q.base.toNat ∨ q.base.toNat + 128 * size ≤ p → Memory.read t.mem p = Memory.read s.mem p
    let takes (t : State) : Prop := exec (.eventQueueWrite f) s = .next t ∧ t.unitReports = rest ∧ t.net = s.net ∧ kept t
    -- memory
    (ready → size_ → off % k = 0 → inMemory off k = true →
      (s.damagedBytes off k = false → returns off (.load k) (BitVec.ofNat 64 (Memory.readN s.mem off k))) ∧
      ∃ t : State, exec (.tileWindowAccess a off (.store k v)) s = .next t ∧ t.net = s.net ∧ (t.hartAt a).fault = false ∧
        t.mem = Memory.writeN s.mem off k (v.toNat % 2 ^ (8 * k))) ∧
    -- the tile window
    (ready → off < 4398046511104 → isCompute cell = true → size_ → off % k = 0 →
      asks window (.load k) (.load k) { H with fencing := false, awaiting := none, fault := false, load := some s.nextId } ∧
      asks window (.store k v) (.store k v) { H with fencing := false, awaiting := none, fault := false, stores := H.stores ++ [s.nextId] } ∧
      (4 ≤ k → ∀ op, op = .swap ∨ op = .add ∨ op = .or → asks window (.amo op k v w) (.amo op k v w true)
        { H with fencing := false, awaiting := none, fault := false, load := some s.nextId })) ∧
    (ready → off < 4398046511104 →
      x = .fetch ∨ (∃ op, x = .amo op k v w ∧ op ≠ .swap ∧ op ≠ .add ∧ op ≠ .or) ∨ (x = .load k ∧ (isCompute cell = false ∨ ¬ size_ ∨ off % k ≠ 0)) →
      faults window x) ∧
    (ready → 4398046511104 ≤ off → off < 0x400000000000 → faults window (.load k)) ∧
    -- FENCE, registers of the hart, timers
    (ready → exec (.tileWindowAccess a off .fence) s = .next (s.setHartAt a { H with fencing := true, awaiting := none })) ∧
    (H.fencing = true → H.stores ≠ [] → exec (.tileWindowAccess a off x) s = .next s) ∧
    (ready → returns off (.csrRead .time) (s.wtime + g.lag) ∧ returns off (.csrRead .mhartid) (BitVec.ofNat 64 a)) ∧
    (h < 16 → ∃ t : State, exec (.hartTimerCompare a) s = .next t ∧ t.mem = s.mem ∧ t.tile = s.tile ∧ t.hartAt a = { H with
      mtip := H.mtip || decide (H.mtimecmp ≤ s.wtime + g.lag), stip := H.stip || decide (H.stimecmp ≤ s.wtime + g.lag),
      vstip := H.vstip || decide (H.vstimecmp ≤ s.wtime + g.lag) }) ∧
    -- the control space: flags and queues
    (∃ t : State, exec (.hallFlagUnionClear f hall mask) s = .next t ∧ t.mem = s.mem ∧ t.tile = s.tile ∧
      unitGet 0 t.hallFlags hall = unitGet 0 s.hallFlags hall &&& ~~~mask ∧
      ∀ j, j ≠ hall → unitGet 0 t.hallFlags j = unitGet 0 s.hallFlags j) ∧
    (ready → f < 80 →
      (hall < 64 → returns (control (0x141000 + 8 * hall)) (.load 8) ((unitGet 0 s.hallFlags hall).zeroExtend 64)) ∧
      (q = unitGet EvQueue.reset g.queues n → n ≤ 64 →
        returns (control (0x100000 + 64 * n + 0x10)) (.load 8) q.tail ∧
        faults (control (0x100000 + 64 * n + 0x38)) (.load 8) ∧
        (∃ t : State, exec (.tileWindowAccess a (control (0x100000 + 64 * n + 0x30)) (.store 8 v)) s = .next t ∧ t.mem = s.mem ∧
          queueOf t = { q with lost := q.lost &&& ~~~v }) ∧
        (∃ t : State, exec (.tileWindowAccess a (control (0x100000 + 64 * n + 8)) (.store 8 v)) s = .next t ∧ t.mem = s.mem ∧
          (v.getLsbD 5 = true → v.extractLsb' 24 8 = 0 → queueOf t = q) ∧
          (v.getLsbD 5 = false → queueOf t = { q with cfg := (v &&& 0xFFFFFF3F) ||| (q.cfg &&& ~~~v &&& 0x100000000) })))) ∧
    -- records
    (s.unitReports = (f, r) :: rest → r.queue = some n → q = unitGet EvQueue.reset g.queues n → r.words.length = 8 →
      Memory.wf s.mem = true →
      (q.cfg.getLsbD 5 = true → (q.tail - q.head).toNat < size → ∃ t : State, takes t ∧ queueOf t = { q with tail := q.tail + 1 } ∧
        written t (q.base.toNat + 64 * (q.tail.toNat % size)) ∧ (q.tail = q.head → pending t)) ∧
      (q.cfg.getLsbD 5 = true → size ≤ (q.tail - q.head).toNat → (r.words.headD 0).extractLsb' 10 2 = 1 → ∃ t : State, takes t ∧
        queueOf t = { q with lost := q.lost + 1 } ∧ t.mem = s.mem) ∧
      (q.cfg.getLsbD 5 = true → size ≤ (q.tail - q.head).toNat → (r.words.headD 0).extractLsb' 10 2 ≠ 1 → (q.otail - q.ohead).toNat < size →
        ∃ t : State, takes t ∧ queueOf t = { q with otail := q.otail + 1, cfg := q.cfg ||| 0x100000000 } ∧
          written t (q.base.toNat + 64 * size + 64 * (q.otail.toNat % size)) ∧ (q.otail = q.ohead → pending t)) ∧
      (q.cfg.getLsbD 5 = false → ∃ t : State, takes t ∧ queueOf t = { q with lost := q.lost + 1 } ∧ t.mem = s.mem)) ∧
    -- heads
    (q = unitGet EvQueue.reset g.queues n →
      (∃ t : State, exec (.eventQueueHeadWrite f n false w) s = .next t ∧ queueOf t = { q with head := w } ∧ t.mem = s.mem ∧ (q.tail ≠ w → pending t)) ∧
      (∃ t : State, exec (.eventQueueHeadWrite f n true w) s = .next t ∧ queueOf t = { q with ohead := w } ∧ t.mem = s.mem ∧
        (q.otail ≠ w → pending t)))

/-- R394 to R400: a ring port answers a call with the status of R396 and queues what it accepts; a service hart takes the oldest slot of
an eligible ring; COMPLETE waits and then sends the completion and frees its slot; SWITCH, READY, RETIRE, FAIL and the timeouts move
generations and complete with status 3 what they end. -/
def Obligations.CallRingsAcceptDispatchAndComplete : Prop :=
  ∀ (s : State) (f t h i : Nat) (x : Flight) (c : CallRec) (sl : Slot) (v : Word) (st : BitVec 8) (y : Completion) (rest : List Completion),
    let g := s.gallery f
    let r := unitGet Ring.reset g.rings t
    let ringOf (u : State) : Ring := unitGet Ring.reset (u.gallery f).rings t
    let hart := unitGet SvcHart.reset g.svc h
    let hartOf (u : State) : SvcHart := unitGet SvcHart.reset (u.gallery f).svc h
    let service : BitVec 16 := (c.words.headD 0).extractLsb' 0 16
    let replies (u : State) (code : BitVec 8) (gen : BitVec 32) : Prop := ∃ z : Flight, u.net = s.net.erase x ++ [z] ∧ z.vc = 14 ∧ z.dest = .tile c.src ∧
      z.msg = .scallReply c.tid (gen ++ (0 : BitVec 24) ++ code)
    let calls : Prop := firstOf (s.net.filter fun y => y.dest == .gallery f && s.arrived y &&
      y.name == some (BitVec.ofNat 32 (0xFF000100 + 0x10000 * f + t)) && (match y.msg with | .call _ => true | _ => false)) = some x ∧
      x.msg = .call c ∧ isCompute c.src = true
    let refused (code : BitVec 8) : Prop := ∃ u : State, exec (.callRecord f t) s = .next u ∧ u.mem = s.mem ∧ ringOf u = r ∧ replies u code 0
    let known : Prop := service.toNat < 1024 ∧ (getV16 r.svcmask (service.toNat / 64)).getLsbD (service.toNat % 64) = true
    let freeSlot (j : Nat) : Prop := (unitGet Slot.reset r.slots j).st = .free
    let own (u : State) (y : Ring) : Prop := ringOf u = y ∧ u.mem = s.mem ∧ u.net = s.net ∧ u.tile = s.tile
    let lo : Word := BitVec.ofNat 64 (Memory.readN s.mem (r.rbase.toNat + 0x4000 + 16 * i) 8)
    let hi : Word := BitVec.ofNat 64 (Memory.readN s.mem (r.rbase.toNat + 0x4000 + 16 * i + 8) 8)
    let dst : Coord := ⟨(lo.extractLsb' 55 9).toNat + 512 * (hi.extractLsb' 0 2).toNat, (lo.extractLsb' 44 11).toNat⟩
    let none' (gen : BitVec 32) : Prop := ∀ y ∈ r.slots, y.2.st = .free ∨ y.2.gen ≠ gen
    -- calls
    (calls →
      (r.en = false → refused 0xFF) ∧
      (r.en = true → r.halls.getLsbD c.hall.toNat = false → refused 1) ∧
      (r.en = true → r.halls.getLsbD c.hall.toNat = true → ¬ known → refused 4) ∧
      (r.en = true → r.halls.getLsbD c.hall.toNat = true → known → r.swin = true ∨ r.failed = true → refused 3) ∧
      (r.en = true → r.halls.getLsbD c.hall.toNat = true → known → r.swin = false → r.failed = false →
        ((∀ j, j < 256 → ¬ freeSlot j) → refused 2) ∧
        (i < 256 → freeSlot i → (∀ j, j < i → ¬ freeSlot j) → c.words.length = 8 → Memory.wf s.mem = true → ∃ u : State,
          exec (.callRecord f t) s = .next u ∧ replies u 0 r.gen ∧ unitGet Slot.reset (ringOf u).slots i = ⟨.queued, r.gen, r.accepted, 0⟩ ∧
          (∀ j, j < 8 → Memory.readN u.mem (r.rbase.toNat + 64 * i + 8 * j) 8 = (c.words.getD j 0).toNat) ∧
          Memory.readN u.mem (r.rbase.toNat + 0x4000 + 16 * i) 4 = c.callId.toNat))) ∧
    -- dispatch reads
    (s.eligible f h = [] → ∃ u : State, exec (.dispatchRead f h) s = .next u ∧ hartOf u = { hart with dispatch := 0 } ∧ u.mem = s.mem) ∧
    (s.eligible f h = [t] → 0 < r.credit → r.oldest = some (i, sl) → hart.excluded = false → ∃ u : State, exec (.dispatchRead f h) s = .next u ∧
      u.mem = s.mem ∧ (hartOf u).dispatch = BitVec.ofNat 64 (9223372036854775808 + t * 72057594037927936 + i * 281474976710656 + sl.gen.toNat) ∧
      (hartOf u).serving = some t ∧ (ringOf u).credit = r.credit - 1 ∧
      unitGet Slot.reset (ringOf u).slots i = { sl with st := .taken, taken := s.wtime }) ∧
    (hart.slice ≠ 0 → hart.serving = some t → hart.excluded = false → hart.slice.toNat ≤ (s.wtime - hart.since).toNat →
      (∃ y ∈ s.eligible f h, y ≠ t) → ∃ u : State, exec (.serviceSliceExpiry f h) s = .next u ∧ hartOf u = { hart with excluded := true } ∧
        u.mem = s.mem ∧ 2 ∈ (unitGet IntFile.reset (u.hartAt (16 * f + h)).files 0).eip) ∧
    -- completion
    (t < 16 → i < 256 → v = BitVec.ofNat 64 (t * 72057594037927936 + i * 281474976710656) ||| st.zeroExtend 64 →
      (unitGet Slot.reset r.slots i) = sl → sl.st = .taken → sl.gen = (if hart.gensel then r.gen - 1 else r.gen) →
      st = 0 ∨ st = 3 ∨ 0x10 ≤ st.toNat → (∀ y ∈ g.completions, ¬ (y.tenant = t ∧ y.slot = i)) →
      ∃ u : State, exec (.complete f h v) s = .next u ∧ u.mem = s.mem ∧
        u.gallery f = { g with completions := g.completions ++ [⟨t, i, st, 16 * f + h, (s.hartAt (16 * f + h)).stores⟩] }) ∧
    (t < 16 → i < 256 → v = BitVec.ofNat 64 (t * 72057594037927936 + i * 281474976710656) ||| st.zeroExtend 64 →
      (unitGet Slot.reset r.slots i).st ≠ .taken ∨ (0 < st.toNat ∧ st ≠ 3 ∧ st.toNat < 0x10) → exec (.complete f h v) s = .next s) ∧
    (g.completions = [y] → (∃ id ∈ y.stores, id ∈ (s.hartAt y.agent).stores) → exec (.completionSend f) s = .next s) ∧
    (g.completions = y :: rest → y.tenant = t → y.slot = i → y.status = st → (∀ id ∈ y.stores, id ∉ (s.hartAt y.agent).stores) →
      isCompute dst = true →
      ∃ (u : State), ∃ z p, exec (.completionSend f) s = .next u ∧ u.mem = s.mem ∧ (u.gallery f).completions = rest ∧
        (unitGet Slot.reset (ringOf u).slots i).st = .free ∧ u.net = s.net ++ [z] ∧ z.vc = 14 ∧ z.dest = .tile dst ∧ z.msg = .packet p ∧
        hdrVc p.word0 = 14 ∧ hdrEntry p.word0 = hi.extractLsb' 2 10 ∧ p.word1.extractLsb' 32 32 = lo.extractLsb' 0 32 ∧
        hdrLen p.word0 = 4 ∧ p.payload = ((unitGet Slot.reset r.slots i).gen ++ (0 : BitVec 24) ++ st) ::
          (List.range 7).map fun j => BitVec.ofNat 64 (Memory.readN s.mem (r.rbase.toNat + 64 * i + 8 + 8 * j) 8)) ∧
    -- generations
    (r.swin = false → ∃ u : State, exec (.switch f t) s = .next u ∧ own u { r with swin := true, swOpened := s.wtime }) ∧
    (r.swin = true → ∃ u : State, exec (.ready f t) s = .next u ∧ (ringOf u).gen = r.gen + 1 ∧ (ringOf u).swin = false ∧ (ringOf u).failed = false ∧
      ((ringOf u).old = true ↔ ∃ y ∈ r.slots, y.2.st ≠ .free ∧ y.2.gen = r.gen) ∧ (ringOf u).slots = r.slots ∧ u.mem = s.mem) ∧
    (r.old = true → none' (r.gen - 1) → ∃ u : State, exec (.retire f t) s = .next u ∧ own u { r with old := false }) ∧
    (none' r.gen → (∃ u : State, exec (.fail f t) s = .next u ∧ own u { r with failed := true }) ∧
      ∃ u : State, exec (.serviceHartsHalted f t false) s = .next u ∧ own u { r with failed := true }) ∧
    (r.slots = [(i, sl)] → sl.st = .taken → sl.gen = r.gen → g.completions = [] → isCompute dst = true →
      r.calltmo ≠ 0 → r.calltmo.toNat < (s.wtime - sl.taken).toNat → ∃ (u : State), ∃ z p, exec (.callTimeout f t) s = .next u ∧ u.mem = s.mem ∧
        (ringOf u).failed = true ∧ (unitGet Slot.reset (ringOf u).slots i).st = .free ∧ u.net = s.net ++ [z] ∧ z.msg = .packet p ∧
        (p.payload.headD 0) = sl.gen ++ (0 : BitVec 24) ++ (3 : BitVec 8)) ∧
    (r.swin = true → r.swtmo.toNat ≤ (s.wtime - r.swOpened).toNat → ∃ u : State, exec (.switchWindowTimeout f t) s = .next u ∧
      own u { r with swin := false })

/-- R139, R219, R222, R405 to R418, R465: a port walks a request's tables and serves it, forwards it, refuses it, or holds or logs it with
a report (a returning atomic has its place in the log and holds its thread: DEDUCED, log 71); RETRY and DENY settle a granule; a
shoot-down is sent to every receiver, drops its entries and is answered by its last acknowledgement; device requests are translated;
bridge traffic is checked against its table entry in both directions. -/
def Obligations.EdgePortsTranslateAndServe : Prop :=
  ∀ (s : State) (p q c j agent n : Nat) (f : Flight) (r : Req) (t : Trans) (code ipa : Nat) (w : Waiting) (cmd : MgmtCmd) (dr : DevReq)
    (v : Word) (k : Packet) (l : Option Line) (rest : List Req) (m : Msg) (d : Nat),
    let x := s.port p
    let gran := r.off.toNat / 524288
    let waits : Bool := x.log.any (fun y => y.space == r.space && y.off.toNat / 524288 == gran) ||
      x.held.any (fun y => y.space == r.space && y.off.toNat / 524288 == gran)
    let next : Prop := p < 96 ∧ s.replayDone p = none ∧ x.firstArm = none ∧ s.nextWalk p = some (f, r) ∧ r.who.agent = none
    let answer (z : Flight) (a : AnsVal) : Prop := z.vc = 11 ∧ z.dest = .tile r.who.src ∧ z.msg = .ans ⟨r.who, a, 0⟩
    let answers (u : State) (a : AnsVal) : Prop := ∃ z : Flight, u.net = s.net.erase f ++ [z] ∧ answer z a
    let report (y : Flight) (cause : BitVec 8) (at_ : Word) (op : Nat) : Prop := y.vc = 14 ∧ ∃ ws g, y.msg = .record ⟨ws, g⟩ ∧
      (ws.headD 0).extractLsb' 0 8 = cause ∧ ws.getD 1 0 = at_ ∧ (ws.getD 3 0).toNat % 8 = op
    let reports (u : State) (a : AnsVal) (cause : BitVec 8) (op : Nat) : Prop := ∃ z y : Flight, u.net = s.net.erase f ++ [z, y] ∧ answer z a ∧
      report y cause r.off op
    let load (k n : Nat) : Word := BitVec.ofNat 64 (Memory.readN s.mem k n)
    let root := s.port (96 + c)
    -- walks
    (next → waits = false → s.translate x r.space r.off.toNat r.kind.need = .ok t →
      (serves t.pa = .edge p → r.kind = .load n → s.damaged t.pa n = false →
        ∃ u : State, exec (.translationWalk p) s = .next u ∧ u.mem = s.mem ∧ answers u (.value (load t.pa n))) ∧
      (serves t.pa = .edge p → r.kind = .store n v → s.isBad t.pa n = false →
        ∃ u : State, exec (.translationWalk p) s = .next u ∧ u.mem = Memory.writeN s.mem t.pa n v.toNat ∧ answers u .ack) ∧
      (servingPort t.pa = some q → q ≠ p → ∃ (u : State) (z : Flight), exec (.translationWalk p) s = .next u ∧ u.mem = s.mem ∧
        u.net = s.net.erase f ++ [z] ∧ z.vc = 10 ∧ z.dest = .port q ∧ z.msg = .req { r with fwd := some (t.pa, false) })) ∧
    (next → waits = false → s.translate x r.space r.off.toNat r.kind.need = .error (code, ipa) →
      (code = 0 ∨ code = 4 ∨ code = 5 → ∃ u : State, exec (.translationWalk p) s = .next u ∧ u.mem = s.mem ∧ (u.port p).held = x.held ∧
        (u.port p).log = x.log ∧ reports u (.refuse r.kind.faultCause) r.kind.faultCause code) ∧
      (code = 1 ∨ code = 2 ∨ code = 3 →
        (r.kind = .load n → ∃ u : State, exec (.translationWalk p) s = .next u ∧ u.mem = s.mem ∧ (u.port p).held = x.held ++ [r] ∧
          reports u .held 0x06 code) ∧
        (r.kind = .store n v → ∃ u : State, exec (.translationWalk p) s = .next u ∧ u.mem = s.mem ∧ (u.port p).log = x.log ++ [r] ∧
          reports u .logged 0x07 code) ∧
        (∀ op y z, r.kind = .amo op n y z true → ∃ u : State, exec (.translationWalk p) s = .next u ∧ u.mem = s.mem ∧
          (u.port p).log = x.log ++ [r] ∧ reports u .held 0x06 code))) ∧
    (next → waits = true →
      (r.kind = .load n → ∃ u : State, exec (.translationWalk p) s = .next u ∧ u.mem = s.mem ∧ (u.port p).held = x.held ++ [r] ∧ answers u .held) ∧
      (r.kind = .store n v → ∃ u : State, exec (.translationWalk p) s = .next u ∧ u.mem = s.mem ∧ (u.port p).log = x.log ++ [r] ∧
        answers u .logged)) ∧
    (x.devOps.find? (fun r => r.posted && s.commitTurn r) = none → s.nextForwarded p = some (f, r) → r.who.agent = none → r.fwd = some (j, false) →
      serves j = .edge p → r.kind = .load n → s.damaged j n = false →
      ∃ u : State, exec (.forwardedRequest p) s = .next u ∧ u.mem = s.mem ∧ answers u (.value (load j n))) ∧
    (x.reported.find? (fun w => decide (65536 ≤ (s.wtime - w.tick).toNat)) = some w → ∃ (u : State) (y : Flight), exec (.faultReportRepeat p) s = .next u ∧
      u.mem = s.mem ∧ u.net = s.net ++ [y] ∧ report y w.req.kind.faultCause w.req.off (w.code % 8) ∧
      (u.port p).reported = x.reported.map fun y => if y = w then { y with tick := s.wtime } else y) ∧
    -- RETRY and DENY
    (let g : Nat := cmd.value.toNat / 524288
     let sp : BitVec 16 := (cmd.value.extractLsb' 0 15).zeroExtend 16
     let mine (y : Req) : Bool := y.space == sp && y.off.toNat / 524288 == g
     let told (u : State) (st : BitVec 8) : Prop := ∃ z ∈ u.net, z.vc = 14 ∧ z.msg = .cmdAnswer cmd.agent st cmd.seq 0
     let here : Prop := s.portHere = some p ∧ cmd.value.extractLsb' 15 4 = 0 ∧ x.replaying sp g = false ∧ mine r = true ∧ r.who.agent = none ∧
       s.underway (fun y => y.who == r.who) = false
     let answered (u : State) (a : AnsVal) : Prop := ∃ z ∈ u.net, z.msg = .ans ⟨r.who, a, 0⟩
     (s.portHere = none → (∃ u : State, exec (.retry cmd) s = .next u ∧ told u 2) ∧ ∃ u : State, exec (.deny cmd) s = .next u ∧ told u 2) ∧
     (s.portHere = some p → cmd.value.extractLsb' 15 4 ≠ 0 → (∃ u : State, exec (.retry cmd) s = .next u ∧ told u 1) ∧
       ∃ u : State, exec (.deny cmd) s = .next u ∧ told u 1) ∧
     (here → x.held = [r] → x.log = [] → r.kind = .load n →
       (s.translate x r.space r.off.toNat ⟨true, false⟩ = .ok t → serves t.pa = .edge p → s.damaged t.pa n = false →
         ∃ u : State, exec (.retry cmd) s = .next u ∧ told u 0 ∧ (u.port p).held = [] ∧ u.mem = s.mem ∧ answered u (.value (load t.pa n))) ∧
       (s.translate x r.space r.off.toNat ⟨true, false⟩ = .error (code, ipa) →
         (∃ u : State, exec (.retry cmd) s = .next u ∧ told u 0 ∧ (u.port p).held = [r] ∧ u.mem = s.mem) ∧
         ∃ u : State, exec (.deny cmd) s = .next u ∧ told u 0 ∧ (u.port p).held = [] ∧ u.mem = s.mem ∧ answered u (.refuse 0x06))) ∧
     (here → x.held = [] → x.log = [r] → r.kind = .store n v →
       (s.translate x r.space r.off.toNat ⟨false, true⟩ = .ok t → serves t.pa = .edge p → s.isBad t.pa n = false →
         ∃ u : State, exec (.retry cmd) s = .next u ∧ told u 0 ∧ (u.port p).log = [] ∧ u.mem = Memory.writeN s.mem t.pa n v.toNat ∧
           answered u (.drained none)) ∧
       ∃ u : State, exec (.deny cmd) s = .next u ∧ told u 0 ∧ (u.port p).log = [] ∧ u.mem = s.mem ∧ answered u (.drained (some 0x07)))) ∧
    -- shoot-downs
    (let cp := unitGet CmdPort.reset (s.gallery (agent / 16)).cmd (agent % 16)
     let cpOf (u : State) : CmdPort := unitGet CmdPort.reset (u.gallery (agent / 16)).cmd (agent % 16)
     let inv := s.invalidate j cp.shootVal
     (cp.waiting = none → agent < 1280 → ∃ (u : State) (zs : List Flight), exec (.shoot agent v) s = .next u ∧ u.mem = s.mem ∧ u.net = s.net ++ zs ∧
       zs.length = 179 ∧ (∀ z ∈ zs, z.vc = 15 ∧ z.msg = .shoot agent v) ∧ cpOf u = { cp with
         mdest := 0xFFFFFFFF, mw1 := v, shoots := List.range 180, shootSeq := cp.mw0.extractLsb' 32 32, shootVal := v, waiting := some (s.wtime, cp.mw0.extractLsb' 32 32) }) ∧
     (j < 100 → inv.mem = s.mem ∧ inv.net = s.net ∧ (inv.port j).tlb = (s.port j).tlb.filter fun e => !shootHits cp.shootVal e) ∧
     (j ∈ cp.shoots → j ≠ 100 + agent / 16 →
       s.net.find? (fun f => f.msg == .shoot agent cp.shootVal && f.dest == shootDest j && s.arrived f) = some f →
       (inv.shootWaits j cp.shootVal = true → exec (.shootAcknowledgement agent j) s = .next inv) ∧
       (inv.shootWaits j cp.shootVal = false → ∃ (u : State) (z : Flight), exec (.shootAcknowledgement agent j) s = .next u ∧ u.mem = s.mem ∧
         u.net = s.net.erase f ++ [z] ∧ z.vc = 14 ∧ z.dest = .gallery (agent / 16) ∧ z.msg = .shootAck agent j ∧ u.ports = inv.ports)) ∧
     (firstOf (s.net.filter fun f => s.arrived f && f.msg.answers agent) = some f → f.msg = .shootAck agent j → ∃ u : State,
       exec (.commandAnswer agent) s = .next u ∧ u.mem = s.mem ∧ u.net = s.net.erase f ∧ (cpOf u).shoots = cp.shoots.filter (· != j) ∧
       (cp.shoots = [j] → (cpOf u).status = 0 ∧ (cpOf u).seq = cp.shootSeq ∧ (cpOf u).waiting = none) ∧
       (cp.shoots.filter (· != j) ≠ [] → (cpOf u).waiting = cp.waiting))) ∧
    -- devices
    (let de := load (root.dtbase.toNat + 8 * dr.rid.toNat) 8
     let sp : BitVec 16 := (de.extractLsb' 0 15).zeroExtend 16
     (dr.pasid = true ∨ dr.translated = true → dr.write = none → ∃ u : State, exec (.deviceRequest c dr) s = .next u ∧ u.mem = s.mem ∧
       (u.port (96 + c)).returned = root.returned ++ [(dr.rid, none)] ∧ u.net = s.net) ∧
     (dr.pasid = false → dr.translated = false → de.getLsbD 63 = false → dr.write = none → ∃ (u : State) (y : Flight), exec (.deviceRequest c dr) s = .next u ∧
       u.mem = s.mem ∧ (u.port (96 + c)).returned = root.returned ++ [(dr.rid, none)] ∧ u.net = s.net ++ [y] ∧ report y 0x06 dr.addr 0) ∧
     (dr.pasid = false → dr.translated = false → de.getLsbD 63 = true →
       s.translate root sp dr.addr.toNat ⟨dr.write.isNone, dr.write.isSome⟩ = .ok t → serves t.pa = .edge p →
       (dr.write.isSome = true → de.getLsbD 62 = true) →
       (s.deviceWaits root.below dr sp t = true → ∃ u : State, exec (.deviceRequest c dr) s = .next u ∧ u.mem = s.mem ∧ u.net = s.net ∧
         (u.port (96 + c)).below = root.below ++ [dr]) ∧
       (s.deviceWaits root.below dr sp t = false → dr.write = none → s.damagedBytes t.pa dr.bytes = false → ∃ u : State,
         exec (.deviceRequest c dr) s = .next u ∧ u.mem = s.mem ∧
         (u.port (96 + c)).returned = root.returned ++ [(dr.rid, some (Memory.readN s.mem t.pa dr.bytes))]) ∧
       (s.deviceWaits root.below dr sp t = false → dr.write = some d → dr.bytes = 1 ∨ dr.bytes = 2 ∨ dr.bytes = 4 ∨ dr.bytes = 8 →
         t.pa % dr.bytes = 0 → ∃ u : State, exec (.deviceRequest c dr) s = .next u ∧
         u.mem = Memory.writeN s.mem t.pa dr.bytes (d % 2 ^ (8 * dr.bytes)))) ∧
     (root.devOps = r :: rest → r.who.agent = none → serves r.pa = .pcie c → r.drain = false → r.kind = .load n → root.pushes = false →
       ∃ (u : State) (z : Flight), exec (.deviceCompletion c l) s = .next u ∧ (u.port (96 + c)).devOps = rest ∧ u.mem = s.mem ∧ u.net = s.net ++ [z] ∧
         z.dest = .tile r.who.src ∧ z.msg = .ans ⟨r.who, (match l with
           | some y => .value (lowBytes n (y.setWidth 64))
           | none => .refuse 0x06), 0⟩)) ∧
    -- bridges
    (let e := (unitGet (0, 0) (s.ue p).table j : Word × Word)
     let name : BitVec 32 := BitVec.ofNat 32 (0xF0000000 + 32 * j + p)
     (p < 32 → j < 4096 → firstOf (s.net.filter fun f => f.dest == .ue p && s.arrived f) = some f → f.name = some name → f.msg = m →
       (e.1.getLsbD 63 = true → f.sys = false → (s.hallOf f.hall.toNat).bridge = true → e.1.extractLsb' 57 6 = f.hall →
         ∃ u : State, exec (.bridgeOutbound p) s = .next u ∧ u.net = s.net.erase f ∧ u.mem = s.mem ∧
           (u.ue p).sent = (s.ue p).sent ++ [(e.2.extractLsb' 0 32, (e.1.extractLsb' 45 12).toNat, e.2.extractLsb' 32 32, m)]) ∧
       (e.1.getLsbD 63 = false ∨ f.sys = true ∨ (s.hallOf f.hall.toNat).bridge = false ∨ e.1.extractLsb' 57 6 ≠ f.hall →
         ∃ u : State, exec (.bridgeOutbound p) s = .next u ∧ u.mem = s.mem ∧ (u.ue p).sent = (s.ue p).sent)) ∧
     (j < 4096 → e.1.getLsbD 63 = true → s.bearer (e.1.extractLsb' 57 6) (k.word0.extractLsb' 32 32) = some f.pos →
       ∃ (u : State) (z : Flight) (y : Packet), exec (.bridgeInbound p j (e.2.extractLsb' 0 32) (.packet k)) s = .next u ∧ u.mem = s.mem ∧ u.net = s.net ++ [z] ∧ z.dest = .tile f.pos ∧
         z.msg = .packet y ∧ y.payload = k.payload ∧ hdrHall y.word0 = e.1.extractLsb' 57 6 ∧ y.word1.extractLsb' 0 32 = name ∧ y.sys = false) ∧
     (j < 4096 → e.1.getLsbD 63 = true → ∀ nm vc a, s.bearer (e.1.extractLsb' 57 6) nm = some f.pos →
       ∃ (u : State) (z : Flight), exec (.bridgeInbound p j (e.2.extractLsb' 0 32) (.decr nm vc a d)) s = .next u ∧ u.mem = s.mem ∧
         u.net = s.net ++ [z] ∧ z.dest = .tile f.pos ∧ z.vc = vc ∧ z.msg = .decr a d ∧ z.hall = e.1.extractLsb' 57 6 ∧ z.sys = false) ∧
     (e.1.getLsbD 63 = false → ∃ u : State, exec (.bridgeInbound p j (e.2.extractLsb' 0 32) (.packet k)) s = .next u ∧ u.net = s.net ∧ u.mem = s.mem ∧
       (u.ue p).discarded = (s.ue p).discarded + 1))

/-- R419 to R425, R430, R431, R433: PARK quiesces a tile, or parks it at once when nothing runs; the park is complete when its threads
wait and its engines are idle, and its threads are then SAVED with their image in the shadow bank; a PARK and a slice deadline that meet
make one park; a thread that runs on for LIMIT cycles traps PREEMPT_TIMEOUT; UNPARK makes the tile RESTORING, then reloads its threads,
and only then is answered; QUERY reads PCTX; HALLOP is relayed to the children and joins their answers. -/
def Obligations.TilesParkAndResume : Prop :=
  ∀ (s : State) (c : MgmtCmd) (i : Tid),
    let u : Tile := s.tile
    let state (t : Tile) : Nat := (t.pr.pctx.extractLsb' 0 3).toNat
    let h := u.th i
    let told (t : State) (st : BitVec 8) (v : Word) : Prop := ∃ z : Flight, t.net = s.net ++ [z] ∧ z.vc = 14 ∧ z.msg = .cmdAnswer c.agent st c.seq v
    let idle : Prop := (∀ j, (u.th j).state = .free ∧ (u.th j).outc.loads = 0 ∧ (u.th j).outc.stores = 0 ∧ (u.th j).outc.tops = 0) ∧ u.ops = []
    let image (t : State) (o : Nat) : Word := BitVec.ofNat 64 (Memory.readN t.mem (0x800000000000 + s.foc.x * 2147483648 + s.foc.y * 1048576 + 0x40000 + o) 8)
    let quiet : Prop := state u = 1 ∧ (∀ j, (u.th j).state ≠ .run) ∧ u.ops = []
    let reached (w : Word) : Prop := ((s.wtime + u.lag).extractLsb' 0 48 - w.extractLsb' 0 48).getLsbD 47 = false
    let cycles : Nat := ((s.field (fieldOf s.foc)).lcyc - u.parkFrom).toNat
    let begun : Prop := (state u = 1 ∨ state u = 2) ∧ cycles = 0 ∧ s.checkpointing = false
    let joins : Prop := begun ∧ u.pr.pctx.getLsbD 7 = true ∧ u.parkCmd = none
    let goesOn : Prop := state u = 3 ∧ u.parkCmd.getD default = c
    -- PARK
    (state u ≠ 0 ∨ s.checkpointing = true → ¬ joins → ∃ t : State, exec (.park c) s = .next t ∧ t.tile = u ∧ told t 3 0) ∧
    (state u = 0 → s.checkpointing = false → u.pr.balloon.extractLsb' 60 4 = 0 → ∃ t : State, exec (.park c) s = .next t ∧ t.tile = u ∧ told t 1 0) ∧
    (state u = 0 → s.checkpointing = false → u.pr.balloon.extractLsb' 60 4 ≠ 0 → u.monitors = [] →
      (idle → ∃ t : State, exec (.park c) s = .next t ∧ told t 0 0 ∧ state t.tile = 2 ∧ t.tile.pr.pctx.getLsbD 5 = true ∧ t.mem = s.mem ∧
        t.tile.threads = u.threads) ∧
      (h.state = .run → ∃ t : State, exec (.park c) s = .next t ∧ t.net = s.net ∧ state t.tile = 1 ∧ t.tile.parkCmd = some c ∧ t.mem = s.mem ∧
        t.tile.threads = u.threads)) ∧
    (joins → (state u = 2 → ∃ t : State, exec (.park c) s = .next t ∧ t.tile = u ∧ told t 0 0) ∧
      (state u = 1 → ∃ t : State, exec (.park c) s = .next t ∧ t.net = s.net ∧ t.tile = { u with parkCmd := some c } ∧ t.mem = s.mem)) ∧
    -- the slice deadline
    (u.pr.slice.getLsbD 63 = true → reached u.pr.slice → begun → ∃ t : State, exec .sliceTimerFire s = .next t ∧ t.mem = s.mem ∧
      state t.tile = state u ∧ t.tile.pr.pctx.getLsbD 7 = true ∧ t.tile.pr.slice.getLsbD 63 = false ∧ t.tile.threads = u.threads) ∧
    (u.pr.slice.getLsbD 63 = true → reached u.pr.slice → state u = 0 → s.checkpointing = false → u.pr.balloon.extractLsb' 60 4 ≠ 0 →
      u.monitors = [] → h.state = .run → ∃ t : State, exec .sliceTimerFire s = .next t ∧ state t.tile = 1 ∧ t.tile.pr.pctx.getLsbD 7 = true ∧
        t.tile.pr.slice.getLsbD 63 = false ∧ t.tile.threads = u.threads ∧ t.mem = s.mem) ∧
    -- completion
    (quiet → u.monitors = [] → u.arms = [] → u.parkCmd = none → Memory.wf s.mem = true → ∃ t : State, exec .quiescenceComplete s = .next t ∧
      state t.tile = 2 ∧ t.net = s.net ∧
      (h.state = .free → t.tile.th i = h) ∧
      (h.state ≠ .free → (t.tile.th i).state = .saved ∧ (t.tile.th i).savedAs = h.state ∧ (t.tile.th i).g = h.g ∧ (t.tile.th i).pc = h.pc ∧
        (∀ r : GReg, image t (0x600 * i.val + 8 * r.toNat) = h.g[r.toNat]) ∧
        (image t (0x600 * i.val + 0x568)).extractLsb' 0 12 = h.pc12 ∧ image t (0x600 * i.val + 0x5C8) = h.entry ∧
        image t (0x600 * i.val + 0x560) = h.p.zeroExtend 64) ∧
      image t 0x1800 = s.wtime + u.lag) ∧
    (quiet → u.parkCmd = some c → u.monitors = [] → u.arms = [] → ∃ t : State, exec .quiescenceComplete s = .next t ∧ told t 0 0 ∧
      t.tile.parkCmd = none ∧ state t.tile = 2) ∧
    (¬ quiet → state u ≠ 1 ∨ h.state = .run → exec .quiescenceComplete s = .next s) ∧
    (state u = 1 → s.th.state = .run → (u.pr.budget.extractLsb' 0 24).toNat ≤ cycles → u.holding s.tid = false →
      ∃ t : State, exec .preemptTimeout s = .next t ∧ t.th.state = .stop ∧ t.tile.pr.pctx.getLsbD 6 = true ∧ t.mem = s.mem ∧
        t.th.record = some ⟨0, ⟨0x1C, s.th.pc12, 0, BitVec.ofNat 64 (u.pr.budget.extractLsb' 0 24).toNat,
          (if u.pr.pctx.getLsbD 7 then 1 else 0), 0, 0⟩, false⟩) ∧
    -- UNPARK and QUERY
    (state u = 2 → s.checkpointing = false → ∃ t : State, exec (.unpark c) s = .next t ∧ t.net = s.net ∧ t.mem = s.mem ∧ state t.tile = 3 ∧
      t.tile.parkCmd = some c ∧ t.tile.threads = u.threads) ∧
    (state u = 3 → u.parkCmd = some c → s.checkpointing = false → ∃ t : State, exec (.unpark c) s = .next t ∧ told t 0 0 ∧ state t.tile = 0 ∧ t.mem = s.mem ∧
      t.tile.parkCmd = none ∧
      (h.state ≠ .saved → t.tile.th i = h) ∧
      (h.state = .saved → (t.tile.th i).g = h.g ∧ (t.tile.th i).pc = h.pc ∧
        (h.savedAs = .run ∨ h.savedAs = .waitv ∨ h.savedAs = .wtag → (t.tile.th i).state = .run) ∧
        (h.savedAs = .stop ∨ h.savedAs = .halt → (t.tile.th i).state = h.savedAs))) ∧
    (state u ≠ 2 ∨ s.checkpointing = true → ¬ goesOn → ∃ t : State, exec (.unpark c) s = .next t ∧ told t 3 0 ∧ t.tile = u) ∧
    (state u = 1 → exec (.query c) s = .next s) ∧
    (state u ≠ 1 → ∃ t : State, exec (.query c) s = .next t ∧ told t 0 u.pr.pctx ∧ t.tile = u) ∧
    -- HALLOP
    (u.hallop = none → s.net = [] → s.checkpointing = true → ∃ t : State, exec (.hallop c) s = .next t ∧ t.tile = u ∧ told t 3 0) ∧
    (u.hallop = none → s.net = [] → s.checkpointing = false → u.r.parent[0].extractLsb' 26 4 = 0 → c.value.setWidth 8 = (0x23 : BitVec 8) → state u ≠ 1 →
      ∃ (t : State), ∃ z w, exec (.hallop c) s = .next t ∧ t.tile.hallop = none ∧ t.net = [z] ∧ z.msg = .cmdAnswer c.agent 0 c.seq w ∧
        w.extractLsb' 0 32 = 1 ∧ w.extractLsb' 32 24 = 0) ∧
    (u.hallop = none → s.net = [] → s.checkpointing = false → u.r.parent[0].extractLsb' 26 4 = 1 → c.value.setWidth 8 = (0x23 : BitVec 8) →
      ∃ (t : State) (z : Flight), exec (.hallop c) s = .next t ∧ t.net = [z] ∧ z.dest = .tile ⟨s.foc.x, s.foc.y - 1⟩ ∧ z.msg = .hallop c s.foc ∧
        t.tile.hallop.isSome = true)

/-- R393, R427 to R429, R434 to R438: what would enter the inbox of a parked tile goes to its balloon ring until the ring is full, its
TAIL following the port's acknowledgements (that an entry's place is TAIL plus the entries not yet acknowledged, and where a decrement's
words stand in it, are the model's: log 47), and comes back in order with its marks; a tile's timer sends its packet to the tile itself; a
field's token refill shares its pools among the tenants that spend, and EREF shows that of the period before. -/
def Obligations.BalloonsTimersAndTokens : Prop :=
  ∀ (s : State) (f : Flight) (p : Packet) (k : Nat) (v : Word),
    let u : Tile := s.tile
    let blog := (u.pr.balloon.extractLsb' 60 4).toNat
    let head : BitVec 32 := u.pr.balptr.extractLsb' 0 32
    let tail : BitVec 32 := u.pr.balptr.extractLsb' 32 32
    let slot (n : BitVec 32) : Nat := 64 * (u.pr.balloon.extractLsb' 6 42).toNat + 320 * (n.toNat % 2 ^ blog)
    let at_ := tail + BitVec.ofNat 32 u.balWait
    let x := s.field k
    let field (t : State) : Field := t.field k
    let w := u.r.timer
    let reached : Prop := ((s.wtime + u.lag).extractLsb' 0 48 - w.extractLsb' 0 48).getLsbD 47 = false
    -- diversion
    (u.pr.pctx.extractLsb' 0 3 ≠ 0 → blog ≠ 0 → s.net = [f] → f.atTile s.foc = true → f.name = none → f.whole = true → Memory.wf s.mem = true →
      (∀ a d, f.msg = .decr a d → (f.vc = 13 → exec .balloonDiversion s = .next s) ∧
        (f.vc.toNat ≤ 7 → (at_ - head).toNat ≠ 2 ^ blog → ∃ t : State, exec .balloonDiversion s = .next t ∧ t.net = [] ∧
          t.tile.balWait = u.balWait + 1 ∧ t.tile.wq = u.wq ∧ t.tile.balSrc = u.balSrc ++ [⟨f.src, f.sys, true⟩] ∧
          Memory.readN t.mem (slot at_ + 16) 8 = a.toNat ∧ Memory.readN t.mem (slot at_ + 24) 8 = d % 2 ^ 64)) ∧
      (f.msg = .packet p → f.vc ∈ divertedChannels → p.payload = [] →
      ((at_ - head).toNat ≠ 2 ^ blog → ∃ t : State, exec .balloonDiversion s = .next t ∧ t.net = [] ∧ t.tile.balWait = u.balWait + 1 ∧
        t.tile.balSrc = u.balSrc ++ [⟨f.src, f.sys, false⟩] ∧ t.tile.runs = u.runs ∧ Memory.readN t.mem (slot at_) 8 = p.word0.toNat ∧ Memory.readN t.mem (slot at_ + 8) 8 = p.word1.toNat ∧
        Memory.readN t.mem (slot at_ + 256) 8 = (s.wtime + u.lag).toNat ∧
        ∀ a, a < slot at_ ∨ slot at_ + 320 ≤ a → Memory.read t.mem a = Memory.read s.mem a) ∧
      ((at_ - head).toNat = 2 ^ blog → ∃ t : State, exec .balloonDiversion s = .next t ∧ t.net = s.net ∧ t.mem = s.mem ∧ t.tile.balWait = u.balWait))) ∧
    (u.pr.pctx.extractLsb' 0 3 = 0 → tail = head → u.balWait = 0 → exec .balloonDiversion s = .next s) ∧
    (u.balWait ≠ 0 → ∃ t : State, exec .balloonEntryAck s = .next t ∧ t.tile.balWait = u.balWait - 1 ∧ t.mem = s.mem ∧
      t.tile.pr.balptr = (tail + 1) ++ head) ∧
    (u.balWait = 0 → exec .balloonEntryAck s = .next s) ∧
    -- redelivery
    (let w0 : Word := BitVec.ofNat 64 (Memory.readN s.mem (slot head) 8)
     let n := (hdrLen w0 + 2) / 2
     let was := u.balSrc.headD ⟨s.foc, false, false⟩
     u.pr.pctx.extractLsb' 0 3 = 0 → tail ≠ head →
     let rec2 : Word := BitVec.ofNat 64 (Memory.readN s.mem (slot head + 16) 8)
     (was.decr = true → u.foreign (hdrHall w0) was.sys = false → u.wqFree rec2.toNat = true → s.localFirst s.nextSeq = false →
       ∃ t : State, exec .redelivery s = .next t ∧ t.tile.pr.balptr = tail ++ (head + 1) ∧ t.mem = s.mem ∧ t.tile.runs = u.runs ∧
         t.tile.wq = wqMerge u.wq (rec2.toNat / 64)
           (.decr rec2 (Memory.readN s.mem (slot head + 24) 8) (hdrHall w0) was.sys)) ∧
     (was.decr = false → n ≤ qcap u (hdrVc w0).toNat →
     (∀ c0, u.cellTest (hdrVc w0).toNat n = true → u.findRun n = some c0 → ∃ (t : State), ∃ r, exec .redelivery s = .next t ∧
       t.tile.runs = u.runs ++ [r] ∧ r.c0 = c0 ∧ r.n = n ∧ r.vc = hdrVc w0 ∧ r.sys = was.sys ∧ r.src = was.src ∧ t.tile.pr.balptr = tail ++ (head + 1)) ∧
     (u.cellTest (hdrVc w0).toNat n = false → ∃ t : State, exec .redelivery s = .next t ∧ t.tile.runs = u.runs ∧ t.tile.pr = u.pr ∧ t.mem = s.mem))) ∧
    -- the tile timer
    (w.getLsbD 63 = true → reached → u.pr.pctx.extractLsb' 0 3 = 0 → ∃ (t : State), ∃ q, exec .tileTimerFire s = .next t ∧ t.mem = s.mem ∧
      t.tile.r.timer = (w &&& 0x7FFFFFFFFFFFFFFF) ||| 0x4000000000000000 ∧ t.tile.threads = u.threads ∧
      t.tile.inj = u.inj ++ [⟨none, (w.extractLsb' 58 3).zeroExtend 4, .dest (.tile s.foc), .packet q, .no⟩] ∧
      q.payload = [s.wtime + u.lag, (w.extractLsb' 0 48).zeroExtend 64] ∧ hdrEntry q.word0 = w.extractLsb' 48 10 ∧ hdrLen q.word0 = 1) ∧
    (w.getLsbD 63 = false → exec .tileTimerFire s = .next s) ∧
    -- tokens
    (v.toNat ≤ 1 → ∃ t : State, exec (.tctlWrite k v) s = .next t ∧ (field t).tctl = v ∧ t.tile = u ∧ t.mem = s.mem ∧
      (v = 1 → x.tctl.getLsbD 0 = false → (field t).periods = 0 ∧ (field t).tstart = x.lcyc)) ∧
    (1 < v.toNat → exec (.tctlWrite k v) s = .next s) ∧
    (x.tctl.getLsbD 0 = false → exec (.tokenRefill k) s = .next s) ∧
    (x.tctl.getLsbD 0 = true → 1024 * x.periods ≤ (x.lcyc - x.tstart).toNat → s.tiles = [] → fieldOf s.foc = k → 0 < x.periods →
      u.pr.toke.extractLsb' 16 4 = 0 → u.pr.toke.extractLsb' 32 16 ≠ 0 → u.pr.tokm.extractLsb' 32 16 = 0 → u.pr.tokm.getLsbD 31 = false →
      let nt := (x.tten[0].extractLsb' 16 14).toNat
      let weight := (x.tten[0].extractLsb' 0 8).toNat
      0 < nt → 0 < weight → ∃ t : State, exec (.tokenRefill k) s = .next t ∧ t.mem = s.mem ∧ (field t).periods = x.periods + 1 ∧
        (field t).tten[0].extractLsb' 32 32 = x.given[0].extractLsb' 32 32 ∧
        ((field t).given[0].extractLsb' 48 16).toNat = min 65535 ((x.tpool.extractLsb' 0 32).toNat / nt) ∧
        (t.tile.pr.toke.extractLsb' 0 16).toNat = min (u.pr.toke.extractLsb' 48 16).toNat
          ((u.pr.toke.extractLsb' 0 16).toNat + (x.tpool.extractLsb' 0 32).toNat / nt) ∧
        (t.tile.pr.toke.extractLsb' 32 16).toNat = 0 ∧ (t.tile.pr.tokm.extractLsb' 0 16).toNat =
          min (u.pr.tokm.extractLsb' 48 16).toNat (u.pr.tokm.extractLsb' 0 16).toNat)

/-- R439 to R448: a frame marker advances wafer time by one tick everywhere but at tiles that miss it, counts the frame's cycles, and lets
the governor lower MCUR; a missed marker is made up at φ = 5·2^14; MCUR rises at the marker after 4,096 cool ticks; a droop stretches; a
skewed crossing is corrected until its delay line is reset at a marker; the close of a pulse window counts the misses of silent tiles and
fails the third, after a checkpoint if one is being made. That a frame is filled up to MCUR cycles at its marker is the model's choice
(log 5). -/
def Obligations.ClocksKeepWaferTime : Prop :=
  ∀ (s : State) (missed : List Coord) (f n : Nat) (later : List Nat) (c : Coord),
    let u : Tile := s.tile
    let x := s.field f
    let mset (y : Field) : Nat := (y.fclk.extractLsb' 0 5).toNat
    let mcur (y : Field) : Nat := (y.fclk.extractLsb' 8 5).toNat
    let str (y : Field) : Bool := y.fclk.getLsbD 16
    let per := if str x then 4 * mcur x / 5 else mcur x
    let rest (y : Field) (per : Nat) : Nat := (per * (65536 / per) - y.phase) / (65536 / per)
    let hot : Prop := (x.fgov.extractLsb' 0 8).toNat < (x.fgov.extractLsb' 32 8).toNat ∨ (x.fgov.extractLsb' 16 16).toNat < x.power
    let here := s.field (fieldOf s.foc)
    let pace := if str here then 4 * mcur here / 5 else mcur here
    let phase : Nat := here.phase + rest here pace * (65536 / pace)
    let made : Bool := decide (81920 ≤ (phase : Int) + u.extra)
    let g := s.gallery (fieldOf s.foc)
    let due : Nat := 65536 * (x.closed + 1) + (32768 * n + 4095) / 4096
    let closes : Prop := x.slows = n :: later ∧ due ≤ s.wtime.toNat
    let counted : Prop := n = 4096 ∧ str x = false ∧ x.fclk.getLsbD 17 = false ∧ x.waves = []
    let ours : Prop := isCompute c = true ∧ fieldOf c = f ∧ (s.tileAt c).absent = false
    -- the marker
    (∃ t : State, exec (.frameMarker missed []) s = .next t ∧ t.wtime = s.wtime + 1 ∧ t.mem = s.mem ∧ t.net = s.net ∧ t.tile.threads = u.threads ∧
      t.tile.r = u.r ∧ t.tile.lag = u.lag + (if made then 1 else 0) - (if s.foc ∈ missed then 1 else 0) ∧
      t.tile.extra = (if s.foc ∈ missed then u.extra - (if made then 65536 else 0) + phase else 0) ∧
      (f < 80 → (t.field f).phase = 0 ∧ (t.field f).lcyc = x.lcyc + BitVec.ofNat 64 (rest x per) ∧
        mset (t.field f) = mset x ∧
        mcur (t.field f) = (if (hot ∧ x.hotTicks % 16 = 0 ∧ 12 < mcur x) ∨ mset x < mcur x then mcur x - 1 else mcur x) ∧
        (t.field f).slows = (if (s.wtime + 1).toNat % 65536 = 0 then x.slows ++ [min 65535 (65536 * mset x * 4096 / (x.cyclesRun + rest x per))]
          else x.slows))) ∧
    (isGallery s.foc = false → 81920 ≤ (here.phase : Int) + u.extra → ∃ t : State, exec .missingMarker s = .next t ∧ t.tile.lag = u.lag + 1 ∧ t.tile.extra = u.extra - 65536 ∧
      t.wtime = s.wtime ∧ t.mem = s.mem ∧ t.tile.threads = u.threads ∧ ((t.field (fieldOf s.foc)).fslow.extractLsb' 48 16).toNat =
        min 65535 ((here.fslow.extractLsb' 48 16).toNat + 1)) ∧
    (isGallery s.foc = false → (here.phase : Int) + u.extra < 81920 → exec .missingMarker s = .next s) ∧
    (isGallery s.foc = true → 81920 ≤ (here.phase : Int) + g.extra → ∃ t : State, exec .missingMarker s = .next t ∧ t.tile = u ∧
      (t.gallery (fieldOf s.foc)).lag = g.lag + 1 ∧ (t.gallery (fieldOf s.foc)).extra = g.extra - 65536 ∧ t.wtime = s.wtime) ∧
    -- the governor
    (4096 < x.coolTicks → mcur x < mset x → x.phase = 0 → ∃ t : State, exec (.clockRaise f) s = .next t ∧ mcur (t.field f) = mcur x + 1 ∧
      mset (t.field f) = mset x ∧ (t.field f).coolTicks = 1 ∧ t.tile = u ∧ t.mem = s.mem) ∧
    (x.coolTicks ≤ 4096 ∨ mset x ≤ mcur x ∨ x.phase ≠ 0 → exec (.clockRaise f) s = .next s) ∧
    (∃ t : State, exec (.stretch f) s = .next t ∧ str (t.field f) = true ∧ mcur (t.field f) = mcur x ∧ (t.field f).stretchFrom = x.lcyc ∧
      t.tile = u ∧ t.mem = s.mem ∧ ((t.field f).fslow.extractLsb' 16 32).toNat =
        (if str x then (x.fslow.extractLsb' 16 32).toNat else min (4294967296 - 1) ((x.fslow.extractLsb' 16 32).toNat + 1))) ∧
    (fieldOf c = f → s.wtime.toNat % 1048576 = 0 → c ∉ x.corrections → ∃ t : State, exec (.delayLineRemeasure [(c, true)]) s = .next t ∧
      t.field f = { x with corrections := x.corrections ++ [c] } ∧ t.tile = u ∧ t.mem = s.mem) ∧
    (fieldOf c = f → x.phase ≠ 0 → exec (.delayLineRemeasure [(c, false)]) s = .next s) ∧
    (fieldOf c = f → x.phase = 0 → ∃ t : State, exec (.delayLineRemeasure [(c, false)]) s = .next t ∧
      t.field f = { x with corrections := x.corrections.filter (· != c) } ∧ t.tile = u ∧ t.mem = s.mem) ∧
    -- pulse windows
    (x.slows = [] → exec (.pulseWindowClose f [c]) s = .next s) ∧
    (x.slows = n :: later → s.wtime.toNat < due → exec (.pulseWindowClose f [c]) s = .next s) ∧
    (closes → x.misses = [] → ∃ t : State, exec (.pulseWindowClose f []) s = .next t ∧ t.field f = { x with closed := x.closed + 1, slows := later } ∧ t.tile = u) ∧
    (closes → counted → ours → x.misses = [(c, 1)] → ∃ t : State, exec (.pulseWindowClose f [c]) s = .next t ∧ t.tile = u ∧ t.mem = s.mem ∧
      t.field f = { x with closed := x.closed + 1, slows := later, misses := [(c, 2)] }) ∧
    (closes → counted → ours → x.misses = [(c, 2)] → ∃ t : State, exec (.pulseWindowClose f []) s = .next t ∧ (t.field f).misses = [] ∧ t.tile = u) ∧
    (closes → counted → ours → x.misses = [(c, 2)] → s.checkpointing = true → ∃ t : State, exec (.pulseWindowClose f [c]) s = .next t ∧
      t.tile = u ∧ t.field f = { x with closed := x.closed + 1, slows := later, misses := [], doomed := x.doomed ++ [c] }) ∧
    (closes → counted → ours → x.misses = [(c, 2)] → s.checkpointing = false → x.stair (stairOf c) = stairReset (stairOf c) →
      (∀ k ∈ stairCoords f (stairOf c), placeOf k (s.tileAt k) = logicalPlace k) → logicalPlace c < 27 → ∃ t : State, exec (.pulseWindowClose f [c]) s = .next t ∧ (t.tileAt c).absent = true ∧
        (t.field f).closed = x.closed + 1 ∧ (t.field f).misses = [] ∧ ((t.field f).stair (stairOf c)).extractLsb' 62 2 = 1)

/-- R449 to R456, R61: REPAIR of an intact stair's tile starts a shift wave; each tile below it moves one place down when it is parked and
idle, and after the last a fresh tile stands for the lost position; a rebuild of a hall's kite lines gives its tiles their parents. The
model's choices: the reset values of a fresh tile's threads (log 1), and what becomes of a lost tile's messages and requests (log 68). -/
def Obligations.RepairShiftsStairsAndRebuildsLines : Prop :=
  ∀ (s : State) (c : MgmtCmd) (w : Wave) (h nlines : Nat) (x : Coord),
    let u : Tile := s.tile
    let f := fieldOf s.foc
    let st := 128 * (s.foc.y % 112 / 28) + s.foc.x % 128
    let place := u.prow - 29 * (s.foc.y % 112 / 28)
    let stair (t : State) (i : Nat) : Word := (t.field f).stair i
    let told (t : State) (code : BitVec 8) : Prop := ∃ z ∈ t.net, z.vc = 14 ∧ z.msg = .cmdAnswer c.agent code c.seq 0
    let still : Prop := u.pr.pctx.extractLsb' 0 3 = 2 ∧ u.ops = [] ∧ u.copies = [] ∧ u.wq = [] ∧ u.monitors = []
    let intact : Prop := (stair s st).extractLsb' 62 2 = 0 ∧ ∀ k ∈ stairCoords f st, placeOf k (s.tileAt k) = logicalPlace k
    let fresh (t : Tile) (row : Nat) : Prop := t.absent = false ∧ t.prow = row ∧ t.runs = [] ∧ t.ops = [] ∧
      (∀ i : Tid, t.th i = Thread.reset)
    -- REPAIR
    (isCompute s.foc = false ∨ (u.absent = true ∧ (s.field f).waves = []) → ∃ t : State, exec (.repair c) s = .next t ∧ told t 1 ∧ t.tile = u) ∧
    (isCompute s.foc = true → u.absent = false → s.checkpointing = true → exec (.repair c) s = .next s) ∧
    (isCompute s.foc = true → u.absent = false → s.checkpointing = false → intact → place < 27 →
      ∃ t : State, exec (.repair c) s = .next t ∧ t.tile.absent = true ∧ (∀ i : Tid, (t.tile.th i).state = .free) ∧
        (stair t st).extractLsb' 62 2 = 1 ∧ ((stair t st).extractLsb' 57 5).toNat = place ∧
        ∃ v, (t.field f).waves = (s.field f).waves ++ [v] ∧ v.stair = st ∧ v.failed = place ∧ v.place = 27 ∧ v.lost = s.foc ∧ v.cmd = some c) ∧
    (isCompute s.foc = true → u.absent = false → s.checkpointing = false → intact → place = 27 →
      (s.field f).waves = [] → ∃ t : State, exec (.repair c) s = .next t ∧ told t 0 ∧ fresh t.tile (29 * (st / 128) + 28) ∧
        t.tile.r.name = u.r.name ∧ t.tile.r.hall = u.r.hall ∧ (t.field f).waves = [] ∧ (stair t st).extractLsb' 62 2 = 2) ∧
    -- a step of the wave
    ((s.field f).waves = [w] → w.stair = st → s.foc ≠ w.lost → place = w.place → still →
      (w.place - 1 ≠ w.failed → ∃ t : State, exec .shiftStep s = .next t ∧ t.tile.prow = u.prow + 1 ∧ (t.field f).waves = [{ w with place := w.place - 1 }] ∧
        t.mem = s.mem ∧ (∀ i : Tid, (t.tile.th i).g = (u.th i).g) ∧ (w.held.contains s.foc = true → t.tile.pr.pctx.extractLsb' 0 3 = 3) ∧
        (w.held.contains s.foc = false → t.tile.threads = u.threads)) ∧
      (w.place - 1 = w.failed → ∃ t : State, exec .shiftStep s = .next t ∧ t.tile.prow = u.prow + 1 ∧ (t.field f).waves = [] ∧
        fresh (t.tileAt w.lost) (29 * (st / 128) + w.failed + 1))) ∧
    ((s.field f).waves = [w] → w.stair = st → ¬ still ∨ place ≠ w.place → exec .shiftStep s = .next s) ∧
    -- kite lines
    (nlines = 0 ∨ 4 < nlines → exec (.kiteLineRebuild h nlines) s = .next s) ∧
    (s.net = [] → s.hallTiles h = [x] → (s.tileAt x).absent = false → ∃ t : State, exec (.kiteLineRebuild h 1) s = .next t ∧
      (t.tileAt x).r.parent[0] = 0xC0000000 ∧ (t.tileAt x).r.parent[1] = 0 ∧ (t.tileAt x).r.kitew.extractLsb' 4 12 = 0 ∧
      (t.hallOf h).rebuilds = (s.hallOf h).rebuilds + 1 ∧ (t.hallOf h).stale = false ∧ (t.hallOf h).nlines = 1)

/-- R64 to R66, R457 to R463: a placement record that fails a check is rejected with its offset; a valid one clears its hall's tiles,
keeps its packets for the waves of step 6, and enables dispatch; a boot resets the wafer and takes the bank and the log of the flash, or
enters minimal mode; the watchdog resets a boot that never reports OK and boots again; TFTP reads the status and replaces a bank of the
flash in minimal mode only. The model's choices: the order in which a record's faults are found (log 17), how a hall is enabled for
bridges (log 25), when a boot is full and what a boot's tests find (log 64). -/
def Obligations.LaunchAndBootBringTheWaferUp : Prop :=
  ∀ (s : State) (h off tenant : Nat) (rec : List (BitVec 8)) (p : Placement) (x : BootFindings) (r : BitVec 8) (px py wave : Nat) (k : Packet) (img : List (BitVec 8))
    (hi bank : Bool) (v : Word),
    let b := s.boot
    let cs := s.hallTiles h
    let box := s.hallBox h
    let low (t : State) : Prop := Memory.wf s.mem = true → ∀ a, a < 0x800000000000 → Memory.read t.mem a = Memory.read s.mem a
    let fails := (b.bootst.extractLsb' 2 2).toNat
    let offered : Word := if hi then Config.featuresOffered.extractLsb' 64 64 else Config.featuresOffered.setWidth 64
    let wrote : Bool := if hi then b.accWritten.2 else b.accWritten.1
    let start : Nat := if bank then 201326592 else 0
    let byte (b : Boot) (a : Nat) : BitVec 8 := Tab.get flashBlank b.flash a
    -- launch
    (s.readPlacement h rec = .error off → ∃ t : State, exec (.launch h ⟨tenant, rec⟩) s = .next t ∧ t.hallOf h = { s.hallOf h with rejected := some off } ∧
      t.tile = s.tile ∧ t.mem = s.mem ∧ t.net = s.net) ∧
    (rec.take 4 ≠ [0x46, 0x59, 0x50, 0x4C] → s.readPlacement h rec = .error 0) ∧
    (rec.take 4 = [0x46, 0x59, 0x50, 0x4C] → rec.getD 4 0 ≠ 1 → s.readPlacement h rec = .error 4) ∧
    (h < 64 → s.readPlacement h rec = .ok p → ∃ t : State, exec (.launch h ⟨tenant, rec⟩) s = .next t ∧ (t.hallOf h).waves = p.packets ∧ (t.hallOf h).rejected = none ∧
      (t.hallOf h).rent = p.rent ∧ (t.hallOf h).tenant = tenant ∧ (t.hallOf h).nlines = p.nlines ∧ (t.hallOf h).bridge = p.features.getLsbD 3 ∧ t.net = s.net ∧
      ∀ c ∈ cs, (s.tileAt c).absent = false → (t.tileAt c).dispatchOn = true ∧ (t.tileAt c).runs = [] ∧ (t.tileAt c).ring = [] ∧
        ∀ i : Tid, ((t.tileAt c).th i).state = .free) ∧
    ((s.hallOf h).waves = [] → exec (.initialPacketWave h) s = .next s) ∧
    (h < 64 → (s.hallOf h).waves = [(px, py, wave, k)] → s.stewardBusy (s.stewardOf h) cs = false →
      isCompute ⟨box.1 + px, box.2.1 + py⟩ = true → ∃ (t : State), ∃ z q, exec (.initialPacketWave h) s = .next t ∧
      (t.hallOf h).waves = [] ∧ t.net = s.net ++ [z] ∧ z.dest = .tile ⟨box.1 + px, box.2.1 + py⟩ ∧ z.vc = hdrVc k.word0 ∧ z.msg = .packet q ∧
      q.payload = k.payload ∧ hdrHall q.word0 = BitVec.ofNat 6 h ∧ hdrEntry q.word0 = hdrEntry k.word0 ∧ t.mem = s.mem ∧ t.tile = s.tile) ∧
    -- boot
    (x.powerCycle = false → b.powered = true → b.minimal = none →
      (b.minimalReason x fails = some r → ∃ t : State, exec (.boot x) s = .next t ∧ t.boot.minimal = some r ∧ t.boot.bootst.extractLsb' 24 8 = r ∧
        t.boot.uart = b.uart ++ [r] ∧ t.boot.bootst.getLsbD 1 = false ∧ t.wtime = 0 ∧ t.net = [] ∧ t.tile = Tile.reset ⟨0, 0⟩) ∧
      (∀ g, b.minimalReason x fails = none → b.pickBank = .ok bank → b.image = none → fails = 0 → b.bootst.getLsbD 16 = false →
        x.links = [] → b.logInUse = some (g, []) ∨ b.logInUse = none ∧ x.failed = [] ∧ x.ports = [] ∧ x.places = [] →
        ∃ t : State, exec (.boot x) s = .next t ∧ t.boot.minimal = none ∧ t.boot.bootst.getLsbD 1 = false ∧ t.boot.bootst.extractLsb' 2 2 = 0 ∧
          t.boot.bootst.getLsbD 17 = b.logInUse.isSome ∧ t.boot.bootst.getLsbD 18 = bank ∧ (∀ a, a < 16 → (t.hartAt a).image = some bank) ∧
          t.wtime = 0 ∧ t.net = [] ∧ t.tile = Tile.reset ⟨0, 0⟩ ∧ t.tiles = [] ∧ t.boot.powered = true ∧ (x.retained = true → low t))) ∧
    (fails = 3 → b.minimalReason x fails = some 3) ∧
    (b.bootst.getLsbD 1 = false → b.minimal = none → 65536 * b.boottmo.toNat ≤ s.wtime.toNat → ∃ t : State, exec .bootWatchdog s = .next t ∧
      t.wtime = 0 ∧ (t.boot.bootst.extractLsb' 2 2).toNat = min 3 (fails + 1) ∧ t.boot.bootst.getLsbD 17 = false ∧ t.boot.resets = b.resets + 1 ∧
      (fails = 2 → t.boot.minimal = some 3 ∧ t.boot.uart = b.uart ++ [3] ∧ t.tile = Tile.reset ⟨0, 0⟩ ∧ t.tiles = [] ∧ low t)) ∧
    (b.bootst.getLsbD 1 = true ∨ b.minimal ≠ none ∨ s.wtime.toNat < 65536 * b.boottmo.toNat → exec .bootWatchdog s = .next s) ∧
    (∃ t : State, exec .bootOk s = .next t ∧ t.boot.bootst.getLsbD 1 = true ∧ t.boot.bootst.extractLsb' 2 2 = 0 ∧ t.tile = s.tile ∧ t.mem = s.mem ∧
      t.boot.bootst.extractLsb' 16 48 = b.bootst.extractLsb' 16 48) ∧
    -- the flash and the features
    (b.minimal = some r → exec .tftpStatusRead s = .next { s with boot := { b with tftpStatus := some b.bootst } } ∧
      (Tab.wf flashBlank b.flash = true → img.length ≤ 201326592 → ∃ t : State, exec (.tftpBankWrite bank img) s = .next t ∧ t.tile = s.tile ∧
        t.mem = s.mem ∧ ∀ a, byte t.boot a = (if start ≤ a ∧ a < start + 201326592 then img.getD (a - start) 0xFF else byte b a))) ∧
    (b.minimal = none → exec .tftpStatusRead s = .next s ∧ exec (.tftpBankWrite bank img) s = .next s) ∧
    (wrote = false → v &&& ~~~offered = 0 → ∃ t : State, exec (.featureAccept hi v) s = .next t ∧ t.tile = s.tile ∧ t.mem = s.mem ∧
      t.boot.featacc.extractLsb' (if hi then 64 else 0) 64 = v ∧ (if hi then t.boot.accWritten.2 else t.boot.accWritten.1) = true) ∧
    (wrote = true ∨ v &&& ~~~offered ≠ 0 → exec (.featureAccept hi v) s = .next s)

/-- R468 to R473: GO parks the wafer's tiles; with parking done the images are written in the keep areas, and when they are COMPLETE the
tiles that were LIVE resume if RESUME is set, then or later, and a tile declared dead meanwhile fails; a failing supply or an
over-temperature writes GO and removes power 12 ms later; a valid token unlocks JTAG, whose IDCODE, BYPASS and boundary scan are there at
all times. The model's choices: where a header's fields and a slot's contents lie (log 23), and when power goes (log 64). -/
def Obligations.CheckpointsAndPowerFailuresSaveTheWafer : Prop :=
  ∀ (s : State) (c : Coord) (valid : Bool) (w : Word),
    let b := s.boot
    let ck (t : State) : Nat := (t.boot.ckctl.extractLsb' 60 2).toNat
    let state (t : Tile) : Nat := (t.pr.pctx.extractLsb' 0 3).toNat
    let keep (i : Nat) : Nat := 68719476736 * i + 62277025792
    let outside (t : State) : Prop := ∀ a, (∀ i, i < 96 → a < keep i ∨ keep i + 36 ≤ a) → Memory.read t.mem a = Memory.read s.mem a
    let live : Prop := isCompute c = true ∧ (s.tileAt c).absent = false ∧ state (s.tileAt c) = 0
    let goes (i : Instr) (at_ : Option Word) : Prop := ∃ t : State, exec i s = .next t ∧ ck t = 1 ∧
      (t.boot.ckctl.extractLsb' 0 32) = (b.ckctl.extractLsb' 0 32 : BitVec 32) + 1 ∧ t.boot.failAt = at_ ∧ t.wtime = s.wtime ∧ t.mem = s.mem ∧
      (live → state (t.tileAt c) = 1 ∨ state (t.tileAt c) = 2) ∧ (live → c ∈ t.boot.ckParked) ∧
      ∀ i : Tid, ((t.tileAt c).th i).g = ((s.tileAt c).th i).g
    let n := 1024 * s.foc.y + s.foc.x
    let slot : Nat := keep (n % 96) + 163840 * (n / 96 + 1)
    let alone : Prop := isCompute s.foc = true ∧ s.tiles = [] ∧ s.ports = [] ∧ s.tile.acc = [] ∧ s.tile.cst = [] ∧ s.tile.knots = [] ∧
      (∀ y ∈ s.mem, y.1 < 0x800000000000) ∧ ∀ y ∈ s.desc, 64 * y.1 < 0x800000000000
    let intact (c : Coord) : Prop := (s.field (fieldOf c)).stair (stairOf c) = stairReset (stairOf c) ∧
      ∀ k ∈ stairCoords (fieldOf c) (stairOf c), placeOf k (s.tileAt k) = logicalPlace k
    -- GO
    (b.goPending = false → (ck s = 0 ∨ ck s = 3) → goes .checkpointGo b.failAt ∧
      (b.failAt = none → goes .powerFail (some s.wtime) ∧ goes .overTemperature (some s.wtime))) ∧
    (b.goPending = false → (ck s = 1 ∨ ck s = 2) → exec .checkpointGo s = .next s) ∧
    -- writing and completing
    (ck s = 1 → b.goPending = false → s.parkingDone = true → ∃ t : State, exec .checkpointWriting s = .next t ∧ ck t = 2 ∧ t.boot.image = none ∧
      t.tile = s.tile ∧ (Memory.wf s.mem = true → outside t ∧ ∀ i, i < 96 → Memory.readN t.mem (keep i + 32) 4 = 0)) ∧
    (ck s ≠ 1 ∨ s.parkingDone = false → exec .checkpointWriting s = .next s) ∧
    (ck s = 2 → (∀ f, f < 80 → (s.field f).doomed = []) → ∃ t : State, exec .checkpointDone s = .next t ∧ ck t = 3 ∧ t.boot.cktime = s.wtime ∧
      (Memory.wf s.mem = true → ∀ i, i < 96 → Memory.readN t.mem (keep i) 4 = 0x4B504B5A ∧
        Memory.readN t.mem (keep i + 4) 4 = (b.ckctl.extractLsb' 0 32 : BitVec 32).toNat ∧ Memory.readN t.mem (keep i + 32) 4 = 1) ∧
      (Memory.wf s.mem = true → alone → Memory.readN t.mem (slot + 0x1FD08) 8 = s.tile.r.name.toNat ∧
        ∀ a, (∀ i, i < 96 → a < keep i ∨ keep i + 2147483648 ≤ a) → Memory.read t.mem a = Memory.read s.mem a) ∧
      (∃ i, t.boot.image = some i ∧ i.seq = b.ckctl.extractLsb' 0 32 ∧ i.time = s.wtime ∧ i.net = s.net ∧
        (isCompute s.foc = true → (s.foc, s.tile) ∈ i.tiles)) ∧
      (b.ckctl.getLsbD 62 = false → t.tile = s.tile) ∧
      (b.ckctl.getLsbD 62 = true → b.ckParked = [c] → state (s.tileAt c) = 2 → state (t.tileAt c) = 3)) ∧
    (ck s = 2 → b.ckctl.getLsbD 62 = false → (∀ f, f < 80 → (s.field f).doomed = (if f = fieldOf c then [c] else [])) → live → intact c →
      logicalPlace c < 27 → ∃ t : State, exec .checkpointDone s = .next t ∧ ck t = 3 ∧ (t.tileAt c).absent = true ∧
        (t.field (fieldOf c)).doomed = []) ∧
    (ck s = 3 → b.ckctl.getLsbD 62 = true → b.ckParked = [c] → state (s.tileAt c) = 2 → ∃ t : State, exec .checkpointDone s = .next t ∧
      state (t.tileAt c) = 3 ∧ t.boot.ckParked = [] ∧ t.mem = s.mem) ∧
    (ck s < 2 ∨ ck s = 3 ∧ (b.ckParked = [] ∨ b.ckctl.getLsbD 62 = false) → exec .checkpointDone s = .next s) ∧
    -- power
    (b.failAt = some w → 480000 ≤ (s.wtime - w).toNat → exec .powerFail s = .next { s with boot := { b with powered := false } } ∧
      exec .overTemperature s = .next { s with boot := { b with powered := false } }) ∧
    (b.failAt = some w → (s.wtime - w).toNat < 480000 → exec .powerFail s = .next s ∧ exec .overTemperature s = .next s) ∧
    (b.powered = false → s.agenda = [] → step s = .fault .unpowered) ∧
    -- JTAG
    exec (.jtagUnlock (.unlock valid)) s = .next { s with boot := { b with jtag := b.jtag || valid } } ∧
    (∀ z, z = .idcode ∨ z = .bypass valid ∨ z = .sample → ∃ v, exec (.jtagUnlock z) s = .next { s with boot := { b with jtagData := v } }) ∧
    exec (.jtagUnlock (.bypass valid)) s = .next { s with boot := { b with jtagData := if valid then 1 else 0 } }

/-- R174 and the encoding tables: the words that encode gives a well-formed instruction decode to that instruction, whatever words follow
them. -/
def Obligations.DecodeReadsBackEveryEncoding : Prop :=
  ∀ (i : Instr) (rest : List IWord), i.wf = true → encode i ≠ [] → readWords (encode i ++ rest) = .ok i

/-- R165, R174 to R176: whatever decodes is well formed and is no event; the worked encoding of the encoding chapter and the examples of
the instruction chapters decode to the instructions they stand for, the word with L = 10 in an I form is refused by its length, and erased
and zero words by their major. -/
def Obligations.WordsDecodeAsTheChaptersWriteThem : Prop :=
  (∀ (ws : List IWord) (i : Instr), readWords ws = .ok i → i.wf = true ∧ encode i ≠ []) ∧
  readWords [0x004C8540] = .ok (.ld 3 5 4 2) ∧ readWords [0xFFE08408] = .ok (.addi 4 4 (-8)) ∧
  readWords [0x0000205C] = .ok (.waitc 0 2 0 0) ∧ readWords [0xFFFFB12C] = .ok (.br 1 false true (-3)) ∧
  readWords [0x00000609, 0, 1] = .ok (.addiLiteral 6 0 0x100000000) ∧ readWords [0xFFFFF938] = .ok (.jmp (-7)) ∧
  readWords [0x01808330] = .ok (.loop 4 3) ∧ readWords [0x01000030] = .ok .ret ∧ readWords [0x000C0054] = .ok (.alloc 3) ∧
  readWords [0x00000074] = .ok .done ∧ readWords [0x2180C54A, 0, 0x400] = .ok (.stg ⟨.none, 3, 5, 6, .imm 0x400⟩) ∧
  readWords [0x01A0E062, 0, 0x00403401] = .ok (.post .none 7 8 true 13 1) ∧
  readWords [0x03D68576, 0x00010000, 6] = .ok (.scall .none 5 20 21 1 6) ∧ readWords [0x00082488] = .ok (.vfma none 4 1 (.v 2)) ∧
  readWords [0x0080088E, 0, 4] = .ok (.vqnt .none none 8 0 false .e4m3) ∧
  readWords [0x000080C2, 0, 0] = .ok (.mldb .none 4 0 0) ∧
  readWords [0x0000A0C6, 0x00010000, 0x20] = .ok (.mmac ⟨.none, 5, 1, 0, 1⟩ false 0 0) ∧
  readWords [0x0100C0CE, 0x7F050000, 0x00100001] = .ok (.acst .none 5 6 0 1 0x7F false none .fp32) ∧
  readWords [0xFFE0840A] = .error .illegalLength ∧ readWords [0xFFFFFFFF] = .error .illegalMajor ∧ readWords [0] = .error .illegalMajor

/-- R165, R168, R174, R217, R53, R439: the thread whose turn it is runs the instruction that the words at its PC decode to; words that do
not decode, or that end beyond word 4095, trap ILLEGAL_INSN; an instruction waits for the answers its registers await, and for unconfirmed
engine operations it may not run ahead of. A frame marker that is due comes first. The turn, the agenda, the skipped breakpoint and what
follows a marker are the model's scheduling (DESIGN CHOICE, log 3). -/
def Obligations.StepRunsTheFetchedInstruction : Prop :=
  ∀ (s : State) (i : Instr) (rest : List (Coord × Tid × Option Instr)) (c : Coord) (j : Tid) (e : Instr),
    let t := s.th
    let pc := t.pc.toNat
    let word (k : Nat) : IWord := if pc + k < 4096 then BitVec.ofNat 32 (Memory.readN s.mem (s.pa (0x10000 + 4 * (pc + k))) 4) else 0
    let read := decode (word 0) (word 1) (word 2) (word 3) (word 4)
    let s1 : State := { s with turn := true }
    let runs : Prop := s.agenda = [] ∧ s.boot.powered = true ∧ s.boot.minimal = none
    let turns : Prop := runs ∧ s.frameDue = false ∧ s.turn = false ∧ s.ready s.foc s.tid = true ∧ s.offered = false ∧
      t.deferred = none ∧ t.cycles < s.tile.limit ∧ (s.tile.pstate = 1 → s.parkCycles s.foc < s.tile.limit) ∧
      (t.heldWait = false ∨ t.wait ≠ .none) ∧ (s.atBreak = false ∨ t.skipBkpt = true)
    let held : State := if i.isEngine then s1.stall else s1.confirmWait
    (turns →
      (read = .ok i → pc + lengthOf (word 0) ≤ 4096 →
        (t.waitsFor i = true → step s = .next s1.stall) ∧
        (t.waitsFor i = false → s.unconfirmed = false → t.skipBkpt = false → step s = exec i s1) ∧
        (t.waitsFor i = false → s.unconfirmed = false → t.skipBkpt = true → step s = mapNext (fun u => u.mapTh (·.issued)) (exec i s1)) ∧
        (t.waitsFor i = false → s.unconfirmed = true → i.confined = false → i.isEngine = false → step s = .next s1.confirmWait) ∧
        (t.waitsFor i = false → s.unconfirmed = true → i.confined = true ∨ i.isEngine = true → t.skipBkpt = false →
          ∀ u, exec i s1 = .next u → step s = .next
            (if u.th.state = .stop ∨ (i.isEngine = false ∧ (u.th.loop ≠ t.loop ∨ u.th.srseq ≠ t.srseq)) then held else u))) ∧
      ((∀ x, read ≠ .ok x) ∨ 4096 < pc + lengthOf (word 0) →
        (s.unconfirmed = false → step s = .next s1.trapIllegal) ∧ (s.unconfirmed = true → step s = .next s1.stall))) ∧
    (runs → s.frameDue = true → step s = mapNext (fun u => u.retried.afterMarker []) (exec (.frameMarker [] []) (s.focus s.foc s.tid))) ∧
    (s.agenda = (c, j, some e) :: rest → s.boot.powered = true → s.boot.minimal = none → e.fetched = false →
      (s.tileAt c).absent = false ∨ e.ofUnit = true →
      let o := exec e (({ s with agenda := rest } : State).focus c j)
      (∀ m r, e = .frameMarker m r → step s = mapNext (fun u => u.retried.afterMarker r) o) ∧
      ((∀ m r, e ≠ .frameMarker m r) → step s = mapNext (·.retried) o))

/-- The model's memory and descriptors stay in their canonical form whatever the step does; the instructions and events of every family
are among the steps. -/
def Obligations.StepKeepsStoresCanonical : Prop :=
  ∀ s t : State, s.stored = true → step s = .next t → t.stored = true

/-- What a wafer reset leaves, as the register maps and R38, R79 and R289 give it; the registers whose reset value is the model's own (log
1) are not named here. -/
def Obligations.ResetLeavesWhatTheRegisterMapsSay : Prop :=
  State.reset.stored = true ∧ (∀ k, State.reset.descAt k = 0) ∧ State.reset.wtime = 0 ∧
  (∀ c : Coord,
    let t := State.reset.tileAt c
    t.r = { tags := 0, name := 0, hall := 0x80, treepool := 0, treecfga := 0x3F8000003FC00000, treecfgb := 0, treereg := 0, cellmode := 0,
            pwin := Vector.replicate 4 0, parent := Vector.replicate 4 0, kitew := 1, timer := 0, perfsel := 0,
            perf := Vector.replicate 4 0 } ∧
    t.pr.entrybase = 0 ∧ t.pr.budget = 65536 ∧ t.pr.vcw = 0x11111111 ∧ t.pr.hallmap = 0 ∧ t.pr.spaces = 0 ∧
    t.pr.trapdest = BitVec.ofNat 64 (0xFF000001 + 0x10000 * (8 * (c.y / 112) + c.x / 128)) ∧ t.pr.pctx = 0 ∧ t.pr.balloon = 0 ∧
    t.pr.balptr = 0 ∧ t.pr.slice = 0 ∧ t.pr.qlim.toList = List.replicate 14 0x1000000 ++ [0x1000010, 0x1000010] ∧
    t.pr.bkpt = Vector.replicate 4 0 ∧ t.pr.watch = Vector.replicate 4 0 ∧ t.pr.rtex = Vector.replicate 16 0 ∧
    t.credits = Vector.replicate 8 1 ∧ t.window = [] ∧ t.uprog = 0 ∧ t.comb = 0 ∧ t.init = 4 ∧
    ∀ i : Tid, (t.th i).rmode = 0x1F00 ∧ (t.th i).fflags = 0 ∧ (t.th i).tcm = false ∧ (t.th i).srseq = 0 ∧ (t.th i).rstore = [] ∧
      (t.th i).vtag = Vector.replicate 16 0 ∧ (t.th i).entry = 0 ∧ (t.th i).outc = ⟨0, 0, 0, 0⟩ ∧ (t.th i).loop = ⟨false, 0, 0, 0⟩) ∧
  ∀ f : Nat, (State.reset.field f).fclk = 0x1414 ∧ (State.reset.field f).fgov = 0x00A45A5F ∧ (State.reset.field f).fslow = 0x1000 ∧
    (State.reset.field f).lcyc = 0 ∧ ∀ k : Nat, (State.reset.ring f k).weight = 1 ∧ (State.reset.ring f k).swtmo = 0x100000
end

