-- ==== Sys2Proof/Laws/State.lean ====
section
/-! SUPPORT. What each update of the state leaves as it was, field by field, and what it writes. -/

namespace Sys2Proof.Machine

/-! ### setTh -/
@[simp] theorem State.setTh_foc (s : State) (h : Thread) : (s.setTh h).foc = s.foc := rfl
@[simp] theorem State.setTh_tid (s : State) (h : Thread) : (s.setTh h).tid = s.tid := rfl
@[simp] theorem State.setTh_tiles (s : State) (h : Thread) : (s.setTh h).tiles = s.tiles := rfl
@[simp] theorem State.setTh_mem (s : State) (h : Thread) : (s.setTh h).mem = s.mem := rfl
@[simp] theorem State.setTh_desc (s : State) (h : Thread) : (s.setTh h).desc = s.desc := rfl
@[simp] theorem State.setTh_bad (s : State) (h : Thread) : (s.setTh h).bad = s.bad := rfl
@[simp] theorem State.setTh_soft (s : State) (h : Thread) : (s.setTh h).soft = s.soft := rfl
@[simp] theorem State.setTh_net (s : State) (h : Thread) : (s.setTh h).net = s.net := rfl
@[simp] theorem State.setTh_halls (s : State) (h : Thread) : (s.setTh h).halls = s.halls := rfl
@[simp] theorem State.setTh_ports (s : State) (h : Thread) : (s.setTh h).ports = s.ports := rfl
@[simp] theorem State.setTh_ues (s : State) (h : Thread) : (s.setTh h).ues = s.ues := rfl
@[simp] theorem State.setTh_galleries (s : State) (h : Thread) : (s.setTh h).galleries = s.galleries := rfl
@[simp] theorem State.setTh_fields (s : State) (h : Thread) : (s.setTh h).fields = s.fields := rfl
@[simp] theorem State.setTh_boot (s : State) (h : Thread) : (s.setTh h).boot = s.boot := rfl
@[simp] theorem State.setTh_unitReports (s : State) (h : Thread) : (s.setTh h).unitReports = s.unitReports := rfl
@[simp] theorem State.setTh_wtime (s : State) (h : Thread) : (s.setTh h).wtime = s.wtime := rfl
@[simp] theorem State.setTh_hallFlags (s : State) (h : Thread) : (s.setTh h).hallFlags = s.hallFlags := rfl
@[simp] theorem State.setTh_blockFlags (s : State) (h : Thread) : (s.setTh h).blockFlags = s.blockFlags := rfl
@[simp] theorem State.setTh_agenda (s : State) (h : Thread) : (s.setTh h).agenda = s.agenda := rfl
@[simp] theorem State.setTh_turn (s : State) (h : Thread) : (s.setTh h).turn = s.turn := rfl
@[simp] theorem State.setTh_nextId (s : State) (h : Thread) : (s.setTh h).nextId = s.nextId := rfl
@[simp] theorem State.setTh_nextSeq (s : State) (h : Thread) : (s.setTh h).nextSeq = s.nextSeq := rfl

/-! ### mapTh -/
@[simp] theorem State.mapTh_foc (s : State) (f : Thread → Thread) : (s.mapTh f).foc = s.foc := rfl
@[simp] theorem State.mapTh_tid (s : State) (f : Thread → Thread) : (s.mapTh f).tid = s.tid := rfl
@[simp] theorem State.mapTh_tiles (s : State) (f : Thread → Thread) : (s.mapTh f).tiles = s.tiles := rfl
@[simp] theorem State.mapTh_mem (s : State) (f : Thread → Thread) : (s.mapTh f).mem = s.mem := rfl
@[simp] theorem State.mapTh_desc (s : State) (f : Thread → Thread) : (s.mapTh f).desc = s.desc := rfl
@[simp] theorem State.mapTh_bad (s : State) (f : Thread → Thread) : (s.mapTh f).bad = s.bad := rfl
@[simp] theorem State.mapTh_soft (s : State) (f : Thread → Thread) : (s.mapTh f).soft = s.soft := rfl
@[simp] theorem State.mapTh_net (s : State) (f : Thread → Thread) : (s.mapTh f).net = s.net := rfl
@[simp] theorem State.mapTh_halls (s : State) (f : Thread → Thread) : (s.mapTh f).halls = s.halls := rfl
@[simp] theorem State.mapTh_ports (s : State) (f : Thread → Thread) : (s.mapTh f).ports = s.ports := rfl
@[simp] theorem State.mapTh_ues (s : State) (f : Thread → Thread) : (s.mapTh f).ues = s.ues := rfl
@[simp] theorem State.mapTh_galleries (s : State) (f : Thread → Thread) : (s.mapTh f).galleries = s.galleries := rfl
@[simp] theorem State.mapTh_fields (s : State) (f : Thread → Thread) : (s.mapTh f).fields = s.fields := rfl
@[simp] theorem State.mapTh_boot (s : State) (f : Thread → Thread) : (s.mapTh f).boot = s.boot := rfl
@[simp] theorem State.mapTh_unitReports (s : State) (f : Thread → Thread) : (s.mapTh f).unitReports = s.unitReports := rfl
@[simp] theorem State.mapTh_wtime (s : State) (f : Thread → Thread) : (s.mapTh f).wtime = s.wtime := rfl
@[simp] theorem State.mapTh_hallFlags (s : State) (f : Thread → Thread) : (s.mapTh f).hallFlags = s.hallFlags := rfl
@[simp] theorem State.mapTh_blockFlags (s : State) (f : Thread → Thread) : (s.mapTh f).blockFlags = s.blockFlags := rfl
@[simp] theorem State.mapTh_agenda (s : State) (f : Thread → Thread) : (s.mapTh f).agenda = s.agenda := rfl
@[simp] theorem State.mapTh_turn (s : State) (f : Thread → Thread) : (s.mapTh f).turn = s.turn := rfl
@[simp] theorem State.mapTh_nextId (s : State) (f : Thread → Thread) : (s.mapTh f).nextId = s.nextId := rfl
@[simp] theorem State.mapTh_nextSeq (s : State) (f : Thread → Thread) : (s.mapTh f).nextSeq = s.nextSeq := rfl

/-! ### setG -/
@[simp] theorem State.setG_foc (s : State) (r : GReg) (w : Word) : (s.setG r w).foc = s.foc := rfl
@[simp] theorem State.setG_tid (s : State) (r : GReg) (w : Word) : (s.setG r w).tid = s.tid := rfl
@[simp] theorem State.setG_tiles (s : State) (r : GReg) (w : Word) : (s.setG r w).tiles = s.tiles := rfl
@[simp] theorem State.setG_mem (s : State) (r : GReg) (w : Word) : (s.setG r w).mem = s.mem := rfl
@[simp] theorem State.setG_desc (s : State) (r : GReg) (w : Word) : (s.setG r w).desc = s.desc := rfl
@[simp] theorem State.setG_bad (s : State) (r : GReg) (w : Word) : (s.setG r w).bad = s.bad := rfl
@[simp] theorem State.setG_soft (s : State) (r : GReg) (w : Word) : (s.setG r w).soft = s.soft := rfl
@[simp] theorem State.setG_net (s : State) (r : GReg) (w : Word) : (s.setG r w).net = s.net := rfl
@[simp] theorem State.setG_halls (s : State) (r : GReg) (w : Word) : (s.setG r w).halls = s.halls := rfl
@[simp] theorem State.setG_ports (s : State) (r : GReg) (w : Word) : (s.setG r w).ports = s.ports := rfl
@[simp] theorem State.setG_ues (s : State) (r : GReg) (w : Word) : (s.setG r w).ues = s.ues := rfl
@[simp] theorem State.setG_galleries (s : State) (r : GReg) (w : Word) : (s.setG r w).galleries = s.galleries := rfl
@[simp] theorem State.setG_fields (s : State) (r : GReg) (w : Word) : (s.setG r w).fields = s.fields := rfl
@[simp] theorem State.setG_boot (s : State) (r : GReg) (w : Word) : (s.setG r w).boot = s.boot := rfl
@[simp] theorem State.setG_unitReports (s : State) (r : GReg) (w : Word) : (s.setG r w).unitReports = s.unitReports := rfl
@[simp] theorem State.setG_wtime (s : State) (r : GReg) (w : Word) : (s.setG r w).wtime = s.wtime := rfl
@[simp] theorem State.setG_hallFlags (s : State) (r : GReg) (w : Word) : (s.setG r w).hallFlags = s.hallFlags := rfl
@[simp] theorem State.setG_blockFlags (s : State) (r : GReg) (w : Word) : (s.setG r w).blockFlags = s.blockFlags := rfl
@[simp] theorem State.setG_agenda (s : State) (r : GReg) (w : Word) : (s.setG r w).agenda = s.agenda := rfl
@[simp] theorem State.setG_turn (s : State) (r : GReg) (w : Word) : (s.setG r w).turn = s.turn := rfl
@[simp] theorem State.setG_nextId (s : State) (r : GReg) (w : Word) : (s.setG r w).nextId = s.nextId := rfl
@[simp] theorem State.setG_nextSeq (s : State) (r : GReg) (w : Word) : (s.setG r w).nextSeq = s.nextSeq := rfl

/-! ### setP -/
@[simp] theorem State.setP_foc (s : State) (r : PReg) (b : Bool) : (s.setP r b).foc = s.foc := rfl
@[simp] theorem State.setP_tid (s : State) (r : PReg) (b : Bool) : (s.setP r b).tid = s.tid := rfl
@[simp] theorem State.setP_tiles (s : State) (r : PReg) (b : Bool) : (s.setP r b).tiles = s.tiles := rfl
@[simp] theorem State.setP_mem (s : State) (r : PReg) (b : Bool) : (s.setP r b).mem = s.mem := rfl
@[simp] theorem State.setP_desc (s : State) (r : PReg) (b : Bool) : (s.setP r b).desc = s.desc := rfl
@[simp] theorem State.setP_bad (s : State) (r : PReg) (b : Bool) : (s.setP r b).bad = s.bad := rfl
@[simp] theorem State.setP_soft (s : State) (r : PReg) (b : Bool) : (s.setP r b).soft = s.soft := rfl
@[simp] theorem State.setP_net (s : State) (r : PReg) (b : Bool) : (s.setP r b).net = s.net := rfl
@[simp] theorem State.setP_halls (s : State) (r : PReg) (b : Bool) : (s.setP r b).halls = s.halls := rfl
@[simp] theorem State.setP_ports (s : State) (r : PReg) (b : Bool) : (s.setP r b).ports = s.ports := rfl
@[simp] theorem State.setP_ues (s : State) (r : PReg) (b : Bool) : (s.setP r b).ues = s.ues := rfl
@[simp] theorem State.setP_galleries (s : State) (r : PReg) (b : Bool) : (s.setP r b).galleries = s.galleries := rfl
@[simp] theorem State.setP_fields (s : State) (r : PReg) (b : Bool) : (s.setP r b).fields = s.fields := rfl
@[simp] theorem State.setP_boot (s : State) (r : PReg) (b : Bool) : (s.setP r b).boot = s.boot := rfl
@[simp] theorem State.setP_unitReports (s : State) (r : PReg) (b : Bool) : (s.setP r b).unitReports = s.unitReports := rfl
@[simp] theorem State.setP_wtime (s : State) (r : PReg) (b : Bool) : (s.setP r b).wtime = s.wtime := rfl
@[simp] theorem State.setP_hallFlags (s : State) (r : PReg) (b : Bool) : (s.setP r b).hallFlags = s.hallFlags := rfl
@[simp] theorem State.setP_blockFlags (s : State) (r : PReg) (b : Bool) : (s.setP r b).blockFlags = s.blockFlags := rfl
@[simp] theorem State.setP_agenda (s : State) (r : PReg) (b : Bool) : (s.setP r b).agenda = s.agenda := rfl
@[simp] theorem State.setP_turn (s : State) (r : PReg) (b : Bool) : (s.setP r b).turn = s.turn := rfl
@[simp] theorem State.setP_nextId (s : State) (r : PReg) (b : Bool) : (s.setP r b).nextId = s.nextId := rfl
@[simp] theorem State.setP_nextSeq (s : State) (r : PReg) (b : Bool) : (s.setP r b).nextSeq = s.nextSeq := rfl

/-! ### mapTile -/
@[simp] theorem State.mapTile_foc (s : State) (f : Tile → Tile) : (s.mapTile f).foc = s.foc := rfl
@[simp] theorem State.mapTile_tid (s : State) (f : Tile → Tile) : (s.mapTile f).tid = s.tid := rfl
@[simp] theorem State.mapTile_tiles (s : State) (f : Tile → Tile) : (s.mapTile f).tiles = s.tiles := rfl
@[simp] theorem State.mapTile_mem (s : State) (f : Tile → Tile) : (s.mapTile f).mem = s.mem := rfl
@[simp] theorem State.mapTile_desc (s : State) (f : Tile → Tile) : (s.mapTile f).desc = s.desc := rfl
@[simp] theorem State.mapTile_bad (s : State) (f : Tile → Tile) : (s.mapTile f).bad = s.bad := rfl
@[simp] theorem State.mapTile_soft (s : State) (f : Tile → Tile) : (s.mapTile f).soft = s.soft := rfl
@[simp] theorem State.mapTile_net (s : State) (f : Tile → Tile) : (s.mapTile f).net = s.net := rfl
@[simp] theorem State.mapTile_halls (s : State) (f : Tile → Tile) : (s.mapTile f).halls = s.halls := rfl
@[simp] theorem State.mapTile_ports (s : State) (f : Tile → Tile) : (s.mapTile f).ports = s.ports := rfl
@[simp] theorem State.mapTile_ues (s : State) (f : Tile → Tile) : (s.mapTile f).ues = s.ues := rfl
@[simp] theorem State.mapTile_galleries (s : State) (f : Tile → Tile) : (s.mapTile f).galleries = s.galleries := rfl
@[simp] theorem State.mapTile_fields (s : State) (f : Tile → Tile) : (s.mapTile f).fields = s.fields := rfl
@[simp] theorem State.mapTile_boot (s : State) (f : Tile → Tile) : (s.mapTile f).boot = s.boot := rfl
@[simp] theorem State.mapTile_unitReports (s : State) (f : Tile → Tile) : (s.mapTile f).unitReports = s.unitReports := rfl
@[simp] theorem State.mapTile_wtime (s : State) (f : Tile → Tile) : (s.mapTile f).wtime = s.wtime := rfl
@[simp] theorem State.mapTile_hallFlags (s : State) (f : Tile → Tile) : (s.mapTile f).hallFlags = s.hallFlags := rfl
@[simp] theorem State.mapTile_blockFlags (s : State) (f : Tile → Tile) : (s.mapTile f).blockFlags = s.blockFlags := rfl
@[simp] theorem State.mapTile_agenda (s : State) (f : Tile → Tile) : (s.mapTile f).agenda = s.agenda := rfl
@[simp] theorem State.mapTile_turn (s : State) (f : Tile → Tile) : (s.mapTile f).turn = s.turn := rfl
@[simp] theorem State.mapTile_nextId (s : State) (f : Tile → Tile) : (s.mapTile f).nextId = s.nextId := rfl
@[simp] theorem State.mapTile_nextSeq (s : State) (f : Tile → Tile) : (s.mapTile f).nextSeq = s.nextSeq := rfl

/-! ### trapWith -/
@[simp] theorem State.trapWith_foc (s : State) (c : BitVec 8) (a b0 b1 b2 b3 : Word) : (s.trapWith c a b0 b1 b2 b3).foc = s.foc := rfl
@[simp] theorem State.trapWith_tid (s : State) (c : BitVec 8) (a b0 b1 b2 b3 : Word) : (s.trapWith c a b0 b1 b2 b3).tid = s.tid := rfl
@[simp] theorem State.trapWith_tiles (s : State) (c : BitVec 8) (a b0 b1 b2 b3 : Word) : (s.trapWith c a b0 b1 b2 b3).tiles = s.tiles := rfl
@[simp] theorem State.trapWith_mem (s : State) (c : BitVec 8) (a b0 b1 b2 b3 : Word) : (s.trapWith c a b0 b1 b2 b3).mem = s.mem := rfl
@[simp] theorem State.trapWith_desc (s : State) (c : BitVec 8) (a b0 b1 b2 b3 : Word) : (s.trapWith c a b0 b1 b2 b3).desc = s.desc := rfl
@[simp] theorem State.trapWith_bad (s : State) (c : BitVec 8) (a b0 b1 b2 b3 : Word) : (s.trapWith c a b0 b1 b2 b3).bad = s.bad := rfl
@[simp] theorem State.trapWith_soft (s : State) (c : BitVec 8) (a b0 b1 b2 b3 : Word) : (s.trapWith c a b0 b1 b2 b3).soft = s.soft := rfl
@[simp] theorem State.trapWith_net (s : State) (c : BitVec 8) (a b0 b1 b2 b3 : Word) : (s.trapWith c a b0 b1 b2 b3).net = s.net := rfl
@[simp] theorem State.trapWith_halls (s : State) (c : BitVec 8) (a b0 b1 b2 b3 : Word) : (s.trapWith c a b0 b1 b2 b3).halls = s.halls := rfl
@[simp] theorem State.trapWith_ports (s : State) (c : BitVec 8) (a b0 b1 b2 b3 : Word) : (s.trapWith c a b0 b1 b2 b3).ports = s.ports := rfl
@[simp] theorem State.trapWith_ues (s : State) (c : BitVec 8) (a b0 b1 b2 b3 : Word) : (s.trapWith c a b0 b1 b2 b3).ues = s.ues := rfl
@[simp] theorem State.trapWith_galleries (s : State) (c : BitVec 8) (a b0 b1 b2 b3 : Word) : (s.trapWith c a b0 b1 b2 b3).galleries = s.galleries := rfl
@[simp] theorem State.trapWith_fields (s : State) (c : BitVec 8) (a b0 b1 b2 b3 : Word) : (s.trapWith c a b0 b1 b2 b3).fields = s.fields := rfl
@[simp] theorem State.trapWith_boot (s : State) (c : BitVec 8) (a b0 b1 b2 b3 : Word) : (s.trapWith c a b0 b1 b2 b3).boot = s.boot := rfl
@[simp] theorem State.trapWith_unitReports (s : State) (c : BitVec 8) (a b0 b1 b2 b3 : Word) : (s.trapWith c a b0 b1 b2 b3).unitReports = s.unitReports := rfl
@[simp] theorem State.trapWith_wtime (s : State) (c : BitVec 8) (a b0 b1 b2 b3 : Word) : (s.trapWith c a b0 b1 b2 b3).wtime = s.wtime := rfl
@[simp] theorem State.trapWith_hallFlags (s : State) (c : BitVec 8) (a b0 b1 b2 b3 : Word) : (s.trapWith c a b0 b1 b2 b3).hallFlags = s.hallFlags := rfl
@[simp] theorem State.trapWith_blockFlags (s : State) (c : BitVec 8) (a b0 b1 b2 b3 : Word) : (s.trapWith c a b0 b1 b2 b3).blockFlags = s.blockFlags := rfl
@[simp] theorem State.trapWith_agenda (s : State) (c : BitVec 8) (a b0 b1 b2 b3 : Word) : (s.trapWith c a b0 b1 b2 b3).agenda = s.agenda := rfl
@[simp] theorem State.trapWith_turn (s : State) (c : BitVec 8) (a b0 b1 b2 b3 : Word) : (s.trapWith c a b0 b1 b2 b3).turn = s.turn := rfl
@[simp] theorem State.trapWith_nextId (s : State) (c : BitVec 8) (a b0 b1 b2 b3 : Word) : (s.trapWith c a b0 b1 b2 b3).nextId = s.nextId := rfl
@[simp] theorem State.trapWith_nextSeq (s : State) (c : BitVec 8) (a b0 b1 b2 b3 : Word) : (s.trapWith c a b0 b1 b2 b3).nextSeq = s.nextSeq := rfl

/-! ### trap -/
@[simp] theorem State.trap_foc (s : State) (c : BitVec 8) (a : Word) : (s.trap c a).foc = s.foc := rfl
@[simp] theorem State.trap_tid (s : State) (c : BitVec 8) (a : Word) : (s.trap c a).tid = s.tid := rfl
@[simp] theorem State.trap_tiles (s : State) (c : BitVec 8) (a : Word) : (s.trap c a).tiles = s.tiles := rfl
@[simp] theorem State.trap_mem (s : State) (c : BitVec 8) (a : Word) : (s.trap c a).mem = s.mem := rfl
@[simp] theorem State.trap_desc (s : State) (c : BitVec 8) (a : Word) : (s.trap c a).desc = s.desc := rfl
@[simp] theorem State.trap_bad (s : State) (c : BitVec 8) (a : Word) : (s.trap c a).bad = s.bad := rfl
@[simp] theorem State.trap_soft (s : State) (c : BitVec 8) (a : Word) : (s.trap c a).soft = s.soft := rfl
@[simp] theorem State.trap_net (s : State) (c : BitVec 8) (a : Word) : (s.trap c a).net = s.net := rfl
@[simp] theorem State.trap_halls (s : State) (c : BitVec 8) (a : Word) : (s.trap c a).halls = s.halls := rfl
@[simp] theorem State.trap_ports (s : State) (c : BitVec 8) (a : Word) : (s.trap c a).ports = s.ports := rfl
@[simp] theorem State.trap_ues (s : State) (c : BitVec 8) (a : Word) : (s.trap c a).ues = s.ues := rfl
@[simp] theorem State.trap_galleries (s : State) (c : BitVec 8) (a : Word) : (s.trap c a).galleries = s.galleries := rfl
@[simp] theorem State.trap_fields (s : State) (c : BitVec 8) (a : Word) : (s.trap c a).fields = s.fields := rfl
@[simp] theorem State.trap_boot (s : State) (c : BitVec 8) (a : Word) : (s.trap c a).boot = s.boot := rfl
@[simp] theorem State.trap_unitReports (s : State) (c : BitVec 8) (a : Word) : (s.trap c a).unitReports = s.unitReports := rfl
@[simp] theorem State.trap_wtime (s : State) (c : BitVec 8) (a : Word) : (s.trap c a).wtime = s.wtime := rfl
@[simp] theorem State.trap_hallFlags (s : State) (c : BitVec 8) (a : Word) : (s.trap c a).hallFlags = s.hallFlags := rfl
@[simp] theorem State.trap_blockFlags (s : State) (c : BitVec 8) (a : Word) : (s.trap c a).blockFlags = s.blockFlags := rfl
@[simp] theorem State.trap_agenda (s : State) (c : BitVec 8) (a : Word) : (s.trap c a).agenda = s.agenda := rfl
@[simp] theorem State.trap_turn (s : State) (c : BitVec 8) (a : Word) : (s.trap c a).turn = s.turn := rfl
@[simp] theorem State.trap_nextId (s : State) (c : BitVec 8) (a : Word) : (s.trap c a).nextId = s.nextId := rfl
@[simp] theorem State.trap_nextSeq (s : State) (c : BitVec 8) (a : Word) : (s.trap c a).nextSeq = s.nextSeq := rfl

/-! ### trapIllegal -/
@[simp] theorem State.trapIllegal_foc (s : State) : (s.trapIllegal).foc = s.foc := rfl
@[simp] theorem State.trapIllegal_tid (s : State) : (s.trapIllegal).tid = s.tid := rfl
@[simp] theorem State.trapIllegal_tiles (s : State) : (s.trapIllegal).tiles = s.tiles := rfl
@[simp] theorem State.trapIllegal_mem (s : State) : (s.trapIllegal).mem = s.mem := rfl
@[simp] theorem State.trapIllegal_desc (s : State) : (s.trapIllegal).desc = s.desc := rfl
@[simp] theorem State.trapIllegal_bad (s : State) : (s.trapIllegal).bad = s.bad := rfl
@[simp] theorem State.trapIllegal_soft (s : State) : (s.trapIllegal).soft = s.soft := rfl
@[simp] theorem State.trapIllegal_net (s : State) : (s.trapIllegal).net = s.net := rfl
@[simp] theorem State.trapIllegal_halls (s : State) : (s.trapIllegal).halls = s.halls := rfl
@[simp] theorem State.trapIllegal_ports (s : State) : (s.trapIllegal).ports = s.ports := rfl
@[simp] theorem State.trapIllegal_ues (s : State) : (s.trapIllegal).ues = s.ues := rfl
@[simp] theorem State.trapIllegal_galleries (s : State) : (s.trapIllegal).galleries = s.galleries := rfl
@[simp] theorem State.trapIllegal_fields (s : State) : (s.trapIllegal).fields = s.fields := rfl
@[simp] theorem State.trapIllegal_boot (s : State) : (s.trapIllegal).boot = s.boot := rfl
@[simp] theorem State.trapIllegal_unitReports (s : State) : (s.trapIllegal).unitReports = s.unitReports := rfl
@[simp] theorem State.trapIllegal_wtime (s : State) : (s.trapIllegal).wtime = s.wtime := rfl
@[simp] theorem State.trapIllegal_hallFlags (s : State) : (s.trapIllegal).hallFlags = s.hallFlags := rfl
@[simp] theorem State.trapIllegal_blockFlags (s : State) : (s.trapIllegal).blockFlags = s.blockFlags := rfl
@[simp] theorem State.trapIllegal_agenda (s : State) : (s.trapIllegal).agenda = s.agenda := rfl
@[simp] theorem State.trapIllegal_turn (s : State) : (s.trapIllegal).turn = s.turn := rfl
@[simp] theorem State.trapIllegal_nextId (s : State) : (s.trapIllegal).nextId = s.nextId := rfl
@[simp] theorem State.trapIllegal_nextSeq (s : State) : (s.trapIllegal).nextSeq = s.nextSeq := rfl

/-! ### store -/
@[simp] theorem State.store_foc (s : State) (k n : Nat) (v : Word) : (s.store k n v).foc = s.foc := rfl
@[simp] theorem State.store_tid (s : State) (k n : Nat) (v : Word) : (s.store k n v).tid = s.tid := rfl
@[simp] theorem State.store_tile (s : State) (k n : Nat) (v : Word) : (s.store k n v).tile = s.tile := rfl
@[simp] theorem State.store_tiles (s : State) (k n : Nat) (v : Word) : (s.store k n v).tiles = s.tiles := rfl
@[simp] theorem State.store_desc (s : State) (k n : Nat) (v : Word) : (s.store k n v).desc = s.desc := rfl
@[simp] theorem State.store_bad (s : State) (k n : Nat) (v : Word) : (s.store k n v).bad = s.bad := rfl
@[simp] theorem State.store_soft (s : State) (k n : Nat) (v : Word) : (s.store k n v).soft = s.soft := rfl
@[simp] theorem State.store_net (s : State) (k n : Nat) (v : Word) : (s.store k n v).net = s.net := rfl
@[simp] theorem State.store_halls (s : State) (k n : Nat) (v : Word) : (s.store k n v).halls = s.halls := rfl
@[simp] theorem State.store_ports (s : State) (k n : Nat) (v : Word) : (s.store k n v).ports = s.ports := rfl
@[simp] theorem State.store_ues (s : State) (k n : Nat) (v : Word) : (s.store k n v).ues = s.ues := rfl
@[simp] theorem State.store_galleries (s : State) (k n : Nat) (v : Word) : (s.store k n v).galleries = s.galleries := rfl
@[simp] theorem State.store_fields (s : State) (k n : Nat) (v : Word) : (s.store k n v).fields = s.fields := rfl
@[simp] theorem State.store_boot (s : State) (k n : Nat) (v : Word) : (s.store k n v).boot = s.boot := rfl
@[simp] theorem State.store_unitReports (s : State) (k n : Nat) (v : Word) : (s.store k n v).unitReports = s.unitReports := rfl
@[simp] theorem State.store_wtime (s : State) (k n : Nat) (v : Word) : (s.store k n v).wtime = s.wtime := rfl
@[simp] theorem State.store_hallFlags (s : State) (k n : Nat) (v : Word) : (s.store k n v).hallFlags = s.hallFlags := rfl
@[simp] theorem State.store_blockFlags (s : State) (k n : Nat) (v : Word) : (s.store k n v).blockFlags = s.blockFlags := rfl
@[simp] theorem State.store_agenda (s : State) (k n : Nat) (v : Word) : (s.store k n v).agenda = s.agenda := rfl
@[simp] theorem State.store_turn (s : State) (k n : Nat) (v : Word) : (s.store k n v).turn = s.turn := rfl
@[simp] theorem State.store_nextId (s : State) (k n : Nat) (v : Word) : (s.store k n v).nextId = s.nextId := rfl
@[simp] theorem State.store_nextSeq (s : State) (k n : Nat) (v : Word) : (s.store k n v).nextSeq = s.nextSeq := rfl

/-! ### storeLine -/
@[simp] theorem State.storeLine_foc (s : State) (k : Nat) (l : Line) : (s.storeLine k l).foc = s.foc := by
  unfold State.storeLine; rfl
@[simp] theorem State.storeLine_tid (s : State) (k : Nat) (l : Line) : (s.storeLine k l).tid = s.tid := by
  unfold State.storeLine; rfl
@[simp] theorem State.storeLine_tile (s : State) (k : Nat) (l : Line) : (s.storeLine k l).tile = s.tile := by
  unfold State.storeLine; rfl
@[simp] theorem State.storeLine_tiles (s : State) (k : Nat) (l : Line) : (s.storeLine k l).tiles = s.tiles := by
  unfold State.storeLine; rfl
@[simp] theorem State.storeLine_desc (s : State) (k : Nat) (l : Line) : (s.storeLine k l).desc = s.desc := by
  unfold State.storeLine; rfl
@[simp] theorem State.storeLine_bad (s : State) (k : Nat) (l : Line) : (s.storeLine k l).bad = s.bad := by
  unfold State.storeLine; rfl
@[simp] theorem State.storeLine_soft (s : State) (k : Nat) (l : Line) : (s.storeLine k l).soft = s.soft := by
  unfold State.storeLine; rfl
@[simp] theorem State.storeLine_net (s : State) (k : Nat) (l : Line) : (s.storeLine k l).net = s.net := by
  unfold State.storeLine; rfl
@[simp] theorem State.storeLine_halls (s : State) (k : Nat) (l : Line) : (s.storeLine k l).halls = s.halls := by
  unfold State.storeLine; rfl
@[simp] theorem State.storeLine_ports (s : State) (k : Nat) (l : Line) : (s.storeLine k l).ports = s.ports := by
  unfold State.storeLine; rfl
@[simp] theorem State.storeLine_ues (s : State) (k : Nat) (l : Line) : (s.storeLine k l).ues = s.ues := by
  unfold State.storeLine; rfl
@[simp] theorem State.storeLine_galleries (s : State) (k : Nat) (l : Line) : (s.storeLine k l).galleries = s.galleries := by
  unfold State.storeLine; rfl
@[simp] theorem State.storeLine_fields (s : State) (k : Nat) (l : Line) : (s.storeLine k l).fields = s.fields := by
  unfold State.storeLine; rfl
@[simp] theorem State.storeLine_boot (s : State) (k : Nat) (l : Line) : (s.storeLine k l).boot = s.boot := by
  unfold State.storeLine; rfl
@[simp] theorem State.storeLine_unitReports (s : State) (k : Nat) (l : Line) : (s.storeLine k l).unitReports = s.unitReports := by
  unfold State.storeLine; rfl
@[simp] theorem State.storeLine_wtime (s : State) (k : Nat) (l : Line) : (s.storeLine k l).wtime = s.wtime := by
  unfold State.storeLine; rfl
@[simp] theorem State.storeLine_hallFlags (s : State) (k : Nat) (l : Line) : (s.storeLine k l).hallFlags = s.hallFlags := by
  unfold State.storeLine; rfl
@[simp] theorem State.storeLine_blockFlags (s : State) (k : Nat) (l : Line) : (s.storeLine k l).blockFlags = s.blockFlags := by
  unfold State.storeLine; rfl
@[simp] theorem State.storeLine_agenda (s : State) (k : Nat) (l : Line) : (s.storeLine k l).agenda = s.agenda := by
  unfold State.storeLine; rfl
@[simp] theorem State.storeLine_turn (s : State) (k : Nat) (l : Line) : (s.storeLine k l).turn = s.turn := by
  unfold State.storeLine; rfl
@[simp] theorem State.storeLine_nextId (s : State) (k : Nat) (l : Line) : (s.storeLine k l).nextId = s.nextId := by
  unfold State.storeLine; rfl
@[simp] theorem State.storeLine_nextSeq (s : State) (k : Nat) (l : Line) : (s.storeLine k l).nextSeq = s.nextSeq := by
  unfold State.storeLine; rfl

/-! ### setDesc -/
@[simp] theorem State.setDesc_foc (s : State) (k : Nat) (d : Desc) : (s.setDesc k d).foc = s.foc := rfl
@[simp] theorem State.setDesc_tid (s : State) (k : Nat) (d : Desc) : (s.setDesc k d).tid = s.tid := rfl
@[simp] theorem State.setDesc_tile (s : State) (k : Nat) (d : Desc) : (s.setDesc k d).tile = s.tile := rfl
@[simp] theorem State.setDesc_tiles (s : State) (k : Nat) (d : Desc) : (s.setDesc k d).tiles = s.tiles := rfl
@[simp] theorem State.setDesc_mem (s : State) (k : Nat) (d : Desc) : (s.setDesc k d).mem = s.mem := rfl
@[simp] theorem State.setDesc_bad (s : State) (k : Nat) (d : Desc) : (s.setDesc k d).bad = s.bad := rfl
@[simp] theorem State.setDesc_soft (s : State) (k : Nat) (d : Desc) : (s.setDesc k d).soft = s.soft := rfl
@[simp] theorem State.setDesc_net (s : State) (k : Nat) (d : Desc) : (s.setDesc k d).net = s.net := rfl
@[simp] theorem State.setDesc_halls (s : State) (k : Nat) (d : Desc) : (s.setDesc k d).halls = s.halls := rfl
@[simp] theorem State.setDesc_ports (s : State) (k : Nat) (d : Desc) : (s.setDesc k d).ports = s.ports := rfl
@[simp] theorem State.setDesc_ues (s : State) (k : Nat) (d : Desc) : (s.setDesc k d).ues = s.ues := rfl
@[simp] theorem State.setDesc_galleries (s : State) (k : Nat) (d : Desc) : (s.setDesc k d).galleries = s.galleries := rfl
@[simp] theorem State.setDesc_fields (s : State) (k : Nat) (d : Desc) : (s.setDesc k d).fields = s.fields := rfl
@[simp] theorem State.setDesc_boot (s : State) (k : Nat) (d : Desc) : (s.setDesc k d).boot = s.boot := rfl
@[simp] theorem State.setDesc_unitReports (s : State) (k : Nat) (d : Desc) : (s.setDesc k d).unitReports = s.unitReports := rfl
@[simp] theorem State.setDesc_wtime (s : State) (k : Nat) (d : Desc) : (s.setDesc k d).wtime = s.wtime := rfl
@[simp] theorem State.setDesc_hallFlags (s : State) (k : Nat) (d : Desc) : (s.setDesc k d).hallFlags = s.hallFlags := rfl
@[simp] theorem State.setDesc_blockFlags (s : State) (k : Nat) (d : Desc) : (s.setDesc k d).blockFlags = s.blockFlags := rfl
@[simp] theorem State.setDesc_agenda (s : State) (k : Nat) (d : Desc) : (s.setDesc k d).agenda = s.agenda := rfl
@[simp] theorem State.setDesc_turn (s : State) (k : Nat) (d : Desc) : (s.setDesc k d).turn = s.turn := rfl
@[simp] theorem State.setDesc_nextId (s : State) (k : Nat) (d : Desc) : (s.setDesc k d).nextId = s.nextId := rfl
@[simp] theorem State.setDesc_nextSeq (s : State) (k : Nat) (d : Desc) : (s.setDesc k d).nextSeq = s.nextSeq := rfl

/-! ### poison -/
@[simp] theorem State.poison_foc (s : State) (k : Nat) : (s.poison k).foc = s.foc := by
  unfold State.poison; split <;> rfl
@[simp] theorem State.poison_tid (s : State) (k : Nat) : (s.poison k).tid = s.tid := by
  unfold State.poison; split <;> rfl
@[simp] theorem State.poison_tile (s : State) (k : Nat) : (s.poison k).tile = s.tile := by
  unfold State.poison; split <;> rfl
@[simp] theorem State.poison_tiles (s : State) (k : Nat) : (s.poison k).tiles = s.tiles := by
  unfold State.poison; split <;> rfl
@[simp] theorem State.poison_mem (s : State) (k : Nat) : (s.poison k).mem = s.mem := by
  unfold State.poison; split <;> rfl
@[simp] theorem State.poison_bad (s : State) (k : Nat) : (s.poison k).bad = s.bad := by
  unfold State.poison; split <;> rfl
@[simp] theorem State.poison_soft (s : State) (k : Nat) : (s.poison k).soft = s.soft := by
  unfold State.poison; split <;> rfl
@[simp] theorem State.poison_net (s : State) (k : Nat) : (s.poison k).net = s.net := by
  unfold State.poison; split <;> rfl
@[simp] theorem State.poison_halls (s : State) (k : Nat) : (s.poison k).halls = s.halls := by
  unfold State.poison; split <;> rfl
@[simp] theorem State.poison_ports (s : State) (k : Nat) : (s.poison k).ports = s.ports := by
  unfold State.poison; split <;> rfl
@[simp] theorem State.poison_ues (s : State) (k : Nat) : (s.poison k).ues = s.ues := by
  unfold State.poison; split <;> rfl
@[simp] theorem State.poison_galleries (s : State) (k : Nat) : (s.poison k).galleries = s.galleries := by
  unfold State.poison; split <;> rfl
@[simp] theorem State.poison_fields (s : State) (k : Nat) : (s.poison k).fields = s.fields := by
  unfold State.poison; split <;> rfl
@[simp] theorem State.poison_boot (s : State) (k : Nat) : (s.poison k).boot = s.boot := by
  unfold State.poison; split <;> rfl
@[simp] theorem State.poison_unitReports (s : State) (k : Nat) : (s.poison k).unitReports = s.unitReports := by
  unfold State.poison; split <;> rfl
@[simp] theorem State.poison_wtime (s : State) (k : Nat) : (s.poison k).wtime = s.wtime := by
  unfold State.poison; split <;> rfl
@[simp] theorem State.poison_hallFlags (s : State) (k : Nat) : (s.poison k).hallFlags = s.hallFlags := by
  unfold State.poison; split <;> rfl
@[simp] theorem State.poison_blockFlags (s : State) (k : Nat) : (s.poison k).blockFlags = s.blockFlags := by
  unfold State.poison; split <;> rfl
@[simp] theorem State.poison_agenda (s : State) (k : Nat) : (s.poison k).agenda = s.agenda := by
  unfold State.poison; split <;> rfl
@[simp] theorem State.poison_turn (s : State) (k : Nat) : (s.poison k).turn = s.turn := by
  unfold State.poison; split <;> rfl
@[simp] theorem State.poison_nextId (s : State) (k : Nat) : (s.poison k).nextId = s.nextId := by
  unfold State.poison; split <;> rfl
@[simp] theorem State.poison_nextSeq (s : State) (k : Nat) : (s.poison k).nextSeq = s.nextSeq := by
  unfold State.poison; split <;> rfl

/-! ### writeLine -/
@[simp] theorem State.writeLine_foc (s : State) (k : Nat) (l : Line) (d : Desc) : (s.writeLine k l d).foc = s.foc := by
  simp [State.writeLine]
@[simp] theorem State.writeLine_tid (s : State) (k : Nat) (l : Line) (d : Desc) : (s.writeLine k l d).tid = s.tid := by
  simp [State.writeLine]
@[simp] theorem State.writeLine_tile (s : State) (k : Nat) (l : Line) (d : Desc) : (s.writeLine k l d).tile = s.tile := by
  simp [State.writeLine]
@[simp] theorem State.writeLine_tiles (s : State) (k : Nat) (l : Line) (d : Desc) : (s.writeLine k l d).tiles = s.tiles := by
  simp [State.writeLine]
@[simp] theorem State.writeLine_soft (s : State) (k : Nat) (l : Line) (d : Desc) : (s.writeLine k l d).soft = s.soft := by
  simp [State.writeLine]
@[simp] theorem State.writeLine_net (s : State) (k : Nat) (l : Line) (d : Desc) : (s.writeLine k l d).net = s.net := by
  simp [State.writeLine]
@[simp] theorem State.writeLine_halls (s : State) (k : Nat) (l : Line) (d : Desc) : (s.writeLine k l d).halls = s.halls := by
  simp [State.writeLine]
@[simp] theorem State.writeLine_ports (s : State) (k : Nat) (l : Line) (d : Desc) : (s.writeLine k l d).ports = s.ports := by
  simp [State.writeLine]
@[simp] theorem State.writeLine_ues (s : State) (k : Nat) (l : Line) (d : Desc) : (s.writeLine k l d).ues = s.ues := by
  simp [State.writeLine]
@[simp] theorem State.writeLine_galleries (s : State) (k : Nat) (l : Line) (d : Desc) : (s.writeLine k l d).galleries = s.galleries := by
  simp [State.writeLine]
@[simp] theorem State.writeLine_fields (s : State) (k : Nat) (l : Line) (d : Desc) : (s.writeLine k l d).fields = s.fields := by
  simp [State.writeLine]
@[simp] theorem State.writeLine_boot (s : State) (k : Nat) (l : Line) (d : Desc) : (s.writeLine k l d).boot = s.boot := by
  simp [State.writeLine]
@[simp] theorem State.writeLine_unitReports (s : State) (k : Nat) (l : Line) (d : Desc) : (s.writeLine k l d).unitReports = s.unitReports := by
  simp [State.writeLine]
@[simp] theorem State.writeLine_wtime (s : State) (k : Nat) (l : Line) (d : Desc) : (s.writeLine k l d).wtime = s.wtime := by
  simp [State.writeLine]
@[simp] theorem State.writeLine_hallFlags (s : State) (k : Nat) (l : Line) (d : Desc) : (s.writeLine k l d).hallFlags = s.hallFlags := by
  simp [State.writeLine]
@[simp] theorem State.writeLine_blockFlags (s : State) (k : Nat) (l : Line) (d : Desc) : (s.writeLine k l d).blockFlags = s.blockFlags := by
  simp [State.writeLine]
@[simp] theorem State.writeLine_agenda (s : State) (k : Nat) (l : Line) (d : Desc) : (s.writeLine k l d).agenda = s.agenda := by
  simp [State.writeLine]
@[simp] theorem State.writeLine_turn (s : State) (k : Nat) (l : Line) (d : Desc) : (s.writeLine k l d).turn = s.turn := by
  simp [State.writeLine]
@[simp] theorem State.writeLine_nextId (s : State) (k : Nat) (l : Line) (d : Desc) : (s.writeLine k l d).nextId = s.nextId := by
  simp [State.writeLine]
@[simp] theorem State.writeLine_nextSeq (s : State) (k : Nat) (l : Line) (d : Desc) : (s.writeLine k l d).nextSeq = s.nextSeq := by
  simp [State.writeLine]

/-! ### setPort -/
@[simp] theorem State.setPort_foc (s : State) (i : Nat) (p : Port) : (s.setPort i p).foc = s.foc := rfl
@[simp] theorem State.setPort_tid (s : State) (i : Nat) (p : Port) : (s.setPort i p).tid = s.tid := rfl
@[simp] theorem State.setPort_tile (s : State) (i : Nat) (p : Port) : (s.setPort i p).tile = s.tile := rfl
@[simp] theorem State.setPort_tiles (s : State) (i : Nat) (p : Port) : (s.setPort i p).tiles = s.tiles := rfl
@[simp] theorem State.setPort_mem (s : State) (i : Nat) (p : Port) : (s.setPort i p).mem = s.mem := rfl
@[simp] theorem State.setPort_desc (s : State) (i : Nat) (p : Port) : (s.setPort i p).desc = s.desc := rfl
@[simp] theorem State.setPort_bad (s : State) (i : Nat) (p : Port) : (s.setPort i p).bad = s.bad := rfl
@[simp] theorem State.setPort_soft (s : State) (i : Nat) (p : Port) : (s.setPort i p).soft = s.soft := rfl
@[simp] theorem State.setPort_net (s : State) (i : Nat) (p : Port) : (s.setPort i p).net = s.net := rfl
@[simp] theorem State.setPort_halls (s : State) (i : Nat) (p : Port) : (s.setPort i p).halls = s.halls := rfl
@[simp] theorem State.setPort_ues (s : State) (i : Nat) (p : Port) : (s.setPort i p).ues = s.ues := rfl
@[simp] theorem State.setPort_galleries (s : State) (i : Nat) (p : Port) : (s.setPort i p).galleries = s.galleries := rfl
@[simp] theorem State.setPort_fields (s : State) (i : Nat) (p : Port) : (s.setPort i p).fields = s.fields := rfl
@[simp] theorem State.setPort_boot (s : State) (i : Nat) (p : Port) : (s.setPort i p).boot = s.boot := rfl
@[simp] theorem State.setPort_unitReports (s : State) (i : Nat) (p : Port) : (s.setPort i p).unitReports = s.unitReports := rfl
@[simp] theorem State.setPort_wtime (s : State) (i : Nat) (p : Port) : (s.setPort i p).wtime = s.wtime := rfl
@[simp] theorem State.setPort_hallFlags (s : State) (i : Nat) (p : Port) : (s.setPort i p).hallFlags = s.hallFlags := rfl
@[simp] theorem State.setPort_blockFlags (s : State) (i : Nat) (p : Port) : (s.setPort i p).blockFlags = s.blockFlags := rfl
@[simp] theorem State.setPort_agenda (s : State) (i : Nat) (p : Port) : (s.setPort i p).agenda = s.agenda := rfl
@[simp] theorem State.setPort_turn (s : State) (i : Nat) (p : Port) : (s.setPort i p).turn = s.turn := rfl
@[simp] theorem State.setPort_nextId (s : State) (i : Nat) (p : Port) : (s.setPort i p).nextId = s.nextId := rfl
@[simp] theorem State.setPort_nextSeq (s : State) (i : Nat) (p : Port) : (s.setPort i p).nextSeq = s.nextSeq := rfl

/-! ### setUe -/
@[simp] theorem State.setUe_foc (s : State) (i : Nat) (p : UePort) : (s.setUe i p).foc = s.foc := rfl
@[simp] theorem State.setUe_tid (s : State) (i : Nat) (p : UePort) : (s.setUe i p).tid = s.tid := rfl
@[simp] theorem State.setUe_tile (s : State) (i : Nat) (p : UePort) : (s.setUe i p).tile = s.tile := rfl
@[simp] theorem State.setUe_tiles (s : State) (i : Nat) (p : UePort) : (s.setUe i p).tiles = s.tiles := rfl
@[simp] theorem State.setUe_mem (s : State) (i : Nat) (p : UePort) : (s.setUe i p).mem = s.mem := rfl
@[simp] theorem State.setUe_desc (s : State) (i : Nat) (p : UePort) : (s.setUe i p).desc = s.desc := rfl
@[simp] theorem State.setUe_bad (s : State) (i : Nat) (p : UePort) : (s.setUe i p).bad = s.bad := rfl
@[simp] theorem State.setUe_soft (s : State) (i : Nat) (p : UePort) : (s.setUe i p).soft = s.soft := rfl
@[simp] theorem State.setUe_net (s : State) (i : Nat) (p : UePort) : (s.setUe i p).net = s.net := rfl
@[simp] theorem State.setUe_halls (s : State) (i : Nat) (p : UePort) : (s.setUe i p).halls = s.halls := rfl
@[simp] theorem State.setUe_ports (s : State) (i : Nat) (p : UePort) : (s.setUe i p).ports = s.ports := rfl
@[simp] theorem State.setUe_galleries (s : State) (i : Nat) (p : UePort) : (s.setUe i p).galleries = s.galleries := rfl
@[simp] theorem State.setUe_fields (s : State) (i : Nat) (p : UePort) : (s.setUe i p).fields = s.fields := rfl
@[simp] theorem State.setUe_boot (s : State) (i : Nat) (p : UePort) : (s.setUe i p).boot = s.boot := rfl
@[simp] theorem State.setUe_unitReports (s : State) (i : Nat) (p : UePort) : (s.setUe i p).unitReports = s.unitReports := rfl
@[simp] theorem State.setUe_wtime (s : State) (i : Nat) (p : UePort) : (s.setUe i p).wtime = s.wtime := rfl
@[simp] theorem State.setUe_hallFlags (s : State) (i : Nat) (p : UePort) : (s.setUe i p).hallFlags = s.hallFlags := rfl
@[simp] theorem State.setUe_blockFlags (s : State) (i : Nat) (p : UePort) : (s.setUe i p).blockFlags = s.blockFlags := rfl
@[simp] theorem State.setUe_agenda (s : State) (i : Nat) (p : UePort) : (s.setUe i p).agenda = s.agenda := rfl
@[simp] theorem State.setUe_turn (s : State) (i : Nat) (p : UePort) : (s.setUe i p).turn = s.turn := rfl
@[simp] theorem State.setUe_nextId (s : State) (i : Nat) (p : UePort) : (s.setUe i p).nextId = s.nextId := rfl
@[simp] theorem State.setUe_nextSeq (s : State) (i : Nat) (p : UePort) : (s.setUe i p).nextSeq = s.nextSeq := rfl

/-! ### setGallery -/
@[simp] theorem State.setGallery_foc (s : State) (i : Nat) (g : Gallery) : (s.setGallery i g).foc = s.foc := rfl
@[simp] theorem State.setGallery_tid (s : State) (i : Nat) (g : Gallery) : (s.setGallery i g).tid = s.tid := rfl
@[simp] theorem State.setGallery_tile (s : State) (i : Nat) (g : Gallery) : (s.setGallery i g).tile = s.tile := rfl
@[simp] theorem State.setGallery_tiles (s : State) (i : Nat) (g : Gallery) : (s.setGallery i g).tiles = s.tiles := rfl
@[simp] theorem State.setGallery_mem (s : State) (i : Nat) (g : Gallery) : (s.setGallery i g).mem = s.mem := rfl
@[simp] theorem State.setGallery_desc (s : State) (i : Nat) (g : Gallery) : (s.setGallery i g).desc = s.desc := rfl
@[simp] theorem State.setGallery_bad (s : State) (i : Nat) (g : Gallery) : (s.setGallery i g).bad = s.bad := rfl
@[simp] theorem State.setGallery_soft (s : State) (i : Nat) (g : Gallery) : (s.setGallery i g).soft = s.soft := rfl
@[simp] theorem State.setGallery_net (s : State) (i : Nat) (g : Gallery) : (s.setGallery i g).net = s.net := rfl
@[simp] theorem State.setGallery_halls (s : State) (i : Nat) (g : Gallery) : (s.setGallery i g).halls = s.halls := rfl
@[simp] theorem State.setGallery_ports (s : State) (i : Nat) (g : Gallery) : (s.setGallery i g).ports = s.ports := rfl
@[simp] theorem State.setGallery_ues (s : State) (i : Nat) (g : Gallery) : (s.setGallery i g).ues = s.ues := rfl
@[simp] theorem State.setGallery_fields (s : State) (i : Nat) (g : Gallery) : (s.setGallery i g).fields = s.fields := rfl
@[simp] theorem State.setGallery_boot (s : State) (i : Nat) (g : Gallery) : (s.setGallery i g).boot = s.boot := rfl
@[simp] theorem State.setGallery_unitReports (s : State) (i : Nat) (g : Gallery) : (s.setGallery i g).unitReports = s.unitReports := rfl
@[simp] theorem State.setGallery_wtime (s : State) (i : Nat) (g : Gallery) : (s.setGallery i g).wtime = s.wtime := rfl
@[simp] theorem State.setGallery_hallFlags (s : State) (i : Nat) (g : Gallery) : (s.setGallery i g).hallFlags = s.hallFlags := rfl
@[simp] theorem State.setGallery_blockFlags (s : State) (i : Nat) (g : Gallery) : (s.setGallery i g).blockFlags = s.blockFlags := rfl
@[simp] theorem State.setGallery_agenda (s : State) (i : Nat) (g : Gallery) : (s.setGallery i g).agenda = s.agenda := rfl
@[simp] theorem State.setGallery_turn (s : State) (i : Nat) (g : Gallery) : (s.setGallery i g).turn = s.turn := rfl
@[simp] theorem State.setGallery_nextId (s : State) (i : Nat) (g : Gallery) : (s.setGallery i g).nextId = s.nextId := rfl
@[simp] theorem State.setGallery_nextSeq (s : State) (i : Nat) (g : Gallery) : (s.setGallery i g).nextSeq = s.nextSeq := rfl

/-! ### setField -/
@[simp] theorem State.setField_foc (s : State) (i : Nat) (x : Field) : (s.setField i x).foc = s.foc := rfl
@[simp] theorem State.setField_tid (s : State) (i : Nat) (x : Field) : (s.setField i x).tid = s.tid := rfl
@[simp] theorem State.setField_tile (s : State) (i : Nat) (x : Field) : (s.setField i x).tile = s.tile := rfl
@[simp] theorem State.setField_tiles (s : State) (i : Nat) (x : Field) : (s.setField i x).tiles = s.tiles := rfl
@[simp] theorem State.setField_mem (s : State) (i : Nat) (x : Field) : (s.setField i x).mem = s.mem := rfl
@[simp] theorem State.setField_desc (s : State) (i : Nat) (x : Field) : (s.setField i x).desc = s.desc := rfl
@[simp] theorem State.setField_bad (s : State) (i : Nat) (x : Field) : (s.setField i x).bad = s.bad := rfl
@[simp] theorem State.setField_soft (s : State) (i : Nat) (x : Field) : (s.setField i x).soft = s.soft := rfl
@[simp] theorem State.setField_net (s : State) (i : Nat) (x : Field) : (s.setField i x).net = s.net := rfl
@[simp] theorem State.setField_halls (s : State) (i : Nat) (x : Field) : (s.setField i x).halls = s.halls := rfl
@[simp] theorem State.setField_ports (s : State) (i : Nat) (x : Field) : (s.setField i x).ports = s.ports := rfl
@[simp] theorem State.setField_ues (s : State) (i : Nat) (x : Field) : (s.setField i x).ues = s.ues := rfl
@[simp] theorem State.setField_galleries (s : State) (i : Nat) (x : Field) : (s.setField i x).galleries = s.galleries := rfl
@[simp] theorem State.setField_boot (s : State) (i : Nat) (x : Field) : (s.setField i x).boot = s.boot := rfl
@[simp] theorem State.setField_unitReports (s : State) (i : Nat) (x : Field) : (s.setField i x).unitReports = s.unitReports := rfl
@[simp] theorem State.setField_wtime (s : State) (i : Nat) (x : Field) : (s.setField i x).wtime = s.wtime := rfl
@[simp] theorem State.setField_hallFlags (s : State) (i : Nat) (x : Field) : (s.setField i x).hallFlags = s.hallFlags := rfl
@[simp] theorem State.setField_blockFlags (s : State) (i : Nat) (x : Field) : (s.setField i x).blockFlags = s.blockFlags := rfl
@[simp] theorem State.setField_agenda (s : State) (i : Nat) (x : Field) : (s.setField i x).agenda = s.agenda := rfl
@[simp] theorem State.setField_turn (s : State) (i : Nat) (x : Field) : (s.setField i x).turn = s.turn := rfl
@[simp] theorem State.setField_nextId (s : State) (i : Nat) (x : Field) : (s.setField i x).nextId = s.nextId := rfl
@[simp] theorem State.setField_nextSeq (s : State) (i : Nat) (x : Field) : (s.setField i x).nextSeq = s.nextSeq := rfl

/-! ### setHall -/
@[simp] theorem State.setHall_foc (s : State) (i : Nat) (x : Hall) : (s.setHall i x).foc = s.foc := rfl
@[simp] theorem State.setHall_tid (s : State) (i : Nat) (x : Hall) : (s.setHall i x).tid = s.tid := rfl
@[simp] theorem State.setHall_tile (s : State) (i : Nat) (x : Hall) : (s.setHall i x).tile = s.tile := rfl
@[simp] theorem State.setHall_tiles (s : State) (i : Nat) (x : Hall) : (s.setHall i x).tiles = s.tiles := rfl
@[simp] theorem State.setHall_mem (s : State) (i : Nat) (x : Hall) : (s.setHall i x).mem = s.mem := rfl
@[simp] theorem State.setHall_desc (s : State) (i : Nat) (x : Hall) : (s.setHall i x).desc = s.desc := rfl
@[simp] theorem State.setHall_bad (s : State) (i : Nat) (x : Hall) : (s.setHall i x).bad = s.bad := rfl
@[simp] theorem State.setHall_soft (s : State) (i : Nat) (x : Hall) : (s.setHall i x).soft = s.soft := rfl
@[simp] theorem State.setHall_net (s : State) (i : Nat) (x : Hall) : (s.setHall i x).net = s.net := rfl
@[simp] theorem State.setHall_ports (s : State) (i : Nat) (x : Hall) : (s.setHall i x).ports = s.ports := rfl
@[simp] theorem State.setHall_ues (s : State) (i : Nat) (x : Hall) : (s.setHall i x).ues = s.ues := rfl
@[simp] theorem State.setHall_galleries (s : State) (i : Nat) (x : Hall) : (s.setHall i x).galleries = s.galleries := rfl
@[simp] theorem State.setHall_fields (s : State) (i : Nat) (x : Hall) : (s.setHall i x).fields = s.fields := rfl
@[simp] theorem State.setHall_boot (s : State) (i : Nat) (x : Hall) : (s.setHall i x).boot = s.boot := rfl
@[simp] theorem State.setHall_unitReports (s : State) (i : Nat) (x : Hall) : (s.setHall i x).unitReports = s.unitReports := rfl
@[simp] theorem State.setHall_wtime (s : State) (i : Nat) (x : Hall) : (s.setHall i x).wtime = s.wtime := rfl
@[simp] theorem State.setHall_hallFlags (s : State) (i : Nat) (x : Hall) : (s.setHall i x).hallFlags = s.hallFlags := rfl
@[simp] theorem State.setHall_blockFlags (s : State) (i : Nat) (x : Hall) : (s.setHall i x).blockFlags = s.blockFlags := rfl
@[simp] theorem State.setHall_agenda (s : State) (i : Nat) (x : Hall) : (s.setHall i x).agenda = s.agenda := rfl
@[simp] theorem State.setHall_turn (s : State) (i : Nat) (x : Hall) : (s.setHall i x).turn = s.turn := rfl
@[simp] theorem State.setHall_nextId (s : State) (i : Nat) (x : Hall) : (s.setHall i x).nextId = s.nextId := rfl
@[simp] theorem State.setHall_nextSeq (s : State) (i : Nat) (x : Hall) : (s.setHall i x).nextSeq = s.nextSeq := rfl

/-! ### cycle -/
@[simp] theorem State.cycle_foc (s : State) : (s.cycle).foc = s.foc := rfl
@[simp] theorem State.cycle_tid (s : State) : (s.cycle).tid = s.tid := rfl
@[simp] theorem State.cycle_tiles (s : State) : (s.cycle).tiles = s.tiles := rfl
@[simp] theorem State.cycle_mem (s : State) : (s.cycle).mem = s.mem := rfl
@[simp] theorem State.cycle_desc (s : State) : (s.cycle).desc = s.desc := rfl
@[simp] theorem State.cycle_bad (s : State) : (s.cycle).bad = s.bad := rfl
@[simp] theorem State.cycle_soft (s : State) : (s.cycle).soft = s.soft := rfl
@[simp] theorem State.cycle_net (s : State) : (s.cycle).net = s.net := rfl
@[simp] theorem State.cycle_halls (s : State) : (s.cycle).halls = s.halls := rfl
@[simp] theorem State.cycle_ports (s : State) : (s.cycle).ports = s.ports := rfl
@[simp] theorem State.cycle_ues (s : State) : (s.cycle).ues = s.ues := rfl
@[simp] theorem State.cycle_galleries (s : State) : (s.cycle).galleries = s.galleries := rfl
@[simp] theorem State.cycle_boot (s : State) : (s.cycle).boot = s.boot := rfl
@[simp] theorem State.cycle_unitReports (s : State) : (s.cycle).unitReports = s.unitReports := rfl
@[simp] theorem State.cycle_wtime (s : State) : (s.cycle).wtime = s.wtime := rfl
@[simp] theorem State.cycle_hallFlags (s : State) : (s.cycle).hallFlags = s.hallFlags := rfl
@[simp] theorem State.cycle_blockFlags (s : State) : (s.cycle).blockFlags = s.blockFlags := rfl
@[simp] theorem State.cycle_agenda (s : State) : (s.cycle).agenda = s.agenda := rfl
@[simp] theorem State.cycle_turn (s : State) : (s.cycle).turn = s.turn := rfl
@[simp] theorem State.cycle_nextId (s : State) : (s.cycle).nextId = s.nextId := rfl
@[simp] theorem State.cycle_nextSeq (s : State) : (s.cycle).nextSeq = s.nextSeq := rfl

/-! ### retired -/
@[simp] theorem State.retired_foc (s : State) : (s.retired).foc = s.foc := rfl
@[simp] theorem State.retired_tid (s : State) : (s.retired).tid = s.tid := rfl
@[simp] theorem State.retired_tiles (s : State) : (s.retired).tiles = s.tiles := rfl
@[simp] theorem State.retired_mem (s : State) : (s.retired).mem = s.mem := rfl
@[simp] theorem State.retired_desc (s : State) : (s.retired).desc = s.desc := rfl
@[simp] theorem State.retired_bad (s : State) : (s.retired).bad = s.bad := rfl
@[simp] theorem State.retired_soft (s : State) : (s.retired).soft = s.soft := rfl
@[simp] theorem State.retired_net (s : State) : (s.retired).net = s.net := rfl
@[simp] theorem State.retired_halls (s : State) : (s.retired).halls = s.halls := rfl
@[simp] theorem State.retired_ports (s : State) : (s.retired).ports = s.ports := rfl
@[simp] theorem State.retired_ues (s : State) : (s.retired).ues = s.ues := rfl
@[simp] theorem State.retired_galleries (s : State) : (s.retired).galleries = s.galleries := rfl
@[simp] theorem State.retired_boot (s : State) : (s.retired).boot = s.boot := rfl
@[simp] theorem State.retired_unitReports (s : State) : (s.retired).unitReports = s.unitReports := rfl
@[simp] theorem State.retired_wtime (s : State) : (s.retired).wtime = s.wtime := rfl
@[simp] theorem State.retired_hallFlags (s : State) : (s.retired).hallFlags = s.hallFlags := rfl
@[simp] theorem State.retired_blockFlags (s : State) : (s.retired).blockFlags = s.blockFlags := rfl
@[simp] theorem State.retired_agenda (s : State) : (s.retired).agenda = s.agenda := rfl
@[simp] theorem State.retired_turn (s : State) : (s.retired).turn = s.turn := rfl
@[simp] theorem State.retired_nextId (s : State) : (s.retired).nextId = s.nextId := rfl
@[simp] theorem State.retired_nextSeq (s : State) : (s.retired).nextSeq = s.nextSeq := rfl

/-! ### retire -/
@[simp] theorem State.retire_foc (s : State) (n : Nat) : (s.retire n).foc = s.foc := rfl
@[simp] theorem State.retire_tid (s : State) (n : Nat) : (s.retire n).tid = s.tid := rfl
@[simp] theorem State.retire_tiles (s : State) (n : Nat) : (s.retire n).tiles = s.tiles := rfl
@[simp] theorem State.retire_mem (s : State) (n : Nat) : (s.retire n).mem = s.mem := rfl
@[simp] theorem State.retire_desc (s : State) (n : Nat) : (s.retire n).desc = s.desc := rfl
@[simp] theorem State.retire_bad (s : State) (n : Nat) : (s.retire n).bad = s.bad := rfl
@[simp] theorem State.retire_soft (s : State) (n : Nat) : (s.retire n).soft = s.soft := rfl
@[simp] theorem State.retire_net (s : State) (n : Nat) : (s.retire n).net = s.net := rfl
@[simp] theorem State.retire_halls (s : State) (n : Nat) : (s.retire n).halls = s.halls := rfl
@[simp] theorem State.retire_ports (s : State) (n : Nat) : (s.retire n).ports = s.ports := rfl
@[simp] theorem State.retire_ues (s : State) (n : Nat) : (s.retire n).ues = s.ues := rfl
@[simp] theorem State.retire_galleries (s : State) (n : Nat) : (s.retire n).galleries = s.galleries := rfl
@[simp] theorem State.retire_boot (s : State) (n : Nat) : (s.retire n).boot = s.boot := rfl
@[simp] theorem State.retire_unitReports (s : State) (n : Nat) : (s.retire n).unitReports = s.unitReports := rfl
@[simp] theorem State.retire_wtime (s : State) (n : Nat) : (s.retire n).wtime = s.wtime := rfl
@[simp] theorem State.retire_hallFlags (s : State) (n : Nat) : (s.retire n).hallFlags = s.hallFlags := rfl
@[simp] theorem State.retire_blockFlags (s : State) (n : Nat) : (s.retire n).blockFlags = s.blockFlags := rfl
@[simp] theorem State.retire_agenda (s : State) (n : Nat) : (s.retire n).agenda = s.agenda := rfl
@[simp] theorem State.retire_turn (s : State) (n : Nat) : (s.retire n).turn = s.turn := rfl
@[simp] theorem State.retire_nextId (s : State) (n : Nat) : (s.retire n).nextId = s.nextId := rfl
@[simp] theorem State.retire_nextSeq (s : State) (n : Nat) : (s.retire n).nextSeq = s.nextSeq := rfl

/-! ### jump -/
@[simp] theorem State.jump_foc (s : State) (t : BitVec 12) : (s.jump t).foc = s.foc := rfl
@[simp] theorem State.jump_tid (s : State) (t : BitVec 12) : (s.jump t).tid = s.tid := rfl
@[simp] theorem State.jump_tiles (s : State) (t : BitVec 12) : (s.jump t).tiles = s.tiles := rfl
@[simp] theorem State.jump_mem (s : State) (t : BitVec 12) : (s.jump t).mem = s.mem := rfl
@[simp] theorem State.jump_desc (s : State) (t : BitVec 12) : (s.jump t).desc = s.desc := rfl
@[simp] theorem State.jump_bad (s : State) (t : BitVec 12) : (s.jump t).bad = s.bad := rfl
@[simp] theorem State.jump_soft (s : State) (t : BitVec 12) : (s.jump t).soft = s.soft := rfl
@[simp] theorem State.jump_net (s : State) (t : BitVec 12) : (s.jump t).net = s.net := rfl
@[simp] theorem State.jump_halls (s : State) (t : BitVec 12) : (s.jump t).halls = s.halls := rfl
@[simp] theorem State.jump_ports (s : State) (t : BitVec 12) : (s.jump t).ports = s.ports := rfl
@[simp] theorem State.jump_ues (s : State) (t : BitVec 12) : (s.jump t).ues = s.ues := rfl
@[simp] theorem State.jump_galleries (s : State) (t : BitVec 12) : (s.jump t).galleries = s.galleries := rfl
@[simp] theorem State.jump_boot (s : State) (t : BitVec 12) : (s.jump t).boot = s.boot := rfl
@[simp] theorem State.jump_unitReports (s : State) (t : BitVec 12) : (s.jump t).unitReports = s.unitReports := rfl
@[simp] theorem State.jump_wtime (s : State) (t : BitVec 12) : (s.jump t).wtime = s.wtime := rfl
@[simp] theorem State.jump_hallFlags (s : State) (t : BitVec 12) : (s.jump t).hallFlags = s.hallFlags := rfl
@[simp] theorem State.jump_blockFlags (s : State) (t : BitVec 12) : (s.jump t).blockFlags = s.blockFlags := rfl
@[simp] theorem State.jump_agenda (s : State) (t : BitVec 12) : (s.jump t).agenda = s.agenda := rfl
@[simp] theorem State.jump_turn (s : State) (t : BitVec 12) : (s.jump t).turn = s.turn := rfl
@[simp] theorem State.jump_nextId (s : State) (t : BitVec 12) : (s.jump t).nextId = s.nextId := rfl
@[simp] theorem State.jump_nextSeq (s : State) (t : BitVec 12) : (s.jump t).nextSeq = s.nextSeq := rfl

/-! ### stall -/
@[simp] theorem State.stall_foc (s : State) : (s.stall).foc = s.foc := rfl
@[simp] theorem State.stall_tid (s : State) : (s.stall).tid = s.tid := rfl
@[simp] theorem State.stall_tiles (s : State) : (s.stall).tiles = s.tiles := rfl
@[simp] theorem State.stall_mem (s : State) : (s.stall).mem = s.mem := rfl
@[simp] theorem State.stall_desc (s : State) : (s.stall).desc = s.desc := rfl
@[simp] theorem State.stall_bad (s : State) : (s.stall).bad = s.bad := rfl
@[simp] theorem State.stall_soft (s : State) : (s.stall).soft = s.soft := rfl
@[simp] theorem State.stall_net (s : State) : (s.stall).net = s.net := rfl
@[simp] theorem State.stall_halls (s : State) : (s.stall).halls = s.halls := rfl
@[simp] theorem State.stall_ports (s : State) : (s.stall).ports = s.ports := rfl
@[simp] theorem State.stall_ues (s : State) : (s.stall).ues = s.ues := rfl
@[simp] theorem State.stall_galleries (s : State) : (s.stall).galleries = s.galleries := rfl
@[simp] theorem State.stall_boot (s : State) : (s.stall).boot = s.boot := rfl
@[simp] theorem State.stall_unitReports (s : State) : (s.stall).unitReports = s.unitReports := rfl
@[simp] theorem State.stall_wtime (s : State) : (s.stall).wtime = s.wtime := rfl
@[simp] theorem State.stall_hallFlags (s : State) : (s.stall).hallFlags = s.hallFlags := rfl
@[simp] theorem State.stall_blockFlags (s : State) : (s.stall).blockFlags = s.blockFlags := rfl
@[simp] theorem State.stall_agenda (s : State) : (s.stall).agenda = s.agenda := rfl
@[simp] theorem State.stall_turn (s : State) : (s.stall).turn = s.turn := rfl
@[simp] theorem State.stall_nextId (s : State) : (s.stall).nextId = s.nextId := rfl
@[simp] theorem State.stall_nextSeq (s : State) : (s.stall).nextSeq = s.nextSeq := rfl

/-! ### The thread in focus -/

theorem State.th_eq (s : State) : s.th = s.tile.threads[s.tid] := rfl
@[simp] theorem State.setTh_th (s : State) (h : Thread) : (s.setTh h).th = h := by simp [State.th, State.setTh]
@[simp] theorem State.mapTh_th (s : State) (f : Thread → Thread) : (s.mapTh f).th = f s.th := by simp [State.mapTh]
@[simp] theorem State.setG_th (s : State) (r : GReg) (w : Word) : (s.setG r w).th = s.th.setG r w := by simp [State.setG]
@[simp] theorem State.setP_th (s : State) (r : PReg) (b : Bool) : (s.setP r b).th = s.th.setP r b := by simp [State.setP]
@[simp] theorem State.setTh_setTh (s : State) (h k : Thread) : (s.setTh h).setTh k = s.setTh k := by simp [State.setTh]
@[simp] theorem State.mapTh_mapTh (s : State) (f g : Thread → Thread) : (s.mapTh f).mapTh g = s.mapTh fun t => g (f t) := by
  simp [State.mapTh]
theorem State.store_th (s : State) (k n : Nat) (v : Word) : (s.store k n v).th = s.th := rfl
theorem State.setField_th (s : State) (i : Nat) (x : Field) : (s.setField i x).th = s.th := rfl
@[simp] theorem State.mapTile_tile (s : State) (f : Tile → Tile) : (s.mapTile f).tile = f s.tile := rfl
@[simp] theorem State.setTh_tile (s : State) (h : Thread) :
    (s.setTh h).tile = { s.tile with threads := s.tile.threads.set s.tid h } := rfl

/-! ### Registers of a thread -/

@[simp] theorem Thread.gr_zero (t : Thread) : t.gr 0 = 0 := rfl
@[simp] theorem Thread.setG_zero (t : Thread) (w : Word) : t.setG 0 w = t := rfl
theorem Thread.gr_setG_same (t : Thread) (r : GReg) (w : Word) (h : r ≠ 0) : (t.setG r w).gr r = w := by
  unfold Thread.gr Thread.setG
  rw [if_neg h, if_neg h]; simp
theorem Thread.gr_setG_other (t : Thread) (r q : GReg) (w : Word) (h : q ≠ r) : (t.setG r w).gr q = t.gr q := by
  have : q.toNat ≠ r.toNat := fun e => h (BitVec.eq_of_toNat_eq e)
  unfold Thread.gr Thread.setG
  by_cases hr : r = 0
  · rw [if_pos hr]
  · rw [if_neg hr]; simp [this.symm]
@[simp] theorem Thread.pr_zero (t : Thread) : t.pr 0 = true := rfl
@[simp] theorem Thread.setP_zero (t : Thread) (b : Bool) : t.setP 0 b = t := rfl
theorem bitSet8_same (w : BitVec 8) (i : BitVec 3) (b : Bool) : (bitSet8 w i.toNat b).getLsbD i.toNat = b := by
  have := i.isLt
  cases b <;> (simp [bitSet8]; try omega)
theorem bitSet8_other (w : BitVec 8) (i j : BitVec 3) (b : Bool) (h : j ≠ i) :
    (bitSet8 w i.toNat b).getLsbD j.toNat = w.getLsbD j.toNat := by
  have := j.isLt
  have : j.toNat ≠ i.toNat := fun e => h (BitVec.eq_of_toNat_eq e)
  have e : j.toNat < i.toNat ∨ j.toNat - i.toNat ≠ 0 := by omega
  cases b <;> simp [bitSet8, BitVec.getLsbD_one] <;> grind
theorem Thread.pr_setP_same (t : Thread) (r : PReg) (b : Bool) (h : r ≠ 0) : (t.setP r b).pr r = b := by
  unfold Thread.pr Thread.setP
  rw [if_neg h]; simp only [bitSet8_same, Bool.or_eq_right_iff_imp, beq_iff_eq]
  exact fun e => absurd e h
theorem Thread.pr_setP_other (t : Thread) (r q : PReg) (b : Bool) (h : q ≠ r) : (t.setP r b).pr q = t.pr q := by
  unfold Thread.pr Thread.setP
  by_cases hr : r = 0
  · rw [if_pos hr]
  · rw [if_neg hr]; simp [bitSet8_other _ _ _ _ h]


@[simp] theorem Thread.setG_state (t : Thread) (r : GReg) (w : Word) : (t.setG r w).state = t.state := by unfold Thread.setG; split <;> rfl
@[simp] theorem Thread.setG_pc (t : Thread) (r : GReg) (w : Word) : (t.setG r w).pc = t.pc := by unfold Thread.setG; split <;> rfl
@[simp] theorem Thread.setG_p (t : Thread) (r : GReg) (w : Word) : (t.setG r w).p = t.p := by unfold Thread.setG; split <;> rfl
@[simp] theorem Thread.setG_v (t : Thread) (r : GReg) (w : Word) : (t.setG r w).v = t.v := by unfold Thread.setG; split <;> rfl
@[simp] theorem Thread.setG_vtag (t : Thread) (r : GReg) (w : Word) : (t.setG r w).vtag = t.vtag := by unfold Thread.setG; split <;> rfl
@[simp] theorem Thread.setG_m (t : Thread) (r : GReg) (w : Word) : (t.setG r w).m = t.m := by unfold Thread.setG; split <;> rfl
@[simp] theorem Thread.setG_rmode (t : Thread) (r : GReg) (w : Word) : (t.setG r w).rmode = t.rmode := by unfold Thread.setG; split <;> rfl
@[simp] theorem Thread.setG_fflags (t : Thread) (r : GReg) (w : Word) : (t.setG r w).fflags = t.fflags := by unfold Thread.setG; split <;> rfl
@[simp] theorem Thread.setG_tcm (t : Thread) (r : GReg) (w : Word) : (t.setG r w).tcm = t.tcm := by unfold Thread.setG; split <;> rfl
@[simp] theorem Thread.setG_srseq (t : Thread) (r : GReg) (w : Word) : (t.setG r w).srseq = t.srseq := by unfold Thread.setG; split <;> rfl
@[simp] theorem Thread.setG_slim (t : Thread) (r : GReg) (w : Word) : (t.setG r w).slim = t.slim := by unfold Thread.setG; split <;> rfl
@[simp] theorem Thread.setG_rsp (t : Thread) (r : GReg) (w : Word) : (t.setG r w).rsp = t.rsp := by unfold Thread.setG; split <;> rfl
@[simp] theorem Thread.setG_rsbase (t : Thread) (r : GReg) (w : Word) : (t.setG r w).rsbase = t.rsbase := by unfold Thread.setG; split <;> rfl
@[simp] theorem Thread.setG_rslim (t : Thread) (r : GReg) (w : Word) : (t.setG r w).rslim = t.rslim := by unfold Thread.setG; split <;> rfl
@[simp] theorem Thread.setG_rstore (t : Thread) (r : GReg) (w : Word) : (t.setG r w).rstore = t.rstore := by unfold Thread.setG; split <;> rfl
@[simp] theorem Thread.setG_entry (t : Thread) (r : GReg) (w : Word) : (t.setG r w).entry = t.entry := by unfold Thread.setG; split <;> rfl
@[simp] theorem Thread.setG_outc (t : Thread) (r : GReg) (w : Word) : (t.setG r w).outc = t.outc := by unfold Thread.setG; split <;> rfl
@[simp] theorem Thread.setG_loop (t : Thread) (r : GReg) (w : Word) : (t.setG r w).loop = t.loop := by unfold Thread.setG; split <;> rfl
@[simp] theorem Thread.setG_cycles (t : Thread) (r : GReg) (w : Word) : (t.setG r w).cycles = t.cycles := by unfold Thread.setG; split <;> rfl
@[simp] theorem Thread.setG_stackTop (t : Thread) (r : GReg) (w : Word) : (t.setG r w).stackTop = t.stackTop := by unfold Thread.setG; split <;> rfl
@[simp] theorem Thread.setG_work (t : Thread) (r : GReg) (w : Word) : (t.setG r w).work = t.work := by unfold Thread.setG; split <;> rfl
@[simp] theorem Thread.setG_fwdUsed (t : Thread) (r : GReg) (w : Word) : (t.setG r w).fwdUsed = t.fwdUsed := by unfold Thread.setG; split <;> rfl
@[simp] theorem Thread.setG_pinRec (t : Thread) (r : GReg) (w : Word) : (t.setG r w).pinRec = t.pinRec := by unfold Thread.setG; split <;> rfl
@[simp] theorem Thread.setG_pinNow (t : Thread) (r : GReg) (w : Word) : (t.setG r w).pinNow = t.pinNow := by unfold Thread.setG; split <;> rfl
@[simp] theorem Thread.setG_unpinned (t : Thread) (r : GReg) (w : Word) : (t.setG r w).unpinned = t.unpinned := by unfold Thread.setG; split <;> rfl
@[simp] theorem Thread.setG_pending (t : Thread) (r : GReg) (w : Word) : (t.setG r w).pending = t.pending := by unfold Thread.setG; split <;> rfl
@[simp] theorem Thread.setG_pends (t : Thread) (r : GReg) (w : Word) : (t.setG r w).pends = t.pends := by unfold Thread.setG; split <;> rfl
@[simp] theorem Thread.setG_deferred (t : Thread) (r : GReg) (w : Word) : (t.setG r w).deferred = t.deferred := by unfold Thread.setG; split <;> rfl
@[simp] theorem Thread.setG_further (t : Thread) (r : GReg) (w : Word) : (t.setG r w).further = t.further := by unfold Thread.setG; split <;> rfl
@[simp] theorem Thread.setG_wait (t : Thread) (r : GReg) (w : Word) : (t.setG r w).wait = t.wait := by unfold Thread.setG; split <;> rfl
@[simp] theorem Thread.setG_record (t : Thread) (r : GReg) (w : Word) : (t.setG r w).record = t.record := by unfold Thread.setG; split <;> rfl
@[simp] theorem Thread.setG_resumeSkip (t : Thread) (r : GReg) (w : Word) : (t.setG r w).resumeSkip = t.resumeSkip := by unfold Thread.setG; split <;> rfl
@[simp] theorem Thread.setG_skipBkpt (t : Thread) (r : GReg) (w : Word) : (t.setG r w).skipBkpt = t.skipBkpt := by unfold Thread.setG; split <;> rfl
@[simp] theorem Thread.setG_atBkpt (t : Thread) (r : GReg) (w : Word) : (t.setG r w).atBkpt = t.atBkpt := by unfold Thread.setG; split <;> rfl
@[simp] theorem Thread.setG_stepping (t : Thread) (r : GReg) (w : Word) : (t.setG r w).stepping = t.stepping := by unfold Thread.setG; split <;> rfl
@[simp] theorem Thread.setG_savedAs (t : Thread) (r : GReg) (w : Word) : (t.setG r w).savedAs = t.savedAs := by unfold Thread.setG; split <;> rfl
@[simp] theorem Thread.setG_stalled (t : Thread) (r : GReg) (w : Word) : (t.setG r w).stalled = t.stalled := by unfold Thread.setG; split <;> rfl
@[simp] theorem Thread.setG_noted (t : Thread) (r : GReg) (w : Word) : (t.setG r w).noted = t.noted := by unfold Thread.setG; split <;> rfl
@[simp] theorem Thread.setG_turnAt (t : Thread) (r : GReg) (w : Word) : (t.setG r w).turnAt = t.turnAt := by unfold Thread.setG; split <;> rfl
@[simp] theorem Thread.setP_state (t : Thread) (r : PReg) (b : Bool) : (t.setP r b).state = t.state := by unfold Thread.setP; split <;> rfl
@[simp] theorem Thread.setP_pc (t : Thread) (r : PReg) (b : Bool) : (t.setP r b).pc = t.pc := by unfold Thread.setP; split <;> rfl
@[simp] theorem Thread.setP_g (t : Thread) (r : PReg) (b : Bool) : (t.setP r b).g = t.g := by unfold Thread.setP; split <;> rfl
@[simp] theorem Thread.setP_v (t : Thread) (r : PReg) (b : Bool) : (t.setP r b).v = t.v := by unfold Thread.setP; split <;> rfl
@[simp] theorem Thread.setP_vtag (t : Thread) (r : PReg) (b : Bool) : (t.setP r b).vtag = t.vtag := by unfold Thread.setP; split <;> rfl
@[simp] theorem Thread.setP_m (t : Thread) (r : PReg) (b : Bool) : (t.setP r b).m = t.m := by unfold Thread.setP; split <;> rfl
@[simp] theorem Thread.setP_rmode (t : Thread) (r : PReg) (b : Bool) : (t.setP r b).rmode = t.rmode := by unfold Thread.setP; split <;> rfl
@[simp] theorem Thread.setP_fflags (t : Thread) (r : PReg) (b : Bool) : (t.setP r b).fflags = t.fflags := by unfold Thread.setP; split <;> rfl
@[simp] theorem Thread.setP_tcm (t : Thread) (r : PReg) (b : Bool) : (t.setP r b).tcm = t.tcm := by unfold Thread.setP; split <;> rfl
@[simp] theorem Thread.setP_srseq (t : Thread) (r : PReg) (b : Bool) : (t.setP r b).srseq = t.srseq := by unfold Thread.setP; split <;> rfl
@[simp] theorem Thread.setP_slim (t : Thread) (r : PReg) (b : Bool) : (t.setP r b).slim = t.slim := by unfold Thread.setP; split <;> rfl
@[simp] theorem Thread.setP_rsp (t : Thread) (r : PReg) (b : Bool) : (t.setP r b).rsp = t.rsp := by unfold Thread.setP; split <;> rfl
@[simp] theorem Thread.setP_rsbase (t : Thread) (r : PReg) (b : Bool) : (t.setP r b).rsbase = t.rsbase := by unfold Thread.setP; split <;> rfl
@[simp] theorem Thread.setP_rslim (t : Thread) (r : PReg) (b : Bool) : (t.setP r b).rslim = t.rslim := by unfold Thread.setP; split <;> rfl
@[simp] theorem Thread.setP_rstore (t : Thread) (r : PReg) (b : Bool) : (t.setP r b).rstore = t.rstore := by unfold Thread.setP; split <;> rfl
@[simp] theorem Thread.setP_entry (t : Thread) (r : PReg) (b : Bool) : (t.setP r b).entry = t.entry := by unfold Thread.setP; split <;> rfl
@[simp] theorem Thread.setP_outc (t : Thread) (r : PReg) (b : Bool) : (t.setP r b).outc = t.outc := by unfold Thread.setP; split <;> rfl
@[simp] theorem Thread.setP_loop (t : Thread) (r : PReg) (b : Bool) : (t.setP r b).loop = t.loop := by unfold Thread.setP; split <;> rfl
@[simp] theorem Thread.setP_cycles (t : Thread) (r : PReg) (b : Bool) : (t.setP r b).cycles = t.cycles := by unfold Thread.setP; split <;> rfl
@[simp] theorem Thread.setP_stackTop (t : Thread) (r : PReg) (b : Bool) : (t.setP r b).stackTop = t.stackTop := by unfold Thread.setP; split <;> rfl
@[simp] theorem Thread.setP_work (t : Thread) (r : PReg) (b : Bool) : (t.setP r b).work = t.work := by unfold Thread.setP; split <;> rfl
@[simp] theorem Thread.setP_fwdUsed (t : Thread) (r : PReg) (b : Bool) : (t.setP r b).fwdUsed = t.fwdUsed := by unfold Thread.setP; split <;> rfl
@[simp] theorem Thread.setP_pinRec (t : Thread) (r : PReg) (b : Bool) : (t.setP r b).pinRec = t.pinRec := by unfold Thread.setP; split <;> rfl
@[simp] theorem Thread.setP_pinNow (t : Thread) (r : PReg) (b : Bool) : (t.setP r b).pinNow = t.pinNow := by unfold Thread.setP; split <;> rfl
@[simp] theorem Thread.setP_unpinned (t : Thread) (r : PReg) (b : Bool) : (t.setP r b).unpinned = t.unpinned := by unfold Thread.setP; split <;> rfl
@[simp] theorem Thread.setP_pending (t : Thread) (r : PReg) (b : Bool) : (t.setP r b).pending = t.pending := by unfold Thread.setP; split <;> rfl
@[simp] theorem Thread.setP_pends (t : Thread) (r : PReg) (b : Bool) : (t.setP r b).pends = t.pends := by unfold Thread.setP; split <;> rfl
@[simp] theorem Thread.setP_deferred (t : Thread) (r : PReg) (b : Bool) : (t.setP r b).deferred = t.deferred := by unfold Thread.setP; split <;> rfl
@[simp] theorem Thread.setP_further (t : Thread) (r : PReg) (b : Bool) : (t.setP r b).further = t.further := by unfold Thread.setP; split <;> rfl
@[simp] theorem Thread.setP_wait (t : Thread) (r : PReg) (b : Bool) : (t.setP r b).wait = t.wait := by unfold Thread.setP; split <;> rfl
@[simp] theorem Thread.setP_record (t : Thread) (r : PReg) (b : Bool) : (t.setP r b).record = t.record := by unfold Thread.setP; split <;> rfl
@[simp] theorem Thread.setP_resumeSkip (t : Thread) (r : PReg) (b : Bool) : (t.setP r b).resumeSkip = t.resumeSkip := by unfold Thread.setP; split <;> rfl
@[simp] theorem Thread.setP_skipBkpt (t : Thread) (r : PReg) (b : Bool) : (t.setP r b).skipBkpt = t.skipBkpt := by unfold Thread.setP; split <;> rfl
@[simp] theorem Thread.setP_atBkpt (t : Thread) (r : PReg) (b : Bool) : (t.setP r b).atBkpt = t.atBkpt := by unfold Thread.setP; split <;> rfl
@[simp] theorem Thread.setP_stepping (t : Thread) (r : PReg) (b : Bool) : (t.setP r b).stepping = t.stepping := by unfold Thread.setP; split <;> rfl
@[simp] theorem Thread.setP_savedAs (t : Thread) (r : PReg) (b : Bool) : (t.setP r b).savedAs = t.savedAs := by unfold Thread.setP; split <;> rfl
@[simp] theorem Thread.setP_stalled (t : Thread) (r : PReg) (b : Bool) : (t.setP r b).stalled = t.stalled := by unfold Thread.setP; split <;> rfl
@[simp] theorem Thread.setP_noted (t : Thread) (r : PReg) (b : Bool) : (t.setP r b).noted = t.noted := by unfold Thread.setP; split <;> rfl
@[simp] theorem Thread.setP_turnAt (t : Thread) (r : PReg) (b : Bool) : (t.setP r b).turnAt = t.turnAt := by unfold Thread.setP; split <;> rfl
@[simp] theorem Thread.setM_state (t : Thread) (r : MReg) (w : Word) : (t.setM r w).state = t.state := by unfold Thread.setM; split <;> rfl
@[simp] theorem Thread.setM_pc (t : Thread) (r : MReg) (w : Word) : (t.setM r w).pc = t.pc := by unfold Thread.setM; split <;> rfl
@[simp] theorem Thread.setM_g (t : Thread) (r : MReg) (w : Word) : (t.setM r w).g = t.g := by unfold Thread.setM; split <;> rfl
@[simp] theorem Thread.setM_p (t : Thread) (r : MReg) (w : Word) : (t.setM r w).p = t.p := by unfold Thread.setM; split <;> rfl
@[simp] theorem Thread.setM_v (t : Thread) (r : MReg) (w : Word) : (t.setM r w).v = t.v := by unfold Thread.setM; split <;> rfl
@[simp] theorem Thread.setM_vtag (t : Thread) (r : MReg) (w : Word) : (t.setM r w).vtag = t.vtag := by unfold Thread.setM; split <;> rfl
@[simp] theorem Thread.setM_rmode (t : Thread) (r : MReg) (w : Word) : (t.setM r w).rmode = t.rmode := by unfold Thread.setM; split <;> rfl
@[simp] theorem Thread.setM_fflags (t : Thread) (r : MReg) (w : Word) : (t.setM r w).fflags = t.fflags := by unfold Thread.setM; split <;> rfl
@[simp] theorem Thread.setM_tcm (t : Thread) (r : MReg) (w : Word) : (t.setM r w).tcm = t.tcm := by unfold Thread.setM; split <;> rfl
@[simp] theorem Thread.setM_srseq (t : Thread) (r : MReg) (w : Word) : (t.setM r w).srseq = t.srseq := by unfold Thread.setM; split <;> rfl
@[simp] theorem Thread.setM_slim (t : Thread) (r : MReg) (w : Word) : (t.setM r w).slim = t.slim := by unfold Thread.setM; split <;> rfl
@[simp] theorem Thread.setM_rsp (t : Thread) (r : MReg) (w : Word) : (t.setM r w).rsp = t.rsp := by unfold Thread.setM; split <;> rfl
@[simp] theorem Thread.setM_rsbase (t : Thread) (r : MReg) (w : Word) : (t.setM r w).rsbase = t.rsbase := by unfold Thread.setM; split <;> rfl
@[simp] theorem Thread.setM_rslim (t : Thread) (r : MReg) (w : Word) : (t.setM r w).rslim = t.rslim := by unfold Thread.setM; split <;> rfl
@[simp] theorem Thread.setM_rstore (t : Thread) (r : MReg) (w : Word) : (t.setM r w).rstore = t.rstore := by unfold Thread.setM; split <;> rfl
@[simp] theorem Thread.setM_entry (t : Thread) (r : MReg) (w : Word) : (t.setM r w).entry = t.entry := by unfold Thread.setM; split <;> rfl
@[simp] theorem Thread.setM_outc (t : Thread) (r : MReg) (w : Word) : (t.setM r w).outc = t.outc := by unfold Thread.setM; split <;> rfl
@[simp] theorem Thread.setM_loop (t : Thread) (r : MReg) (w : Word) : (t.setM r w).loop = t.loop := by unfold Thread.setM; split <;> rfl
@[simp] theorem Thread.setM_cycles (t : Thread) (r : MReg) (w : Word) : (t.setM r w).cycles = t.cycles := by unfold Thread.setM; split <;> rfl
@[simp] theorem Thread.setM_stackTop (t : Thread) (r : MReg) (w : Word) : (t.setM r w).stackTop = t.stackTop := by unfold Thread.setM; split <;> rfl
@[simp] theorem Thread.setM_work (t : Thread) (r : MReg) (w : Word) : (t.setM r w).work = t.work := by unfold Thread.setM; split <;> rfl
@[simp] theorem Thread.setM_fwdUsed (t : Thread) (r : MReg) (w : Word) : (t.setM r w).fwdUsed = t.fwdUsed := by unfold Thread.setM; split <;> rfl
@[simp] theorem Thread.setM_pinRec (t : Thread) (r : MReg) (w : Word) : (t.setM r w).pinRec = t.pinRec := by unfold Thread.setM; split <;> rfl
@[simp] theorem Thread.setM_pinNow (t : Thread) (r : MReg) (w : Word) : (t.setM r w).pinNow = t.pinNow := by unfold Thread.setM; split <;> rfl
@[simp] theorem Thread.setM_unpinned (t : Thread) (r : MReg) (w : Word) : (t.setM r w).unpinned = t.unpinned := by unfold Thread.setM; split <;> rfl
@[simp] theorem Thread.setM_pending (t : Thread) (r : MReg) (w : Word) : (t.setM r w).pending = t.pending := by unfold Thread.setM; split <;> rfl
@[simp] theorem Thread.setM_pends (t : Thread) (r : MReg) (w : Word) : (t.setM r w).pends = t.pends := by unfold Thread.setM; split <;> rfl
@[simp] theorem Thread.setM_deferred (t : Thread) (r : MReg) (w : Word) : (t.setM r w).deferred = t.deferred := by unfold Thread.setM; split <;> rfl
@[simp] theorem Thread.setM_further (t : Thread) (r : MReg) (w : Word) : (t.setM r w).further = t.further := by unfold Thread.setM; split <;> rfl
@[simp] theorem Thread.setM_wait (t : Thread) (r : MReg) (w : Word) : (t.setM r w).wait = t.wait := by unfold Thread.setM; split <;> rfl
@[simp] theorem Thread.setM_record (t : Thread) (r : MReg) (w : Word) : (t.setM r w).record = t.record := by unfold Thread.setM; split <;> rfl
@[simp] theorem Thread.setM_resumeSkip (t : Thread) (r : MReg) (w : Word) : (t.setM r w).resumeSkip = t.resumeSkip := by unfold Thread.setM; split <;> rfl
@[simp] theorem Thread.setM_skipBkpt (t : Thread) (r : MReg) (w : Word) : (t.setM r w).skipBkpt = t.skipBkpt := by unfold Thread.setM; split <;> rfl
@[simp] theorem Thread.setM_atBkpt (t : Thread) (r : MReg) (w : Word) : (t.setM r w).atBkpt = t.atBkpt := by unfold Thread.setM; split <;> rfl
@[simp] theorem Thread.setM_stepping (t : Thread) (r : MReg) (w : Word) : (t.setM r w).stepping = t.stepping := by unfold Thread.setM; split <;> rfl
@[simp] theorem Thread.setM_savedAs (t : Thread) (r : MReg) (w : Word) : (t.setM r w).savedAs = t.savedAs := by unfold Thread.setM; split <;> rfl
@[simp] theorem Thread.setM_stalled (t : Thread) (r : MReg) (w : Word) : (t.setM r w).stalled = t.stalled := by unfold Thread.setM; split <;> rfl
@[simp] theorem Thread.setM_noted (t : Thread) (r : MReg) (w : Word) : (t.setM r w).noted = t.noted := by unfold Thread.setM; split <;> rfl
@[simp] theorem Thread.setM_turnAt (t : Thread) (r : MReg) (w : Word) : (t.setM r w).turnAt = t.turnAt := by unfold Thread.setM; split <;> rfl
@[simp] theorem Thread.setV_state (t : Thread) (r : VReg) (l : Line) (d : Desc) : (t.setV r l d).state = t.state := rfl
@[simp] theorem Thread.setV_pc (t : Thread) (r : VReg) (l : Line) (d : Desc) : (t.setV r l d).pc = t.pc := rfl
@[simp] theorem Thread.setV_g (t : Thread) (r : VReg) (l : Line) (d : Desc) : (t.setV r l d).g = t.g := rfl
@[simp] theorem Thread.setV_p (t : Thread) (r : VReg) (l : Line) (d : Desc) : (t.setV r l d).p = t.p := rfl
@[simp] theorem Thread.setV_m (t : Thread) (r : VReg) (l : Line) (d : Desc) : (t.setV r l d).m = t.m := rfl
@[simp] theorem Thread.setV_rmode (t : Thread) (r : VReg) (l : Line) (d : Desc) : (t.setV r l d).rmode = t.rmode := rfl
@[simp] theorem Thread.setV_fflags (t : Thread) (r : VReg) (l : Line) (d : Desc) : (t.setV r l d).fflags = t.fflags := rfl
@[simp] theorem Thread.setV_tcm (t : Thread) (r : VReg) (l : Line) (d : Desc) : (t.setV r l d).tcm = t.tcm := rfl
@[simp] theorem Thread.setV_srseq (t : Thread) (r : VReg) (l : Line) (d : Desc) : (t.setV r l d).srseq = t.srseq := rfl
@[simp] theorem Thread.setV_slim (t : Thread) (r : VReg) (l : Line) (d : Desc) : (t.setV r l d).slim = t.slim := rfl
@[simp] theorem Thread.setV_rsp (t : Thread) (r : VReg) (l : Line) (d : Desc) : (t.setV r l d).rsp = t.rsp := rfl
@[simp] theorem Thread.setV_rsbase (t : Thread) (r : VReg) (l : Line) (d : Desc) : (t.setV r l d).rsbase = t.rsbase := rfl
@[simp] theorem Thread.setV_rslim (t : Thread) (r : VReg) (l : Line) (d : Desc) : (t.setV r l d).rslim = t.rslim := rfl
@[simp] theorem Thread.setV_rstore (t : Thread) (r : VReg) (l : Line) (d : Desc) : (t.setV r l d).rstore = t.rstore := rfl
@[simp] theorem Thread.setV_entry (t : Thread) (r : VReg) (l : Line) (d : Desc) : (t.setV r l d).entry = t.entry := rfl
@[simp] theorem Thread.setV_outc (t : Thread) (r : VReg) (l : Line) (d : Desc) : (t.setV r l d).outc = t.outc := rfl
@[simp] theorem Thread.setV_loop (t : Thread) (r : VReg) (l : Line) (d : Desc) : (t.setV r l d).loop = t.loop := rfl
@[simp] theorem Thread.setV_cycles (t : Thread) (r : VReg) (l : Line) (d : Desc) : (t.setV r l d).cycles = t.cycles := rfl
@[simp] theorem Thread.setV_stackTop (t : Thread) (r : VReg) (l : Line) (d : Desc) : (t.setV r l d).stackTop = t.stackTop := rfl
@[simp] theorem Thread.setV_work (t : Thread) (r : VReg) (l : Line) (d : Desc) : (t.setV r l d).work = t.work := rfl
@[simp] theorem Thread.setV_fwdUsed (t : Thread) (r : VReg) (l : Line) (d : Desc) : (t.setV r l d).fwdUsed = t.fwdUsed := rfl
@[simp] theorem Thread.setV_pinRec (t : Thread) (r : VReg) (l : Line) (d : Desc) : (t.setV r l d).pinRec = t.pinRec := rfl
@[simp] theorem Thread.setV_pinNow (t : Thread) (r : VReg) (l : Line) (d : Desc) : (t.setV r l d).pinNow = t.pinNow := rfl
@[simp] theorem Thread.setV_unpinned (t : Thread) (r : VReg) (l : Line) (d : Desc) : (t.setV r l d).unpinned = t.unpinned := rfl
@[simp] theorem Thread.setV_pending (t : Thread) (r : VReg) (l : Line) (d : Desc) : (t.setV r l d).pending = t.pending := rfl
@[simp] theorem Thread.setV_pends (t : Thread) (r : VReg) (l : Line) (d : Desc) : (t.setV r l d).pends = t.pends := rfl
@[simp] theorem Thread.setV_deferred (t : Thread) (r : VReg) (l : Line) (d : Desc) : (t.setV r l d).deferred = t.deferred := rfl
@[simp] theorem Thread.setV_further (t : Thread) (r : VReg) (l : Line) (d : Desc) : (t.setV r l d).further = t.further := rfl
@[simp] theorem Thread.setV_wait (t : Thread) (r : VReg) (l : Line) (d : Desc) : (t.setV r l d).wait = t.wait := rfl
@[simp] theorem Thread.setV_record (t : Thread) (r : VReg) (l : Line) (d : Desc) : (t.setV r l d).record = t.record := rfl
@[simp] theorem Thread.setV_resumeSkip (t : Thread) (r : VReg) (l : Line) (d : Desc) : (t.setV r l d).resumeSkip = t.resumeSkip := rfl
@[simp] theorem Thread.setV_skipBkpt (t : Thread) (r : VReg) (l : Line) (d : Desc) : (t.setV r l d).skipBkpt = t.skipBkpt := rfl
@[simp] theorem Thread.setV_atBkpt (t : Thread) (r : VReg) (l : Line) (d : Desc) : (t.setV r l d).atBkpt = t.atBkpt := rfl
@[simp] theorem Thread.setV_stepping (t : Thread) (r : VReg) (l : Line) (d : Desc) : (t.setV r l d).stepping = t.stepping := rfl
@[simp] theorem Thread.setV_savedAs (t : Thread) (r : VReg) (l : Line) (d : Desc) : (t.setV r l d).savedAs = t.savedAs := rfl
@[simp] theorem Thread.setV_stalled (t : Thread) (r : VReg) (l : Line) (d : Desc) : (t.setV r l d).stalled = t.stalled := rfl
@[simp] theorem Thread.setV_noted (t : Thread) (r : VReg) (l : Line) (d : Desc) : (t.setV r l d).noted = t.noted := rfl
@[simp] theorem Thread.setV_turnAt (t : Thread) (r : VReg) (l : Line) (d : Desc) : (t.setV r l d).turnAt = t.turnAt := rfl
@[simp] theorem Thread.trap_pc (t : Thread) (i : TrapInfo) : (t.trap i).pc = t.pc := rfl
@[simp] theorem Thread.trap_g (t : Thread) (i : TrapInfo) : (t.trap i).g = t.g := rfl
@[simp] theorem Thread.trap_p (t : Thread) (i : TrapInfo) : (t.trap i).p = t.p := rfl
@[simp] theorem Thread.trap_v (t : Thread) (i : TrapInfo) : (t.trap i).v = t.v := rfl
@[simp] theorem Thread.trap_vtag (t : Thread) (i : TrapInfo) : (t.trap i).vtag = t.vtag := rfl
@[simp] theorem Thread.trap_m (t : Thread) (i : TrapInfo) : (t.trap i).m = t.m := rfl
@[simp] theorem Thread.trap_rmode (t : Thread) (i : TrapInfo) : (t.trap i).rmode = t.rmode := rfl
@[simp] theorem Thread.trap_fflags (t : Thread) (i : TrapInfo) : (t.trap i).fflags = t.fflags := rfl
@[simp] theorem Thread.trap_tcm (t : Thread) (i : TrapInfo) : (t.trap i).tcm = t.tcm := rfl
@[simp] theorem Thread.trap_srseq (t : Thread) (i : TrapInfo) : (t.trap i).srseq = t.srseq := rfl
@[simp] theorem Thread.trap_slim (t : Thread) (i : TrapInfo) : (t.trap i).slim = t.slim := rfl
@[simp] theorem Thread.trap_rsp (t : Thread) (i : TrapInfo) : (t.trap i).rsp = t.rsp := rfl
@[simp] theorem Thread.trap_rsbase (t : Thread) (i : TrapInfo) : (t.trap i).rsbase = t.rsbase := rfl
@[simp] theorem Thread.trap_rslim (t : Thread) (i : TrapInfo) : (t.trap i).rslim = t.rslim := rfl
@[simp] theorem Thread.trap_rstore (t : Thread) (i : TrapInfo) : (t.trap i).rstore = t.rstore := rfl
@[simp] theorem Thread.trap_entry (t : Thread) (i : TrapInfo) : (t.trap i).entry = t.entry := rfl
@[simp] theorem Thread.trap_outc (t : Thread) (i : TrapInfo) : (t.trap i).outc = t.outc := rfl
@[simp] theorem Thread.trap_loop (t : Thread) (i : TrapInfo) : (t.trap i).loop = t.loop := rfl
@[simp] theorem Thread.trap_cycles (t : Thread) (i : TrapInfo) : (t.trap i).cycles = t.cycles := rfl
@[simp] theorem Thread.trap_stackTop (t : Thread) (i : TrapInfo) : (t.trap i).stackTop = t.stackTop := rfl
@[simp] theorem Thread.trap_work (t : Thread) (i : TrapInfo) : (t.trap i).work = t.work := rfl
@[simp] theorem Thread.trap_fwdUsed (t : Thread) (i : TrapInfo) : (t.trap i).fwdUsed = t.fwdUsed := rfl
@[simp] theorem Thread.trap_pinRec (t : Thread) (i : TrapInfo) : (t.trap i).pinRec = t.pinRec := rfl
@[simp] theorem Thread.trap_pinNow (t : Thread) (i : TrapInfo) : (t.trap i).pinNow = t.pinNow := rfl
@[simp] theorem Thread.trap_unpinned (t : Thread) (i : TrapInfo) : (t.trap i).unpinned = t.unpinned := rfl
@[simp] theorem Thread.trap_pending (t : Thread) (i : TrapInfo) : (t.trap i).pending = t.pending := rfl
@[simp] theorem Thread.trap_pends (t : Thread) (i : TrapInfo) : (t.trap i).pends = t.pends := rfl
@[simp] theorem Thread.trap_deferred (t : Thread) (i : TrapInfo) : (t.trap i).deferred = t.deferred := rfl
@[simp] theorem Thread.trap_further (t : Thread) (i : TrapInfo) : (t.trap i).further = t.further := rfl
@[simp] theorem Thread.trap_skipBkpt (t : Thread) (i : TrapInfo) : (t.trap i).skipBkpt = t.skipBkpt := rfl
@[simp] theorem Thread.trap_savedAs (t : Thread) (i : TrapInfo) : (t.trap i).savedAs = t.savedAs := rfl
@[simp] theorem Thread.goto_state (t : Thread) (x : BitVec 12) : (t.goto x).state = t.state := rfl
@[simp] theorem Thread.goto_g (t : Thread) (x : BitVec 12) : (t.goto x).g = t.g := rfl
@[simp] theorem Thread.goto_p (t : Thread) (x : BitVec 12) : (t.goto x).p = t.p := rfl
@[simp] theorem Thread.goto_v (t : Thread) (x : BitVec 12) : (t.goto x).v = t.v := rfl
@[simp] theorem Thread.goto_vtag (t : Thread) (x : BitVec 12) : (t.goto x).vtag = t.vtag := rfl
@[simp] theorem Thread.goto_m (t : Thread) (x : BitVec 12) : (t.goto x).m = t.m := rfl
@[simp] theorem Thread.goto_rmode (t : Thread) (x : BitVec 12) : (t.goto x).rmode = t.rmode := rfl
@[simp] theorem Thread.goto_fflags (t : Thread) (x : BitVec 12) : (t.goto x).fflags = t.fflags := rfl
@[simp] theorem Thread.goto_tcm (t : Thread) (x : BitVec 12) : (t.goto x).tcm = t.tcm := rfl
@[simp] theorem Thread.goto_srseq (t : Thread) (x : BitVec 12) : (t.goto x).srseq = t.srseq := rfl
@[simp] theorem Thread.goto_slim (t : Thread) (x : BitVec 12) : (t.goto x).slim = t.slim := rfl
@[simp] theorem Thread.goto_rsp (t : Thread) (x : BitVec 12) : (t.goto x).rsp = t.rsp := rfl
@[simp] theorem Thread.goto_rsbase (t : Thread) (x : BitVec 12) : (t.goto x).rsbase = t.rsbase := rfl
@[simp] theorem Thread.goto_rslim (t : Thread) (x : BitVec 12) : (t.goto x).rslim = t.rslim := rfl
@[simp] theorem Thread.goto_rstore (t : Thread) (x : BitVec 12) : (t.goto x).rstore = t.rstore := rfl
@[simp] theorem Thread.goto_entry (t : Thread) (x : BitVec 12) : (t.goto x).entry = t.entry := rfl
@[simp] theorem Thread.goto_outc (t : Thread) (x : BitVec 12) : (t.goto x).outc = t.outc := rfl
@[simp] theorem Thread.goto_cycles (t : Thread) (x : BitVec 12) : (t.goto x).cycles = t.cycles := rfl
@[simp] theorem Thread.goto_stackTop (t : Thread) (x : BitVec 12) : (t.goto x).stackTop = t.stackTop := rfl
@[simp] theorem Thread.goto_work (t : Thread) (x : BitVec 12) : (t.goto x).work = t.work := rfl
@[simp] theorem Thread.goto_fwdUsed (t : Thread) (x : BitVec 12) : (t.goto x).fwdUsed = t.fwdUsed := rfl
@[simp] theorem Thread.goto_pinRec (t : Thread) (x : BitVec 12) : (t.goto x).pinRec = t.pinRec := rfl
@[simp] theorem Thread.goto_pinNow (t : Thread) (x : BitVec 12) : (t.goto x).pinNow = t.pinNow := rfl
@[simp] theorem Thread.goto_unpinned (t : Thread) (x : BitVec 12) : (t.goto x).unpinned = t.unpinned := rfl
@[simp] theorem Thread.goto_pending (t : Thread) (x : BitVec 12) : (t.goto x).pending = t.pending := rfl
@[simp] theorem Thread.goto_pends (t : Thread) (x : BitVec 12) : (t.goto x).pends = t.pends := rfl
@[simp] theorem Thread.goto_deferred (t : Thread) (x : BitVec 12) : (t.goto x).deferred = t.deferred := rfl
@[simp] theorem Thread.goto_further (t : Thread) (x : BitVec 12) : (t.goto x).further = t.further := rfl
@[simp] theorem Thread.goto_wait (t : Thread) (x : BitVec 12) : (t.goto x).wait = t.wait := rfl
@[simp] theorem Thread.goto_record (t : Thread) (x : BitVec 12) : (t.goto x).record = t.record := rfl
@[simp] theorem Thread.goto_resumeSkip (t : Thread) (x : BitVec 12) : (t.goto x).resumeSkip = t.resumeSkip := rfl
@[simp] theorem Thread.goto_skipBkpt (t : Thread) (x : BitVec 12) : (t.goto x).skipBkpt = t.skipBkpt := rfl
@[simp] theorem Thread.goto_atBkpt (t : Thread) (x : BitVec 12) : (t.goto x).atBkpt = t.atBkpt := rfl
@[simp] theorem Thread.goto_stepping (t : Thread) (x : BitVec 12) : (t.goto x).stepping = t.stepping := rfl
@[simp] theorem Thread.goto_savedAs (t : Thread) (x : BitVec 12) : (t.goto x).savedAs = t.savedAs := rfl
@[simp] theorem Thread.goto_stalled (t : Thread) (x : BitVec 12) : (t.goto x).stalled = t.stalled := rfl
@[simp] theorem Thread.goto_noted (t : Thread) (x : BitVec 12) : (t.goto x).noted = t.noted := rfl
@[simp] theorem Thread.goto_turnAt (t : Thread) (x : BitVec 12) : (t.goto x).turnAt = t.turnAt := rfl
@[simp] theorem Thread.next_state (t : Thread) (n : Nat) : (t.next n).state = t.state := by
  unfold Thread.next; dsimp only; (repeat' split) <;> rfl
@[simp] theorem Thread.next_g (t : Thread) (n : Nat) : (t.next n).g = t.g := by
  unfold Thread.next; dsimp only; (repeat' split) <;> rfl
@[simp] theorem Thread.next_p (t : Thread) (n : Nat) : (t.next n).p = t.p := by
  unfold Thread.next; dsimp only; (repeat' split) <;> rfl
@[simp] theorem Thread.next_v (t : Thread) (n : Nat) : (t.next n).v = t.v := by
  unfold Thread.next; dsimp only; (repeat' split) <;> rfl
@[simp] theorem Thread.next_vtag (t : Thread) (n : Nat) : (t.next n).vtag = t.vtag := by
  unfold Thread.next; dsimp only; (repeat' split) <;> rfl
@[simp] theorem Thread.next_m (t : Thread) (n : Nat) : (t.next n).m = t.m := by
  unfold Thread.next; dsimp only; (repeat' split) <;> rfl
@[simp] theorem Thread.next_rmode (t : Thread) (n : Nat) : (t.next n).rmode = t.rmode := by
  unfold Thread.next; dsimp only; (repeat' split) <;> rfl
@[simp] theorem Thread.next_fflags (t : Thread) (n : Nat) : (t.next n).fflags = t.fflags := by
  unfold Thread.next; dsimp only; (repeat' split) <;> rfl
@[simp] theorem Thread.next_tcm (t : Thread) (n : Nat) : (t.next n).tcm = t.tcm := by
  unfold Thread.next; dsimp only; (repeat' split) <;> rfl
@[simp] theorem Thread.next_srseq (t : Thread) (n : Nat) : (t.next n).srseq = t.srseq := by
  unfold Thread.next; dsimp only; (repeat' split) <;> rfl
@[simp] theorem Thread.next_slim (t : Thread) (n : Nat) : (t.next n).slim = t.slim := by
  unfold Thread.next; dsimp only; (repeat' split) <;> rfl
@[simp] theorem Thread.next_rsp (t : Thread) (n : Nat) : (t.next n).rsp = t.rsp := by
  unfold Thread.next; dsimp only; (repeat' split) <;> rfl
@[simp] theorem Thread.next_rsbase (t : Thread) (n : Nat) : (t.next n).rsbase = t.rsbase := by
  unfold Thread.next; dsimp only; (repeat' split) <;> rfl
@[simp] theorem Thread.next_rslim (t : Thread) (n : Nat) : (t.next n).rslim = t.rslim := by
  unfold Thread.next; dsimp only; (repeat' split) <;> rfl
@[simp] theorem Thread.next_rstore (t : Thread) (n : Nat) : (t.next n).rstore = t.rstore := by
  unfold Thread.next; dsimp only; (repeat' split) <;> rfl
@[simp] theorem Thread.next_entry (t : Thread) (n : Nat) : (t.next n).entry = t.entry := by
  unfold Thread.next; dsimp only; (repeat' split) <;> rfl
@[simp] theorem Thread.next_outc (t : Thread) (n : Nat) : (t.next n).outc = t.outc := by
  unfold Thread.next; dsimp only; (repeat' split) <;> rfl
@[simp] theorem Thread.next_cycles (t : Thread) (n : Nat) : (t.next n).cycles = t.cycles := by
  unfold Thread.next; dsimp only; (repeat' split) <;> rfl
@[simp] theorem Thread.next_stackTop (t : Thread) (n : Nat) : (t.next n).stackTop = t.stackTop := by
  unfold Thread.next; dsimp only; (repeat' split) <;> rfl
@[simp] theorem Thread.next_work (t : Thread) (n : Nat) : (t.next n).work = t.work := by
  unfold Thread.next; dsimp only; (repeat' split) <;> rfl
@[simp] theorem Thread.next_fwdUsed (t : Thread) (n : Nat) : (t.next n).fwdUsed = t.fwdUsed := by
  unfold Thread.next; dsimp only; (repeat' split) <;> rfl
@[simp] theorem Thread.next_pinRec (t : Thread) (n : Nat) : (t.next n).pinRec = t.pinRec := by
  unfold Thread.next; dsimp only; (repeat' split) <;> rfl
@[simp] theorem Thread.next_pinNow (t : Thread) (n : Nat) : (t.next n).pinNow = t.pinNow := by
  unfold Thread.next; dsimp only; (repeat' split) <;> rfl
@[simp] theorem Thread.next_unpinned (t : Thread) (n : Nat) : (t.next n).unpinned = t.unpinned := by
  unfold Thread.next; dsimp only; (repeat' split) <;> rfl
@[simp] theorem Thread.next_pending (t : Thread) (n : Nat) : (t.next n).pending = t.pending := by
  unfold Thread.next; dsimp only; (repeat' split) <;> rfl
@[simp] theorem Thread.next_pends (t : Thread) (n : Nat) : (t.next n).pends = t.pends := by
  unfold Thread.next; dsimp only; (repeat' split) <;> rfl
@[simp] theorem Thread.next_deferred (t : Thread) (n : Nat) : (t.next n).deferred = t.deferred := by
  unfold Thread.next; dsimp only; (repeat' split) <;> rfl
@[simp] theorem Thread.next_further (t : Thread) (n : Nat) : (t.next n).further = t.further := by
  unfold Thread.next; dsimp only; (repeat' split) <;> rfl
@[simp] theorem Thread.next_wait (t : Thread) (n : Nat) : (t.next n).wait = t.wait := by
  unfold Thread.next; dsimp only; (repeat' split) <;> rfl
@[simp] theorem Thread.next_record (t : Thread) (n : Nat) : (t.next n).record = t.record := by
  unfold Thread.next; dsimp only; (repeat' split) <;> rfl
@[simp] theorem Thread.next_resumeSkip (t : Thread) (n : Nat) : (t.next n).resumeSkip = t.resumeSkip := by
  unfold Thread.next; dsimp only; (repeat' split) <;> rfl
@[simp] theorem Thread.next_skipBkpt (t : Thread) (n : Nat) : (t.next n).skipBkpt = t.skipBkpt := by
  unfold Thread.next; dsimp only; (repeat' split) <;> rfl
@[simp] theorem Thread.next_atBkpt (t : Thread) (n : Nat) : (t.next n).atBkpt = t.atBkpt := by
  unfold Thread.next; dsimp only; (repeat' split) <;> rfl
@[simp] theorem Thread.next_stepping (t : Thread) (n : Nat) : (t.next n).stepping = t.stepping := by
  unfold Thread.next; dsimp only; (repeat' split) <;> rfl
@[simp] theorem Thread.next_savedAs (t : Thread) (n : Nat) : (t.next n).savedAs = t.savedAs := by
  unfold Thread.next; dsimp only; (repeat' split) <;> rfl
@[simp] theorem Thread.next_stalled (t : Thread) (n : Nat) : (t.next n).stalled = t.stalled := by
  unfold Thread.next; dsimp only; (repeat' split) <;> rfl
@[simp] theorem Thread.next_noted (t : Thread) (n : Nat) : (t.next n).noted = t.noted := by
  unfold Thread.next; dsimp only; (repeat' split) <;> rfl
@[simp] theorem Thread.next_turnAt (t : Thread) (n : Nat) : (t.next n).turnAt = t.turnAt := by
  unfold Thread.next; dsimp only; (repeat' split) <;> rfl
@[simp] theorem Thread.moved_state (t : Thread) : t.moved.state = t.state := rfl
@[simp] theorem Thread.moved_pc (t : Thread) : t.moved.pc = t.pc := rfl
@[simp] theorem Thread.moved_g (t : Thread) : t.moved.g = t.g := rfl
@[simp] theorem Thread.moved_p (t : Thread) : t.moved.p = t.p := rfl
@[simp] theorem Thread.moved_v (t : Thread) : t.moved.v = t.v := rfl
@[simp] theorem Thread.moved_vtag (t : Thread) : t.moved.vtag = t.vtag := rfl
@[simp] theorem Thread.moved_m (t : Thread) : t.moved.m = t.m := rfl
@[simp] theorem Thread.moved_rmode (t : Thread) : t.moved.rmode = t.rmode := rfl
@[simp] theorem Thread.moved_fflags (t : Thread) : t.moved.fflags = t.fflags := rfl
@[simp] theorem Thread.moved_tcm (t : Thread) : t.moved.tcm = t.tcm := rfl
@[simp] theorem Thread.moved_srseq (t : Thread) : t.moved.srseq = t.srseq := rfl
@[simp] theorem Thread.moved_slim (t : Thread) : t.moved.slim = t.slim := rfl
@[simp] theorem Thread.moved_rsp (t : Thread) : t.moved.rsp = t.rsp := rfl
@[simp] theorem Thread.moved_rsbase (t : Thread) : t.moved.rsbase = t.rsbase := rfl
@[simp] theorem Thread.moved_rslim (t : Thread) : t.moved.rslim = t.rslim := rfl
@[simp] theorem Thread.moved_rstore (t : Thread) : t.moved.rstore = t.rstore := rfl
@[simp] theorem Thread.moved_entry (t : Thread) : t.moved.entry = t.entry := rfl
@[simp] theorem Thread.moved_outc (t : Thread) : t.moved.outc = t.outc := rfl
@[simp] theorem Thread.moved_loop (t : Thread) : t.moved.loop = t.loop := rfl
@[simp] theorem Thread.moved_cycles (t : Thread) : t.moved.cycles = t.cycles := rfl
@[simp] theorem Thread.moved_stackTop (t : Thread) : t.moved.stackTop = t.stackTop := rfl
@[simp] theorem Thread.moved_work (t : Thread) : t.moved.work = t.work := rfl
@[simp] theorem Thread.moved_fwdUsed (t : Thread) : t.moved.fwdUsed = t.fwdUsed := rfl
@[simp] theorem Thread.moved_pinRec (t : Thread) : t.moved.pinRec = t.pinRec := rfl
@[simp] theorem Thread.moved_pinNow (t : Thread) : t.moved.pinNow = t.pinNow := rfl
@[simp] theorem Thread.moved_unpinned (t : Thread) : t.moved.unpinned = t.unpinned := rfl
@[simp] theorem Thread.moved_pending (t : Thread) : t.moved.pending = t.pending := rfl
@[simp] theorem Thread.moved_pends (t : Thread) : t.moved.pends = t.pends := rfl
@[simp] theorem Thread.moved_deferred (t : Thread) : t.moved.deferred = t.deferred := rfl
@[simp] theorem Thread.moved_further (t : Thread) : t.moved.further = t.further := rfl
@[simp] theorem Thread.moved_wait (t : Thread) : t.moved.wait = t.wait := rfl
@[simp] theorem Thread.moved_record (t : Thread) : t.moved.record = t.record := rfl
@[simp] theorem Thread.moved_resumeSkip (t : Thread) : t.moved.resumeSkip = t.resumeSkip := rfl
@[simp] theorem Thread.moved_skipBkpt (t : Thread) : t.moved.skipBkpt = t.skipBkpt := rfl
@[simp] theorem Thread.moved_atBkpt (t : Thread) : t.moved.atBkpt = t.atBkpt := rfl
@[simp] theorem Thread.moved_stepping (t : Thread) : t.moved.stepping = t.stepping := rfl
@[simp] theorem Thread.moved_savedAs (t : Thread) : t.moved.savedAs = t.savedAs := rfl
@[simp] theorem Thread.moved_stalled (t : Thread) : t.moved.stalled = false := rfl
@[simp] theorem Thread.moved_noted (t : Thread) : t.moved.noted = [] := rfl
@[simp] theorem Thread.moved_turnAt (t : Thread) : t.moved.turnAt = none := rfl
@[simp] theorem Thread.stepped_pc (t : Thread) : t.stepped.pc = t.pc := by unfold Thread.stepped Thread.halted; split <;> rfl
@[simp] theorem Thread.stepped_g (t : Thread) : t.stepped.g = t.g := by unfold Thread.stepped Thread.halted; split <;> rfl
@[simp] theorem Thread.stepped_p (t : Thread) : t.stepped.p = t.p := by unfold Thread.stepped Thread.halted; split <;> rfl
@[simp] theorem Thread.stepped_v (t : Thread) : t.stepped.v = t.v := by unfold Thread.stepped Thread.halted; split <;> rfl
@[simp] theorem Thread.stepped_vtag (t : Thread) : t.stepped.vtag = t.vtag := by unfold Thread.stepped Thread.halted; split <;> rfl
@[simp] theorem Thread.stepped_m (t : Thread) : t.stepped.m = t.m := by unfold Thread.stepped Thread.halted; split <;> rfl
@[simp] theorem Thread.stepped_rmode (t : Thread) : t.stepped.rmode = t.rmode := by unfold Thread.stepped Thread.halted; split <;> rfl
@[simp] theorem Thread.stepped_fflags (t : Thread) : t.stepped.fflags = t.fflags := by unfold Thread.stepped Thread.halted; split <;> rfl
@[simp] theorem Thread.stepped_tcm (t : Thread) : t.stepped.tcm = t.tcm := by unfold Thread.stepped Thread.halted; split <;> rfl
@[simp] theorem Thread.stepped_srseq (t : Thread) : t.stepped.srseq = t.srseq := by unfold Thread.stepped Thread.halted; split <;> rfl
@[simp] theorem Thread.stepped_slim (t : Thread) : t.stepped.slim = t.slim := by unfold Thread.stepped Thread.halted; split <;> rfl
@[simp] theorem Thread.stepped_rsp (t : Thread) : t.stepped.rsp = t.rsp := by unfold Thread.stepped Thread.halted; split <;> rfl
@[simp] theorem Thread.stepped_rsbase (t : Thread) : t.stepped.rsbase = t.rsbase := by unfold Thread.stepped Thread.halted; split <;> rfl
@[simp] theorem Thread.stepped_rslim (t : Thread) : t.stepped.rslim = t.rslim := by unfold Thread.stepped Thread.halted; split <;> rfl
@[simp] theorem Thread.stepped_rstore (t : Thread) : t.stepped.rstore = t.rstore := by unfold Thread.stepped Thread.halted; split <;> rfl
@[simp] theorem Thread.stepped_entry (t : Thread) : t.stepped.entry = t.entry := by unfold Thread.stepped Thread.halted; split <;> rfl
@[simp] theorem Thread.stepped_outc (t : Thread) : t.stepped.outc = t.outc := by unfold Thread.stepped Thread.halted; split <;> rfl
@[simp] theorem Thread.stepped_loop (t : Thread) : t.stepped.loop = t.loop := by unfold Thread.stepped Thread.halted; split <;> rfl
@[simp] theorem Thread.stepped_cycles (t : Thread) : t.stepped.cycles = t.cycles := by unfold Thread.stepped Thread.halted; split <;> rfl
@[simp] theorem Thread.stepped_stackTop (t : Thread) : t.stepped.stackTop = t.stackTop := by unfold Thread.stepped Thread.halted; split <;> rfl
@[simp] theorem Thread.stepped_work (t : Thread) : t.stepped.work = t.work := by unfold Thread.stepped Thread.halted; split <;> rfl
@[simp] theorem Thread.stepped_fwdUsed (t : Thread) : t.stepped.fwdUsed = t.fwdUsed := by unfold Thread.stepped Thread.halted; split <;> rfl
@[simp] theorem Thread.stepped_pinRec (t : Thread) : t.stepped.pinRec = t.pinRec := by unfold Thread.stepped Thread.halted; split <;> rfl
@[simp] theorem Thread.stepped_pinNow (t : Thread) : t.stepped.pinNow = t.pinNow := by unfold Thread.stepped Thread.halted; split <;> rfl
@[simp] theorem Thread.stepped_unpinned (t : Thread) : t.stepped.unpinned = t.unpinned := by unfold Thread.stepped Thread.halted; split <;> rfl
@[simp] theorem Thread.stepped_pending (t : Thread) : t.stepped.pending = t.pending := by unfold Thread.stepped Thread.halted; split <;> rfl
@[simp] theorem Thread.stepped_pends (t : Thread) : t.stepped.pends = t.pends := by unfold Thread.stepped Thread.halted; split <;> rfl
@[simp] theorem Thread.stepped_deferred (t : Thread) : t.stepped.deferred = t.deferred := by unfold Thread.stepped Thread.halted; split <;> rfl
@[simp] theorem Thread.stepped_further (t : Thread) : t.stepped.further = t.further := by unfold Thread.stepped Thread.halted; split <;> rfl
@[simp] theorem Thread.stepped_skipBkpt (t : Thread) : t.stepped.skipBkpt = t.skipBkpt := by unfold Thread.stepped Thread.halted; split <;> rfl
@[simp] theorem Thread.stepped_savedAs (t : Thread) : t.stepped.savedAs = t.savedAs := by unfold Thread.stepped Thread.halted; split <;> rfl
@[simp] theorem Thread.stepped_noted (t : Thread) : t.stepped.noted = t.noted := by unfold Thread.stepped Thread.halted; split <;> rfl
@[simp] theorem Thread.stepped_turnAt (t : Thread) : t.stepped.turnAt = t.turnAt := by unfold Thread.stepped Thread.halted; split <;> rfl
@[simp] theorem Thread.advance_g (t : Thread) (n : Nat) : (t.advance n).g = t.g := by simp [Thread.advance]
@[simp] theorem Thread.transfer_g (t : Thread) (x : BitVec 12) : (t.transfer x).g = t.g := by simp [Thread.transfer]
@[simp] theorem Thread.advance_p (t : Thread) (n : Nat) : (t.advance n).p = t.p := by simp [Thread.advance]
@[simp] theorem Thread.transfer_p (t : Thread) (x : BitVec 12) : (t.transfer x).p = t.p := by simp [Thread.transfer]
@[simp] theorem Thread.advance_v (t : Thread) (n : Nat) : (t.advance n).v = t.v := by simp [Thread.advance]
@[simp] theorem Thread.transfer_v (t : Thread) (x : BitVec 12) : (t.transfer x).v = t.v := by simp [Thread.transfer]
@[simp] theorem Thread.advance_vtag (t : Thread) (n : Nat) : (t.advance n).vtag = t.vtag := by simp [Thread.advance]
@[simp] theorem Thread.transfer_vtag (t : Thread) (x : BitVec 12) : (t.transfer x).vtag = t.vtag := by simp [Thread.transfer]
@[simp] theorem Thread.advance_m (t : Thread) (n : Nat) : (t.advance n).m = t.m := by simp [Thread.advance]
@[simp] theorem Thread.transfer_m (t : Thread) (x : BitVec 12) : (t.transfer x).m = t.m := by simp [Thread.transfer]
@[simp] theorem Thread.advance_rmode (t : Thread) (n : Nat) : (t.advance n).rmode = t.rmode := by simp [Thread.advance]
@[simp] theorem Thread.transfer_rmode (t : Thread) (x : BitVec 12) : (t.transfer x).rmode = t.rmode := by simp [Thread.transfer]
@[simp] theorem Thread.advance_fflags (t : Thread) (n : Nat) : (t.advance n).fflags = t.fflags := by simp [Thread.advance]
@[simp] theorem Thread.transfer_fflags (t : Thread) (x : BitVec 12) : (t.transfer x).fflags = t.fflags := by simp [Thread.transfer]
@[simp] theorem Thread.advance_tcm (t : Thread) (n : Nat) : (t.advance n).tcm = t.tcm := by simp [Thread.advance]
@[simp] theorem Thread.transfer_tcm (t : Thread) (x : BitVec 12) : (t.transfer x).tcm = t.tcm := by simp [Thread.transfer]
@[simp] theorem Thread.advance_srseq (t : Thread) (n : Nat) : (t.advance n).srseq = t.srseq := by simp [Thread.advance]
@[simp] theorem Thread.transfer_srseq (t : Thread) (x : BitVec 12) : (t.transfer x).srseq = t.srseq := by simp [Thread.transfer]
@[simp] theorem Thread.advance_slim (t : Thread) (n : Nat) : (t.advance n).slim = t.slim := by simp [Thread.advance]
@[simp] theorem Thread.transfer_slim (t : Thread) (x : BitVec 12) : (t.transfer x).slim = t.slim := by simp [Thread.transfer]
@[simp] theorem Thread.advance_rsp (t : Thread) (n : Nat) : (t.advance n).rsp = t.rsp := by simp [Thread.advance]
@[simp] theorem Thread.transfer_rsp (t : Thread) (x : BitVec 12) : (t.transfer x).rsp = t.rsp := by simp [Thread.transfer]
@[simp] theorem Thread.advance_rsbase (t : Thread) (n : Nat) : (t.advance n).rsbase = t.rsbase := by simp [Thread.advance]
@[simp] theorem Thread.transfer_rsbase (t : Thread) (x : BitVec 12) : (t.transfer x).rsbase = t.rsbase := by simp [Thread.transfer]
@[simp] theorem Thread.advance_rslim (t : Thread) (n : Nat) : (t.advance n).rslim = t.rslim := by simp [Thread.advance]
@[simp] theorem Thread.transfer_rslim (t : Thread) (x : BitVec 12) : (t.transfer x).rslim = t.rslim := by simp [Thread.transfer]
@[simp] theorem Thread.advance_rstore (t : Thread) (n : Nat) : (t.advance n).rstore = t.rstore := by simp [Thread.advance]
@[simp] theorem Thread.transfer_rstore (t : Thread) (x : BitVec 12) : (t.transfer x).rstore = t.rstore := by simp [Thread.transfer]
@[simp] theorem Thread.advance_entry (t : Thread) (n : Nat) : (t.advance n).entry = t.entry := by simp [Thread.advance]
@[simp] theorem Thread.transfer_entry (t : Thread) (x : BitVec 12) : (t.transfer x).entry = t.entry := by simp [Thread.transfer]
@[simp] theorem Thread.advance_outc (t : Thread) (n : Nat) : (t.advance n).outc = t.outc := by simp [Thread.advance]
@[simp] theorem Thread.transfer_outc (t : Thread) (x : BitVec 12) : (t.transfer x).outc = t.outc := by simp [Thread.transfer]
@[simp] theorem Thread.advance_cycles (t : Thread) (n : Nat) : (t.advance n).cycles = t.cycles := by simp [Thread.advance]
@[simp] theorem Thread.transfer_cycles (t : Thread) (x : BitVec 12) : (t.transfer x).cycles = t.cycles := by simp [Thread.transfer]
@[simp] theorem Thread.advance_stackTop (t : Thread) (n : Nat) : (t.advance n).stackTop = t.stackTop := by simp [Thread.advance]
@[simp] theorem Thread.transfer_stackTop (t : Thread) (x : BitVec 12) : (t.transfer x).stackTop = t.stackTop := by simp [Thread.transfer]
@[simp] theorem Thread.advance_work (t : Thread) (n : Nat) : (t.advance n).work = t.work := by simp [Thread.advance]
@[simp] theorem Thread.transfer_work (t : Thread) (x : BitVec 12) : (t.transfer x).work = t.work := by simp [Thread.transfer]
@[simp] theorem Thread.advance_fwdUsed (t : Thread) (n : Nat) : (t.advance n).fwdUsed = t.fwdUsed := by simp [Thread.advance]
@[simp] theorem Thread.transfer_fwdUsed (t : Thread) (x : BitVec 12) : (t.transfer x).fwdUsed = t.fwdUsed := by simp [Thread.transfer]
@[simp] theorem Thread.advance_pinRec (t : Thread) (n : Nat) : (t.advance n).pinRec = t.pinRec := by simp [Thread.advance]
@[simp] theorem Thread.transfer_pinRec (t : Thread) (x : BitVec 12) : (t.transfer x).pinRec = t.pinRec := by simp [Thread.transfer]
@[simp] theorem Thread.advance_pinNow (t : Thread) (n : Nat) : (t.advance n).pinNow = t.pinNow := by simp [Thread.advance]
@[simp] theorem Thread.transfer_pinNow (t : Thread) (x : BitVec 12) : (t.transfer x).pinNow = t.pinNow := by simp [Thread.transfer]
@[simp] theorem Thread.advance_unpinned (t : Thread) (n : Nat) : (t.advance n).unpinned = t.unpinned := by simp [Thread.advance]
@[simp] theorem Thread.transfer_unpinned (t : Thread) (x : BitVec 12) : (t.transfer x).unpinned = t.unpinned := by simp [Thread.transfer]
@[simp] theorem Thread.advance_pending (t : Thread) (n : Nat) : (t.advance n).pending = t.pending := by simp [Thread.advance]
@[simp] theorem Thread.transfer_pending (t : Thread) (x : BitVec 12) : (t.transfer x).pending = t.pending := by simp [Thread.transfer]
@[simp] theorem Thread.advance_pends (t : Thread) (n : Nat) : (t.advance n).pends = t.pends := by simp [Thread.advance]
@[simp] theorem Thread.transfer_pends (t : Thread) (x : BitVec 12) : (t.transfer x).pends = t.pends := by simp [Thread.transfer]
@[simp] theorem Thread.advance_deferred (t : Thread) (n : Nat) : (t.advance n).deferred = t.deferred := by simp [Thread.advance]
@[simp] theorem Thread.transfer_deferred (t : Thread) (x : BitVec 12) : (t.transfer x).deferred = t.deferred := by simp [Thread.transfer]
@[simp] theorem Thread.advance_further (t : Thread) (n : Nat) : (t.advance n).further = t.further := by simp [Thread.advance]
@[simp] theorem Thread.transfer_further (t : Thread) (x : BitVec 12) : (t.transfer x).further = t.further := by simp [Thread.transfer]
@[simp] theorem Thread.advance_skipBkpt (t : Thread) (n : Nat) : (t.advance n).skipBkpt = t.skipBkpt := by simp [Thread.advance]
@[simp] theorem Thread.transfer_skipBkpt (t : Thread) (x : BitVec 12) : (t.transfer x).skipBkpt = t.skipBkpt := by simp [Thread.transfer]
@[simp] theorem Thread.advance_savedAs (t : Thread) (n : Nat) : (t.advance n).savedAs = t.savedAs := by simp [Thread.advance]
@[simp] theorem Thread.transfer_savedAs (t : Thread) (x : BitVec 12) : (t.transfer x).savedAs = t.savedAs := by simp [Thread.transfer]

@[simp] theorem Thread.advance_gr (t : Thread) (n : Nat) (r : GReg) : (t.advance n).gr r = t.gr r := by simp [Thread.gr]
@[simp] theorem Thread.advance_pr (t : Thread) (n : Nat) (r : PReg) : (t.advance n).pr r = t.pr r := by simp [Thread.pr]
@[simp] theorem Thread.transfer_gr (t : Thread) (x : BitVec 12) (r : GReg) : (t.transfer x).gr r = t.gr r := by simp [Thread.gr]
@[simp] theorem Thread.transfer_pr (t : Thread) (x : BitVec 12) (r : PReg) : (t.transfer x).pr r = t.pr r := by simp [Thread.pr]

end Sys2Proof.Machine
end

