-- ==== Sys2Proof/Laws/Memory.lean ====
section
/-! SUPPORT. Tables keep their one canonical form, a read after a write gives the written value, and a write leaves every other key
alone; then the same of memory and of descriptors. -/

namespace Sys2Proof.Machine

section Tables
variable {β : Type} [DecidableEq β] (blank : Nat → β)

theorem Tab.wf_tail {a : Nat} {v : β} {r : List (Nat × β)} (h : Tab.wf blank ((a, v) :: r) = true) : Tab.wf blank r = true := by
  cases r with
  | nil => rfl
  | cons p r => obtain ⟨b, w⟩ := p; simp [Tab.wf] at h; exact h.2

theorem Tab.wf_head {a : Nat} {v : β} {r : List (Nat × β)} (h : Tab.wf blank ((a, v) :: r) = true) : v ≠ blank a := by
  cases r with
  | nil => simpa [Tab.wf] using h
  | cons p r => obtain ⟨b, w⟩ := p; simp [Tab.wf] at h; exact h.1.1

theorem Tab.wf_next {a b : Nat} {v w : β} {r : List (Nat × β)} (h : Tab.wf blank ((a, v) :: (b, w) :: r) = true) : a < b := by
  simp [Tab.wf] at h; exact h.1.2

theorem Tab.wf_cons {a : Nat} {v : β} {r : List (Nat × β)} (hv : v ≠ blank a) (hr : Tab.wf blank r = true)
    (hb : ∀ b w l, r = (b, w) :: l → a < b) : Tab.wf blank ((a, v) :: r) = true := by
  cases r with
  | nil => simpa [Tab.wf] using hv
  | cons p r => obtain ⟨b, w⟩ := p; simp [Tab.wf]; exact ⟨⟨hv, hb b w r rfl⟩, hr⟩

/-- The head of a table after a write is the old head or the written key. -/
theorem Tab.set_head {l : List (Nat × β)} {k : Nat} {v : β} {b : Nat} {w : β} {r : List (Nat × β)}
    (h : Tab.set blank l k v = (b, w) :: r) (hl : Tab.wf blank l = true) : b = k ∨ (∃ a u t, l = (a, u) :: t ∧ a ≤ b) := by
  cases l with
  | nil => unfold Tab.set at h; split at h <;> simp_all
  | cons p t =>
    obtain ⟨a, u⟩ := p
    unfold Tab.set at h
    split at h
    · split at h <;> cases h
      · exact .inr ⟨_, _, _, rfl, Nat.le_refl _⟩
      · exact .inl rfl
    · split at h
      · split at h
        · subst h; exact .inr ⟨_, _, _, rfl, Nat.le_of_lt (Tab.wf_next blank hl)⟩
        · cases h; exact .inl rfl
      · cases h; exact .inr ⟨_, _, _, rfl, Nat.le_refl _⟩

/-- A write keeps the canonical form. -/
theorem Tab.set_wf (l : List (Nat × β)) (k : Nat) (v : β) (h : Tab.wf blank l = true) : Tab.wf blank (Tab.set blank l k v) = true := by
  induction l with
  | nil =>
    unfold Tab.set
    split
    · rfl
    · rename_i hv; simpa [Tab.wf] using hv
  | cons p t ih =>
    obtain ⟨a, u⟩ := p
    have ht := Tab.wf_tail blank h
    unfold Tab.set
    split
    · rename_i hk
      split
      · exact h
      · rename_i hv
        exact Tab.wf_cons blank hv h (by rintro b w l ⟨⟩; exact hk)
    · split
      · rename_i hk; subst hk
        split
        · exact ht
        · rename_i hv
          exact Tab.wf_cons blank hv ht (by rintro b w l rfl; exact Tab.wf_next blank h)
      · refine Tab.wf_cons blank (Tab.wf_head blank h) (ih ht) ?_
        intro b w l e
        rcases Tab.set_head blank e ht with rfl | ⟨c, x, y, rfl, hc⟩
        · omega
        · have := Tab.wf_next blank h; omega

omit [DecidableEq β] in
/-- An absent key below the head reads as blank. -/
theorem Tab.get_below {l : List (Nat × β)} {k : Nat} (h : ∀ b w t, l = (b, w) :: t → k < b) : Tab.get blank l k = blank k := by
  cases l with
  | nil => rfl
  | cons p t => obtain ⟨a, u⟩ := p; unfold Tab.get; rw [if_pos (h a u t rfl)]

/-- A read after a write to the same key gives the value written. -/
theorem Tab.get_set_same (l : List (Nat × β)) (k : Nat) (v : β) (h : Tab.wf blank l = true) :
    Tab.get blank (Tab.set blank l k v) k = v := by
  induction l with
  | nil => unfold Tab.set; split <;> simp_all [Tab.get]
  | cons p t ih =>
    obtain ⟨a, u⟩ := p
    have ht := Tab.wf_tail blank h
    unfold Tab.set
    split
    · rename_i hk
      split
      · rename_i hv; unfold Tab.get; rw [if_pos hk, hv]
      · simp [Tab.get]
    · rename_i hk
      split
      · rename_i e; subst e
        split
        · rename_i hv
          rw [Tab.get_below blank (by rintro b w l rfl; exact Tab.wf_next blank h), hv]
        · simp [Tab.get]
      · rename_i e; unfold Tab.get; rw [if_neg hk, if_neg e]; exact ih ht

/-- A write leaves every other key alone. -/
theorem Tab.get_set_other (l : List (Nat × β)) (k j : Nat) (v : β) (h : Tab.wf blank l = true) (hj : j ≠ k) :
    Tab.get blank (Tab.set blank l k v) j = Tab.get blank l j := by
  induction l with
  | nil => unfold Tab.set; split <;> simp [Tab.get, hj]
  | cons p t ih =>
    obtain ⟨a, u⟩ := p
    have ht := Tab.wf_tail blank h
    unfold Tab.set
    split
    · rename_i hk
      split
      · rfl
      · rw [Tab.get, if_neg hj]
        split
        · rename_i hjk; rw [Tab.get, if_pos (by omega)]
        · rfl
    · rename_i hk
      split
      · rename_i e; subst e
        split
        · rename_i hv
          conv => rhs; rw [Tab.get, if_neg hj]
          split
          · rename_i hjk; exact Tab.get_below blank (by rintro b w l rfl; have := Tab.wf_next blank h; omega)
          · rfl
        · simp [Tab.get, hj]
      · rename_i e
        rw [Tab.get, Tab.get]
        split
        · rfl
        · split
          · rfl
          · exact ih ht

end Tables

/-! ### Memory -/

theorem Memory.write_wf (m : List Host.Cell) (k : Nat) (v : BitVec 8) (h : Memory.wf m = true) : Memory.wf (Memory.write m k v) = true :=
  Tab.set_wf _ m k v h
theorem Memory.read_write_same (m : List Host.Cell) (k : Nat) (v : BitVec 8) (h : Memory.wf m = true) :
    Memory.read (Memory.write m k v) k = v := Tab.get_set_same _ m k v h
theorem Memory.read_write_other (m : List Host.Cell) (k j : Nat) (v : BitVec 8) (h : Memory.wf m = true) (hj : j ≠ k) :
    Memory.read (Memory.write m k v) j = Memory.read m j := Tab.get_set_other _ m k j v h hj

theorem Memory.writeN_wf (m : List Host.Cell) (k n v : Nat) (h : Memory.wf m = true) : Memory.wf (Memory.writeN m k n v) = true := by
  induction n generalizing m k v with
  | zero => exact h
  | succ n ih => exact ih _ _ _ (Memory.write_wf m k _ h)

/-- A write of n bytes leaves every byte outside them alone. -/
theorem Memory.read_writeN_other (m : List Host.Cell) (k n v j : Nat) (h : Memory.wf m = true) (hj : j < k ∨ k + n ≤ j) :
    Memory.read (Memory.writeN m k n v) j = Memory.read m j := by
  induction n generalizing m k v with
  | zero => rfl
  | succ n ih =>
    rw [Memory.writeN, ih _ _ _ (Memory.write_wf m k _ h) (by omega)]
    exact Memory.read_write_other m k j _ h (by omega)

/-- Byte i of the n bytes written, the least significant first (R3). -/
theorem Memory.read_writeN_inside (m : List Host.Cell) (k n v i : Nat) (h : Memory.wf m = true) (hi : i < n) :
    Memory.read (Memory.writeN m k n v) (k + i) = BitVec.ofNat 8 (v / 256 ^ i) := by
  induction n generalizing m k v i with
  | zero => omega
  | succ n ih =>
    rw [Memory.writeN]
    cases i with
    | zero =>
      rw [Memory.read_writeN_other _ _ _ _ _ (Memory.write_wf m k _ h) (by omega)]
      simp [Memory.read_write_same m k _ h]
    | succ i =>
      have := ih (Memory.write m k (BitVec.ofNat 8 v)) (k + 1) (v / 256) i (Memory.write_wf m k _ h) (by omega)
      rw [show k + (i + 1) = k + 1 + i by omega, this, Nat.div_div_eq_div_mul, ← Nat.pow_succ']

/-- A wide read after the same wide write gives the value, cut to the bytes written. -/
theorem Memory.readN_writeN (m : List Host.Cell) (k n v : Nat) (h : Memory.wf m = true) :
    Memory.readN (Memory.writeN m k n v) k n = v % 256 ^ n := by
  induction n generalizing m k v with
  | zero => simp [Memory.readN, Nat.mod_one]
  | succ n ih =>
    rw [Memory.readN, Memory.writeN, ih _ _ _ (Memory.write_wf m k _ h),
      Memory.read_writeN_other _ _ _ _ _ (Memory.write_wf m k _ h) (by omega), Memory.read_write_same m k _ h, Nat.pow_succ',
      Nat.mod_mul]
    simp

/-- Reads of bytes that two memories agree on agree. -/
theorem Memory.readN_congr (m l : List Host.Cell) (k n : Nat) (h : ∀ j, k ≤ j → j < k + n → Memory.read m j = Memory.read l j) :
    Memory.readN m k n = Memory.readN l k n := by
  induction n generalizing k with
  | zero => rfl
  | succ n ih =>
    rw [Memory.readN, Memory.readN, h k (by omega) (by omega), ih (k + 1) fun j a b => h j (by omega) (by omega)]

theorem Memory.readN_lt (m : List Host.Cell) (k n : Nat) : Memory.readN m k n < 256 ^ n := by
  induction n generalizing k with
  | zero => simp [Memory.readN]
  | succ n ih =>
    have := ih (k + 1)
    have := (Memory.read m k).isLt
    rw [Memory.readN, Nat.pow_succ']; omega

/-! ### The state's stores -/

theorem State.store_wf (s : State) (k n : Nat) (v : Word) (h : Memory.wf s.mem = true) : Memory.wf (s.store k n v).mem = true :=
  Memory.writeN_wf _ _ _ _ h
theorem State.storeLine_wf (s : State) (k : Nat) (l : Line) (h : Memory.wf s.mem = true) : Memory.wf (s.storeLine k l).mem = true := by
  simp only [State.storeLine, Memory.writeN_wf, h]
theorem State.setDesc_wf (s : State) (k : Nat) (d : Desc) (h : Tab.wf descBlank s.desc = true) :
    Tab.wf descBlank (s.setDesc k d).desc = true := Tab.set_wf _ _ _ _ h
/-- The descriptor written is the descriptor read, and no other line's changes. -/
theorem State.descAt_setDesc_same (s : State) (k : Nat) (d : Desc) (h : Tab.wf descBlank s.desc = true) : (s.setDesc k d).descAt k = d :=
  Tab.get_set_same _ _ _ _ h
theorem State.descAt_setDesc_other (s : State) (k j : Nat) (d : Desc) (h : Tab.wf descBlank s.desc = true) (hj : j / 64 ≠ k / 64) :
    (s.setDesc k d).descAt j = s.descAt j := Tab.get_set_other _ _ _ _ _ h hj

end Sys2Proof.Machine
end

