-- ==== Sys2Proof/Laws/Ops.lean ====
section
/-! SUPPORT. For each shared operation, what it can answer: guards, waits, retirement, traps, flags, address checks, loads and stores,
device checks, and operations that enter an engine's queue. -/

namespace Sys2Proof.Machine

/-! ### The tile in focus -/

@[simp] theorem State.tileAt_foc (s : State) : s.tileAt s.foc = s.tile := by simp [State.tileAt]
@[simp] theorem State.setTileAt_foc (s : State) (t : Tile) : s.setTileAt s.foc t = { s with tile := t } := by simp [State.setTileAt]
@[simp] theorem State.mapTileAt_foc (s : State) (f : Tile → Tile) : s.mapTileAt s.foc f = s.mapTile f := by
  simp [State.mapTileAt, State.mapTile]
theorem State.push_foc (s : State) (i : Inj) : s.push s.foc i = s.mapTile fun t => { t with inj := t.inj ++ [i] } := by
  simp [State.push]

theorem State.push_of_foc (s : State) (c : Coord) (i : Inj) (h : c = s.foc) :
    s.push c i = s.mapTile fun t => { t with inj := t.inj ++ [i] } := by subst h; exact State.push_foc s i

theorem Tile.count_eq (t : Tile) (e : BitVec 8) (n : Word) : t.count e n = { t with r := { t.r with perf := (t.count e n).r.perf } } := by
  unfold Tile.count; dsimp only; split <;> rfl
@[simp] theorem Tile.count_threads (t : Tile) (e : BitVec 8) (n : Word) : (t.count e n).threads = t.threads := by rw [Tile.count_eq]
/-! ### Cycles and retirement -/

@[simp] theorem State.cycle_th (s : State) : s.cycle.th = { s.th with cycles := s.th.cycles + 1 } := by
  unfold State.cycle
  rw [State.mapTh_th, State.th, State.mapTile_tile, Tile.count_threads]; rfl
@[simp] theorem State.retired_th (s : State) : s.retired.th = { s.th with cycles := s.th.cycles + 1 } := by
  unfold State.retired
  rw [State.cycle_th]
  have h : (s.mapTile (·.count 0x02 1)).th = s.th := by rw [State.th, State.mapTile_tile, Tile.count_threads]; rfl
  rw [h]
/-- Retirement advances the thread by the instruction's words and adds one to its handler's cycles. -/
@[simp] theorem State.retire_th (s : State) (n : Nat) :
    (s.retire n).th = { s.th.advance n with cycles := s.th.cycles + 1 } := by
  unfold State.retire; rw [State.retired_th, State.mapTh_th, Thread.advance_cycles]
@[simp] theorem State.jump_th (s : State) (t : BitVec 12) :
    (s.jump t).th = { s.th.transfer t with cycles := s.th.cycles + 1 } := by
  unfold State.jump; rw [State.retired_th, State.mapTh_th, Thread.transfer_cycles]
@[simp] theorem State.stall_th (s : State) : s.stall.th = { s.th with cycles := s.th.cycles + 1, stalled := true } := by
  unfold State.stall; rw [State.mapTh_th, State.cycle_th]
@[simp] theorem State.trapWith_th (s : State) (c : BitVec 8) (a b0 b1 b2 b3 : Word) :
    (s.trapWith c a b0 b1 b2 b3).th = s.th.trap ⟨c, s.th.pc12, a, b0, b1, b2, b3⟩ := by
  unfold State.trapWith; rw [State.mapTh_th]
@[simp] theorem Thread.advance_pc (t : Thread) (n : Nat) : (t.advance n).pc = (t.next n).pc := by simp [Thread.advance]
theorem Thread.advance_loop (t : Thread) (n : Nat) : (t.advance n).loop = (t.next n).loop := by simp [Thread.advance]
/-- Where the PC goes depends on the PC and the loop alone. -/
theorem Thread.next_pc_congr (t u : Thread) (n : Nat) (hp : t.pc = u.pc) (hl : t.loop = u.loop) : (t.next n).pc = (u.next n).pc := by
  unfold Thread.next; simp only [hp, hl]; (repeat' split) <;> rfl
/-- Outside a loop's last word, the PC moves past the instruction. -/
theorem Thread.next_plain (t : Thread) (n : Nat) (h : t.loop.active = false) : t.next n = { t with pc := t.pc + BitVec.ofNat 13 n } := by
  unfold Thread.next; simp [h]

theorem Thread.transfer_loop (t : Thread) (x : BitVec 12) : (t.transfer x).loop = (t.goto x).loop := by simp [Thread.transfer]

/-! ### Registers read after the shared operations -/

theorem State.gr_th (s : State) (q : GReg) : s.gr q = s.th.gr q := rfl
theorem State.pr_th (s : State) (q : PReg) : s.pr q = s.th.pr q := rfl
theorem Thread.gr_congr (t u : Thread) (h : t.g = u.g) (q : GReg) : t.gr q = u.gr q := by unfold Thread.gr; rw [h]
theorem Thread.pr_congr (t u : Thread) (h : t.p = u.p) (q : PReg) : t.pr q = u.pr q := by unfold Thread.pr; rw [h]
@[simp] theorem State.retired_gr (s : State) (q : GReg) : s.retired.gr q = s.gr q := by
  rw [State.gr_th, State.gr_th]; exact Thread.gr_congr _ _ (by simp) q
@[simp] theorem State.retired_pr (s : State) (q : PReg) : s.retired.pr q = s.pr q := by
  rw [State.pr_th, State.pr_th]; exact Thread.pr_congr _ _ (by simp) q
@[simp] theorem State.retire_gr (s : State) (n : Nat) (q : GReg) : (s.retire n).gr q = s.gr q := by
  rw [State.gr_th, State.gr_th]; exact Thread.gr_congr _ _ (by simp) q
@[simp] theorem State.retire_pr (s : State) (n : Nat) (q : PReg) : (s.retire n).pr q = s.pr q := by
  rw [State.pr_th, State.pr_th]; exact Thread.pr_congr _ _ (by simp) q
@[simp] theorem State.jump_gr (s : State) (x : BitVec 12) (q : GReg) : (s.jump x).gr q = s.gr q := by
  rw [State.gr_th, State.gr_th]; exact Thread.gr_congr _ _ (by simp) q
@[simp] theorem State.jump_pr (s : State) (x : BitVec 12) (q : PReg) : (s.jump x).pr q = s.pr q := by
  rw [State.pr_th, State.pr_th]; exact Thread.pr_congr _ _ (by simp) q
@[simp] theorem State.stall_gr (s : State) (q : GReg) : s.stall.gr q = s.gr q := by
  rw [State.gr_th, State.gr_th]; exact Thread.gr_congr _ _ (by simp) q
@[simp] theorem State.stall_pr (s : State) (q : PReg) : s.stall.pr q = s.pr q := by
  rw [State.pr_th, State.pr_th]; exact Thread.pr_congr _ _ (by simp) q
@[simp] theorem State.trapWith_gr (s : State) (c : BitVec 8) (a b0 b1 b2 b3 : Word) (q : GReg) :
    (s.trapWith c a b0 b1 b2 b3).gr q = s.gr q := by
  rw [State.gr_th, State.gr_th, State.trapWith_th]; exact Thread.gr_congr _ _ (by simp) q
@[simp] theorem State.trapWith_pr (s : State) (c : BitVec 8) (a b0 b1 b2 b3 : Word) (q : PReg) :
    (s.trapWith c a b0 b1 b2 b3).pr q = s.pr q := by
  rw [State.pr_th, State.pr_th, State.trapWith_th]; exact Thread.pr_congr _ _ (by simp) q
@[simp] theorem State.setG_gr_same (s : State) (r : GReg) (w : Word) (h : r ≠ 0) : (s.setG r w).gr r = w := by
  rw [State.gr_th, State.setG_th]; exact Thread.gr_setG_same _ _ _ h
@[simp] theorem State.setG_gr_other (s : State) (r q : GReg) (w : Word) (h : q ≠ r) : (s.setG r w).gr q = s.gr q := by
  rw [State.gr_th, State.setG_th]; exact Thread.gr_setG_other _ _ _ _ h
theorem State.setTh_self (s : State) : s.setTh s.th = s := by simp [State.setTh, State.th]
theorem State.setG_zero (s : State) (w : Word) : s.setG 0 w = s := by simp [State.setG, Thread.setG, State.setTh_self]
theorem State.setP_zero (s : State) (b : Bool) : s.setP 0 b = s := by simp [State.setP, Thread.setP, State.setTh_self]
@[simp] theorem State.setG_pr (s : State) (r : GReg) (w : Word) (q : PReg) : (s.setG r w).pr q = s.pr q := by
  rw [State.pr_th, State.pr_th]; exact Thread.pr_congr _ _ (by simp) q
@[simp] theorem State.setP_gr (s : State) (r : PReg) (b : Bool) (q : GReg) : (s.setP r b).gr q = s.gr q := by
  rw [State.gr_th, State.gr_th]; exact Thread.gr_congr _ _ (by simp) q
@[simp] theorem State.setP_pr_same (s : State) (r : PReg) (b : Bool) (h : r ≠ 0) : (s.setP r b).pr r = b := by
  rw [State.pr_th, State.setP_th]; exact Thread.pr_setP_same _ _ _ h
@[simp] theorem State.setP_pr_other (s : State) (r q : PReg) (b : Bool) (h : q ≠ r) : (s.setP r b).pr q = s.pr q := by
  rw [State.pr_th, State.setP_th]; exact Thread.pr_setP_other _ _ _ _ h
/-- Retirement leaves the rest of the tile but its performance counters. -/
theorem State.retire_tile (s : State) (n : Nat) :
    (s.retire n).tile = { s.tile with threads := (s.retire n).tile.threads, r := { s.tile.r with perf := (s.retire n).tile.r.perf } } := by
  unfold State.retire State.retired State.cycle
  simp only [State.mapTh, State.setTh_tile, State.mapTile_tile]
  rw [Tile.count_eq]
  simp only [State.mapTile, State.setField, State.setTh]
  rw [Tile.count_eq]

/-! ### Guards and waits -/

theorem guarded_on {gd : Guard} {s : State} (n : Nat) (k : State → Out) (h : guardHolds gd s.th = true) : guarded gd n s k = k s := by
  simp [guarded, h]
theorem guarded_off {gd : Guard} {s : State} (n : Nat) (k : State → Out) (h : guardHolds gd s.th = false) :
    guarded gd n s k = .next (s.retire n) := by simp [guarded, h]
/-- The guard of the forms that carry none. -/
@[simp] theorem guardHolds_none (t : Thread) : guardHolds .none t = true := rfl
theorem whenReady_on {c : Bool} {s : State} (k : State → Out) (h : c = true) : whenReady c s k = k s := by simp [whenReady, h]
theorem whenReady_off {c : Bool} {s : State} (k : State → Out) (h : c = false) : whenReady c s k = .next s.stall := by simp [whenReady, h]

/-! ### Flags -/

@[simp] theorem State.feedUnions_th (s : State) (c : Coord) (f : Flags) : (s.feedUnions c f).th = s.th := by
  unfold State.feedUnions; dsimp only; (repeat' split) <;> rfl
@[simp] theorem State.feedUnions_tile (s : State) (c : Coord) (f : Flags) : (s.feedUnions c f).tile = s.tile := by
  unfold State.feedUnions; dsimp only; (repeat' split) <;> rfl
@[simp] theorem State.feedUnions_mem (s : State) (c : Coord) (f : Flags) : (s.feedUnions c f).mem = s.mem := by
  unfold State.feedUnions; dsimp only; (repeat' split) <;> rfl
/-- Raising flags changes FFLAGS of the thread alone (R90). -/
theorem State.orFlags_th (s : State) (f : Flags) :
    (s.orFlags s.foc s.tid f).th = { s.th with fflags := s.th.fflags ||| f.zeroExtend 64 } := by
  unfold State.orFlags
  rw [State.feedUnions_th, State.mapTileAt_foc]
  simp [State.mapTile, State.th, Tile.mapTh, Tile.setTh, Tile.th]
/-- A scalar instruction's flags: the trap of an enabled one, or FFLAGS with them (R90, R91). -/
theorem raising_eq (f : Flags) (s : State) (k : State → Out) :
    raising f s k = if flagTraps s.th.fflags f then .next (s.trapWith Cause.fpTrap 0 (f.zeroExtend 64) 0 0 0)
      else k (s.orFlags s.foc s.tid f) := rfl

/-! ### Integer results -/

theorem aluG_eq (op : AluOp) (d : GReg) (a b : Word) (n : Nat) (s : State) (h : aluDivides op = false ∨ b ≠ 0) :
    aluG op d a b n s = .next ((s.setG d (alu op a b)).retire n) := by
  unfold aluG; rw [if_neg]
  rcases h with h | h
  · simp [h]
  · simpa using fun _ => h
theorem aluG_zero (op : AluOp) (d : GReg) (a : Word) (n : Nat) (s : State) (h : aluDivides op = true) :
    aluG op d a 0 n s = .next (s.trapWith Cause.divZero 0 a 0 0 0) := by
  unfold aluG; rw [if_pos]; simp [h]

/-! ### Transfers and local addresses -/

theorem transferTo_eq (t : Int) (s : State) (k : BitVec 12 → Out) (h : 0 ≤ t ∧ t ≤ 4095) :
    transferTo t s k = k (BitVec.ofNat 12 t.toNat) := by
  unfold transferTo; rw [if_neg (by omega)]
theorem transferTo_out (t : Int) (s : State) (k : BitVec 12 → Out) (h : t < 0 ∨ 4095 < t) :
    transferTo t s k = .next (s.trap Cause.sramBound (BitVec.ofInt 64 t)) := by
  unfold transferTo; rw [if_pos h]

/-- The order of the local address checks (R211): range of the address space, alignment, then the range that `ok` permits. -/
theorem localAddr_ok (s : State) (ea : Int) (n : Nat) (ok : Nat → Bool) (k : Nat → Out) (h0 : 0 ≤ ea) (h1 : ea ≤ 0xFFFFF)
    (ha : ea.toNat % n = 0) (hk : ok ea.toNat = true) : localAddr s ea n ok k = k ea.toNat := by
  unfold localAddr; rw [if_neg (by omega)]; simp [ha, hk]

/-- A load that passes its checks gives the bytes at the address it is served from. -/
theorem loading_ok (s : State) (ea : Int) (n b : Nat) (k : Word → Out) (h0 : 0 ≤ ea) (h1 : ea ≤ 0xFFFFF) (ha : ea.toNat % n = 0)
    (hb : s.loadAddr ea.toNat n = some b) (hw : s.watched ea.toNat n true = false) (hq : s.tile.wqHolds b = false)
    (hd : s.damaged (s.pa b) n = false) : loading s ea n k = k (s.load (s.pa b) n) := by
  unfold loading checkedAddr
  rw [localAddr_ok _ _ _ _ _ h0 h1 ha (by simp [hb])]
  simp [hw, hb, hq, hd]

/-- A store that passes its checks writes its bytes. -/
theorem storing_ok (s : State) (ea : Int) (n : Nat) (v : Word) (k : State → Out) (h0 : 0 ≤ ea) (h1 : ea ≤ 0xFFFFF)
    (ha : ea.toNat % n = 0) (hb : s.storeOk ea.toNat n = true) (hw : s.watched ea.toNat n false = false)
    (hq : s.tile.wqHolds ea.toNat = false) : storing s ea n v k = k (s.tileStore s.foc ea.toNat n v) := by
  unfold storing checkedAddr
  rw [localAddr_ok _ _ _ _ _ h0 h1 ha hb]
  simp [hw, hq]

/-! ### Stores to a tile -/

theorem State.storeChecked_mem (s : State) (k n : Nat) (v : Word) : (s.storeChecked k n v).mem = Memory.writeN s.mem k n v.toNat := by
  unfold State.storeChecked; dsimp only; (repeat' split) <;> simp [State.store]
@[simp] theorem State.notify_mem (s : State) (c : Coord) (a n : Nat) : (s.notify c a n).mem = s.mem := by
  unfold State.notify State.setTileAt; dsimp only; (repeat' split) <;> rfl
/-- A store of n bytes to data SRAM writes exactly those bytes. -/
theorem State.tileStore_mem (s : State) (c : Coord) (a n : Nat) (v : Word) :
    (s.tileStore c a n v).mem = Memory.writeN s.mem (tileBase c + a) n v.toNat := by
  unfold State.tileStore; rw [State.notify_mem, State.storeChecked_mem]
theorem State.storeChecked_tile (s : State) (k n : Nat) (v : Word) : (s.storeChecked k n v).tile = s.tile := by
  unfold State.storeChecked; dsimp only; (repeat' split) <;> simp
theorem State.storeChecked_foc (s : State) (k n : Nat) (v : Word) : (s.storeChecked k n v).foc = s.foc := by
  unfold State.storeChecked; dsimp only; (repeat' split) <;> simp
theorem State.storeChecked_tid (s : State) (k n : Nat) (v : Word) : (s.storeChecked k n v).tid = s.tid := by
  unfold State.storeChecked; dsimp only; (repeat' split) <;> simp
theorem State.notify_tid (s : State) (c : Coord) (a n : Nat) : (s.notify c a n).tid = s.tid := by
  unfold State.notify State.setTileAt; dsimp only; (repeat' split) <;> rfl
/-- A store by the focus tile changes no thread. -/
theorem State.tileStore_threads (s : State) (a n : Nat) (v : Word) : (s.tileStore s.foc a n v).tile.threads = s.tile.threads := by
  unfold State.tileStore
  generalize hu : s.storeChecked (tileBase s.foc + a) n v = u
  have hf : u.foc = s.foc := by rw [← hu]; exact State.storeChecked_foc _ _ _ _
  have ht : u.tile = s.tile := by rw [← hu]; exact State.storeChecked_tile _ _ _ _
  have h : u.tileAt s.foc = s.tile := by rw [← hf, State.tileAt_foc, ht]
  unfold State.notify State.setTileAt
  rw [h, hf]
  dsimp only
  (repeat' split) <;> simp [ht]
theorem State.tileStore_th (s : State) (a n : Nat) (v : Word) : (s.tileStore s.foc a n v).th = s.th := by
  have h : (s.tileStore s.foc a n v).tid = s.tid := by unfold State.tileStore; rw [State.notify_tid, State.storeChecked_tid]
  unfold State.th; simp only [State.tileStore_threads, h]

/-! ### States that keep a thread's registers -/

theorem State.setTh_other (s : State) (h : Thread) (i : Tid) (hi : i ≠ s.tid) : (s.setTh h).tile.th i = s.tile.th i := by
  have : s.tid.val ≠ i.val := fun e => hi (Fin.ext e.symm)
  simp [State.setTh, Tile.th, this]
theorem Thread.next_congr_loop (t u : Thread) (n : Nat) (hp : t.pc = u.pc) (hl : t.loop = u.loop) : (t.next n).loop = (u.next n).loop := by
  unfold Thread.next; simp only [hp, hl]; (repeat' split) <;> rfl
theorem State.keeps_refl (s : State) : s.keeps s := by simp [State.keeps, State.still]
theorem State.retire_other (s : State) (n : Nat) (i : Tid) (hi : i ≠ s.tid) : (s.retire n).tile.th i = s.tile.th i := by
  have h1 : ∀ s : State, ∀ f, i ≠ s.tid → (s.mapTh f).tile.th i = s.tile.th i := fun s f h => State.setTh_other _ _ _ h
  unfold State.retire State.retired State.cycle
  rw [h1 _ _ (by simpa using hi)]
  simp only [State.setField, State.mapTile, Tile.th, Tile.count_threads]
  exact h1 s _ hi
theorem State.mapTile_th (s : State) (f : Tile → Tile) (h : (f s.tile).threads = s.tile.threads) : (s.mapTile f).th = s.th := by
  simp [State.mapTile, State.th, h]
theorem State.keeps_mapTile (s : State) (f : Tile → Tile) (h : (f s.tile).threads = s.tile.threads) : s.keeps (s.mapTile f) := by
  have e := State.mapTile_th s f h
  unfold State.keeps State.still
  rw [e]
  exact ⟨⟨rfl, rfl, rfl, rfl, rfl, rfl, rfl, rfl, rfl, rfl, rfl, rfl, rfl, rfl, rfl, fun i _ => by simp [Tile.th, State.mapTile, h]⟩, rfl⟩
theorem State.keeps_push (s : State) (i : Inj) : s.keeps (s.push s.foc i) := by
  rw [State.push_foc]; exact State.keeps_mapTile _ _ rfl
theorem State.push_th (s : State) (i : Inj) : (s.push s.foc i).th = s.th := by
  rw [State.push_foc]; exact State.mapTile_th _ _ rfl
theorem State.retire_inj (s : State) (n : Nat) : (s.retire n).tile.inj = s.tile.inj := by rw [State.retire_tile]
/-- Retirement of n words passes on what its state keeps. -/
theorem State.still_retire (s u : State) (n : Nat) (h : s.still u) (hi : u.tid = s.tid) : s.still (u.retire n) := by
  obtain ⟨a1, a2, a3, a4, a5, a6, a7, a8, a9, a10, a11, a12, a13, a14, a15, a16⟩ := h
  simp [State.still, *]
  intro i h; rw [State.retire_other _ _ _ (by rw [hi]; exact h)]; exact a16 i h
theorem State.retire_next (s u : State) (n : Nat) (hp : u.th.pc = s.th.pc) (hl : u.th.loop = s.th.loop) :
    (u.retire n).th.pc = (s.th.next n).pc ∧ (u.retire n).th.loop = (s.th.next n).loop := by
  constructor
  · simp; exact Thread.next_pc_congr _ _ _ hp hl
  · simp [Thread.advance_loop]; exact Thread.next_congr_loop _ _ _ hp hl
theorem State.passes_retire (s u : State) (n : Nat) (h : s.keeps u) (hi : u.tid = s.tid) (hp : u.th.pc = s.th.pc)
    (hl : u.th.loop = s.th.loop) : s.passes (u.retire n) n := by
  obtain ⟨h1, h2⟩ := State.retire_next s u n hp hl
  exact ⟨⟨State.still_retire _ _ _ h.1 hi, by simp [h.2]⟩, h1, h2⟩
theorem State.still_mapTh (s : State) (f : Thread → Thread) (hg : (f s.th).g = s.th.g) (hp : (f s.th).p = s.th.p)
    (hv : (f s.th).v = s.th.v) (ht : (f s.th).vtag = s.th.vtag) (hm : (f s.th).m = s.th.m) (hr : (f s.th).rmode = s.th.rmode)
    (hf : (f s.th).fflags = s.th.fflags) (hc : (f s.th).tcm = s.th.tcm) (hs : (f s.th).slim = s.th.slim) (h1 : (f s.th).rsp = s.th.rsp)
    (h2 : (f s.th).rsbase = s.th.rsbase) (h3 : (f s.th).rslim = s.th.rslim) (h4 : (f s.th).rstore = s.th.rstore) :
    s.still (s.mapTh f) := by
  refine ⟨?_, ?_, ?_, ?_, ?_, ?_, ?_, ?_, ?_, ?_, ?_, ?_, ?_, rfl, rfl, fun i h => State.setTh_other _ _ _ h⟩ <;> simp [*]
theorem State.still_trans (s t u : State) (h : s.still t) (k : t.still u) (hi : t.tid = s.tid) : s.still u := by
  obtain ⟨a1, a2, a3, a4, a5, a6, a7, a8, a9, a10, a11, a12, a13, a14, a15, a16⟩ := h
  obtain ⟨b1, b2, b3, b4, b5, b6, b7, b8, b9, b10, b11, b12, b13, b14, b15, b16⟩ := k
  simp [State.still, *]
  intro i h; rw [b16 i (by rw [hi]; exact h), a16 i h]

/-! ### Entering an engine's queue -/

theorem State.enqueue_th (s : State) (e : Engine) (op : EOp) (n : Nat) (c : Bool) : (s.enqueue e op n c).th = s.th := rfl
theorem State.enqueue_still (s : State) (e : Engine) (op : EOp) (n : Nat) (c : Bool) : s.still (s.enqueue e op n c) :=
  ⟨rfl, rfl, rfl, rfl, rfl, rfl, rfl, rfl, rfl, rfl, rfl, rfl, rfl, rfl, rfl, fun _ _ => rfl⟩
/-- A matrix, vector or tree operation enters its queue when there is room. -/
theorem State.enters_top (s : State) (i : Instr) (e : Engine) (op : EOp) (n adv : Nat) (h : exec i s = .next
    ((((s.enqueue e op n false).mapTh (·.addTop)).mapTh fun t => { t with srseq := t.srseq + BitVec.ofNat 64 adv }).retire n)) :
    s.enters i e op n false { s.th.outc with tops := s.th.outc.tops + 1 } adv := by
  refine ⟨_, ⟨s.nextSeq, s.tid, e, op, s.th.pc12, n, s.th.tcm, s.th.rmode, s.th.srseq, s.checkpoint, op.tagWas s.tile, false, none, false⟩,
    h, ?_, ?_, ?_, ?_, ?_, ?_, rfl, rfl, rfl, rfl, rfl, rfl, rfl, rfl, rfl, rfl, rfl, rfl⟩
  · have a := State.enqueue_still s e op n false
    have b := State.still_mapTh (s.enqueue e op n false) (·.addTop) rfl rfl rfl rfl rfl rfl rfl rfl rfl rfl rfl rfl rfl
    have c := State.still_mapTh ((s.enqueue e op n false).mapTh (·.addTop)) (fun t => { t with srseq := t.srseq + BitVec.ofNat 64 adv })
      rfl rfl rfl rfl rfl rfl rfl rfl rfl rfl rfl rfl rfl
    exact State.still_retire _ _ _ (State.still_trans s _ _ (State.still_trans s _ _ a b rfl) c rfl) rfl
  · simp [Thread.addTop, State.enqueue_th]
  · simp [Thread.addTop, State.enqueue_th]
  · exact (State.retire_next s _ n (by simp [Thread.addTop, State.enqueue_th]) (by simp [Thread.addTop, State.enqueue_th])).1
  · exact (State.retire_next s _ n (by simp [Thread.addTop, State.enqueue_th]) (by simp [Thread.addTop, State.enqueue_th])).2
  · rw [State.retire_tile]; rfl

/-- A request is remembered by its thread and enters the tile's injection port; nothing else changes but the model's number. -/
theorem State.request_eq (s : State) (kind : ReqKind) (pk : PendKind) (sp : BitVec 16) (off : Word) :
    s.request kind pk sp off =
      { s with nextId := s.nextId + 1,
               tile := { s.tile with
                 threads := s.tile.threads.set s.tid { s.th with pends := s.th.pends ++ [⟨s.nextId, pk, sp, off, s.th.pc12, false, false, false⟩] },
                 inj := s.tile.inj ++ [⟨some s.tid, reqVc sp, .dest (reqDest sp off),
                   .req ⟨⟨s.foc, s.tid, s.nextId, none⟩, kind, sp, off, s.tile.hid, s.tile.sys, none⟩, .no⟩] } } := by
  exact State.push_of_foc _ s.foc _ rfl

/-! ### Device accesses -/

theorem deviceAccess_ok (s : State) (tgt2 : Bool) (sp : BitVec 16) (off : Int) (n : Nat) (k : Word → Out)
    (h : deviceFault s.tile tgt2 sp off n n = none) : deviceAccess s tgt2 sp off n k = k (BitVec.ofInt 64 off) := by
  simp [deviceAccess, h]
theorem deviceAccess_fault (s : State) (tgt2 : Bool) (sp : BitVec 16) (off : Int) (n : Nat) (k : Word → Out) (c : BitVec 8)
    (h : deviceFault s.tile tgt2 sp off n n = some c) : deviceAccess s tgt2 sp off n k = .next (s.trap c (BitVec.ofInt 64 off)) := by
  simp [deviceAccess, h]

end Sys2Proof.Machine
end

