-- ==== Sys2Proof/Laws/PerInstr.lean ====
section
/-! SUPPORT. One lemma per instruction: the words that encode gives it are as many as the length field of the first word says (R165);
the rows of the opcode table that are events have no words. -/

namespace Sys2Proof.Laws.Form

/-- The encoding of i has the length that its first word names, or i is an event and has no words. -/
def Statement (i : Instr) : Prop := HasForm (encode i)

theorem add (d a b : GReg) : Statement (.add d a b) := hasForm_rWord
theorem sub (d a b : GReg) : Statement (.sub d a b) := hasForm_rWord
theorem and (d a b : GReg) : Statement (.and d a b) := hasForm_rWord
theorem or (d a b : GReg) : Statement (.or d a b) := hasForm_rWord
theorem xor (d a b : GReg) : Statement (.xor d a b) := hasForm_rWord
theorem andn (d a b : GReg) : Statement (.andn d a b) := hasForm_rWord
theorem sll (d a b : GReg) : Statement (.sll d a b) := hasForm_rWord
theorem srl (d a b : GReg) : Statement (.srl d a b) := hasForm_rWord
theorem sra (d a b : GReg) : Statement (.sra d a b) := hasForm_rWord
theorem rol (d a b : GReg) : Statement (.rol d a b) := hasForm_rWord
theorem ror (d a b : GReg) : Statement (.ror d a b) := hasForm_rWord
theorem min (d a b : GReg) : Statement (.min d a b) := hasForm_rWord
theorem max (d a b : GReg) : Statement (.max d a b) := hasForm_rWord
theorem minu (d a b : GReg) : Statement (.minu d a b) := hasForm_rWord
theorem maxu (d a b : GReg) : Statement (.maxu d a b) := hasForm_rWord
theorem mul (d a b : GReg) : Statement (.mul d a b) := hasForm_rWord
theorem mulh (d a b : GReg) : Statement (.mulh d a b) := hasForm_rWord
theorem mulhu (d a b : GReg) : Statement (.mulhu d a b) := hasForm_rWord
theorem mulhsu (d a b : GReg) : Statement (.mulhsu d a b) := hasForm_rWord
theorem div (d a b : GReg) : Statement (.div d a b) := hasForm_rWord
theorem divu (d a b : GReg) : Statement (.divu d a b) := hasForm_rWord
theorem rem (d a b : GReg) : Statement (.rem d a b) := hasForm_rWord
theorem remu (d a b : GReg) : Statement (.remu d a b) := hasForm_rWord
theorem addsat (d a b : GReg) : Statement (.addsat d a b) := hasForm_rWord
theorem subsat (d a b : GReg) : Statement (.subsat d a b) := hasForm_rWord
theorem clz (d a : GReg) : Statement (.clz d a) := hasForm_rWord
theorem ctz (d a : GReg) : Statement (.ctz d a) := hasForm_rWord
theorem popc (d a : GReg) : Statement (.popc d a) := hasForm_rWord
theorem sextB (d a : GReg) : Statement (.sextB d a) := hasForm_rWord
theorem sextH (d a : GReg) : Statement (.sextH d a) := hasForm_rWord
theorem sextW (d a : GReg) : Statement (.sextW d a) := hasForm_rWord
theorem zextB (d a : GReg) : Statement (.zextB d a) := hasForm_rWord
theorem zextH (d a : GReg) : Statement (.zextH d a) := hasForm_rWord
theorem zextW (d a : GReg) : Statement (.zextW d a) := hasForm_rWord
theorem cmpEq (d : PReg) (a b : GReg) : Statement (.cmpEq d a b) := hasForm_rWord
theorem cmpNe (d : PReg) (a b : GReg) : Statement (.cmpNe d a b) := hasForm_rWord
theorem cmpLt (d : PReg) (a b : GReg) : Statement (.cmpLt d a b) := hasForm_rWord
theorem cmpGe (d : PReg) (a b : GReg) : Statement (.cmpGe d a b) := hasForm_rWord
theorem cmpLtu (d : PReg) (a b : GReg) : Statement (.cmpLtu d a b) := hasForm_rWord
theorem cmpGeu (d : PReg) (a b : GReg) : Statement (.cmpGeu d a b) := hasForm_rWord
theorem tst (d : PReg) (a b : GReg) : Statement (.tst d a b) := hasForm_rWord
theorem sel (gd : Guard) (d a : GReg) (s : Src2) (c : PReg) : Statement (.sel gd d a s c) := hasForm_encSrc2
theorem integerAluXForm (op : AluOp) (gd : Guard) (d a : GReg) (s : Src2) : Statement (.integerAluXForm op gd d a s) := hasForm_encSrc2
theorem addi (d a : GReg) (i : BitVec 14) : Statement (.addi d a i) := hasForm_iWord
theorem andi (d a : GReg) (i : BitVec 14) : Statement (.andi d a i) := hasForm_iWord
theorem ori (d a : GReg) (i : BitVec 14) : Statement (.ori d a i) := hasForm_iWord
theorem xori (d a : GReg) (i : BitVec 14) : Statement (.xori d a i) := hasForm_iWord
theorem li (d : GReg) (i : BitVec 14) : Statement (.li d i) := hasForm_iWord
theorem addiLiteral (d a : GReg) (v : Word) : Statement (.addiLiteral d a v) := hasForm_literal _ _ (by simp)
theorem andiLiteral (d a : GReg) (v : Word) : Statement (.andiLiteral d a v) := hasForm_literal _ _ (by simp)
theorem oriLiteral (d a : GReg) (v : Word) : Statement (.oriLiteral d a v) := hasForm_literal _ _ (by simp)
theorem xoriLiteral (d a : GReg) (v : Word) : Statement (.xoriLiteral d a v) := hasForm_literal _ _ (by simp)
theorem liLiteral (d : GReg) (v : Word) : Statement (.liLiteral d v) := hasForm_literal _ _ (by simp)
theorem slli (d a : GReg) (n : BitVec 6) : Statement (.slli d a n) := hasForm_iWord
theorem srli (d a : GReg) (n : BitVec 6) : Statement (.srli d a n) := hasForm_iWord
theorem srai (d a : GReg) (n : BitVec 6) : Statement (.srai d a n) := hasForm_iWord
theorem rori (d a : GReg) (n : BitVec 6) : Statement (.rori d a n) := hasForm_iWord
theorem cmpiEq (d : PReg) (a : GReg) (k : BitVec 11) : Statement (.cmpiEq d a k) := hasForm_iWord
theorem cmpiNe (d : PReg) (a : GReg) (k : BitVec 11) : Statement (.cmpiNe d a k) := hasForm_iWord
theorem cmpiLt (d : PReg) (a : GReg) (k : BitVec 11) : Statement (.cmpiLt d a k) := hasForm_iWord
theorem cmpiGe (d : PReg) (a : GReg) (k : BitVec 11) : Statement (.cmpiGe d a k) := hasForm_iWord
theorem cmpiLtu (d : PReg) (a : GReg) (k : BitVec 11) : Statement (.cmpiLtu d a k) := hasForm_iWord
theorem cmpiGeu (d : PReg) (a : GReg) (k : BitVec 11) : Statement (.cmpiGeu d a k) := hasForm_iWord
theorem cmpiTst (d : PReg) (a : GReg) (k : BitVec 11) : Statement (.cmpiTst d a k) := hasForm_iWord
theorem fadd (f : BitVec 2) (d a b : GReg) : Statement (.fadd f d a b) := hasForm_rWord
theorem fsub (f : BitVec 2) (d a b : GReg) : Statement (.fsub f d a b) := hasForm_rWord
theorem fmul (f : BitVec 2) (d a b : GReg) : Statement (.fmul f d a b) := hasForm_rWord
theorem fdiv (f : BitVec 2) (d a b : GReg) : Statement (.fdiv f d a b) := hasForm_rWord
theorem fsqrt (f : BitVec 2) (d a : GReg) : Statement (.fsqrt f d a) := hasForm_rWord
theorem fmin (f : BitVec 2) (d a b : GReg) : Statement (.fmin f d a b) := hasForm_rWord
theorem fmax (f : BitVec 2) (d a b : GReg) : Statement (.fmax f d a b) := hasForm_rWord
theorem fneg (f : BitVec 2) (d a : GReg) : Statement (.fneg f d a) := hasForm_rWord
theorem fabs (f : BitVec 2) (d a : GReg) : Statement (.fabs f d a) := hasForm_rWord
theorem fsgnj (f : BitVec 2) (d a b : GReg) : Statement (.fsgnj f d a b) := hasForm_rWord
theorem fma (x : FpX) (f : BitVec 2) (d a : GReg) (b : RegLit) (c : GReg) : Statement (.fma x f d a b c) := hasForm_encFpX
theorem fms (x : FpX) (f : BitVec 2) (d a : GReg) (b : RegLit) (c : GReg) : Statement (.fms x f d a b c) := hasForm_encFpX
theorem fnma (x : FpX) (f : BitVec 2) (d a : GReg) (b : RegLit) (c : GReg) : Statement (.fnma x f d a b c) := hasForm_encFpX
theorem feq (f : BitVec 2) (d : PReg) (a b : GReg) : Statement (.feq f d a b) := hasForm_rWord
theorem flt (f : BitVec 2) (d : PReg) (a b : GReg) : Statement (.flt f d a b) := hasForm_rWord
theorem fle (f : BitVec 2) (d : PReg) (a b : GReg) : Statement (.fle f d a b) := hasForm_rWord
theorem funord (f : BitVec 2) (d : PReg) (a b : GReg) : Statement (.funord f d a b) := hasForm_rWord
theorem fclass (f : BitVec 2) (d a : GReg) : Statement (.fclass f d a) := hasForm_rWord
theorem fpAluXForm (op : FpOp) (x : FpX) (f : BitVec 2) (d a : GReg) (b : RegLit) : Statement (.fpAluXForm op x f d a b) := hasForm_encFpX
theorem fcvt (u v : FpCode) (d a : GReg) : Statement (.fcvt u v d a) := hasForm_rWord
theorem fround (v : FpCode) (d a : GReg) : Statement (.fround v d a) := hasForm_rWord
theorem fpConvertXForm (u v : FpCode) (rnd : Bool) (x : FpX) (d a : GReg) : Statement (.fpConvertXForm u v rnd x d a) := hasForm_xf
theorem br (p : PReg) (neg hint : Bool) (off : BitVec 19) : Statement (.br p neg hint off) := hasForm_one _ (by simp only [wL]; ext k hk; simp; grind)
theorem jmp (off : BitVec 24) : Statement (.jmp off) := hasForm_one _ (by simp only [wL]; ext k hk; simp; grind)
theorem call (off : BitVec 24) : Statement (.call off) := hasForm_one _ (by simp only [wL]; ext k hk; simp; grind)
theorem jmpr (a : GReg) : Statement (.jmpr a) := hasForm_rWord
theorem callr (a : GReg) : Statement (.callr a) := hasForm_rWord
theorem ret : Statement .ret := hasForm_rWord
theorem loop (a : GReg) (n : BitVec 10) : Statement (.loop a n) := hasForm_rWord
theorem pand (d a b : PReg) : Statement (.pand d a b) := hasForm_rWord
theorem por (d a b : PReg) : Statement (.por d a b) := hasForm_rWord
theorem pxor (d a b : PReg) : Statement (.pxor d a b) := hasForm_rWord
theorem pandn (d a b : PReg) : Statement (.pandn d a b) := hasForm_rWord
theorem pnot (d a : PReg) : Statement (.pnot d a) := hasForm_rWord
theorem ppack (d : GReg) : Statement (.ppack d) := hasForm_rWord
theorem punpk (a : GReg) : Statement (.punpk a) := hasForm_rWord
theorem ld (sz : BitVec 3) (d a : GReg) (off : BitVec 11) : Statement (.ld sz d a off) := hasForm_mWord
theorem st (sz : BitVec 3) (d a : GReg) (off : BitVec 11) : Statement (.st sz d a off) := hasForm_mWord
theorem ldXForm (gd : Guard) (sz : BitVec 3) (d a : GReg) (m : AddrMode) : Statement (.ldXForm gd sz d a m) := hasForm_encMode
theorem stXForm (gd : Guard) (sz : BitVec 3) (d a : GReg) (m : AddrMode) : Statement (.stXForm gd sz d a m) := hasForm_encMode
theorem ldg (x : DevArgs) : Statement (.ldg x) := hasForm_encDevice
theorem stg (x : DevArgs) : Statement (.stg x) := hasForm_encDevice
theorem ldx (x : DevArgs) (sp : SpaceSel) : Statement (.ldx x sp) := hasForm_encDevice
theorem stx (x : DevArgs) (sp : SpaceSel) : Statement (.stx x sp) := hasForm_encDevice
theorem amoAdd (x : AmoArgs) : Statement (.amoAdd x) := hasForm_encDevice
theorem amoAnd (x : AmoArgs) : Statement (.amoAnd x) := hasForm_encDevice
theorem amoOr (x : AmoArgs) : Statement (.amoOr x) := hasForm_encDevice
theorem amoXor (x : AmoArgs) : Statement (.amoXor x) := hasForm_encDevice
theorem amoSwap (x : AmoArgs) : Statement (.amoSwap x) := hasForm_encDevice
theorem amoCas (x : AmoArgs) (c : GReg) : Statement (.amoCas x c) := hasForm_encDevice
theorem amoMin (x : AmoArgs) : Statement (.amoMin x) := hasForm_encDevice
theorem amoMax (x : AmoArgs) : Statement (.amoMax x) := hasForm_encDevice
theorem amoMinu (x : AmoArgs) : Statement (.amoMinu x) := hasForm_encDevice
theorem amoMaxu (x : AmoArgs) : Statement (.amoMaxu x) := hasForm_encDevice
theorem amoFadd (x : AmoArgs) : Statement (.amoFadd x) := hasForm_encDevice
theorem amoFmin (x : AmoArgs) : Statement (.amoFmin x) := hasForm_encDevice
theorem amoFmax (x : AmoArgs) : Statement (.amoFmax x) := hasForm_encDevice
theorem waitv (x : AmoArgs) (c : GReg) : Statement (.waitv x c) := hasForm_encDevice
theorem waitvArm (port : Option Nat) : Statement (.waitvArm port) := hasForm_nil
theorem waitvWake (port : Option Nat) : Statement (.waitvWake port) := hasForm_nil
theorem waitvTimeout (port : Option Nat) : Statement (.waitvTimeout port) := hasForm_nil
theorem alloc (m : BitVec 14) : Statement (.alloc m) := hasForm_iWord
theorem free (m : BitVec 14) : Statement (.free m) := hasForm_iWord
theorem csrr (d : GReg) (csr : BitVec 12) : Statement (.csrr d csr) := hasForm_iWord
theorem csrw (d a : GReg) (csr : BitVec 12) : Statement (.csrw d a csr) := hasForm_iWord
theorem csrs (d a : GReg) (csr : BitVec 12) : Statement (.csrs d a csr) := hasForm_iWord
theorem csrc (d a : GReg) (csr : BitVec 12) : Statement (.csrc d a csr) := hasForm_iWord
theorem pwinWrite (w : BitVec 2) (v : Word) : Statement (.pwinWrite w v) := hasForm_nil
theorem vcwWrite (v : BitVec 32) : Statement (.vcwWrite v) := hasForm_nil
theorem waitc (l s c t : BitVec 4) : Statement (.waitc l s c t) := hasForm_one _ (by simp only [wL]; ext k hk; simp; grind)
theorem send (gd : Guard) (a b c : GReg) (ctl : Ctl) : Statement (.send gd a b c ctl) := hasForm_xf
theorem sendi (gd : Guard) (a b c : GReg) (e : RegLit) (ctl : Ctl) : Statement (.sendi gd a b c e ctl) := by cases e <;> first | exact hasForm_xf | exact hasForm_xl
theorem fwd (gd : Guard) (a : GReg) (named : Bool) (vc : BitVec 3) (entry : BitVec 10) : Statement (.fwd gd a named vc entry) := hasForm_xf
theorem post (gd : Guard) (a b : GReg) (named : Bool) (vc : BitVec 4) (amount : BitVec 8) : Statement (.post gd a b named vc amount) := hasForm_xf
theorem cset (gd : Guard) (d : PReg) (a b c : GReg) (i : BitVec 32) : Statement (.cset gd d a b c i) := hasForm_xf
theorem cread (gd : Guard) (d a : GReg) (i : BitVec 32) : Statement (.cread gd d a i) := hasForm_xf
theorem cpy (gd : Guard) (tag : BitVec 6) (d a b : GReg) (dsc : Option GReg) : Statement (.cpy gd tag d a b dsc) := hasForm_xf
theorem cpyxG (gd : Guard) (tag : BitVec 6) (space : BitVec 16) (d a b : GReg) (dsc : Option GReg) : Statement (.cpyxG gd tag space d a b dsc) := hasForm_xf
theorem cpyxP (gd : Guard) (tag : BitVec 6) (space : BitVec 16) (d a b : GReg) (dsc : Option GReg) : Statement (.cpyxP gd tag space d a b dsc) := hasForm_xf
theorem copyComplete (tag : BitVec 6) : Statement (.copyComplete tag) := hasForm_nil
theorem publ (gd : Guard) (w : BitVec 2) : Statement (.publ gd w) := hasForm_xf
theorem wtagAny (a : GReg) : Statement (.wtagAny a) := hasForm_rWord
theorem wtagAll (a : GReg) : Statement (.wtagAll a) := hasForm_rWord
theorem ftag (d a : GReg) : Statement (.ftag d a) := hasForm_rWord
theorem ftagC (d a : GReg) : Statement (.ftagC d a) := hasForm_rWord
theorem tclr (a : GReg) : Statement (.tclr a) := hasForm_rWord
theorem wtagAnyLiteral (m : Word) : Statement (.wtagAnyLiteral m) := hasForm_literal _ _ (by simp)
theorem wtagAllLiteral (m : Word) : Statement (.wtagAllLiteral m) := hasForm_literal _ _ (by simp)
theorem ftagLiteral (d : GReg) (m : Word) : Statement (.ftagLiteral d m) := hasForm_literal _ _ (by simp)
theorem ftagCLiteral (d : GReg) (m : Word) : Statement (.ftagCLiteral d m) := hasForm_literal _ _ (by simp)
theorem tclrLiteral (m : Word) : Statement (.tclrLiteral m) := hasForm_literal _ _ (by simp)
theorem wtagWake : Statement .wtagWake := hasForm_nil
theorem fence (scope : BitVec 3) : Statement (.fence scope) := hasForm_rWord
theorem loopf : Statement .loopf := hasForm_rWord
theorem done : Statement .done := hasForm_rWord
theorem doneXForm (gd : Guard) : Statement (.doneXForm gd) := hasForm_xf
theorem yield (a : GReg) : Statement (.yield a) := hasForm_rWord
theorem yieldXForm (gd : Guard) (a : GReg) : Statement (.yieldXForm gd a) := hasForm_xf
theorem halt : Statement .halt := hasForm_rWord
theorem brk : Statement .brk := hasForm_rWord
theorem brkXForm (gd : Guard) (code : BitVec 16) : Statement (.brkXForm gd code) := hasForm_xf
theorem trap (gd : Guard) (a b : GReg) (cause : BitVec 8) : Statement (.trap gd a b cause) := hasForm_xf
theorem redpin (d a : GReg) : Statement (.redpin d a) := hasForm_rWord
theorem perf (d a : GReg) : Statement (.perf d a) := hasForm_rWord
theorem scall (gd : Guard) (d a b : GReg) (len : BitVec 2) (entry : BitVec 10) : Statement (.scall gd d a b len entry) := hasForm_xf
theorem scallReply : Statement .scallReply := hasForm_nil
theorem vadd (x : Option VX) (d a : VReg) (b : VSrc) : Statement (.vadd x d a b) := hasForm_encVec2
theorem vsub (x : Option VX) (d a : VReg) (b : VSrc) : Statement (.vsub x d a b) := hasForm_encVec2
theorem vadds (x : Option VX) (d a : VReg) (b : VSrc) : Statement (.vadds x d a b) := hasForm_encVec2
theorem vsubs (x : Option VX) (d a : VReg) (b : VSrc) : Statement (.vsubs x d a b) := hasForm_encVec2
theorem vmul (x : Option VX) (d a : VReg) (b : VSrc) : Statement (.vmul x d a b) := hasForm_encVec2
theorem vmulh (x : Option VX) (d a : VReg) (b : VSrc) : Statement (.vmulh x d a b) := hasForm_encVec2
theorem vmin (x : Option VX) (d a : VReg) (b : VSrc) : Statement (.vmin x d a b) := hasForm_encVec2
theorem vmax (x : Option VX) (d a : VReg) (b : VSrc) : Statement (.vmax x d a b) := hasForm_encVec2
theorem vand (x : Option VX) (d a : VReg) (b : VSrc) : Statement (.vand x d a b) := hasForm_encVec2
theorem vor (x : Option VX) (d a : VReg) (b : VSrc) : Statement (.vor x d a b) := hasForm_encVec2
theorem vxor (x : Option VX) (d a : VReg) (b : VSrc) : Statement (.vxor x d a b) := hasForm_encVec2
theorem vsll (x : Option VX) (d a : VReg) (b : VSrc) : Statement (.vsll x d a b) := hasForm_encVec2
theorem vsrl (x : Option VX) (d a : VReg) (b : VSrc) : Statement (.vsrl x d a b) := hasForm_encVec2
theorem vsra (x : Option VX) (d a : VReg) (b : VSrc) : Statement (.vsra x d a b) := hasForm_encVec2
theorem vabs (x : Option VX) (d a : VReg) : Statement (.vabs x d a) := hasForm_encVec1
theorem vcmpEq (x : Option VX) (d : MReg) (a : VReg) (b : VSrc) : Statement (.vcmpEq x d a b) := hasForm_encVec2
theorem vcmpNe (x : Option VX) (d : MReg) (a : VReg) (b : VSrc) : Statement (.vcmpNe x d a b) := hasForm_encVec2
theorem vcmpLt (x : Option VX) (d : MReg) (a : VReg) (b : VSrc) : Statement (.vcmpLt x d a b) := hasForm_encVec2
theorem vcmpLe (x : Option VX) (d : MReg) (a : VReg) (b : VSrc) : Statement (.vcmpLe x d a b) := hasForm_encVec2
theorem vfadd (x : Option VX) (d a : VReg) (b : VSrc) : Statement (.vfadd x d a b) := hasForm_encVec2
theorem vfsub (x : Option VX) (d a : VReg) (b : VSrc) : Statement (.vfsub x d a b) := hasForm_encVec2
theorem vfmul (x : Option VX) (d a : VReg) (b : VSrc) : Statement (.vfmul x d a b) := hasForm_encVec2
theorem vfdiv (x : Option VX) (d a : VReg) (b : VSrc) : Statement (.vfdiv x d a b) := hasForm_encVec2
theorem vfsqrt (x : Option VX) (d a : VReg) : Statement (.vfsqrt x d a) := hasForm_encVec1
theorem vfmin (x : Option VX) (d a : VReg) (b : VSrc) : Statement (.vfmin x d a b) := hasForm_encVec2
theorem vfmax (x : Option VX) (d a : VReg) (b : VSrc) : Statement (.vfmax x d a b) := hasForm_encVec2
theorem vfneg (x : Option VX) (d a : VReg) : Statement (.vfneg x d a) := hasForm_encVec1
theorem vfabs (x : Option VX) (d a : VReg) : Statement (.vfabs x d a) := hasForm_encVec1
theorem vfcmpEq (x : Option VX) (d : MReg) (a : VReg) (b : VSrc) : Statement (.vfcmpEq x d a b) := hasForm_encVec2
theorem vfcmpLt (x : Option VX) (d : MReg) (a : VReg) (b : VSrc) : Statement (.vfcmpLt x d a b) := hasForm_encVec2
theorem vfcmpLe (x : Option VX) (d : MReg) (a : VReg) (b : VSrc) : Statement (.vfcmpLe x d a b) := hasForm_encVec2
theorem vfcmpUnord (x : Option VX) (d : MReg) (a : VReg) (b : VSrc) : Statement (.vfcmpUnord x d a b) := hasForm_encVec2
theorem vfma (x : Option VX) (d a : VReg) (b : VSrc) : Statement (.vfma x d a b) := hasForm_encVec2
theorem vfms (x : Option VX) (d a : VReg) (b : VSrc) : Statement (.vfms x d a b) := hasForm_encVec2
theorem vfnma (x : Option VX) (d a : VReg) (b : VSrc) : Statement (.vfnma x d a b) := hasForm_encVec2
theorem vcvt (gd : Guard) (rm : Option RMode) (d a : VReg) (part : BitVec 3) (fmt : Fmt) : Statement (.vcvt gd rm d a part fmt) := hasForm_xf
theorem vqnt (gd : Guard) (rm : Option RMode) (d a : VReg) (xv : Bool) (fmt : Fmt) : Statement (.vqnt gd rm d a xv fmt) := hasForm_xf
theorem vdqnt (gd : Guard) (rm : Option RMode) (d a : VReg) (fmt : Fmt) : Statement (.vdqnt gd rm d a fmt) := hasForm_xf
theorem vrsum (x : Option VX) (d a : VReg) : Statement (.vrsum x d a) := hasForm_encVec1
theorem vrmax (x : Option VX) (d a : VReg) : Statement (.vrmax x d a) := hasForm_encVec1
theorem vrmin (x : Option VX) (d a : VReg) : Statement (.vrmin x d a) := hasForm_encVec1
theorem vperm (x : Option VX) (d a b : VReg) : Statement (.vperm x d a b) := hasForm_encVec1
theorem vslup (x : Option VX) (d a : VReg) (b : GReg) : Statement (.vslup x d a b) := hasForm_encVec1
theorem vsldn (x : Option VX) (d a : VReg) (b : GReg) : Statement (.vsldn x d a b) := hasForm_encVec1
theorem vrev (x : Option VX) (d a : VReg) : Statement (.vrev x d a) := hasForm_encVec1
theorem vld (x : Option VMemX) (d : VReg) (a b : GReg) : Statement (.vld x d a b) := hasForm_encVMem
theorem vst (x : Option VMemX) (d : VReg) (a b : GReg) : Statement (.vst x d a b) := hasForm_encVMem
theorem vrng (gd : Guard) (d : VReg) (a b : GReg) (c : RegLit) : Statement (.vrng gd d a b c) := hasForm_encRng
theorem vsrnd (gd : Guard) (d e : VReg) (a b : GReg) (c : RegLit) (w : BitVec 6) (part : BitVec 3) (fmt : Fmt) : Statement (.vsrnd gd d e a b c w part fmt) := hasForm_encRng
theorem vdrop (gd : Guard) (rm : Option RMode) (d e : VReg) (a b : GReg) (c : RegLit) (p : BitVec 32) : Statement (.vdrop gd rm d e a b c p) := hasForm_encRng
theorem vopt (x : Option (Guard × Option RMode)) (a : GReg) : Statement (.vopt x a) := by rcases x with _ | ⟨g, m⟩; all_goals first | exact hasForm_rWord | exact hasForm_xf
theorem vext (x : Option Guard) (d : GReg) (a : VReg) (b : VIdx) : Statement (.vext x d a b) := hasForm_encIdx
theorem vins (x : Option Guard) (d : VReg) (a : GReg) (b : VIdx) : Statement (.vins x d a b) := hasForm_encIdx
theorem vbcast (gd : Guard) (d : VReg) (a : GReg) (fmt : Fmt) : Statement (.vbcast gd d a fmt) := hasForm_xf
theorem vtag (x : Option Guard) (d : GReg) (a : VReg) : Statement (.vtag x d a) := hasForm_encMove
theorem vsett (x : Option Guard) (d : VReg) (a : GReg) : Statement (.vsett x d a) := hasForm_encMove
theorem vmov (x : Option Guard) (d a : VReg) : Statement (.vmov x d a) := hasForm_encMove
theorem mand (x : Option Guard) (d a b : MReg) : Statement (.mand x d a b) := hasForm_encMove
theorem mor (x : Option Guard) (d a b : MReg) : Statement (.mor x d a b) := hasForm_encMove
theorem mxor (x : Option Guard) (d a b : MReg) : Statement (.mxor x d a b) := hasForm_encMove
theorem mandn (x : Option Guard) (d a b : MReg) : Statement (.mandn x d a b) := hasForm_encMove
theorem mnot (x : Option Guard) (d a : MReg) : Statement (.mnot x d a) := hasForm_encMove
theorem mpop (x : Option Guard) (d : GReg) (a : MReg) : Statement (.mpop x d a) := hasForm_encMove
theorem mset (x : Option Guard) (d : MReg) (a : GReg) : Statement (.mset x d a) := hasForm_encMove
theorem mget (x : Option Guard) (d : GReg) (a : MReg) : Statement (.mget x d a) := hasForm_encMove
theorem mldb (gd : Guard) (a : GReg) (p0 np1 : BitVec 7) : Statement (.mldb gd a p0 np1) := hasForm_xf
theorem mldbS (gd : Guard) (a c : GReg) (p0 np1 : BitVec 7) : Statement (.mldbS gd a c p0 np1) := hasForm_xf
theorem mstb (gd : Guard) (tag : BitVec 6) (a : GReg) (p0 np1 : BitVec 7) : Statement (.mstb gd tag a p0 np1) := hasForm_xf
theorem mprog (gd : Guard) (a : GReg) (comb : BitVec 2) (init : BitVec 3) : Statement (.mprog gd a comb init) := hasForm_xf
theorem mmac (x : StreamArgs) (imode : Bool) (p0 np1 : BitVec 7) : Statement (.mmac x imode p0 np1) := hasForm_xf
theorem mmact (x : StreamArgs) (imode : Bool) (p0 np1 : BitVec 7) : Statement (.mmact x imode p0 np1) := hasForm_xf
theorem mrec (x : StreamArgs) (init : Bool) (p0 : BitVec 7) : Statement (.mrec x init p0) := hasForm_xf
theorem acz (gd : Guard) (r0 nr1 : BitVec 6) (fill : BitVec 2) : Statement (.acz gd r0 nr1 fill) := hasForm_xf
theorem acld (gd : Guard) (tag : BitVec 6) (a : GReg) (r0 nr1 : BitVec 6) : Statement (.acld gd tag a r0 nr1) := hasForm_xf
theorem acst (gd : Guard) (tag : BitVec 6) (a : GReg) (r0 nr1 : BitVec 6) (sc : BitVec 8) (imode : Bool) (rm : Option RMode) (fmt : Fmt) : Statement (.acst gd tag a r0 nr1 sc imode rm fmt) := hasForm_xf
theorem acmv (gd : Guard) (tag : BitVec 6) (r0 s nr1 : BitVec 6) : Statement (.acmv gd tag r0 s nr1) := hasForm_xf
theorem mgang (gd : Guard) (acc imode : Bool) (stride : BitVec 10) (a b c : GReg) (p0 np1 : BitVec 7) (r0 : BitVec 6) : Statement (.mgang gd acc imode stride a b c p0 np1 r0) := hasForm_xf
theorem gangJoin : Statement .gangJoin := hasForm_nil
theorem gangDone : Statement .gangDone := hasForm_nil
theorem gangTimeout : Statement .gangTimeout := hasForm_nil
theorem gangAbort : Statement .gangAbort := hasForm_nil
theorem mknot (gd : Guard) (a : GReg) (k0 nk1 : BitVec 4) : Statement (.mknot gd a k0 nk1) := hasForm_xf
theorem mspl (x : StreamArgs) : Statement (.mspl x) := hasForm_xf
theorem mspld (x : StreamArgs) (c : GReg) : Statement (.mspld x c) := hasForm_xf
theorem msgrad (x : StreamArgs) (init : Bool) (tag : BitVec 6) (b c : GReg) : Statement (.msgrad x init tag b c) := hasForm_xf
theorem mrefine (gd : Guard) (k0 nk1 : BitVec 4) : Statement (.mrefine gd k0 nk1) := hasForm_xf
theorem tsel (d a b : GReg) : Statement (.tsel d a b) := hasForm_rWord
theorem tselXForm (gd : Guard) (d a b : GReg) : Statement (.tselXForm gd d a b) := hasForm_xf
theorem tnew (gd : Guard) (cls : NodeClass) (d a b c : GReg) : Statement (.tnew gd cls d a b c) := hasForm_xf
theorem tnewLink (gd : Guard) (a b c : GReg) : Statement (.tnewLink gd a b c) := hasForm_xf
theorem texp (gd : Guard) (back flip : Bool) (a b c e : GReg) : Statement (.texp gd back flip a b c e) := hasForm_xf
theorem tback (gd : Guard) (flip : Bool) (a b c : GReg) : Statement (.tback gd flip a b c) := hasForm_xf
theorem tabort (a b : GReg) : Statement (.tabort a b) := hasForm_rWord
theorem tabortXForm (gd : Guard) (clr : Bool) (a b : GReg) : Statement (.tabortXForm gd clr a b) := hasForm_xf
theorem troot (a b : GReg) : Statement (.troot a b) := hasForm_rWord
theorem trootXForm (gd : Guard) (a b : GReg) : Statement (.trootXForm gd a b) := hasForm_xf
theorem tfree (gd : Guard) (a : GReg) : Statement (.tfree gd a) := hasForm_xf
theorem tfreeKeep (gd : Guard) (a : GReg) : Statement (.tfreeKeep gd a) := hasForm_xf
theorem tfreeInit (gd : Guard) (cls : NodeClass) (a : GReg) : Statement (.tfreeInit gd cls a) := hasForm_xf
theorem tstat (gd : Guard) (sel : BitVec 2) (d a b : GReg) : Statement (.tstat gd sel d a b) := hasForm_xf
theorem tleaf (gd : Guard) (d a b c e : GReg) : Statement (.tleaf gd d a b c e) := hasForm_xf
theorem engineStart (e : Engine) : Statement (.engineStart e) := hasForm_nil
theorem engineConfirmation (e : Engine) : Statement (.engineConfirmation e) := hasForm_nil
theorem engineCompletion (e : Engine) : Statement (.engineCompletion e) := hasForm_nil
theorem packetArrival : Statement .packetArrival := hasForm_nil
theorem inboxAccept (vc : BitVec 4) : Statement (.inboxAccept vc) := hasForm_nil
theorem dispatch : Statement .dispatch := hasForm_nil
theorem handlerBudget : Statement .handlerBudget := hasForm_nil
theorem writeQueueAccept : Statement .writeQueueAccept := hasForm_nil
theorem writeQueueWriteBack : Statement .writeQueueWriteBack := hasForm_nil
theorem remoteRead : Statement .remoteRead := hasForm_nil
theorem answerArrival : Statement .answerArrival := hasForm_nil
theorem deferredFault : Statement .deferredFault := hasForm_nil
theorem trapRecord : Statement .trapRecord := hasForm_nil
theorem reportInjection : Statement .reportInjection := hasForm_nil
theorem injection : Statement .injection := hasForm_nil
theorem seekAnswer (vc : BitVec 4) : Statement (.seekAnswer vc) := hasForm_nil
theorem seekUnresolved (vc : BitVec 4) : Statement (.seekUnresolved vc) := hasForm_nil
theorem routerForward (k : Nat) : Statement (.routerForward k) := hasForm_nil
theorem nameTableAgeing : Statement .nameTableAgeing := hasForm_nil
theorem holdNotice (port : Nat) : Statement (.holdNotice port) := hasForm_nil
theorem releaseNotice (port : Nat) : Statement (.releaseNotice port) := hasForm_nil
theorem scrub (line : Nat) : Statement (.scrub line) := hasForm_nil
theorem tileTimerFire : Statement .tileTimerFire := hasForm_nil
theorem sliceTimerFire : Statement .sliceTimerFire := hasForm_nil
theorem read (c : MgmtCmd) : Statement (.read c) := hasForm_nil
theorem write (c : MgmtCmd) : Statement (.write c) := hasForm_nil
theorem resume (c : MgmtCmd) : Statement (.resume c) := hasForm_nil
theorem redirect (c : MgmtCmd) : Statement (.redirect c) := hasForm_nil
theorem kill (c : MgmtCmd) : Statement (.kill c) := hasForm_nil
theorem haltCommand (c : MgmtCmd) : Statement (.haltCommand c) := hasForm_nil
theorem step (c : MgmtCmd) : Statement (.step c) := hasForm_nil
theorem union (c : MgmtCmd) : Statement (.union c) := hasForm_nil
theorem nameWrite (c : MgmtCmd) : Statement (.nameWrite c) := hasForm_nil
theorem commandAnswer (agent : Nat) : Statement (.commandAnswer agent) := hasForm_nil
theorem commandTimeout (agent : Nat) : Statement (.commandTimeout agent) := hasForm_nil
theorem tileWindowAccess (agent addr : Nat) (k : HartAccess) : Statement (.tileWindowAccess agent addr k) := hasForm_nil
theorem hartTimerCompare (agent : Nat) : Statement (.hartTimerCompare agent) := hasForm_nil
theorem hallFlagUnionClear (f hall : Nat) (mask : BitVec 6) : Statement (.hallFlagUnionClear f hall mask) := hasForm_nil
theorem eventQueueWrite (f : Nat) : Statement (.eventQueueWrite f) := hasForm_nil
theorem eventQueueHeadWrite (f q : Nat) (ovf : Bool) (v : Word) : Statement (.eventQueueHeadWrite f q ovf v) := hasForm_nil
theorem callRecord (f t : Nat) : Statement (.callRecord f t) := hasForm_nil
theorem dispatchRead (f h : Nat) : Statement (.dispatchRead f h) := hasForm_nil
theorem serviceSliceExpiry (f h : Nat) : Statement (.serviceSliceExpiry f h) := hasForm_nil
theorem complete (f h : Nat) (v : Word) : Statement (.complete f h v) := hasForm_nil
theorem completionSend (f : Nat) : Statement (.completionSend f) := hasForm_nil
theorem switch (f t : Nat) : Statement (.switch f t) := hasForm_nil
theorem ready (f t : Nat) : Statement (.ready f t) := hasForm_nil
theorem retire (f t : Nat) : Statement (.retire f t) := hasForm_nil
theorem fail (f t : Nat) : Statement (.fail f t) := hasForm_nil
theorem callTimeout (f t : Nat) : Statement (.callTimeout f t) := hasForm_nil
theorem switchWindowTimeout (f t : Nat) : Statement (.switchWindowTimeout f t) := hasForm_nil
theorem translationWalk (port : Nat) : Statement (.translationWalk port) := hasForm_nil
theorem faultReportRepeat (port : Nat) : Statement (.faultReportRepeat port) := hasForm_nil
theorem retry (c : MgmtCmd) : Statement (.retry c) := hasForm_nil
theorem deny (c : MgmtCmd) : Statement (.deny c) := hasForm_nil
theorem shoot (agent : Nat) (v : Word) : Statement (.shoot agent v) := hasForm_nil
theorem shootAcknowledgement (agent : Nat) (receiver : Nat) : Statement (.shootAcknowledgement agent receiver) := hasForm_nil
theorem deviceRequest (c : Nat) (r : DevReq) : Statement (.deviceRequest c r) := hasForm_nil
theorem bridgeOutbound (p : Nat) : Statement (.bridgeOutbound p) := hasForm_nil
theorem bridgeInbound (p : Nat) (j : Nat) (ep : BitVec 32) (k : Inbound) : Statement (.bridgeInbound p j ep k) := hasForm_nil
theorem park (c : MgmtCmd) : Statement (.park c) := hasForm_nil
theorem quiescenceComplete : Statement .quiescenceComplete := hasForm_nil
theorem preemptTimeout : Statement .preemptTimeout := hasForm_nil
theorem unpark (c : MgmtCmd) : Statement (.unpark c) := hasForm_nil
theorem query (c : MgmtCmd) : Statement (.query c) := hasForm_nil
theorem hallop (c : MgmtCmd) : Statement (.hallop c) := hasForm_nil
theorem balloonDiversion : Statement .balloonDiversion := hasForm_nil
theorem balloonEntryAck : Statement .balloonEntryAck := hasForm_nil
theorem redelivery : Statement .redelivery := hasForm_nil
theorem tctlWrite (f : Nat) (v : Word) : Statement (.tctlWrite f v) := hasForm_nil
theorem tokenRefill (f : Nat) : Statement (.tokenRefill f) := hasForm_nil
theorem frameMarker (missed : List Coord) (readings : List Reading) : Statement (.frameMarker missed readings) := hasForm_nil
theorem missingMarker : Statement .missingMarker := hasForm_nil
theorem clockRaise (f : Nat) : Statement (.clockRaise f) := hasForm_nil
theorem stretch (f : Nat) : Statement (.stretch f) := hasForm_nil
theorem delayLineRemeasure (skewed : List (Coord × Bool)) : Statement (.delayLineRemeasure skewed) := hasForm_nil
theorem pulseWindowClose (f : Nat) (silent : List Coord) : Statement (.pulseWindowClose f silent) := hasForm_nil
theorem repair (c : MgmtCmd) : Statement (.repair c) := hasForm_nil
theorem shiftStep : Statement .shiftStep := hasForm_nil
theorem kiteLineRebuild (hall nlines : Nat) : Statement (.kiteLineRebuild hall nlines) := hasForm_nil
theorem launch (hall : Nat) (order : LaunchOrder) : Statement (.launch hall order) := hasForm_nil
theorem initialPacketWave (hall : Nat) : Statement (.initialPacketWave hall) := hasForm_nil
theorem boot (b : BootFindings) : Statement (.boot b) := hasForm_nil
theorem bootWatchdog : Statement .bootWatchdog := hasForm_nil
theorem bootOk : Statement .bootOk := hasForm_nil
theorem tftpStatusRead : Statement .tftpStatusRead := hasForm_nil
theorem tftpBankWrite (bankB : Bool) (image : List (BitVec 8)) : Statement (.tftpBankWrite bankB image) := hasForm_nil
theorem featureAccept (hi : Bool) (v : Word) : Statement (.featureAccept hi v) := hasForm_nil
theorem checkpointGo : Statement .checkpointGo := hasForm_nil
theorem checkpointWriting : Statement .checkpointWriting := hasForm_nil
theorem checkpointDone : Statement .checkpointDone := hasForm_nil
theorem powerFail : Statement .powerFail := hasForm_nil
theorem overTemperature : Statement .overTemperature := hasForm_nil
theorem jtagUnlock (scan : JtagScan) : Statement (.jtagUnlock scan) := hasForm_nil
theorem serviceHartsHalted (f t : Nat) (old : Bool) : Statement (.serviceHartsHalted f t old) := hasForm_nil
theorem forwardedRequest (port : Nat) : Statement (.forwardedRequest port) := hasForm_nil
theorem deviceCompletion (c : Nat) (v : Option Line) : Statement (.deviceCompletion c v) := hasForm_nil

end Sys2Proof.Laws.Form
end

