-- ==== Sys2Proof/Tests/Slice0.lean ====
section
/-! SUPPORT. Tests: the limits that WellFormed checks, words written out from the spec's encodings, single steps with results worked out
by hand from the rules, and for every obligation with hypotheses the states and operands that meet them, clause by clause. -/

namespace Sys2Proof.Tests
open Sys2Proof.Machine
set_option Elab.async false

/-! ### Small states -/

/-- Reset, with thread 0 of tile (0, 0) running and then changed by f. -/
def th (f : Thread → Thread) : State := State.reset.mapTh fun h => f { h with state := .run }
/-- The same thread with the g registers of the list set. -/
def regs (l : List (GReg × Word)) : State := th fun h => l.foldl (fun (h : Thread) x => h.setG x.1 x.2) h
/-- `regs l`, the tile then changed by g. -/
def tl (l : List (GReg × Word)) (g : Tile → Tile) : State := (regs l).mapTile g
/-- A state with `n` bytes of `v` at local address `a` of tile (0, 0). -/
def put (s : State) (a n : Nat) (v : Word) : State := s.store (s.pa a) n v

def isNext : Out → Bool
  | .next _ => true
  | _ => false

/-! ### What well-formedness and the decoder refuse -/

/-- One ill-formed term for each check of WellFormed.lean. -/
theorem test_wf_refuses : ([
    .integerAluXForm .clz .none 1 2 (.reg 3), .integerAluXForm .clz .none 1 2 (.imm 0), .integerAluXForm .cmpEq .none 8 2 (.reg 3),
    .fma ⟨.none, none⟩ 1 1 2 (.lit 0x100000000) 3, .fpAluXForm .fadd ⟨.none, none⟩ 2 1 2 (.lit 0x10000),
    .fpAluXForm .fsqrt ⟨.none, none⟩ 1 1 2 (.reg 3), .fpAluXForm .feq ⟨.none, none⟩ 1 8 2 (.reg 3), .fcvt .f32 .f32 1 2, .fcvt .i32 .u64 1 2,
    .fround .i64 1 2, .fpConvertXForm .f32 .f16 true ⟨.none, none⟩ 1 2, .fpConvertXForm .u32 .i32 false ⟨.none, none⟩ 1 2, .loop 1 0,
    .ld 7 1 2 0, .st 4 1 2 0, .ldXForm .none 7 1 2 (.off 0), .ldXForm .none 3 2 2 (.post 8), .stXForm .none 5 1 2 (.off 0),
    .ldg ⟨.none, 7, 1, 2, .imm 0⟩, .ldx ⟨.none, 7, 1, 2, .imm 0⟩ (.imm 1), .stg ⟨.none, 4, 1, 2, .imm 0⟩, .stx ⟨.none, 6, 1, 2, .imm 0⟩ (.imm 1),
    .alloc 0, .free 0, .send .none 1 2 3 ⟨true, false, 0, 0, 3, 0⟩, .send .none 1 2 3 ⟨true, false, 5, 5, 3, 0⟩,
    .send .none 1 2 3 ⟨true, false, 3, 1, 3, 0⟩, .send .none 1 2 3 ⟨false, false, 0, 1, 8, 0⟩, .send .none 1 2 3 ⟨true, false, 0, 1, 12, 0⟩,
    .sendi .none 1 2 3 (.reg 4) ⟨true, false, 0, 2, 3, 0⟩, .post .none 1 2 true 13 0, .post .none 1 2 true 12 1, .fence 6,
    .trap .none 1 2 0, .trap .none 1 2 0x1D] : List Instr).all (fun i => !i.wf) = true := by decide +kernel
theorem test_wf_refuses_engines : ([
    .vadd none 1 2 (.g 3), .vadd (some ⟨.none, false, some .rne, 0, 0, none⟩) 1 2 (.v 3), .vadd (some ⟨.none, false, none, 0, 1, none⟩) 1 2 (.v 3),
    .vabs (some ⟨.none, false, none, 0, 1, none⟩) 1 2, .vcmpEq (some ⟨.none, false, none, 0, 0, some .int8⟩) 1 2 (.v 3),
    .vfadd (some ⟨.none, false, none, 0, 1, none⟩) 1 2 (.v 3), .vfsqrt (some ⟨.none, false, none, 0, 1, none⟩) 1 2, .vfma none 1 2 (.g 3),
    .vcvt .none none 1 2 0 .raw, .vqnt .none none 1 2 true .e4m3, .vdqnt .none none 1 2 .node, .vrsum (some ⟨.none, true, none, 0, 0, none⟩) 1 2,
    .vperm (some ⟨.none, false, none, 0, 0, some .fp32⟩) 1 2 3, .vst (some ⟨.none, true, 0, 0, none⟩) 1 2 3,
    .vsrnd .none 1 2 3 4 (.reg 5) 33 0 .e4m3, .vsrnd .none 1 2 3 4 (.reg 5) 1 0 .raw, .vext none 1 2 (.imm 3), .vins none 1 2 (.imm 3),
    .mprog .none 1 3 4, .mprog .none 1 0 3, .acz .none 0 0 3, .msgrad ⟨.none, 1, 1, 1, 0⟩ false 1 2 3,
    .acst .none 1 2 0 0 0x7F false none .node, .acst .none 1 2 0 0 0xFF false none .fp32, .acst .none 1 2 0 0 0x80 false none .int8,
    .acst .none 1 2 0 0 0x7F true none .raw, .acst .none 1 2 0 0 0x7F false (some .rne) .raw] : List Instr).all (fun i => !i.wf) = true := by
  decide +kernel
theorem test_wf_refuses_events : ([
    .holdNotice 96, .releaseNotice 96, .commandAnswer 1280, .commandTimeout 1280, .hartTimerCompare 1280, .shoot 1280 0,
    .tileWindowAccess 1280 0 .fence, .hallFlagUnionClear 80 0 0, .hallFlagUnionClear 0 64 0, .eventQueueWrite 80, .completionSend 80,
    .tokenRefill 80, .clockRaise 80, .stretch 80, .tctlWrite 80 0, .pulseWindowClose 80 [], .eventQueueHeadWrite 0 65 false 0, .callRecord 0 16,
    .switch 80 0, .ready 0 16, .retire 0 16, .fail 0 16, .callTimeout 0 16, .switchWindowTimeout 0 16, .serviceHartsHalted 0 16 false,
    .dispatchRead 0 4, .serviceSliceExpiry 0 4, .complete 0 4 0, .translationWalk 100, .forwardedRequest 100, .faultReportRepeat 96,
    .shootAcknowledgement 0 180, .deviceCompletion 4 none, .bridgeOutbound 32, .bridgeInbound 0 4096 0 default, .kiteLineRebuild 64 1,
    .kiteLineRebuild 0 5, .launch 144 ⟨0, []⟩, .launch 0 ⟨16, []⟩, .initialPacketWave 144] : List Instr).all (fun i => !i.wf) = true := by
  decide +kernel
/-- Reserved codes of R173, R174, R189, R196, R231 and R252: a major, a length, an fn, an operand field and a mode. -/
theorem test_decoder_refuses : ([[0x00000078], [0x0000000A, 0, 0], [0x20800004], [0x10040004], [0x000C0804 ||| 0x18000000], [0x00000026, 0x00060000, 0],
    [0x0000006A, 0x00000800, 0], [0x00000082, 0x00060000, 0], [0x00000082, 0, 0x1]] : List (List IWord)).all (fun l => (readWords l).toOption == none) = true := by
  decide +kernel

/-! ### A word of every form, written out from the spec's encoding of it -/

theorem decode_scalar_integer : ([
    ([0x00445F04], .add 31 2 17), ([0x00C45F04], .sub 31 2 17), ([0x01445F04], .and 31 2 17), ([0x01C45F04], .or 31 2 17),
    ([0x02445F04], .xor 31 2 17), ([0x02C45F04], .andn 31 2 17), ([0x03445F04], .sll 31 2 17), ([0x03C45F04], .srl 31 2 17),
    ([0x04445F04], .sra 31 2 17), ([0x04C45F04], .rol 31 2 17), ([0x05445F04], .ror 31 2 17), ([0x05C45F04], .min 31 2 17),
    ([0x06445F04], .max 31 2 17), ([0x06C45F04], .minu 31 2 17), ([0x07445F04], .maxu 31 2 17), ([0x08445F04], .mul 31 2 17),
    ([0x08C45F04], .mulh 31 2 17), ([0x09445F04], .mulhu 31 2 17), ([0x09C45F04], .mulhsu 31 2 17), ([0x0A445F04], .div 31 2 17),
    ([0x0AC45F04], .divu 31 2 17), ([0x0B445F04], .rem 31 2 17), ([0x0BC45F04], .remu 31 2 17), ([0x0C445F04], .addsat 31 2 17),
    ([0x0CC45F04], .subsat 31 2 17), ([0x1003C904], .clz 9 30), ([0x1083C904], .ctz 9 30), ([0x1103C904], .popc 9 30), ([0x1183C904], .sextB 9 30),
    ([0x1203C904], .sextH 9 30), ([0x1283C904], .sextW 9 30), ([0x1303C904], .zextB 9 30), ([0x1383C904], .zextH 9 30), ([0x1403C904], .zextW 9 30),
    ([0x18650704], .cmpEq 7 8 25), ([0x18E50704], .cmpNe 7 8 25), ([0x19650704], .cmpLt 7 8 25), ([0x19E50704], .cmpGe 7 8 25),
    ([0x1A650704], .cmpLtu 7 8 25), ([0x1AE50704], .cmpGeu 7 8 25), ([0x1B650704], .tst 7 8 25),
    ([0x20148306, 0x0000D006, 0], .sel ⟨true, 5⟩ 3 4 (.reg 5) 6), ([0x20008306, 0x00000406, 0xFFFFFFFE], .sel .none 3 4 (.imm 0xFFFFFFFE) 6),
    ([0x0C948306, 0x0000D000, 0], .integerAluXForm .subsat ⟨true, 5⟩ 3 4 (.reg 5)),
    ([0x1A808706, 0x00000400, 0x80000000], .integerAluXForm .cmpGeu .none 7 4 (.imm 0x80000000))] : List (List IWord × Instr)).all (fun x => (readWords x.1).toOption == some x.2) = true := by decide +kernel
theorem decode_immediates : ([
    ([0xFFECC708], .addi 7 6 (-5)), ([0x0000C709, 0x9ABCDEF0, 0x12345678], .addiLiteral 7 6 0x123456789ABCDEF0), ([0xFFECC70C], .andi 7 6 (-5)),
    ([0x0000C70D, 0x9ABCDEF0, 0x12345678], .andiLiteral 7 6 0x123456789ABCDEF0), ([0xFFECC710], .ori 7 6 (-5)),
    ([0x0000C711, 0x9ABCDEF0, 0x12345678], .oriLiteral 7 6 0x123456789ABCDEF0), ([0xFFECC714], .xori 7 6 (-5)),
    ([0x0000C715, 0x9ABCDEF0, 0x12345678], .xoriLiteral 7 6 0x123456789ABCDEF0), ([0x7FFC0720], .li 7 0x1FFF),
    ([0x00000721, 0xFFFFFFFD, 0xFFFFFFFF], .liLiteral 7 (-3)), ([0x0084C718], .slli 7 6 33), ([0x0184C718], .srli 7 6 33),
    ([0x0284C718], .srai 7 6 33), ([0x0384C718], .rori 7 6 33), ([0x1FEFC71C], .cmpiEq 7 30 (-5)), ([0x3FEFC71C], .cmpiNe 7 30 (-5)),
    ([0x5FEFC71C], .cmpiLt 7 30 (-5)), ([0x7FEFC71C], .cmpiGe 7 30 (-5)), ([0x9FEFC71C], .cmpiLtu 7 30 (-5)), ([0xBFEFC71C], .cmpiGeu 7 30 (-5)),
    ([0xDFEFC71C], .cmpiTst 7 30 (-5))] : List (List IWord × Instr)).all (fun x => (readWords x.1).toOption == some x.2) = true := by decide +kernel
theorem decode_scalar_floating_point : ([
    ([0x00245524], .fadd 0 21 2 9), ([0x04A45524], .fsub 1 21 2 9), ([0x09245524], .fmul 2 21 2 9), ([0x0DA45524], .fdiv 3 21 2 9),
    ([0x10005524], .fsqrt 0 21 2), ([0x14A45524], .fmin 1 21 2 9), ([0x19245524], .fmax 2 21 2 9), ([0x1D805524], .fneg 3 21 2),
    ([0x20005524], .fabs 0 21 2), ([0x24A45524], .fsgnj 1 21 2 9), ([0x41A44524], .feq 3 5 2 9), ([0x45244524], .flt 2 5 2 9),
    ([0x48A44524], .fle 1 5 2 9), ([0x4C244524], .funord 0 5 2 9), ([0x50804524], .fclass 1 5 2),
    ([0x290C4126, 0x000BD004, 0], .fma ⟨⟨true, 5⟩, some .rdn⟩ 2 1 2 (.reg 3) 4),
    ([0x28804127, 0x00000004, 0, 0x3F800000, 0], .fma ⟨.none, none⟩ 1 1 2 (.lit 0x3F800000) 4),
    ([0x2D0C4126, 0x000BD004, 0], .fms ⟨⟨true, 5⟩, some .rdn⟩ 2 1 2 (.reg 3) 4),
    ([0x2C804127, 0x00000004, 0, 0x3F800000, 0], .fms ⟨.none, none⟩ 1 1 2 (.lit 0x3F800000) 4),
    ([0x310C4126, 0x000BD004, 0], .fnma ⟨⟨true, 5⟩, some .rdn⟩ 2 1 2 (.reg 3) 4),
    ([0x30804127, 0x00000004, 0, 0x3F800000, 0], .fnma ⟨.none, none⟩ 1 1 2 (.lit 0x3F800000) 4),
    ([0x0C0C4126, 0x0009D000, 0], .fpAluXForm .fdiv ⟨⟨true, 5⟩, some .rtz⟩ 0 1 2 (.reg 3)),
    ([0x48804627, 0, 0, 0x40000000, 0], .fpAluXForm .fle ⟨.none, none⟩ 1 6 2 (.lit 0x40000000)), ([0x2080E628], .fcvt .e4m3 .f32 6 7),
    ([0x4180E628], .fcvt .i32 .bf16 6 7), ([0xAA80E628], .fround .e5m2 6 7),
    ([0x2080E62A, 0x00090000, 0], .fpConvertXForm .e4m3 .f32 false ⟨.none, some .rtz⟩ 6 7),
    ([0x9100E62A, 0x000DD000, 0], .fpConvertXForm .f16 .f16 true ⟨⟨true, 5⟩, some .rsr⟩ 6 7)] : List (List IWord × Instr)).all (fun x => (readWords x.1).toOption == some x.2) = true := by decide +kernel
theorem decode_control : ([
    ([0xFFFFBD2C], .br 5 true true (-3)), ([0xFFFFF938], .jmp (-7)), ([0x0003E834], .call 1000), ([0x00012030], .jmpr 9), ([0x00812030], .callr 9),
    ([0x01000030], .ret), ([0x01FC8830], .loop 4 1000)] : List (List IWord × Instr)).all (fun x => (readWords x.1).toOption == some x.2) = true := by decide +kernel
theorem decode_predicates : ([
    ([0x001C413C], .pand 1 2 7), ([0x009C413C], .por 1 2 7), ([0x011C413C], .pxor 1 2 7), ([0x019C413C], .pandn 1 2 7), ([0x0200413C], .pnot 1 2),
    ([0x0400153C], .ppack 21), ([0x0482A03C], .punpk 21)] : List (List IWord × Instr)).all (fun x => (readWords x.1).toOption == some x.2) = true := by decide +kernel
theorem decode_loads_and_stores : ([
    ([0xFFD88540], .ld 6 5 4 (-2)), ([0x7FEC8544], .st 3 5 4 1023),
    ([0x01008542, 0x0000D000, 0xFFFFFFF8], .ldXForm ⟨true, 5⟩ 2 5 4 (.off 0xFFFFFFF8)), ([0x01808542, 0x00000406, 0], .ldXForm .none 3 5 4 (.idx 6)),
    ([0x00808542, 0x00000800, 0x00000002], .ldXForm .none 1 5 4 (.post 2)),
    ([0x01008546, 0x0000D000, 0xFFFFFFF8], .stXForm ⟨true, 5⟩ 2 5 4 (.off 0xFFFFFFF8)), ([0x01808546, 0x00000406, 0], .stXForm .none 3 5 4 (.idx 6)),
    ([0x00808546, 0x00000800, 0x00000002], .stXForm .none 1 5 4 (.post 2))] : List (List IWord × Instr)).all (fun x => (readWords x.1).toOption == some x.2) = true := by decide +kernel
theorem decode_device_accesses : ([
    ([0x0180C54A, 0x0000D000, 0x00000400], .ldg ⟨⟨true, 5⟩, 3, 5, 6, .imm 0x400⟩),
    ([0x0080C54B, 0, 0, 0xFFFFFFF8, 0xFFFFFFFF], .ldg ⟨.none, 1, 5, 6, .lit (-8)⟩),
    ([0x2180C54A, 0x0000D000, 0x00000400], .stg ⟨⟨true, 5⟩, 3, 5, 6, .imm 0x400⟩),
    ([0x2080C54B, 0, 0, 0xFFFFFFF8, 0xFFFFFFFF], .stg ⟨.none, 1, 5, 6, .lit (-8)⟩),
    ([0x4100C54A, 0x80010000, 0xFFFFFFFC], .ldx ⟨.none, 2, 5, 6, .imm 0xFFFFFFFC⟩ (.imm 0x8001)),
    ([0x4180C54B, 0x0000D520, 0, 0, 0x00000100], .ldx ⟨⟨true, 5⟩, 3, 5, 6, .lit 0x10000000000⟩ (.reg 9)),
    ([0x6100C54A, 0x80010000, 0xFFFFFFFC], .stx ⟨.none, 2, 5, 6, .imm 0xFFFFFFFC⟩ (.imm 0x8001)),
    ([0x6180C54B, 0x0000D520, 0, 0, 0x00000100], .stx ⟨⟨true, 5⟩, 3, 5, 6, .lit 0x10000000000⟩ (.reg 9)),
    ([0x001CC54E, 0, 0x00000008], .amoAdd ⟨.none, false, .loc, .imm 8, 5, 6, 7⟩),
    ([0x0A9CC54E, 0, 0x00000008], .amoAnd ⟨.none, true, .glob, .imm 8, 5, 6, 7⟩),
    ([0x131CC54E, 0x00070000, 0x00000008], .amoOr ⟨.none, true, (.ext (.imm 7)), .imm 8, 5, 6, 7⟩),
    ([0x181CC54E, 0, 0x00000008], .amoXor ⟨.none, false, .loc, .imm 8, 5, 6, 7⟩),
    ([0x229CC54E, 0, 0x00000008], .amoSwap ⟨.none, true, .glob, .imm 8, 5, 6, 7⟩),
    ([0x2B1CC54E, 0x00070003, 0x00000008], .amoCas ⟨.none, true, (.ext (.imm 7)), .imm 8, 5, 6, 7⟩ 3),
    ([0x301CC54E, 0, 0x00000008], .amoMin ⟨.none, false, .loc, .imm 8, 5, 6, 7⟩),
    ([0x3A9CC54E, 0, 0x00000008], .amoMax ⟨.none, true, .glob, .imm 8, 5, 6, 7⟩),
    ([0x431CC54E, 0x00070000, 0x00000008], .amoMinu ⟨.none, true, (.ext (.imm 7)), .imm 8, 5, 6, 7⟩),
    ([0x481CC54E, 0, 0x00000008], .amoMaxu ⟨.none, false, .loc, .imm 8, 5, 6, 7⟩),
    ([0x529CC54E, 0, 0x00000008], .amoFadd ⟨.none, true, .glob, .imm 8, 5, 6, 7⟩),
    ([0x5B1CC54E, 0x00070000, 0x00000008], .amoFmin ⟨.none, true, (.ext (.imm 7)), .imm 8, 5, 6, 7⟩),
    ([0x601CC54E, 0, 0x00000008], .amoFmax ⟨.none, false, .loc, .imm 8, 5, 6, 7⟩),
    ([0x031CC553, 0x0000D528, 0, 0x00000040, 0], .waitv ⟨⟨true, 5⟩, true, .ext (.reg 9), .lit 64, 5, 6, 7⟩ 8),
    ([0x001CC552, 0, 0x00000040], .waitv ⟨.none, false, .loc, .imm 64, 5, 6, 7⟩ 0)] : List (List IWord × Instr)).all (fun x => (readWords x.1).toOption == some x.2) = true := by decide +kernel
theorem decode_stack_registers_and_waits : ([
    ([0x000C0054], .alloc 3), ([0xFFFC2054], .free 16383), ([0x04100558], .csrr 5 0x104), ([0x04100558], .csrr 5 0x104),
    ([0x44112558], .csrw 5 9 0x104), ([0x84112558], .csrs 5 9 0x104), ([0xC4112558], .csrc 5 9 0x104), ([0x0043215C], .waitc 1 2 3 4),
    ([0x0001206C], .wtagAny 9), ([0x0000006D, 0, 0x80000000], .wtagAnyLiteral 0x8000000000000000), ([0x0081206C], .wtagAll 9),
    ([0x0080006D, 0, 0x80000000], .wtagAllLiteral 0x8000000000000000), ([0x0101256C], .ftag 5 9), ([0x0100056D, 0x00000006, 0], .ftagLiteral 5 6),
    ([0x0181256C], .ftagC 5 9), ([0x0180056D, 0x00000006, 0], .ftagCLiteral 5 6), ([0x0201206C], .tclr 9),
    ([0x0200006D, 0x00000006, 0], .tclrLiteral 6), ([0x02800070], .fence 5), ([0x04000070], .loopf)] : List (List IWord × Instr)).all (fun x => (readWords x.1).toOption == some x.2) = true := by decide +kernel
theorem decode_messages_records_and_copies : ([
    ([0x0018A062, 0x0000D007, 0x00524EA5], .send ⟨true, 5⟩ 5 6 7 ⟨true, false, 4, 9, 3, 0x2A5⟩),
    ([0x0098A062, 0x00000107, 0x00207001], .sendi .none 5 6 7 (.reg 8) ⟨false, true, 0, 1, 12, 1⟩),
    ([0x0098A063, 0x00000007, 0x00004801, 0x00000063, 0], .sendi .none 5 6 7 (.lit 99) ⟨false, false, 0, 1, 2, 1⟩),
    ([0x0100A062, 0, 0x00401BFF], .fwd .none 5 true 6 0x3FF), ([0x0198A062, 0x0000D000, 0x004034FF], .post ⟨true, 5⟩ 5 6 true 13 255),
    ([0x0018A766, 0x00000008, 0xFFFFFFF0], .cset .none 7 5 6 8 0xFFFFFFF0), ([0x0080BE66, 0x0000D000, 0x00000020], .cread ⟨true, 5⟩ 30 5 32),
    ([0x001CC56A, 0, 0x0000003F], .cpy .none 63 5 6 7 none), ([0x001CC56A, 0x0000D408, 0x00000001], .cpy ⟨true, 5⟩ 1 5 6 7 (some 8)),
    ([0x009CC56A, 0x00090000, 0x00000002], .cpyxG .none 2 9 5 6 7 none),
    ([0x011CC56A, 0xFFFF0408, 0x00000003], .cpyxP .none 3 0xFFFF 5 6 7 (some 8)), ([0x0180006A, 0x0000D000, 0x00000002], .publ ⟨true, 5⟩ 2)] : List (List IWord × Instr)).all (fun x => (readWords x.1).toOption == some x.2) = true := by decide +kernel
theorem decode_system : ([
    ([0x00000074], .done), ([0x00000076, 0x0000D000, 0], .doneXForm ⟨true, 5⟩), ([0x00812074], .yield 9),
    ([0x00812076, 0x0000D000, 0], .yieldXForm ⟨true, 5⟩ 9), ([0x01000074], .halt), ([0x01800074], .brk),
    ([0x01800076, 0xBEEFD000, 0], .brkXForm ⟨true, 5⟩ 0xBEEF), ([0x02106076, 0x001C0000, 0], .trap .none 3 4 0x1C), ([0x02808374], .redpin 3 4),
    ([0x03008374], .perf 3 4), ([0x03D68576, 0x0003D000, 0x000003FF], .scall ⟨true, 5⟩ 5 20 21 3 0x3FF)] : List (List IWord × Instr)).all (fun x => (readWords x.1).toOption == some x.2) = true := by decide +kernel
theorem decode_vector_integer : ([
    ([0x003C4180], .vadd none 1 2 (.v 15)), ([0x00BC4180], .vsub none 1 2 (.v 15)), ([0x013C4180], .vadds none 1 2 (.v 15)),
    ([0x01BC4180], .vsubs none 1 2 (.v 15)), ([0x023C4180], .vmul none 1 2 (.v 15)), ([0x02BC4180], .vmulh none 1 2 (.v 15)),
    ([0x033C4180], .vmin none 1 2 (.v 15)), ([0x03BC4180], .vmax none 1 2 (.v 15)), ([0x043C4180], .vand none 1 2 (.v 15)),
    ([0x04BC4180], .vor none 1 2 (.v 15)), ([0x053C4180], .vxor none 1 2 (.v 15)), ([0x05BC4180], .vsll none 1 2 (.v 15)),
    ([0x063C4180], .vsrl none 1 2 (.v 15)), ([0x06BC4180], .vsra none 1 2 (.v 15)), ([0x07004180], .vabs none 1 2),
    ([0x083C4380], .vcmpEq none 3 2 (.v 15)), ([0x08BC4380], .vcmpNe none 3 2 (.v 15)), ([0x093C4380], .vcmpLt none 3 2 (.v 15)),
    ([0x09BC4380], .vcmpLe none 3 2 (.v 15)),
    ([0x017C4182, 0x0010D440, 0x00000108], .vadds (some ⟨⟨true, 5⟩, true, none, 2, 0, some .uint8⟩) 1 2 (.g 31)),
    ([0x09904382, 0x00000020, 0], .vcmpLe (some ⟨.none, false, none, 1, 0, none⟩) 3 2 (.v 4))] : List (List IWord × Instr)).all (fun x => (readWords x.1).toOption == some x.2) = true := by decide +kernel
theorem decode_vector_floating_point : ([
    ([0x003C4184], .vfadd none 1 2 (.v 15)), ([0x00BC4184], .vfsub none 1 2 (.v 15)), ([0x013C4184], .vfmul none 1 2 (.v 15)),
    ([0x01BC4184], .vfdiv none 1 2 (.v 15)), ([0x02BC4184], .vfmin none 1 2 (.v 15)), ([0x033C4184], .vfmax none 1 2 (.v 15)),
    ([0x02004184], .vfsqrt none 1 2), ([0x03804184], .vfneg none 1 2), ([0x04004184], .vfabs none 1 2), ([0x083C4384], .vfcmpEq none 3 2 (.v 15)),
    ([0x08BC4384], .vfcmpLt none 3 2 (.v 15)), ([0x093C4384], .vfcmpLe none 3 2 (.v 15)), ([0x09BC4384], .vfcmpUnord none 3 2 (.v 15)),
    ([0x00082488], .vfma none 4 1 (.v 2)), ([0x00882488], .vfms none 4 1 (.v 2)), ([0x01082488], .vfnma none 4 1 (.v 2)),
    ([0x0088248A, 0x001C0469, 0x00000101], .vfms (some ⟨.none, true, some .rna, 3, 9, some .fp32⟩) 4 1 (.g 2)),
    ([0x01882486, 0x000D0040, 0], .vfdiv (some ⟨.none, false, some .rsr, 2, 0, none⟩) 4 1 (.v 2))] : List (List IWord × Instr)).all (fun x => (readWords x.1).toOption == some x.2) = true := by decide +kernel
theorem decode_vector_conversions_and_permutes : ([
    ([0x0000888E, 0x000BD000, 0x00000304], .vcvt ⟨true, 5⟩ (some .rdn) 8 4 3 .e4m3), ([0x0080888E, 0, 0x00000806], .vqnt .none none 8 4 true .e2m1),
    ([0x0100888E, 0, 0x00000002], .vdqnt .none none 8 4 .bf16), ([0x00004190], .vrsum none 1 2), ([0x00804190], .vrmax none 1 2),
    ([0x01004190], .vrmin none 1 2), ([0x040C4190], .vperm none 1 2 3), ([0x04FC4190], .vslup none 1 2 31), ([0x057C4190], .vsldn none 1 2 31),
    ([0x05804190], .vrev none 1 2), ([0x00004192, 0x000A0020, 0x00000101], .vrsum (some ⟨.none, false, some .rup, 1, 0, some .fp32⟩) 1 2)] : List (List IWord × Instr)).all (fun x => (readWords x.1).toOption == some x.2) = true := by decide +kernel
theorem decode_vector_memory_random_and_moments : ([
    ([0x000C4194], .vld none 1 2 3), ([0x008C4194], .vst none 1 2 3),
    ([0x000C4196, 0x0010D449, 0xFFFFFFC0], .vld (some ⟨⟨true, 5⟩, true, 2, 0xFFFFFFC0, some 9⟩) 1 2 3),
    ([0x008C4196, 0x00000020, 0x00000040], .vst (some ⟨.none, false, 1, 64, none⟩) 1 2 3),
    ([0x000C419A, 0x0000D004, 0], .vrng ⟨true, 5⟩ 1 2 3 (.reg 4)),
    ([0x008C419B, 0x002000A0, 0x00000105, 0x0000004D, 0], .vsrnd .none 1 5 2 3 (.lit 77) 32 1 .e5m2),
    ([0x010C419A, 0x000D00A4, 0x3F000000], .vdrop .none (some .rsr) 1 5 2 3 (.reg 4) 0x3F000000), ([0x0001209C], .vopt none 9),
    ([0x0001209E, 0x0009D000, 0], .vopt (some (⟨true, 5⟩, some .rtz)) 9)] : List (List IWord × Instr)).all (fun x => (readWords x.1).toOption == some x.2) = true := by decide +kernel
theorem decode_vector_moves_and_masks : ([
    ([0x000C55A0], .vext none 21 2 (.reg 3)), ([0x008EA2A0], .vins none 2 21 (.reg 3)),
    ([0x000055A2, 0x00000400, 0x0000007F], .vext (some .none) 21 2 (.imm 127)),
    ([0x0082A2A2, 0x0000D400, 0x00000005], .vins (some ⟨true, 5⟩) 2 21 (.imm 5)), ([0x0102A2A2, 0, 0x00000102], .vbcast .none 2 21 .bf16),
    ([0x018055A0], .vtag none 21 2), ([0x0202A2A0], .vsett none 2 21), ([0x0281E2A0], .vmov none 2 15), ([0x040C41A0], .mand none 1 2 3),
    ([0x048C41A0], .mor none 1 2 3), ([0x050C41A0], .mxor none 1 2 3), ([0x058C41A0], .mandn none 1 2 3), ([0x060041A0], .mnot none 1 2),
    ([0x068055A0], .mpop none 21 2), ([0x0702A2A0], .mset none 2 21), ([0x078055A0], .mget none 21 2),
    ([0x078055A2, 0x0000D000, 0], .mget (some ⟨true, 5⟩) 21 2)] : List (List IWord × Instr)).all (fun x => (readWords x.1).toOption == some x.2) = true := by decide +kernel
theorem decode_matrix : ([
    ([0x000120C2, 0x0000D000, 0x64360000], .mldb ⟨true, 5⟩ 9 100 27), ([0x008120C2, 0x00000008, 0x01040000], .mldbS .none 9 8 1 2),
    ([0x010120C2, 0x003F0000, 0x01040000], .mstb .none 63 9 1 2), ([0x018120C2, 0, 0x00000019], .mprog .none 9 1 6),
    ([0x0000A0C6, 0x03FFD000, 0x81050BE0], .mmac ⟨⟨true, 5⟩, 5, 1023, 33, 31⟩ true 1 2),
    ([0x0080A0C6, 0x00010000, 0x01041880], .mmact ⟨.none, 5, 1, 3, 4⟩ false 1 2),
    ([0x0100A0C6, 0x04010000, 0x01001880], .mrec ⟨.none, 5, 1, 3, 4⟩ true 1), ([0x000000CE, 0, 0xF0300002], .acz .none 60 3 2),
    ([0x008120CE, 0x00050000, 0x04200000], .acld .none 5 9 1 2),
    ([0x010120CE, 0x8105D000, 0x04301604], .acst ⟨true, 5⟩ 5 9 1 3 0x81 false (some .rdn) .e4m3),
    ([0x018000CE, 0x00050000, 0x042F0000], .acmv .none 5 1 60 2), ([0x0018A0D2, 0x04070008, 0x81041800], .mgang .none true true 7 5 6 8 1 2 3)] : List (List IWord × Instr)).all (fun x => (readWords x.1).toOption == some x.2) = true := by decide +kernel
theorem decode_spline : ([
    ([0x000120CA, 0, 0xF0000000], .mknot .none 9 15 0), ([0x008120CA, 0x00020000, 0x00001880], .mspl ⟨.none, 9, 2, 3, 4⟩),
    ([0x010120CA, 0x0002D008, 0x00001880], .mspld ⟨⟨true, 5⟩, 9, 2, 3, 4⟩ 8),
    ([0x019D20CA, 0x04020008, 0x007E0080], .msgrad ⟨.none, 9, 2, 0, 4⟩ true 63 7 8), ([0x020000CA, 0, 0x35000000], .mrefine .none 3 5)] : List (List IWord × Instr)).all (fun x => (readWords x.1).toOption == some x.2) = true := by decide +kernel
theorem decode_trees : ([
    ([0x001CC5D4], .tsel 5 6 7), ([0x001CC5D6, 0x0000D000, 0], .tselXForm ⟨true, 5⟩ 5 6 7), ([0x009CC5D6, 0x00020008, 0], .tnew .none .c256 5 6 7 8),
    ([0x011CC0D6, 0x00000008, 0], .tnewLink .none 6 7 8), ([0x019CC0D6, 0x00030128, 0], .texp .none true true 6 7 8 9),
    ([0x021CC0D6, 0x00020008, 0], .tback .none true 6 7 8), ([0x029CC0D4], .tabort 6 7),
    ([0x029CC0D6, 0x0001D000, 0], .tabortXForm ⟨true, 5⟩ true 6 7), ([0x031CC0D4], .troot 6 7),
    ([0x031CC0D6, 0x0000D000, 0], .trootXForm ⟨true, 5⟩ 6 7), ([0x0380C0D6, 0, 0], .tfree .none 6),
    ([0x0380C0D6, 0x0000D400, 0], .tfreeKeep ⟨true, 5⟩ 6), ([0x0380C0D6, 0x00010800, 0], .tfreeInit .none .c128 6),
    ([0x041CC5D6, 0x00030000, 0], .tstat .none 3 5 6 7), ([0x049CC5D6, 0x0000D128, 0], .tleaf ⟨true, 5⟩ 5 6 7 8 9)] : List (List IWord × Instr)).all (fun x => (readWords x.1).toOption == some x.2) = true := by decide +kernel

/-! ### Witnesses: scalar instructions -/

theorem witness_DivisionTrapsOnZeroElseTruncates :
    let s := regs [(5, 0x8000000000000000), (6, 0xFFFFFFFFFFFFFFFF)]
    guardHolds .none s.th = true ∧ s.gr 7 = 0 ∧ s.gr 6 ≠ 0 := by decide +kernel

theorem witness_ImmediatesAndLongForms :
    guardHolds .none (regs []).th = true ∧
    (Instr.integerAluXForm .add .none 1 2 (.imm 3)).wf = true ∧ AluOp.add.isCmp = false ∧ aluDivides .add = false ∧
    (Instr.integerAluXForm .cmpLt .none 1 2 (.imm 3)).wf = true ∧ AluOp.cmpLt.isCmp = true ∧
    (Instr.integerAluXForm .rem .none 1 2 (.reg 0)).wf = true ∧ aluDivides .rem = true ∧ (regs []).gr 0 = 0 := by decide +kernel

theorem witness_FailedGuardOnlyAdvances :
    (Instr.brkXForm ⟨true, 0⟩ 5).wf = true ∧ (Instr.brkXForm ⟨true, 0⟩ 5).guarding = some ⟨true, 0⟩ ∧
    guardHolds ⟨true, 0⟩ (regs []).th = false := by decide +kernel

/-- 1.0 / 3.0 in binary32 is inexact: with NX enabled it traps, else it does not. -/
theorem witness_FpArithmeticRoundsOnceOrTraps :
    let flags (s : State) : Flags :=
      let v := fpDivV (fpDecode (fpCodeFmt 1) s.th.tcm (s.gr 5).toNat) (fpDecode (fpCodeFmt 1) s.th.tcm (s.gr 6).toNat)
      v.2 ||| (fpRound (fpCodeFmt 1) s.th.tcm (scalarRnd s none) v.1).2
    let s := regs [(5, 0x3F800000), (6, 0x40400000)]
    let e := s.mapTh fun h => { h with fflags := 0x3F00 }
    flagTraps s.th.fflags (flags s) = false ∧ flagTraps e.th.fflags (flags e) = true ∧ guardHolds .none s.th = true := by decide +kernel

theorem witness_ConversionsRoundAndSaturate :
    guardHolds .none (regs []).th = true ∧ codeFmt .f64 = some .fp64 ∧ codeFmt .i32 = none := by decide +kernel

/-- The greatest binary32 number and the smallest subnormal. -/
theorem witness_RoundingKeepsRepresentableNumbers :
    (0x7F7FFFFF < 2 ^ fpWidthOf .fp32 ∧ (fpDecode .fp32 false 0x7F7FFFFF).isNaN = false) ∧
    1 < 2 ^ fpWidthOf .fp64 ∧ (fpDecode .fp64 false 1).isNaN = false := by decide +kernel

/-- Targets at word 4095 and beyond it, from word 4095 and word 0. -/
theorem witness_BranchesAndJumpsTransferOrTrap :
    let s := regs [(5, 4095), (6, 4096)]
    let e := th fun h => { h with pc := 4095, loop := ⟨true, 4095, 4090, 3⟩ }
    (s.pr 0 ≠ false ∧ s.pr 1 = false) ∧ (s.gr 5).toNat ≤ 4095 ∧ 4095 < (s.gr 6).toNat ∧
    (e.th.pc.toNat : Int) + (-4095 : BitVec 19).toInt = 0 ∧ 4095 < (e.th.pc.toNat : Int) + (1 : BitVec 24).toInt ∧
    (s.th.pc.toNat : Int) + (-1 : BitVec 24).toInt < 0 ∧ e.th.loop.active = true ∧ s.th.rstore.length < 8 := by decide +kernel

/-- A full return store with room for one spill, and with none; an empty one with a spilled address, and at RSBASE. -/
theorem witness_CallsAndReturnsUseTheReturnStore :
    let full := th fun h => { h with rstore := List.replicate 8 5, rsp := 0x108, rslim := 0x100, rsbase := 0x200 }
    let none_ := th fun h => { h with rstore := List.replicate 8 5, rsp := 0x100, rslim := 0x100, rsbase := 0x200 }
    let empty := th fun h => { h with rsp := 0x1F8, rsbase := 0x200 }
    (full.th.rstore.length ≥ 8 ∧ full.th.rslim.toNat ≤ full.th.rsp.toNat - 8 ∧ Memory.wf full.mem = true) ∧
    full.writable 0x100 8 ∧ (none_.th.rsp.toNat : Int) - 8 < none_.th.rslim.toNat ∧
    (th fun h => { h with rstore := [1, 2] }).th.rstore = [1] ++ [2] ∧
    ((regs []).th.rstore = [] ∧ (regs []).th.rsbase.toNat ≤ (regs []).th.rsp.toNat) ∧
    (empty.th.rstore = [] ∧ empty.th.rsp.toNat < empty.th.rsbase.toNat) ∧ empty.readable 0x1F8 8 0x1F8 := by
  unfold State.readable State.writable; decide +kernel

/-- A loop whose last word is 4095, one beyond it, a count of 0, a nested LOOP; the end of a body with and without counts left; g31 at
SLIM, below it, at 0x10000, above it, and misaligned. -/
theorem witness_LoopsRepeatAndTheStackMoves :
    let s := th fun h => ({ h with pc := 4092 } : Thread).setG 5 1
    let e := th fun h => { h with pc := 10, loop := ⟨true, 10, 8, 2⟩ }
    let l := th fun h => { h with pc := 10, loop := ⟨true, 10, 8, 1⟩ }
    let g (v : Word) : State := th fun h => ({ h with slim := 0x100 } : Thread).setG 31 v
    (s.th.loop.active = false ∧ s.th.pc.toNat + (3 : BitVec 10).toNat ≤ 4095 ∧ 4095 < s.th.pc.toNat + (4 : BitVec 10).toNat ∧
      (s.gr 5).toNat % 2 ^ 32 ≠ 0 ∧ (s.gr 6).toNat % 2 ^ 32 = 0) ∧ e.th.loop.active = true ∧
    (e.th.pc.toNat ≤ e.th.loop.last.toNat ∧ e.th.loop.last.toNat < e.th.pc.toNat + 1 ∧ 1 < e.th.loop.count.toNat) ∧
    l.th.loop.count.toNat ≤ 1 ∧ ((g 0x110).gr 31).toNat % 16 = 0 ∧ ¬ ((g 0x110).gr 31).toNat - 16 < (g 0x110).th.slim.toNat ∧
    ((g 0x100).gr 31).toNat - 16 < (g 0x100).th.slim.toNat ∧ ¬ 0x10000 < ((g 0xFFF0).gr 31).toNat + 16 ∧
    0x10000 < ((g 0x10000).gr 31).toNat + 16 ∧ ((g 0x101).gr 31).toNat % 16 ≠ 0 := by decide +kernel

/-- The last doubleword of data SRAM, by every addressing mode. -/
theorem witness_LocalLoadsDeliverTheirBytes :
    let s := regs [(5, 0xFFF0), (6, 1), (7, 0xFFF8)]
    guardHolds .none s.th = true ∧ s.readable ((s.gr 5).toNat + (1 : BitVec 11).toInt * 8) 8 0xFFF8 ∧
    s.readable ((s.gr 5).toNat + (8 : BitVec 32).toInt) 8 0xFFF8 ∧ s.readable ((s.gr 5).toNat + (s.gr 6).toNat * 8) 8 0xFFF8 ∧
    s.readable (s.gr 7).toNat 8 0xFFF8 := by unfold State.readable; decide +kernel

theorem witness_LocalStoresWriteExactlyTheirBytes :
    let s := regs [(5, 0xFFF0), (6, 1), (7, 0xFFF8)]
    (guardHolds .none s.th = true ∧ (3 : BitVec 3).toNat < 4 ∧ Memory.wf s.mem = true) ∧
    s.writable ((s.gr 5).toNat + (1 : BitVec 11).toInt * 8) 8 ∧ s.writable ((s.gr 5).toNat + (8 : BitVec 32).toInt) 8 ∧
    s.writable ((s.gr 5).toNat + (s.gr 6).toNat * 8) 8 ∧ s.writable (s.gr 7).toNat 8 := by unfold State.writable; decide +kernel

/-- Below 0, above 0xFFFFF, misaligned, in the hole at 0x14000, in instruction SRAM for a store, watched, and damaged. -/
theorem witness_LocalAccessChecksTrapInOrder :
    let s := (regs [(5, 4), (6, 0x100000), (7, 0x14000), (8, 0x13FF8), (9, 0xFFF8)]).mapTile fun t =>
      { t with pr := { t.pr with watch := t.pr.watch.set 0 0xE10000000C00FFF8 } }
    let d : State := { regs [] with bad := [(tileBase ⟨0, 0⟩) / 8] }
    (s.gr 5).toNat + (-1 : BitVec 11).toInt * 8 < 0 ∧ 0xFFFFF < (s.gr 6).toNat ∧ (s.gr 5).toNat % 8 ≠ 0 ∧
    s.loadAddr 0x14000 8 = none ∧ s.storeOk 0x13FF8 8 = false ∧ (s.loadAddr 0x13FF8 8).isSome = true ∧
    ((s.loadAddr 0xFFF8 8).isSome = true ∧ s.watched 0xFFF8 8 true = true) ∧
    (s.storeOk 0xFFF8 8 = true ∧ s.watched 0xFFF8 8 false = true) ∧
    d.loadAddr 0 8 = some 0 ∧ d.watched 0 8 true = false ∧ d.tile.wqHolds 0 = false ∧ d.damaged (d.pa 0) 8 = true := by decide +kernel

/-- A register that does not exist, a privileged and a read-only one, reserved bits, forbidden modes, and RMODE, TIMER and a window with
values that they accept; a line without and with errors, at the last line of data and of instruction SRAM. -/
theorem witness_ControlRegisterAndTileWrites :
    let s := regs [(5, 0x1F05), (6, 0x1F06), (7, 0x10000), (8, 0x8000000000101000)]
    let bad : State := { s with bad := [s.pa (scrubAddr 1023) / 8], soft := [s.pa (scrubAddr 1279) / 8] }
    let reads (k : Nat) : Option Word := readCsr s.wtime s.tile s.foc s.tid k
    reads 0x3FF = none ∧ (reads 0x201).isSome = true ∧ reads 0x000 = some 0x1F00 ∧ (reads 0x00B).isSome = true ∧
    (csrInfo 0x00B).map (fun f => f.rw ||| f.w1c) = some 0 ∧
    (csrInfo 0x000).map (fun f => s.gr 7 &&& ~~~(f.rw ||| f.w1c ||| f.ro)) ≠ some 0 ∧
    (csrInfo 0x000).map (fun f => s.gr 5 &&& ~~~(f.rw ||| f.w1c ||| f.ro)) = some 0 ∧
    csrValueOk 0x000 (s.gr 5) = true ∧ csrValueOk 0x000 (s.gr 6) = false ∧
    (pwinOk s.tile 0 (s.gr 8) = true ∧ s.tile.ops = [] ∧ s.tile.copies = []) ∧
    (s.isBad (s.pa (scrubAddr 0)) 64 = false ∧ bad.isBad (bad.pa (scrubAddr 1023)) 64 = true ∧ Tab.wf descBlank bad.desc = true) := by
  decide +kernel

/-! ### Witnesses: requests, messages, records, copies, system instructions -/

/-- An X form without a guard at offset 0 from g5, for the device and atomic instructions. -/
def dev (sz : BitVec 3) (off : Word) : DevArgs := ⟨.none, sz, 4, 5, .lit off⟩
/-- A state whose thread 0 has a message that has not left yet. -/
def sent (s : State) : State := s.push s.foc ⟨some s.tid, 8, .name 5, .decr 0 1, .no⟩
def amo (w : Bool) (tgt : Target) (off : Word) : AmoArgs := ⟨.none, w, tgt, .lit off, 4, 5, 6⟩

/-- Spaces 0, 1 and 0x8000; offsets -1, 2^64 - 7, 2^42 and 2^42 - 8, a misaligned one and one in the hole at 0x14000. -/
theorem witness_DeviceRequestsAreCheckedAndLeave :
    let s := (regs [(5, 8)]).mapTile fun t => { t with pr := { t.pr with spaces := 0x10001 } }
    let off (v : Word) : Int := (s.gr 5).toNat + v.toInt
    let full := s.mapTh fun h => { h with outc := ⟨16, 16, 0, 0⟩ }
    guardHolds .none s.th = true ∧ s.tile.pr.spaces.getLsbD 16 = true ∧ s.tile.pr.spaces.toNat % 2 ^ 15 = 1 ∧
    (off (-9) < 0 ∧ (2 : Int) ^ 64 < ((regs [(5, 0xFFFFFFFFFFFFFFF9)]).gr 5).toNat + 8) ∧
    (2 ^ 42 ≤ off 0x3FFFFFFFFF8 ∧ off 0x3FFFFFFFFF8 + 8 ≤ 2 ^ 64 ∧ off 0x3FFFFFFFFF0 < 2 ^ 42 ∧ (off (-7)).toNat % 8 ≠ 0) ∧
    ((off 0x13FF8).toNat % 8 = 0 ∧ (off 0x13FF8).toNat % 2 ^ 20 = 0x14000) ∧
    deviceFault s.tile false 0 (off 0xFFF0) 8 8 = none ∧ deviceFault s.tile true 1 (off 0xFFFFFFFF) 8 8 = none ∧
    16 ≤ full.th.outc.loads ∧ 16 ≤ full.th.outc.stores ∧ s.th.outc.loads < 16 ∧ s.th.outc.stores < 16 ∧
    s.portFree = true ∧ (sent s).portFree = false := by decide +kernel

theorem witness_AtomicsIssueAndCompute :
    let s := (regs [(5, 8)]).mapTile fun t => { t with pr := { t.pr with spaces := 0x10001 } }
    let full := s.mapTh fun h => { h with outc := ⟨16, 16, 0, 0⟩ }
    guardHolds .none s.th = true ∧ deviceFault s.tile false 0 8 8 8 = none ∧ deviceFault s.tile true 1 9 8 8 = none ∧
    (0 ≤ (8 : Int) ∧ s.storeOk 8 8 = true ∧ s.watched 8 8 false = false ∧ s.queueTurn 8 = true) ∧
    (tl [] fun t => { t with wq := List.replicate 16 ⟨3, [], false⟩ }).queueTurn 8 = false ∧
    s.portFree = true ∧ (sent s).portFree = false ∧
    16 ≤ full.th.outc.loads ∧ s.th.outc.loads < 16 ∧ (0xFFFFFFFF : Word).toNat < 2 ^ (8 * 4) := by decide +kernel

/-- The word at 8 of the tile's own SRAM; a scope with nothing outstanding, with a store to this tile outstanding, with a store in a side
log, with a copy to another tile and with one still in the queue. -/
theorem witness_WaitsHoldTheThread :
    let s := (regs [(5, 8)]).mapTile fun t => { t with pr := { t.pr with spaces := 0x10001 } }
    let here (p : Pend) : Bool := !p.loc && p.space == 0 && offCoord p.off == (⟨0, 0⟩ : Coord)
    let p : Pend := ⟨0, .load 4 3, 0, 8, 0, false, false, false⟩
    let w := th fun h => { h with outc := ⟨1, 0, 0, 0⟩, pends := [p] }
    let lg := th fun h => { h with pends := [{ p with kind := .store, space := 1, logged := true }] }
    let c := tl [] fun t => { t with copies := [⟨7, 0, 2, .put 0x100 0 0x80000000, 1, none, 0, 1, 0, false, none, none⟩] }
    guardHolds .none s.th = true ∧ deviceFault s.tile false 0 8 8 8 = none ∧ deviceFault s.tile true 1 8 8 8 = none ∧
    deviceFault s.tile true 2 8 8 8 = some 0x08 ∧ s.portFree = true ∧ (sent s).portFree = false ∧
    s.loadAddr 8 8 = some 8 ∧ s.th.pends = [] ∧ s.tile.copies = [] ∧ s.tile.ops = [] ∧ s.ports = [] ∧
    (List.finRange 4).all (fun i => ((s.tile.th i).pends.all fun p => !p.logged)) = true ∧
    (here p = true ∧ p.logged = false ∧ w.th.pends = [p]) ∧ (lg.th.pends.any (·.logged)) = true ∧
    (c.inScope 0 ⟨1, 0⟩ = false ∧ c.inScope 5 ⟨1, 0⟩ = true ∧ c.tile.copies.any (·.tid == c.tid) = true) ∧
    ¬ w.th.outc.loads ≤ (0 : BitVec 4).toNat ∧ w.th.outc.loads ≤ (1 : BitVec 4).toNat ∧ (5 : BitVec 3).toNat ≤ 5 := by decide +kernel

/-- A SEND of two words ending at 0x10000 and one beyond it, VC12 with and without a pin, a handler with and without its packet. -/
theorem witness_PacketsAndDecrementsLeave :
    let s := regs [(5, 0x200400), (6, 0xFFF0), (7, 0x10000), (8, 0x201)]
    let c (vc : BitVec 4) : Ctl := ⟨false, false, 0, 1, vc, 3⟩
    let p := th fun h => { h with work := .packet 3 2 }
    guardHolds .none s.th = true ∧ s.vc12Ok (c 12) 0x200400 = false ∧ s.vc12Ok (c 3) 0x200400 = true ∧
    ((0x201 : BitVec 32).toNat % 1024 ≠ 0 ∧ (0x200400 : BitVec 32).toNat % 1024 = 0) ∧ (s.gr 8).toNat % 16 ≠ 0 ∧
    s.payloadAddrs 0xFFF0 2 = some [0xFFF0, 0xFFF8] ∧ s.payloadAddrs 0x10000 2 = none ∧
    (∀ x ∈ [0xFFF0, 0xFFF8], s.tile.wqHolds x = false ∧ s.damaged (s.pa x) 8 = false) ∧
    p.th.work = .packet 3 2 ∧ p.th.fwdUsed = false ∧ s.th.work = .none ∧
    (s.gr 6).toNat ≤ 0xFFFF ∧ 0xFFFF < (s.gr 7).toNat ∧ s.released = true ∧
    (th fun h => { h with outc := ⟨0, 1, 0, 0⟩ }).released = false ∧ s.sendFree = true ∧ (sent s).sendFree = false := by decide +kernel

/-- Records at 0xFFF0: free, queued, with a count to write and without one; a decrement below, at and above the count. -/
theorem witness_RecordsAreSetCountedAndQueued :
    let s := regs [(5, 0xFFF0), (6, 0x10000), (7, 2), (8, 8)]
    let q := put s 0xFFF0 8 0x4000000
    let d := put s 0xFFF0 8 2
    let e := tl [] fun t => { t with pr := { t.pr with entrybase := 0x10000 } }
    let x : State := { s with bad := [(s.pa 0xFFF0) / 8] }
    (x.damaged (x.pa 0xFFF0) 8 = true ∧ x.tile.wqHolds 0xFFF0 = false) ∧
    guardHolds .none s.th = true ∧ (s.gr 8).toNat % 16 ≠ 0 ∧ 0x10000 ≤ (s.gr 6).toNat ∧
    (s.gr 5).toNat % 16 = 0 ∧ (s.gr 5).toNat < 0x10000 ∧ s.tile.inEntries 0xFFF0 16 = false ∧ s.tile.window_ (0xFFF0 / 64) = .out ∧
    s.tile.wqHolds 0xFFF0 = false ∧ s.damaged (s.pa 0xFFF0) 8 = false ∧ Memory.wf s.mem = true ∧ e.tile.inEntries 0 16 = true ∧
    (BitVec.ofNat 64 (Memory.readN q.mem (q.pa 0xFFF0) 8)).getLsbD 26 = true ∧ Memory.readN s.mem (s.pa 0xFFF0) 8 = 0 ∧
    ((s.gr 7).toNat % 65536 ≠ 0 ∧ (s.gr 0).toNat % 65536 = 0 ∧ s.tile.ring.length < 64 ∧ s.tile.chain = []) ∧
    (s.queueTurn 0xFFF0 = true ∧ (tl [] fun t => { t with wq := List.replicate 16 ⟨3, [], false⟩ }).queueTurn 0xFFF0 = false) ∧
    (Memory.readN d.mem (d.pa 0xFFF0) 8 = 2 ∧ Memory.wf d.mem = true ∧ d.damaged (d.pa 0xFFF0) 8 = false) := by decide +kernel

theorem witness_CopiesIssueOnTheirTags :
    let s := regs [(5, 0xFFC0), (6, 1), (7, 0x10000), (8, 2), (9, 0x0B)]
    let b := tl [] fun t => { t with busy := 4 }
    let full := th fun h => { h with outc := ⟨0, 0, 16, 0⟩ }
    guardHolds .none s.th = true ∧ b.tile.tagBusy 2 = true ∧ s.tile.tagBusy 2 = false ∧
    dLegal ((s.gr 0).setWidth 32) = true ∧ dLegal ((s.gr 7).setWidth 32) = true ∧ dLegal 0x08000000 = false ∧
    srcAligned (s.gr 9).toNat = false ∧ srcAligned (s.gr 5).toNat = true ∧ (s.gr 9).toNat % 64 ≠ 0 ∧
    s.copySrcOk 0xFFC0 1 = true ∧ s.copySrcOk 0xFFC0 2 = false ∧ s.copyDstOk 0xFFC0 1 = true ∧ s.copyDstOk 0xFFC0 2 = false ∧
    deviceFault s.tile false 0 0xFFC0 64 64 = none ∧ deviceFault s.tile false 0 0xFFC0 128 64 = some 0x04 ∧
    16 ≤ full.th.outc.copies ∧ s.th.outc.copies < 16 ∧ (s.gr 0).toNat = 0 ∧ (s.gr 6).toNat ≠ 0 ∧
    s.tile.queued s.tid .copy < 2 ∧ s.tile.unconfirmed s.tid = 0 ∧ (∀ i, (s.tile.th i).state ≠ .wtag) := by decide +kernel

/-- A local copy of one line that is done. -/
def doneCopy : CopyRec := ⟨7, 0, 2, .loc 0x100 0x200, 1, none, 0, 1, 1, false, some (Vector.replicate 4 0), none⟩

theorem witness_PublishesFlipAndCopiesComplete :
    let s := tl [] fun t => { t with r := { t.r with pwin := t.r.pwin.set 0 0x8000000000101000 } }
    let c := tl [] fun t => { t with copies := [doneCopy], r := { t.r with pwin := t.r.pwin.set 0 0x8000000000101000 } }
    let w (all : Bool) : Thread := { c.th with state := .wtag, wait := .wtag all 6 3 }
    let wt : State := c.mapTile fun t => (t.setTh 1 (w false)).setTh 2 (w true)
    guardHolds .none s.th = true ∧ (s.tile.r.pwin[0]).getLsbD 63 = true ∧ (s.tile.r.pwin[1]).getLsbD 63 = false ∧
    (s.tile.ops = [] ∧ s.tile.copies = []) ∧ (doneCopy.tid = c.tid ∧ doneCopy.kind.intoSram = true) ∧
    c.tile.copies.find? (fun k => k.tag == 2 && (k.complete == k.n || k.failed)) = some doneCopy ∧
    s.tile.copies.find? (fun k => k.tag == 2 && (k.complete == k.n || k.failed)) = none ∧
    ((wt.tile.th 1).state = .wtag ∧ (wt.tile.th 1).wait = .wtag false 6 3 ∧ (wt.tile.th 1).stepping = false ∧
      (wt.tile.th 2).wait = .wtag true 6 3) := by decide +kernel

/-- With tag 0 done, tag 1 busy and tag 2 idle: masks that hold, wait, and can never complete. -/
theorem witness_TagOperations :
    let s := tl [(5, 1), (6, 2), (7, 4)] fun t => { t with busy := 2, r := { t.r with tags := 1 } }
    let dn := s.tile.r.tags
    let live := s.tile.busy ||| dn
    let w := s.mapTh fun h => { h with state := .wtag, wait := .wtag true 1 3 }
    s.gr 7 &&& ~~~live ≠ 0 ∧ (s.gr 7 ≠ 0 ∧ s.gr 7 &&& live = 0) ∧ s.gr 5 &&& ~~~dn = 0 ∧ s.gr 5 &&& dn ≠ 0 ∧
    (s.gr 6 &&& ~~~live = 0 ∧ s.gr 6 &&& ~~~dn ≠ 0) ∧ (s.gr 6 &&& live ≠ 0 ∧ s.gr 6 &&& dn = 0) ∧
    w.th.state = .wtag ∧ w.th.wait = .wtag true 1 3 ∧ (1 : Word) &&& ~~~w.tile.r.tags = 0 ∧ w.th.stepping = false := by decide +kernel

/-- A packet handler without and with one successor, and a record at 0xFFF0. -/
theorem witness_HandlersEndOrYield :
    let s := put (regs [(5, 0xFFF0), (6, 0x10000), (7, 8)]) 0xFFF0 8 2
    let p := put (th fun h => { h with work := .packet 3 2 }) 0x20060 8 0
    let n := put (put (th fun h => { h with work := .packet 3 2 }) 0x20060 8 0x100001) 0x20078 8 0x0101000000000055
    guardHolds .none s.th = true ∧ s.released = true ∧ (th fun h => { h with outc := ⟨0, 1, 0, 0⟩ }).released = false ∧
    (s.queueTurn 0xFFF0 = true ∧ (tl [] fun t => { t with wq := List.replicate 16 ⟨3, [], false⟩ }).queueTurn 0xFFF0 = false) ∧
    s.th.work = .none ∧ p.th.work = .packet 3 2 ∧ hdrNsucc (p.cellWord 3 0) = 0 ∧
    (n.th.work = .packet 3 2 ∧ n.th.fwdUsed = false ∧ hdrNsucc (n.cellWord 3 0) = 1) ∧
    (let w := n.cellWord 3 (2 + 2 * hdrLen (n.cellWord 3 0) - 1)
     w.setWidth 32 ≠ (0 : BitVec 32) ∧ (w.extractLsb' 56 8).toNat ≤ 7 ∧ w.extractLsb' 48 8 ≠ 0) ∧
    ((s.gr 7).toNat % 16 ≠ 0 ∧ (s.gr 6).toNat % 16 = 0 ∧ 0x10000 ≤ (s.gr 6).toNat) ∧
    ((s.gr 5).toNat % 16 = 0 ∧ (s.gr 5).toNat < 0x10000 ∧ s.tile.inEntries 0xFFF0 16 = false ∧ s.tile.wqHolds 0xFFF0 = false) := by
  decide +kernel

theorem witness_TrapsHaltsPinsAndEvents :
    let s := tl [(5, 1)] fun t => { t with r := { t.r with perfsel := 0x0A } }
    let o := s.mapTile fun t => t.mapTh 1 fun h => { h with pinRec := true }
    guardHolds .none s.th = true ∧ (s.gr 0).getLsbD 0 = false ∧ (s.gr 5).getLsbD 0 = true ∧ s.th.pinRec = false ∧
    (∀ i : Tid, i ≠ s.tid → (s.tile.th i).pinRec = false ∧ (s.tile.th i).unpinned = false) ∧ (o.tile.th 1).pinRec = true ∧
    s.tile.r.perfsel.extractLsb' (8 * 0) 8 = 0x0A := by decide +kernel

/-- A call of two words at 0xFFF0 by entry 0, which admits channel 14; a reply that has come, well and failed. -/
theorem witness_ServiceCallsWaitForTheirReply :
    let e := tl [(5, 0xFFF0), (6, 8), (7, 0x10000)] fun t => { t with pr := { t.pr with entrybase := 0x10000, trapdest := 0xFF000100FF000001 } }
    let s := put e 0 8 0xFFFF000100000000
    let q : Flight := ⟨.scallReply 0 5, 14, ⟨0, 0⟩, .tile ⟨0, 0⟩, ⟨0, 0⟩, 0, none, 0, false, 0, [], 0, 0⟩
    let w := th fun h => { h with wait := .scall 4 none }
    guardHolds .none s.th = true ∧ s.th.wait = .none ∧ (s.gr 6).toNat % 16 ≠ 0 ∧ 0x10000 < (s.gr 7).toNat + 16 ∧
    ((s.gr 5).toNat % 16 = 0 ∧ (s.gr 5).toNat + 16 ≤ 0x10000 ∧ s.entryOk s.foc 0 14 = true ∧ (regs []).entryOk ⟨0, 0⟩ 0 14 = false) ∧
    (List.range 2).mapM (fun j => s.tile.readAddr (0xFFF0 + 8 * j)) = some [0xFFF0, 0xFFF8] ∧
    (∀ x ∈ [0xFFF0, 0xFFF8], s.tile.wqHolds x = false ∧ s.damaged (s.pa x) 8 = false) ∧ s.released = true ∧
    (s.portFree = true ∧ (sent s).portFree = false) ∧ (regs []).tile.ringName = 0 ∧ s.tile.ringName ≠ 0 ∧ (th fun h => { h with wait := .scall 4 (some 7) }).th.wait = .scall 4 (some 7) ∧
    (7 : Word).toNat % 256 ≠ 255 ∧ (0x1FF : Word).toNat % 256 = 255 ∧
    (({ w with net := [q] } : State).net.find? (fun f => f.atTile w.foc &&
      (match f.msg with | .scallReply _ _ => true | _ => false)) = some q ∧ w.th.wait = .scall 4 none) := by decide +kernel

/-! ### Witnesses: engines -/

/-- A queued operation of thread 0. -/
def qop (seq : Nat) (e : Engine) (o : EOp) : QOp :=
  let h := (regs []).th
  ⟨seq, 0, e, o, 5, 1, false, 0x1F00, 0, ⟨h.g, h.p, 5, 0, 0, h.loop⟩, false, false, none, false⟩

/-- An empty queue and a full one, a rounding mode that advances SRSEQ, and a thread with a vector operation outstanding. -/
theorem witness_VectorArithmeticEntersItsQueue :
    let s := regs []
    let full := tl [] fun t => { t with ops := (List.range 32).map fun k => qop k .vector (.vec (.mov 1 2)) }
    let sr := th fun h => { h with rmode := 0x1F05 }
    guardHolds .none s.th = true ∧ s.engineRoom .vector = true ∧ full.engineRoom .vector = false ∧ modeOf sr none = .rsr ∧
    sr.vecBusy = false ∧ full.vecBusy = true ∧ (vmodOf s none 1).mode ≠ .rsr := by decide +kernel

theorem witness_VectorMemoryAndMovesEnterTheirQueue :
    let s := regs [(5, 0xFFC0), (6, 4), (7, 0x100000), (8, 0x10000), (9, 0x0D), (10, 0xFFFFFFC0)]
    guardHolds .none s.th = true ∧ s.engineRoom .vector = true ∧ (s.gr 5).toNat % 64 = 0 ∧
    (s.linesReadable 0xFFC0 1 = true ∧ s.linesWritable 0xFFC0 1 = true) ∧ 0xFFFFF < (s.gr 7).toNat ∧ (s.gr 6).toNat % 64 ≠ 0 ∧
    (s.linesReadable 0x14000 1 = false ∧ s.linesWritable 0x10000 1 = false) ∧
    (s.gr 0).toNat + (-64 : BitVec 32).toInt < 0 ∧ dLegal ((s.gr 0).setWidth 32) = true ∧ dLegal 0x08000000 = false ∧
    dLegal ((s.gr 10).setWidth 32) = false := by decide +kernel

theorem witness_VectorValuesReturnToScalarRegisters :
    guardHolds .none (regs []).th = true ∧ (regs []).vecBusy = false ∧
    (tl [] fun t => { t with ops := [qop 0 .vector (.vec (.mov 1 2))] }).vecBusy = true ∧
    (let e := (th fun h => { h with vtag := Vector.replicate 16 (plainTag .e2m1 false) }).th.vt 1
     dValid e = true ∧ dFormat e = .e2m1) ∧ dValid ((regs []).th.vt 1) = false := by decide +kernel

/-- The last lane of INT8 and of INT32. -/
theorem witness_VectorElementsFollowTheirMasks :
    let s := (regs []).mapTh fun h => { h with vtag := Vector.replicate 16 (plainTag .int8 false) }
    (Fmt.int8.isInt = true ∧ 63 < Fmt.int8.count ∧ (s.tile.th 0).vt 1 = plainTag .int8 false) ∧ Fmt.int32.isInt = true ∧
    15 < Fmt.int32.count ∧ (vmodOf s none 1).rfmt = none := by decide +kernel

/-- Ranges that end at the last plane, accumulator row, knot cell and line, and that run one beyond. -/
theorem witness_MatrixOperationsEnterTheirQueues :
    let s := regs [(5, 0xFFC0), (6, 4), (7, 0xC000), (8, 0xFFF0), (9, 0x40)]
    let b := tl [] fun t => { t with busy := 4 }
    guardHolds .none s.th = true ∧ s.engineRoom .matrix = true ∧ s.engineRoom .copy = true ∧ s.th.outc.copies < 16 ∧
    ((s.gr 5).toNat % 64 = 0 ∧ (s.gr 6).toNat % 64 ≠ 0) ∧ (127 : BitVec 7).toNat + 1 ≤ 128 ∧ 128 < (127 : BitVec 7).toNat + 2 ∧
    (s.gr 9).toNat % 32 = 0 ∧ s.tile.tagBusy 2 = false ∧ b.tile.tagBusy 2 = true ∧
    (∀ j, j < 4 → microOk ((s.gr 0).extractLsb' (16 * j) 16) = true) ∧ (63 : BitVec 6).toNat + 1 ≤ 64 ∧ 64 < (63 : BitVec 6).toNat + 2 ∧
    (s.linesReadable 0xFF80 2 = true ∧ 16 * 1 * acstWidth .fp32 % 512 = 0 ∧ s.linesWritable 0xFFC0 (16 * 1 * acstWidth .fp32 / 512) = true) ∧
    (15 : BitVec 4).toNat + 0 + 1 ≤ 16 ∧ ((s.gr 8).toNat % 16 = 0 ∧ (s.gr 8).toNat + 16 * 1 ≤ 0x10000) ∧
    (s.tile.r.pwin.toList.all fun w => !w.getLsbD 63) = true ∧ (s.gr 5).toNat + 64 * 1023 * 0 < 0x10000 ∧
    s.linesWritable 0xC000 256 = true ∧ modeOf (th fun h => { h with rmode := 0x1F05 }) none = .rsr := by decide +kernel

/-- The first and the last granule of a tile's own handles, another tile's, the reserved handles, and an edge reference without an edge. -/
theorem witness_TreeOperationsEnterTheirQueue :
    let s := tl [(5, 1), (6, 0x3FF), (7, 0x400), (8, 0xFFFFFFFFF), (9, 255), (10, 0xFFFFFFFF)] fun t =>
      { t with r := { t.r with hall := 1 } }
    s.ownHandle = some 0 ∧ guardHolds .none s.th = true ∧ s.engineRoom .tree = true ∧ s.released = true ∧
    (th fun h => { h with outc := ⟨1, 0, 0, 0⟩ }).released = false ∧ (∀ q ∈ s.tile.ops, q.tid = s.tid → q.returns = false) ∧
    ownGranule 0 1 = true ∧ ownGranule 0 0x3FF = true ∧ ownGranule 0 0x400 = false ∧ ownGranule 0 0 = false ∧
    ((s.gr 7).toNat % 1024 = 0 ∧ (s.gr 6).toNat % 1024 ≠ 0) ∧
    ((s.gr 5).toNat % 2 ^ 32 ≠ 0 ∧ (s.gr 5).toNat % 2 ^ 32 ≠ pendMark ∧ (s.gr 8).toNat < 2 ^ 36 ∧ (s.gr 9).toNat < 256) ∧
    (s.gr 10).toNat % 2 ^ 32 = pendMark ∧ ((s.gr 7).extractLsb' 8 24 ≠ 0 ∧ (s.gr 9).extractLsb' 8 24 = 0 ∧ (s.gr 0).extractLsb' 0 8 = 0) ∧
    deviceFault s.tile false 0 0 64 64 = none ∧ deviceFault s.tile false 0 1 64 64 = some 0x03 := by decide +kernel

theorem witness_ThreadInstructionsWriteOnlyTheirDestinations :
    (Instr.addi 4 0 5).fetched = true ∧ isNext (exec (.addi 4 0 5) (regs [])) = true ∧ (Instr.addi 4 0 5).writesCsr = false ∧
    (Instr.addi 4 0 5).usesRet = false ∧ (Instr.addi 4 0 5).isFp = false := by decide +kernel

theorem witness_ThreadInstructionsStoreOnlyToTheirDataSram :
    (Instr.st 3 4 5 0).fetched = true ∧ (Instr.st 3 4 5 0).storesHere = true ∧ (Instr.ld 3 4 5 0).storesHere = false ∧
    isNext (exec (.st 3 4 5 0) (regs [(4, 7)])) = true ∧ Memory.wf (regs [(4, 7)]).mem = true ∧
    (∀ b ∈ (regs [(4, 7)]).tile.chain, 0 < b) := by decide +kernel

/-! ### Witnesses: engine events, gangs, the inbound port, answers, records -/

/-- A vector operation that is executing, with what it found. -/
def running (r : Result) : QOp := { qop 3 .vector (.vec (.mov 1 2)) with started := true, result := some r }
def trapped : TrapInfo := ⟨0x0D, 5, 0, 0, 0, 0, 0⟩
/-- A copy of one line from the accumulator line 0x30000 to data SRAM that has not moved yet. -/
def newCopy : CopyRec := { doneCopy with kind := .loc 0x100 0x30000, complete := 0, next := 0, pwin := none }
def engines (l : List QOp) : State := tl [] fun t => { t with ops := l }

theorem witness_EnginesRunTheirOperations :
    let q := qop 3 .vector (.vec (.mov 1 2))
    let bad := qop 3 .matrix (.mat (.ldb 0xFFC0 none 0 2))
    let ok := running (.ok 1 [])
    let e := (engines [ok]).mapTh fun h => { h with fflags := 0x100 }
    let done := engines [{ ok with confirmed := true }]
    let c := tl [] fun t => { t with copies := [newCopy] }
    (engines [q]).tile.pickOp .vector = some q ∧ runOp ((engines [q]).settled (engines [q]).foc) q = some (.ok (0, [.v 1 0 0])) ∧
    (engines [qop 3 .copy (.cop (.copy newCopy))]).tile.pickOp .copy = some (qop 3 .copy (.cop (.copy newCopy))) ∧
    ((engines [bad]).tile.pickOp .matrix = some bad ∧
      runOp ((engines [bad]).settled (engines [bad]).foc) bad = some (.error ⟨0x0D, 0, 0, 0, none⟩)) ∧
    ((engines [ok]).tile.confirmable .vector = some ok ∧ flagTraps (engines [ok]).th.fflags 1 = false ∧ flagTraps e.th.fflags 1 = true) ∧
    (engines [running (.trap trapped)]).tile.confirmable .vector = some (running (.trap trapped)) ∧
    done.tile.ops.find? (fun o => o.eng == .vector && o.started && o.confirmed) = some { ok with confirmed := true } ∧
    (Tab.wf accBlank done.tile.acc = true ∧ Tab.wf descBlank done.desc = true ∧ Memory.wf done.mem = true) ∧
    (c.tile.ops.find? (fun o => o.eng == .copy && o.started && o.confirmed) = none ∧ c.tile.copyReady = some newCopy ∧
      c.isBad (c.pa 0x30000) 64 = false ∧ c.tile.wqHolds 0x30000 = false ∧ c.tile.wqHolds (c.tile.copyDst newCopy 0x100 0) = false) ∧
    dLegal (c.descAt (c.pa 0x30000)) = true ∧
    (let b : State := { c with desc := [((c.pa 0x30000) / 64, 0x08000000)] }
     dPoison (b.descAt (b.pa 0x30000)) = false ∧ dLegal (b.descAt (b.pa 0x30000)) = false) := by decide +kernel

/-- MGANG's operands for a gang of `side` by `side` members at its hall's corner. -/
def gangOp (side : Nat) : GangOp := ⟨false, false, false, 1, 0, 0, 1, 0, BitVec.ofNat 64 (side <<< 32), 0⟩
def gangQ (o : GangOp) (r : Option Result) : QOp := { qop 3 .matrix (.mat (.gang o)) with started := true, result := r }
def joinBy (c : Coord) (o : GangOp) : Join := ⟨c, 0, 3, o, 0⟩
/-- Tile (0, 0) with engine operations l, the other tiles in cs each executing the operation o, and the gang state g at (0, 0). -/
def ganged (l : List QOp) (cs : List Coord) (o : GangOp) (g : GangSt) (n : List Flight) : State :=
  let s := tl [] (fun t => { t with ops := l, gang := g, r := { t.r with hall := 1 } })
  { s with net := n, wtime := 65536, tiles := cs.map fun c => (c, { Tile.reset c with ops := [gangQ o none] }) }
def mail (vc : BitVec 4) (src : Coord) (m : Msg) : Flight := ⟨m, vc, ⟨0, 0⟩, .tile ⟨0, 0⟩, src, 0, none, 0, false, 0, [], 0, 0⟩
def three : List Coord := [⟨1, 0⟩, ⟨0, 1⟩, ⟨1, 1⟩]

/-- A gang of 16 by 16, which its hall can hold, and of 17 by 17, which it cannot. A join with the origin's own missing, with another
missing, and the last one with a value that differs; reports with members missing and the last one; the timeout on its tick and on the one
before; an abort of the operation in the gang, and of one that is not. -/
theorem witness_GangsJoinAndCommitOrAbort :
    let o := gangOp 2
    let q := gangQ o (some (.ok 1 []))
    let f (src : Coord) (o : GangOp) : Flight := mail 12 src (.gangJoin 0 3 o)
    let js (cs : List Coord) : GangSt := ⟨cs.map fun c => joinBy c o, [], false⟩
    let none_ := ganged [q] three o ⟨[], [], false⟩ [f ⟨1, 0⟩ o]
    let some_ := ganged [q] three o (js [⟨0, 0⟩]) [f ⟨1, 0⟩ o]
    let last := ganged [q] three (gangOp 2) (js [⟨0, 0⟩, ⟨1, 0⟩, ⟨0, 1⟩]) [f ⟨1, 1⟩ { o with acc := true }]
    let j : Join := ⟨⟨1, 1⟩, 0, 3, { o with acc := true }, 65536⟩
    let kept : State := { last with tile := { last.tile with gang := { last.tile.gang with joins := last.tile.gang.joins ++ [j] } } }
    let done := ganged [q] three o { js (⟨0, 0⟩ :: three) with dones := three.map fun c => (c, 3) } []
    let e := none_.mapTh fun h => { h with fflags := 0x100 }
    let ab (k : Nat) := mail 12 ⟨1, 0⟩ (.gangAbort 0x14 ⟨1, 0⟩ k)
    let st := ganged [{ q with started := false, result := none }] [] o ⟨[], [], false⟩ []
    (guardHolds .none none_.th = true ∧ none_.gangShape (gangOp 16) = true ∧ none_.gangShape (gangOp 17) = false ∧
      none_.engineRoom .matrix = true) ∧ st.tile.pickOp .matrix = some { q with started := false, result := none } ∧
    (none_.net.find? (fun f => f.atTile ⟨0, 0⟩ && f.msg.isJoin) = some (f ⟨1, 0⟩ o) ∧ none_.joinOf ⟨0, 0⟩ ⟨0, 0⟩ = none) ∧
    (some_.joinOf ⟨0, 0⟩ ⟨0, 0⟩ = some (joinBy ⟨0, 0⟩ o) ∧ some_.joinOf ⟨0, 0⟩ ⟨1, 1⟩ = none ∧
      o.members some_.hallOrigin = ⟨0, 0⟩ :: three) ∧
    ((o.members last.hallOrigin).all (fun m => (kept.joinOf ⟨0, 0⟩ m).isSome) = true ∧
      ((o.members last.hallOrigin).filterMap (kept.joinOf ⟨0, 0⟩)).find? (fun j => !j.op.sameGang o) = some j) ∧
    (some_.tile.gangOp = some (q, o) ∧ some_.tile.gang.committed = false ∧ ((⟨0, 0⟩, 3) : Coord × Nat) ∉ (js [⟨0, 0⟩]).dones ∧
      flagTraps e.th.fflags 1 = true ∧ flagTraps some_.th.fflags 1 = false) ∧
    (three.all fun x => done.joinOf ⟨0, 0⟩ x == some (joinBy x o) && done.tile.gang.dones.contains (x, 3)) = true ∧
    (some_.tile.gang.joins.find? (fun j => j.c == ⟨0, 0⟩) = some (joinBy ⟨0, 0⟩ o) ∧
      (o.members some_.hallOrigin).find? (fun c => (some_.joinOf ⟨0, 0⟩ c).isNone) = some ⟨1, 0⟩ ∧
      65536 ≤ (some_.wtime + some_.tile.lag - 0).toNat ∧ (some_.wtime - 1 + some_.tile.lag - 0).toNat < 65536) ∧
    ((ganged [q] [] o (js []) [ab 3]).net.find? (fun f => f.atTile ⟨0, 0⟩ && f.msg.isGangAbort) = some (ab 3) ∧
      (ganged [q] [] o (js []) [ab 3]).inGang ⟨0, 0⟩ 3 = true ∧ (ganged [q] [] o (js []) [ab 2]).inGang ⟨0, 0⟩ 2 = false) := by
  decide +kernel

def reqOf (k : ReqKind) (off : Word) : Req := ⟨⟨⟨3, 0⟩, 1, 9, none⟩, k, 0, off, 0, true, none⟩
def asked (l : List WEntry) (m : Msg) : State := { tl [] fun t => { t with wq := l } with net := [mail 8 ⟨3, 0⟩ m] }

/-- A store at the end of data SRAM and one beyond it, with room, with a full queue, and behind a local operation; a load at each end and
in a hole, of a sound and of a damaged word; a foreign request; a decrement; entries to read and to write back. -/
theorem witness_TheInboundPortServesRequests :
    let r := reqOf (.store 8 5) 0xFFF8
    let s := asked [] (.req r)
    let f := mail 8 ⟨3, 0⟩ (.req r)
    let full := asked ((List.range 16).map fun k => ⟨k + 9, [], false⟩) (.req r)
    let behind : State := s.mapTh fun h => { h with turnAt := some (4, h.pc) }
    let h : State := s.mapTile fun t => { t with r := { t.r with hall := 1 } }
    let bad : State := { s with bad := [s.pa 0xFFF8 / 8] }
    let d : Flight := { mail 13 ⟨3, 0⟩ (.decr 0x40 1) with sys := true }
    let wb (o : WOp) (w : Bool) : State := asked [⟨5, [o], w⟩] (.req r)
    (s.portHead = some f ∧ r.who.agent = none ∧ s.tile.foreign r.hall r.sys = false ∧ h.tile.foreign 2 false = true ∧
      r.kind.writes = true) ∧
    (0xFFF8 + 8 ≤ 0x10000 ∧ 0xFFF8 % 8 = 0 ∧ s.tile.inEntries 0xFFF8 8 = false ∧ s.tile.window_ (0xFFF8 / 64) = .out ∧
      ¬ 0x10000 + 8 ≤ 0x10000 ∧ (offLocal 0xFFF8 = 0xFFF8)) ∧
    (s.tile.wqFree 0xFFF8 = true ∧ s.localFirst f.stamp = false ∧ full.tile.wqFree 0xFFF8 = false ∧ behind.localFirst 5 = true ∧ s.copyOf r.who = none) ∧
    (s.tile.wqHolds 0xFFF8 = false ∧ s.damaged (s.pa 0xFFF8) 8 = false ∧
      ({ s with net := [d] } : State).portHead = some d ∧ d.misnamed s.tile = false ∧ s.tile.foreign d.hall d.sys = false) ∧
    (s.tile.remoteRead 0xFFF8 8 = some 0xFFF8 ∧ s.tile.remoteRead 0x13FF8 8 = some 0x13FF8 ∧ s.tile.remoteRead 0x14000 8 = none ∧
      (s.seen s.foc 0xFFF8).damaged (s.pa 0xFFF8) 8 = false ∧ (bad.seen bad.foc 0xFFF8).damaged (bad.pa 0xFFF8) 8 = true) ∧
    ((wb (.store 0x140 8 1) false).tile.wq = [⟨5, [.store 0x140 8 1], false⟩] ∧ s.isBad (s.pa 0x140) 8 = false ∧
      s.damaged (s.pa 0x140) 8 = false ∧ (wb (.decr 0x140 1 0 true) true).tile.wq = [⟨5, [.decr 0x140 1 0 true], true⟩]) := by
  decide +kernel

/-- A thread with one outstanding request of kind k, and the answer to it. -/
def awaiting (k : PendKind) (v : AnsVal) : State :=
  { th fun h => { h with pends := [⟨9, k, 0, 0x40, 3, false, false, false⟩], outc := ⟨1, 1, 0, 0⟩ } with
    net := [mail 9 ⟨3, 0⟩ (.ans ⟨⟨⟨0, 0⟩, 0, 9, none⟩, v, 0⟩)] }
def armReq : Req := reqOf (.waitv 8 0 (some 10)) 0x40
/-- The same with the thread of tile (3, 0) that asked still waiting. -/
def asker (s : State) : State :=
  { s with tiles := [(⟨3, 0⟩, (Tile.reset ⟨3, 0⟩).mapTh 1 fun h => { h with state := .waitv, wait := .waitv 9 3 })] }
def monitor (hit : Option Word) (deadline : Option Nat) : Monitor := ⟨0x40, 8, ⟨⟨3, 0⟩, 1, 9, none⟩, deadline, hit⟩

/-- An answer to a load; a refusal with and without an earlier deferred fault; waits that arm, wake and time out at the tile and at a
port, at their tick; a deferred fault at a boundary. -/
theorem witness_AnswersEndOutstandingRequests :
    let s := awaiting (.load 5 3) (.value 7)
    let m (m : Monitor) : State := tl [] fun t => { t with monitors := [m] }
    let port (p : Port) : State := { regs [] with ports := [(2, p)] }
    let far : Req := { armReq with space := 1, fwd := some (0x40, false) }
    let pm (m : Monitor) : Port := { Port.reset with monitors := [m] }
    let d := th fun h => { h with deferred := some trapped }
    (s.net.find? (fun f => f.atTile s.foc && (match f.msg with | .ans _ => true | _ => false)) =
        some (mail 9 ⟨3, 0⟩ (.ans ⟨⟨⟨0, 0⟩, 0, 9, none⟩, .value 7, 0⟩)) ∧
      (s.tile.th 0).pends.find? (·.id == 9) = some ⟨9, .load 5 3, 0, 0x40, 3, false, false, false⟩ ∧ (s.tile.th 0).state = .run) ∧
    ((awaiting .store (.refuse 4)).th.record = none ∧ (awaiting .store (.refuse 4)).th.deferred = none ∧ d.th.deferred.isSome = true) ∧
    ((tl [] fun t => { t with arms := [armReq] }).stillWaits armReq.who = false ∧ (asker (regs [])).stillWaits armReq.who = true ∧
      (regs []).tile.wordAt 0x40 = 0x40) ∧
    ((tl [] fun t => { t with arms := [armReq] }).tile.wqHolds 0x40 = false ∧ (regs []).damaged ((regs []).pa 0x40) 8 = false ∧
      BitVec.ofNat 64 (Memory.readN (regs []).mem ((regs []).pa 0x40) 8) = 0 ∧ (regs []).tile.monitors.length < 16) ∧
    (((port { Port.reset with devOps := [far] }).port 2).firstArm = some far ∧ (regs []).damaged far.pa 8 = false ∧
      BitVec.ofNat 64 (Memory.readN (regs []).mem far.pa 8) = 0 ∧ Port.reset.monitors.length < 1024) ∧
    (m (monitor (some 5) none)).tile.monitors.findSome? (fun m => m.hit.map fun v => (m, v)) = some (monitor (some 5) none, 5) ∧
    (m (monitor none (some 0))).tile.monitors.find? (fun m => m.hit.isNone && (match m.deadline with
      | some d => decide (d ≤ (0 : Word).toNat)
      | none => false) && !(regs []).tile.wqHolds m.addr) = some (monitor none (some 0)) ∧
    ((monitor none none).who.agent = none ∧ (monitor none none).who.src ≠ (⟨0, 0⟩ : Coord)) ∧
    ((port (pm (monitor (some 5) none))).port 2).monitors.findSome? (fun m => m.hit.map fun v => (m, v)) = some (monitor (some 5) none, 5) ∧
    ((port (pm (monitor none (some 0)))).port 2).monitors.find? (fun m => m.hit.isNone && (match m.deadline with
      | some d => decide (d ≤ (0 : Word).toNat)
      | none => false)) = some (monitor none (some 0)) ∧
    (d.th.deferred = some trapped ∧ d.th.state = .run ∧ d.th.wait = .none ∧ d.tile.holding d.tid = false) := by decide +kernel

def recorded (n : Nat) : State := th fun h => { h with state := .stop, outc := ⟨0, n, 0, 0⟩, record := some ⟨0, trapped, false⟩ }

/-- A record with no store outstanding and with one; a report with no record ready and with one. -/
theorem witness_RecordsAndReportsAreSent :
    let r (s : State) : State := s.mapTile fun t => { t with reports := [(none, [5, 0, 0, 0, 0, 0, 0, 0])] }
    let jam : Flight := { mail 14 ⟨0, 0⟩ (.hold 2 true) with trail := [⟨⟨0, 0⟩, 4, 4⟩], left := 1 }
    ((r (regs [])).inputFree ⟨0, 0⟩ 14 = true ∧ ({ r (regs []) with net := [jam] } : State).inputFree ⟨0, 0⟩ 14 = false) ∧
    ((recorded 0).th.record = some ⟨0, trapped, false⟩ ∧ (recorded 0).th.outc.stores = 0 ∧ (recorded 0).th.pends = []) ∧
    (recorded 1).th.outc.stores ≠ 0 ∧ (∀ i : Tid, ((r (regs [])).tile.th i).record = none) ∧
    (r (regs [])).tile.reports = [(none, [5, 0, 0, 0, 0, 0, 0, 0])] ∧
    ((r (recorded 0)).tile.th 0).recordReady ⟨0, trapped, false⟩ = true := by decide +kernel

/-! ### Witnesses: the inbox, the mesh, management -/

/-- The tile's entry 0 starts at word 0x40 and admits every channel; entry 1 does too for its own hall only; hall 1. -/
def entries (g : Tile → Tile) : State :=
  put (put ((regs []).mapTile fun t => g { t with r := { t.r with hall := 1 }, pr := { t.pr with entrybase := 0x20000 }, threads := State.reset.tile.threads })
    0 8 0xFFFF000500000040) 8 8 0xFFFF000100000080
def pkt (entry : BitVec 10) (len : BitVec 4) : Packet :=
  ⟨(0 : BitVec 34) ++ (1 : BitVec 6) ++ (0 : BitVec 6) ++ entry ++ (0 : BitVec 4) ++ len, 7, [], false⟩
def came (p : Packet) : Flight := { mail 0 ⟨3, 0⟩ (.packet p) with hall := 1 }
/-- A packet in cell 5, checked or not, of a foreign hall or not. -/
def cell5 (entry : BitVec 10) (checked foreign : Bool) : State :=
  put (entries fun t => { t with runs := [⟨5, 1, 0, foreign, checked, false, false, ⟨3, 0⟩⟩] }) 0x200A0 8 (pkt entry 0).word0
/-- A record of entry 0 at the head of the ready ring. -/
def ringed (entry : Word) : State := put (entries fun t => { t with ring := [0x100] }) 0x100 8 (0x4000000 + entry * 65536)

/-- A packet that fits, one larger than its channel's cap, one that finds no room; entries 0, 1 and 2 of a table of two, an unadmitted
hall; a waiting packet, a TOPCODE mismatch, a waiting record; the budget on its last cycle. -/
theorem witness_PacketsAreAcceptedCheckedAndDispatched :
    let s : State := { entries id with net := [came (pkt 0 0)] }
    let big := (entries fun t => { t with pr := { t.pr with qlim := t.pr.qlim.set 0 0x80000 } })
    let r (checked foreign : Bool) : CellRun := ⟨5, 1, 0, foreign, checked, false, false, ⟨3, 0⟩⟩
    let b := th fun h => { h with cycles := 65536 }
    let x := cell5 0 false true
    (s.headPacket 0 = some (came (pkt 0 0), pkt 0 0) ∧ (came (pkt 0 0)).misnamed s.tile = false ∧ s.tile.diverting = false ∧
      1 ≤ qcap s.tile 0 ∧ s.tile.cellTest 0 1 = true ∧ s.tile.findRun 1 = some 0) ∧
    (qcap big.tile 0 < 9 ∧ 8 ≤ qcap big.tile 0) ∧
    (entries fun t => { t with pr := { t.pr with qlim := t.pr.qlim.set 1 0x1000100 } }).tile.cellTest 0 1 = false ∧
    ((cell5 0 false false).commandHere .tile = none ∧ (cell5 0 false false).commandHere .port = none ∧
      (cell5 0 false false).commandHere .repair = none ∧ (cell5 0 false false).isBad ((cell5 0 false false).pa (0x20000 + 0)) 8 = false ∧
      (cell5 0 false false).tile.runs.find? (fun r => !r.checked) = some (r false false) ∧
      (cell5 0 false false).entryOk ⟨0, 0⟩ 0 0 = true ∧ (cell5 2 false false).entryOk ⟨0, 0⟩ 2 0 = false ∧
      entryXhall ((cell5 1 false true).entryAt ⟨0, 0⟩ 1) = false ∧ (cell5 1 false true).entryOk ⟨0, 0⟩ 1 0 = true ∧
      (cell5 2 false false).tile.reports.length < 8) ∧
    (entryXhall (x.entryAt ⟨0, 0⟩ 0) = true ∧ x.entryOk ⟨0, 0⟩ 0 0 = true ∧ hdrNsucc (x.cellWord 5 0) = 0 ∧
      x.tile.pr.hallmap.getLsbD (hdrHall (x.cellWord 5 0)).toNat = false) ∧
    ((cell5 0 true false).tile.dispatchOn = true ∧ (cell5 0 true false).tile.pstate = 0 ∧
      ((cell5 0 true false).choose.map (·.what)) = some (.packet (r true false)) ∧ hdrNarrow (pkt 0 0).word0 = false) ∧
    (let n := put (cell5 0 true false) 0x200A0 8 ((pkt 0 0).word0 ||| 0xC0000)
     hdrNarrow (n.cellWord 5 0) = true ∧ hdrTcm (n.cellWord 5 0) = true ∧ n.th.tcm = false ∧
      (n.choose.map (·.what)) = some (.packet (r true false))) ∧
    (((ringed 0).choose.map (·.what)) = some (.ring 0x100) ∧ (ringed 0).tile.monitors = [] ∧ (ringed 0).tile.chain = [] ∧
      (ringed 0).isBad ((ringed 0).pa 0x100) 8 = false ∧ (ringed 0).tile.wqHolds 0x100 = false ∧
      (ringed 0).entryOk ⟨0, 0⟩ 0 13 = true ∧ (ringed 2).entryOk ⟨0, 0⟩ 2 13 = false) ∧
    (b.th.state = .run ∧ (b.tile.pr.budget.extractLsb' 0 24).toNat ≤ b.th.cycles ∧ b.tile.holding b.tid = false ∧
      (regs []).th.cycles < ((regs []).tile.pr.budget.extractLsb' 0 24).toNat) := by decide +kernel

def injOf (vc : BitVec 4) (a : Addr) (m : Msg) : Inj := ⟨some 0, vc, a, m, .no⟩
def injecting (i : Inj) (g : Tile → Tile) (tctl : Word) : State :=
  { tl [] fun t => g { t with inj := [i] } with fields := [(0, { Field.reset with tctl := tctl, periods := 1 })] }
def hop (p d : Coord) : Flight := ⟨.packet (pkt 0 0), 0, p, .tile d, p, 9, none, 0, false, 4094, [⟨p, 4, 2⟩], 0, 0⟩
/-- The same with its tail only moving: the head has arrived. -/
def tailed : Flight := { hop ⟨1, 0⟩ ⟨2, 0⟩ with pos := ⟨2, 0⟩, trail := [⟨⟨2, 0⟩, 3, 1⟩, ⟨⟨1, 0⟩, 4, 1⟩] }

def meshed (f : Flight) : State := { regs [] with net := [f] }

/-- Compute and gallery destinations, an input with room, tokens enough and one short, a known and an unknown name, and the end of a
seek. -/
theorem witness_MessagesEnterAndCrossTheMesh_injection :
    let i := injOf 0 (.dest (.tile ⟨1, 0⟩)) (.packet (pkt 0 1))
    let n := injOf 3 (.name 5) (.decr 0x40 1)
    let s := injecting i id 1
    let low := injecting i (fun t => { t with pr := { t.pr with tokm := 0x0400000000000001 } }) 1
    let wait := low.mapTile fun t => { t with tokenWaits := [i], pr := { t.pr with tokm := t.pr.tokm ||| 0x80000000 } }
    let due : State := { s with fields := [(0, { Field.reset with tctl := 1, periods := 1, lcyc := 1024 })] }
    let free := injecting i id 0
    let m := injecting n id 0
    let w : Inj := { i with entered := .sent 3 }
    let run := injecting w id 0
    let stop := run.mapTh fun h => { h with state := .stop }
    let known := injecting n (fun t => { t with names := [⟨5, ⟨2, 0⟩, 0, true, 0, 0⟩] }) 0
    let k := injecting n (fun t => { t with seeks := [(3, n)] }) 0
    let a : Flight := mail 15 ⟨2, 0⟩ (.seekAnswer 5)
    (s.tile.inj = [i] ∧ i.entered = .no ∧ isCompute ⟨1, 0⟩ = true ∧ isCompute ⟨60, 56⟩ = false ∧ isCompute ⟨60, 55⟩ = true ∧
      (s.field 0).tctl.getLsbD 0 = true ∧ isGallery ⟨0, 0⟩ = false ∧ s.tile.reports.length < 8 ∧ (known.field 0).tctl.getLsbD 0 = false) ∧
    (free.tile.inj = [i] ∧ (free.field 0).tctl.getLsbD 0 = false ∧ m.tile.inj = [n] ∧ n.msg = .decr 0x40 1 ∧
      (injecting { n with addr := .dest (.tile ⟨1, 0⟩) } id 0).inputFree ⟨0, 0⟩ 3 = true) ∧
    ((due.field 0).refillDue = true ∧ (s.field 0).refillDue = false ∧ (low.field 0).refillDue = false ∧ (wait.field 0).refillDue = false ∧
      wait.tile.tokenWaits = [i] ∧ wait.tile.pr.tokm.getLsbD 31 = true ∧ (wait.tile.pr.tokm.extractLsb' 0 16).toNat = 1) ∧
    (run.tile.inj = [w] ∧ w.tid = some 0 ∧ w.entered = .sent 3 ∧ (run.tile.th 0).state = .run ∧ (stop.tile.th 0).state ≠ .run ∧
      stop.tile.inj = [w] ∧ run.inputFree ⟨0, 0⟩ 0 = true) ∧
    (s.inputFree ⟨0, 0⟩ 0 = true ∧ s.inputFree ⟨0, 0⟩ 3 = true ∧ i.vc.toNat ≤ 7 ∧
      hdrLen (pkt 0 1).word0 + 1 ≤ (s.tile.pr.tokm.extractLsb' 0 16).toNat + 2 ∧
      (low.tile.pr.tokm.extractLsb' 0 16).toNat < hdrLen (pkt 0 1).word0 + 1 ∧ s.tile.tokenWaits = [] ∧
      [i].all (· == i) = true ∧ low.costOf (injOf 0 (.dest (.tile ⟨2, 0⟩)) (.packet (pkt 0 1))) = some (false, hdrLen (pkt 0 1).word0 + 1)) ∧
    (known.tile.names.find? (fun e => e.name == 5 && e.sys == known.tile.sys && (e.sys || e.hall == known.tile.hid)) =
      some ⟨5, ⟨2, 0⟩, 0, true, 0, 0⟩ ∧ known.tile.seeks = [] ∧ known.tile.r.name.setWidth 32 ≠ (5 : BitVec 32) ∧
      (injecting n id 0).tile.names = []) ∧
    (a.atTile ⟨0, 0⟩ = true ∧ a.msg = .seekAnswer 5 ∧ k.tile.seeks.find? (·.1 == 3) = some (3, n) ∧ k.seeking 3 5 = false) := by
  decide +kernel

/-- A flight one hop from its end, at a detour entry to port 0 and at one that names port 7; the movement of a head over a link and of a
flit behind it; a flight at its hop limit. -/
theorem witness_MessagesEnterAndCrossTheMesh_movement :
    let f := hop ⟨1, 0⟩ ⟨2, 0⟩
    let h := meshed f
    let d := { f with hops := 4095 }
    (f.dest = .tile ⟨2, 0⟩ ∧ f.pos ≠ ⟨2, 0⟩ ∧ f.hops + 1 < Config.hopLimit ∧ isGallery ⟨2, 0⟩ = false ∧ (h.tileAt ⟨2, 0⟩).absent = false ∧
      rtexPort (h.tileAt ⟨1, 0⟩).pr.rtex.toList false ⟨2, 0⟩ = none ∧ linkTo ⟨1, 0⟩ 1 = some ⟨2, 0⟩) ∧
    (rtexPort [0xBC001FFE003FF800] false ⟨2, 0⟩ = some 7 ∧ rtexPort [0xA0001FFE003FF800] false ⟨2, 0⟩ = some 0 ∧
      linkTo ⟨1, 1⟩ 0 = some ⟨1, 0⟩) ∧
    ((h.movesOf 0 f).find? (h.granted 0 f) = some (.head 1 ⟨2, 0⟩) ∧ h.arrived f = false ∧ h.headFront 0 f = true ∧
      (h.nextHop f).isSome = true ∧ f.srcName ≠ 0) ∧
    (((meshed tailed).movesOf 0 tailed).find? ((meshed tailed).granted 0 tailed) = some (.body 0) ∧ (meshed tailed).sunk tailed = false ∧ (meshed tailed).arrived tailed = true) ∧
    ((meshed d).arrived d = false ∧ (meshed d).headFront 0 d = true ∧ (meshed d).nextHop d = none ∧
      ((meshed d).tileAt ⟨1, 0⟩).reports.length < 8) := by decide +kernel

/-- The counts at which a port holds a tile off and releases it, and the notices. -/
theorem witness_MessagesEnterAndCrossTheMesh_notices :
    let waits (n : Nat) : Port := { Port.reset with log := List.replicate n { reqOf (.store 8 0) 0 with who := ⟨⟨0, 0⟩, 0, 0, none⟩ } }
    let s : State := { regs [] with ports := [(2, waits 64)] }
    let notice (on : Bool) : Flight := mail 15 (portSite 2) (.hold 2 on)
    (s.noticeFrom 2 = none ∧ (waits 64).onHold.contains ⟨0, 0⟩ = false ∧ (waits 64).countOf ⟨0, 0⟩ = 64) ∧
    ((waits 48).countOf ⟨0, 0⟩ ≤ 48 ∧ (waits 48).entries.length ≤ 3968 ∧ (waits 48).allHeld.length ≤ 896 ∧
      ({ waits 48 with onHold := [⟨0, 0⟩] } : Port).onHold.contains ⟨0, 0⟩ = true) ∧
    (meshed (notice true)).noticeFrom 2 = some (notice true, true) ∧ (meshed (notice false)).noticeFrom 2 = some (notice false, false) := by
  decide +kernel

def cmd (reg : BitVec 12) (v : Word) : MgmtCmd := ⟨0, reg, 9, v, 17⟩
def stopped (t : TState) : State := State.reset.mapTh fun h => { h with state := t }
/-- A state with the focus on another tile, here the site of an edge port. -/
def at_ (c : Coord) : State := State.reset.focus c 0

theorem witness_ManagementReadsAndWritesRegisters :
    let s := regs [(31, 5)]
    ((cmd 0x41F 0).reg.toNat = 0x400 + (31 : GReg).toNat ∧ (31 : GReg) ≠ 0) ∧ (s.tile.th 0).state = .run ∧
    ((stopped .stop).tile.th 0).state = .stop ∧ ((stopped .halt).tile.th 0).state = .halt ∧ ((stopped .free).tile.th 0).state = .free ∧
    (0x424 ≤ (cmd 0x42F 0).reg.toNat ∧ (cmd 0x42F 0).reg.toNat < 0x430) ∧
    ((256 : Word).toNat < 16777216 ∧ ¬ (0xFFFFFF : Word).toNat < 256) ∧ (255 : Word).toNat < 256 ∧
    ((at_ (portSite 0)).portHere = some 0 ∧ (0x1000 : Word) &&& 0xFFFF000000000FFF = 0 ∧ (0x800 : Word) &&& 0xFFFF000000000FFF ≠ 0) ∧
    ((0xEFFFFFFF : Word).toNat < 0xF0000000 ∧ s.bears 0xEFFFFFFF s.foc = false ∧
      ({ s with tiles := [(⟨1, 0⟩, { Tile.reset ⟨1, 0⟩ with r := { TileRegs.reset with name := 5 } })] } : State).bears 5 s.foc = true) := by
  decide +kernel

/-- A command packet for a tile, with OP and reply address in its header and payload. -/
def ordered (op : BitVec 8) : Flight := mail 15 (gallerySite 1) (.command op (cmd 0x400 0))

theorem witness_ThreadCommandsStartStopAndKill :
    let ans := { mail 14 ⟨3, 0⟩ (.cmdAnswer 17 0 9 0) with pos := gallerySite 1, dest := .gallery 1 }
    let a : State := { regs [] with net := [ans] }
    let p (w : Word) : State := { regs [] with wtime := 65536, galleries := [(1, { Gallery.reset with cmd := [(1, { CmdPort.reset with waiting := some (w, 9) })] })] }
    ([TState.stop, .halt, .run, .waitv, .wtag, .pgwait, .free].all fun t => ((stopped t).tile.th 0).state == t &&
      ((stopped t).tile.th 0).record == none && ((stopped t).tile.th 0).wait == .none && !((stopped t).tile.th 0).stepping &&
      !(stopped t).tile.holding 0) = true ∧
    ([0x01, 0x03, 0x05, 0x09].all fun op => ({ regs [] with net := [ordered op] } : State).commandHere .tile ==
      some (ordered op, op, cmd 0x400 0)) = true ∧
    (let q : State := { at_ (portSite 0) with net := [{ ordered 0x10 with pos := portSite 0, dest := .tile (portSite 0) }] }
     q.commandHere .tile = none ∧ (q.commandHere .port).map (·.2.1) = some 0x10) ∧
    firstOf (a.net.filter fun f => a.arrived f && f.msg.answers 17) = some ans ∧
    65536 ≤ ((p 0).wtime - 0).toNat ∧ ((p 1).wtime - 1).toNat < 65536 ∧
    (unitGet CmdPort.reset ((p 1).gallery 1).cmd 1).waiting = some (1, 9) ∧ CmdPort.reset.waiting = none ∧ (1, (9 : BitVec 32)) ≠ ((1 : Word), (8 : BitVec 32)) ∧ (unitGet CmdPort.reset ((p 1).gallery 1).cmd 1).shoots = [] := by decide +kernel

/-! ### Witnesses: galleries, call rings, edge ports -/

/-- Gallery 1 holding g, at tick 65536. -/
def gal (g : Gallery) : State := { regs [] with galleries := [(1, g)], wtime := 65536 }
def hartOn (h : Hart) : State := gal { Gallery.reset with harts := [(2, h)] }
/-- Event queue 3 of gallery 1, with a record waiting for it. -/
def queueOn (q : EvQueue) (w : Word) : State :=
  { gal { Gallery.reset with queues := [(3, q)] } with unitReports := [(1, ⟨[w, 0, 0, 0, 0, 0, 0, 0], some 3⟩)] }

/-- Hart 2 of gallery 1 in M-mode; a word of edge memory; a tile-window word of a compute tile, of a gallery, misaligned; the first address
above the window; a store outstanding at a FENCE. -/
theorem witness_GalleryQueuesTakeRecords_harts :
    let H := (hartOn Hart.reset).hartAt 18
    let busy := { Hart.reset with fencing := true, stores := [7] }
    let cell (off : Nat) : Coord := ⟨off / 2147483648, off / 1048576 % 2048⟩
    (H.mode = .m ∧ H.mstatus.getLsbD 17 = false ∧ (hartOn Hart.reset).hartBusy H = false ∧ 16 * 1 + 2 = 18) ∧
    (0x1000 % 8 = 0 ∧ inMemory 0x1000 8 = true ∧ (hartOn Hart.reset).damagedBytes 0x1000 8 = false) ∧
    (cell 8 = ⟨0, 0⟩ ∧ isCompute (cell 8) = true ∧ isCompute (cell 0x2004000000) = false ∧ cell 0x2004000000 = ⟨64, 64⟩ ∧
      0x2004000000 < 4398046511104 ∧ 9 % 8 ≠ 0) ∧
    (4398046511104 < 0x400000000000) ∧
    ((hartOn busy).hartAt 18).fencing = true ∧ ((hartOn busy).hartAt 18).stores ≠ [] := by decide +kernel

/-- A queue of one record that is empty, and one that is full with its overflow area empty and full; a record of KIND 0 and a report; a
queue that is not enabled; CFG values that are ignored and that are taken. -/
theorem witness_GalleryQueuesTakeRecords_records :
    let q : EvQueue := { EvQueue.reset with cfg := 0x20 }
    let full : EvQueue := { q with tail := 1 }
    let s := queueOn full 0
    (s.unitReports = [(1, ⟨[0, 0, 0, 0, 0, 0, 0, 0], some 3⟩)] ∧ unitGet EvQueue.reset (s.gallery 1).queues 3 = full ∧
      Memory.wf s.mem = true) ∧
    (q.cfg.getLsbD 5 = true ∧ EvQueue.reset.cfg.getLsbD 5 = false ∧ (q.tail - q.head).toNat < 2 ^ (q.cfg.extractLsb' 0 5).toNat ∧
      2 ^ (q.cfg.extractLsb' 0 5).toNat ≤ (full.tail - full.head).toNat ∧ (full.otail - full.ohead).toNat < 1) ∧
    ((0x400 : Word).extractLsb' 10 2 = 1 ∧ (0 : Word).extractLsb' 10 2 = 0) ∧
    ((0x20 : Word).getLsbD 5 = true ∧ (0x20 : Word).extractLsb' 24 8 = 0 ∧ (0 : Word).getLsbD 5 = false) ∧
    (q.tail ≠ 1 ∧ q.otail ≠ 1) := by decide +kernel

/-- Ring port 2 of gallery 1, enabled for hall 1 and service 5, with slots l. -/
def ringWith (l : List (Nat × Slot)) : Ring :=
  { Ring.reset with en := true, halls := 2, svcmask := (Vector.replicate 16 0).set 0 0x20, slots := l }
def ringed1 (r : Ring) : State := gal { Gallery.reset with rings := [(2, r)] }
/-- A call of thread 0 of tile (0, 0), of hall 1, to service 5, at gallery 1. -/
def callRec : CallRec := ⟨⟨0, 0⟩, 0, 1, 7, 4, 3, [5, 0, 0, 0, 0, 0, 0, 0]⟩
def calling (c : CallRec) : Flight :=
  { mail 14 ⟨0, 0⟩ (.call c) with pos := gallerySite 1, dest := .gallery 1, name := some 0xFF010102 }
def slotOf (st : SlotSt) (gen : BitVec 32) : Slot := ⟨st, gen, 0, 0⟩

/-- A call that a ring accepts, one of another hall, one to a service it does not serve, in a switch window, with every slot taken. -/
theorem witness_CallRingsAcceptDispatchAndComplete_calls :
    let s : State := { ringed1 (ringWith []) with net := [calling callRec] }
    let full := (List.range 256).map fun j => (j, slotOf .taken 0)
    firstOf (s.net.filter fun y => y.dest == .gallery 1 && s.arrived y && y.name == some (BitVec.ofNat 32 (0xFF000100 + 0x10000 * 1 + 2)) &&
      (match y.msg with | .call _ => true | _ => false)) = some (calling callRec) ∧
    isCompute callRec.src = true ∧ Ring.reset.en = false ∧ (ringWith []).halls.getLsbD 1 = true ∧ (ringWith []).halls.getLsbD 2 = false ∧
    ((callRec.words.headD 0).extractLsb' 0 16 = (5 : BitVec 16) ∧ (getV16 (ringWith []).svcmask 0).getLsbD 5 = true ∧
      (getV16 (ringWith []).svcmask 0).getLsbD 6 = false) ∧ (ringWith []).swin = false ∧ (ringWith []).failed = false ∧
    (List.range 256).all (fun j => (unitGet Slot.reset full j).st != .free) = true ∧ (unitGet Slot.reset (ringWith []).slots 0).st = .free ∧
    callRec.words.length = 8 ∧ Memory.wf s.mem = true := by decide +kernel

/-- A queued slot and none; a slice that another tenant ends; a COMPLETE of a taken slot, with status 0x10 and with a reserved one; a
completion behind a store and one that may go; a window, an old generation, and a slot past its timeout. -/
theorem witness_CallRingsAcceptDispatchAndComplete_slots :
    let q := ringed1 (ringWith [(4, slotOf .queued 0)])
    let two : State := gal { Gallery.reset with
      rings := [(2, ringWith [(4, slotOf .queued 0)]), (3, ringWith [(4, slotOf .queued 0)])], svc := [(0, ⟨false, 1, 0, some 2, 0, false⟩)] }
    let t := ringWith [(4, slotOf .taken 0)]
    let d : Completion := ⟨2, 4, 0, 16, [9]⟩
    let held : State := gal { Gallery.reset with rings := [(2, t)], completions := [d], harts := [(0, { Hart.reset with stores := [9] })] }
    let v (st : BitVec 8) : Word := BitVec.ofNat 64 (2 * 72057594037927936 + 4 * 281474976710656) ||| st.zeroExtend 64
    ((ringed1 (ringWith [])).eligible 1 0 = [] ∧ q.eligible 1 0 = [2] ∧ (ringWith [(4, slotOf .queued 0)]).oldest = some (4, slotOf .queued 0) ∧
      0 < (ringWith []).credit ∧ SvcHart.reset.excluded = false) ∧
    ((two.hart 1 0).slice ≠ 0 ∧ (two.hart 1 0).slice.toNat ≤ (two.wtime - (two.hart 1 0).since).toNat ∧ two.eligible 1 0 = [2, 3]) ∧
    ((unitGet Slot.reset t.slots 4).st = .taken ∧ (unitGet Slot.reset t.slots 4).gen = t.gen ∧ (v 0x10).extractLsb' 0 8 = 0x10 ∧
      (unitGet Slot.reset (ringWith []).slots 4).st ≠ .taken ∧ (1 : BitVec 8) ≠ 3) ∧
    ((held.gallery 1).completions = [d] ∧ 9 ∈ (held.hartAt 16).stores ∧ 9 ∉ ((ringed1 t).hartAt 16).stores ∧ isCompute ⟨0, 0⟩ = true ∧
      Memory.readN held.mem 0x4040 8 = 0) ∧
    (({ t with swin := true } : Ring).swin = true ∧ t.swin = false ∧ ({ t with old := true } : Ring).old = true ∧
      t.slots.all (fun y => y.2.st == .free || y.2.gen != t.gen - 1) = true ∧ (ringWith []).slots.all (fun y => y.2.st == .free) = true) ∧
    (({ t with calltmo := 1 } : Ring).calltmo.toNat < ((65536 : Word) - 0).toNat ∧ Ring.reset.swtmo.toNat ≤ ((0x100000 : Word) - 0).toNat) := by
  decide +kernel

/-- A request for granule 0 of space 1 that has arrived at port 2, and one that port 0 has translated and forwarded to it. -/
def edgeReq (k : ReqKind) : Req := { reqOf k 0x40 with space := 1 }
def atEdge (r : Req) : Flight := { mail 10 ⟨3, 0⟩ (.req r) with pos := portSite 2, dest := .port 2 }
/-- Port 2 holding p, and the requests of l at it. -/
def edge (p : Port) (l : List Req) : State := { regs [] with ports := [(2, p)], net := l.map atEdge, wtime := 65536 }
/-- A translation of granule 0 of space 1 to the granule `out`, with write permission or not. -/
def maps (out : Nat) (w : Bool) : Port := { Port.reset with tlb := [⟨1, 0, 0, out, 0, true, w⟩] }

/-- A page of this port, of port 0, of no memory, without write permission, and of an unknown space; a granule that waits; a forwarded
request; a report 65,536 ticks old. -/
theorem witness_EdgePortsTranslateAndServe_walks :
    let r := edgeReq (.load 8)
    let w := edgeReq (.store 8 5)
    let s := edge (maps 0x40000 true) [r]
    let far : Req := { r with fwd := some (0x2000000040, false) }
    let wt : Waiting := ⟨w, 3, 0, 0⟩
    (s.replayDone 2 = none ∧ (s.port 2).firstArm = none ∧ s.nextWalk 2 = some (atEdge r, r) ∧ r.who.agent = none) ∧
    ((s.port 2).waitsOn 1 0 = false ∧ ({ maps 0 true with log := [w] } : Port).waitsOn 1 0 = true ∧
      (edge { maps 0 true with log := [w] } [r]).nextWalk 2 = some (atEdge r, r)) ∧
    ((s.translate (s.port 2) 1 0x40 ⟨true, false⟩).toOption.map (·.pa) = some 0x2000000040 ∧ serves 0x2000000040 = .edge 2 ∧
      s.damaged 0x2000000040 8 = false ∧ s.isBad 0x2000000040 8 = false ∧ servingPort 0x40 = some 0) ∧
    (s.translate Port.reset 1 0x40 ⟨true, false⟩ = .error (0, 0) ∧ s.translate (maps 0x3FFFFFFF true) 1 0x40 ⟨true, false⟩ = .error (5, 0) ∧
      s.translate (maps 0x40000 false) 1 0x40 ⟨false, true⟩ = .error (3, 0x40)) ∧
    ((edge Port.reset [r]).nextWalk 2 = some (atEdge r, r) ∧ (edge (maps 0x40000 false) [w]).nextWalk 2 = some (atEdge w, w)) ∧
    (let m := edgeReq (.amo .add 8 5 0 true)
     (edge (maps 0x40000 false) [m]).nextWalk 2 = some (atEdge m, m) ∧
      (edge (maps 0x40000 false) [m]).translate (maps 0x40000 false) 1 0x40 m.kind.need = .error (3, 0x40)) ∧
    ((edge Port.reset [far]).nextForwarded 2 = some (atEdge far, far) ∧ Port.reset.devOps = []) ∧
    (({ Port.reset with reported := [wt] } : Port).reported.find? (fun x => decide (65536 ≤ (s.wtime - x.tick).toNat)) = some wt) := by
  decide +kernel

/-- RETRY and DENY at a port and elsewhere, of a granule and with reserved bits, with a held load and a logged store, which translate and
which do not. -/
theorem witness_EdgePortsTranslateAndServe_retries :
    let r := edgeReq (.load 8)
    let w := edgeReq (.store 8 5)
    let s := (edge { maps 0x40000 true with held := [r] } []).focus (portSite 2) 0
    let g : Word := 1
    (s.portHere = some 2 ∧ (regs []).portHere ≠ some 2 ∧ (at_ ⟨9, 9⟩).portHere = none) ∧
    (g.extractLsb' 15 4 = (0 : BitVec 4) ∧ (0x8000 : Word).extractLsb' 15 4 ≠ (0 : BitVec 4) ∧ g.toNat / 524288 = 0) ∧
    ((s.port 2).replaying 1 0 = false ∧ s.underway (fun y => y.who == r.who) = false ∧ (s.port 2).held = [r] ∧ (s.port 2).log = []) ∧
    ((s.translate (s.port 2) 1 0x40 ⟨true, false⟩).toOption.map (·.pa) = some 0x2000000040 ∧
      s.translate Port.reset 1 0x40 ⟨true, false⟩ = .error (0, 0) ∧
      (s.translate (maps 0x40000 true) 1 0x40 ⟨false, true⟩).toOption.map (·.pa) = some 0x2000000040 ∧
      ({ maps 0x40000 true with log := [w] } : Port).log = [w]) := by decide +kernel

/-- Agent 16's shoot-down of everything: none in progress; arrived at port 5, with and without a translated request still to perform; an
acknowledgement that is the last one, and one that is not. -/
theorem witness_EdgePortsTranslateAndServe_shootdowns :
    let cp : CmdPort := { CmdPort.reset with waiting := some (0, 0), shoots := [5], shootVal := 1 }
    let f : Flight := { mail 15 (gallerySite 1) (.shoot 16 1) with pos := portSite 5, dest := .port 5 }
    let s : State := { gal { Gallery.reset with cmd := [(0, cp)] } with net := [f] }
    let a : Flight := { mail 14 (portSite 5) (.shootAck 16 5) with pos := gallerySite 1, dest := .gallery 1 }
    let p := entryPort 1 0
    let busy : State := { gal Gallery.reset with net := [atEdge { edgeReq (.load 8) with off := 0, fwd := some (0x2000000000, false) }] }
    (CmdPort.reset.waiting = none ∧ 16 < 1280) ∧
    (5 ∈ cp.shoots ∧ 5 ≠ 100 + 16 / 16 ∧ s.net.find? (fun f => f.msg == .shoot 16 cp.shootVal && f.dest == shootDest 5 && s.arrived f) = some f) ∧
    ((s.invalidate 5 1).shootWaits 5 1 = false ∧ (busy.invalidate p 1).shootWaits p 1 = true) ∧
    firstOf (({ s with net := [a] } : State).net.filter fun f => ({ s with net := [a] } : State).arrived f && f.msg.answers 16) = some a ∧
    ([5].filter (· != 5) = ([] : List Nat) ∧ [5, 6].filter (· != 5) ≠ ([] : List Nat)) := by decide +kernel

/-- Device requests with a PASID, without a context, translated to edge memory, and behind a granule that waits; a device's answer to a
load. -/
theorem witness_EdgePortsTranslateAndServe_devices :
    let root : Port := { maps 0 true with dtbase := 0x1000 }
    let s (p : Port) : State := ({ regs [] with ports := [(96, p)] } : State).storeChecked 0x1000 8 0xC000000000000001
    let d (w : Option Nat) : DevReq := ⟨0, 0x40, w, 8, false, false, false, false⟩
    let r : Req := { edgeReq (.load 8) with fwd := some (0x200000000000, false) }
    let de := (s root).load 0x1000 8
    (de.getLsbD 63 = true ∧ de.getLsbD 62 = true ∧ de.extractLsb' 0 15 = (1 : BitVec 15) ∧ (regs []).load 0 8 = 0) ∧
    (((s root).translate ((s root).port 96) 1 0x40 ⟨true, false⟩).toOption.map (·.pa) = some 0x40 ∧ serves 0x40 = .edge 0) ∧
    ((s root).deviceWaits root.below (d none) 1 ⟨0x40, 0x40, true, true, [⟨1, 0, 0, 0, 0, true, true⟩]⟩ = false ∧
      (s { root with log := [edgeReq (.store 8 5)] }).damagedBytes 0x40 8 = false) ∧
    (let b : State := { s root with ports := [(entryPort 1 0x40, { Port.reset with log := [edgeReq (.store 8 5)] }), (96, root)] }
     b.deviceWaits root.below (d none) 1 ⟨0x40, 0x40, true, true, [⟨1, 0, 0, 0, 0, true, true⟩]⟩ = true) ∧
    (({ root with devOps := [r] } : Port).devOps = [r] ∧ serves r.pa = .pcie 0 ∧ r.drain = false ∧ ({ root with devOps := [r] } : Port).pushes = false) := by
  decide +kernel

/-- A bridge name whose entry is valid for hall 1, which may and may not use bridges, and one whose entry is not; a bearer of the
destination name. -/
theorem witness_EdgePortsTranslateAndServe_bridges :
    let e : Word × Word := (0x8200000000000000, 0x0000000900000007)
    let n : BitVec 32 := BitVec.ofNat 32 (0xF0000000 + 32 * 4 + 3)
    let f : Flight := { mail 3 ⟨0, 0⟩ (.packet (pkt 0 0)) with pos := ueSite 3, dest := .ue 3, name := some n, hall := 1 }
    let s : State := { (regs []).mapTile (fun t => { t with r := { t.r with hall := 1, name := 9 } }) with
      net := [f], ues := [(3, { UePort.reset with table := [(4, e)] })], halls := [(1, { Hall.reset with bridge := true })] }
    firstOf (s.net.filter fun f => f.dest == .ue 3 && s.arrived f) = some f ∧ unitGet (0, 0) (s.ue 3).table 4 = e ∧
    (e.1.getLsbD 63 = true ∧ f.sys = false ∧ (s.hallOf 1).bridge = true ∧ e.1.extractLsb' 57 6 = (1 : BitVec 6)) ∧
    ((unitGet (0, 0) (s.ue 3).table 5).1.getLsbD 63 = false ∧ Hall.reset.bridge = false) ∧
    s.bearer 1 9 = some ⟨0, 0⟩ := by decide +kernel

/-! ### Witnesses: parking, time, repair, bring-up, the step -/

/-- Tile (0, 0) with STATE n and a balloon of 16 entries. -/
def parked (n : Nat) (g : Tile → Tile) : State :=
  State.reset.mapTile fun t => g { t with pr := { t.pr with pctx := BitVec.ofNat 64 n, balloon := 0x4000000000000040 } }
/-- Its thread 0 changed by f. -/
def parkedTh (n : Nat) (f : Thread → Thread) : State := parked n fun t => t.mapTh 0 f

/-- A tile that is not LIVE, a checkpoint, no balloon, an idle tile and one that runs; a slice deadline reached; quiescence with a saved
and a free thread, with and without a PARK to answer, and with a thread that runs; a thread out of LIMIT; threads saved in each state; no
HALLOP, at the root and below a child. -/
theorem witness_TilesParkAndResume :
    let state (s : State) : Nat := (s.tile.pr.pctx.extractLsb' 0 3).toNat
    let idle (s : State) : Bool := (List.finRange 4).all fun j => (s.tile.th j).state == .free && (s.tile.th j).outc == ⟨0, 0, 0, 0⟩
    let run := parkedTh 0 fun h => { h with state := .run }
    let slice := run.mapTile fun t => { t with pr := { t.pr with slice := 0x8000000000000000 } }
    let quiet (s : State) : Bool := state s == 1 && (List.finRange 4).all (fun j => (s.tile.th j).state != .run) && s.tile.ops.isEmpty
    let q := parkedTh 1 fun h => { h with state := .stop }
    let asked := q.mapTile fun t => { t with parkCmd := some (cmd 0 0) }
    let late := (parkedTh 1 fun h => { h with state := .run }).mapTile fun t => { t with parkFrom := 0xFFFFFFFFFFFF0000 }
    let root (w : Word) := State.reset.mapTile fun t => { t with r := { t.r with parent := t.r.parent.set 0 w } }
    let ck : State := { parked 0 id with boot := { Boot.reset with ckctl := 0x1000000000000000 } }
    (state (parked 2 id) ≠ 0 ∧ ck.checkpointing = true ∧ state (parked 0 id) = 0 ∧ State.reset.checkpointing = false) ∧
    ([129, 130].all fun n => let s := parked n id
      (state s == 1 || state s == 2) && s.parkCycles s.foc == 0 && s.tile.pr.pctx.getLsbD 7 && s.tile.parkCmd == none && !s.checkpointing) = true ∧
    (let s := (parked 1 id).mapTile fun t => { t with pr := { t.pr with slice := 0x8000000000000000 } }
     state s = 1 ∧ s.tile.pr.slice.getLsbD 63 = true ∧ s.parkCycles s.foc = 0) ∧
    (state (parked 3 fun t => { t with parkCmd := some (cmd 0 0) }) = 3 ∧ state (parked 3 id) = 3 ∧ ((parked 3 id).tile.parkCmd.getD default) ≠ cmd 0 0 ∧
      ck.net = [] ∧ ck.tile.hallop = none) ∧
    (State.reset.tile.pr.balloon.extractLsb' 60 4 = 0 ∧ run.tile.pr.balloon.extractLsb' 60 4 ≠ 0 ∧ run.tile.monitors = []) ∧
    (idle (parked 0 id) = true ∧ (parked 0 id).tile.ops = [] ∧ (run.tile.th 0).state = .run) ∧
    (slice.tile.pr.slice.getLsbD 63 = true ∧ state slice = 0 ∧
      ((slice.wtime + slice.tile.lag).extractLsb' 0 48 - slice.tile.pr.slice.extractLsb' 0 48).getLsbD 47 = false) ∧
    (quiet q = true ∧ (q.tile.th 0).state ≠ .free ∧ (q.tile.th 1).state = .free ∧ q.tile.parkCmd = none ∧ asked.tile.parkCmd = some (cmd 0 0) ∧
      q.tile.arms = [] ∧ Memory.wf q.mem = true ∧ quiet late = false ∧ quiet (parked 0 id) = false ∧ state (parked 0 id) ≠ 1) ∧
    (state late = 1 ∧ late.th.state = .run ∧ (late.tile.pr.budget.extractLsb' 0 24).toNat ≤ late.parkCycles late.foc ∧ late.tile.holding late.tid = false) ∧
    ([TState.run, .waitv, .wtag, .stop, .halt].all fun t => state (parkedTh 2 fun h => { h with state := .saved, savedAs := t }) == 2) = true ∧
    (State.reset.tile.hallop = none ∧ State.reset.net = [] ∧ (root 0xC0000000).tile.r.parent[0].extractLsb' 26 4 = 0 ∧
      (root 0xC4000000).tile.r.parent[0].extractLsb' 26 4 = 1 ∧ (cmd 0 0x23).value.setWidth 8 = (0x23 : BitVec 8)) := by decide +kernel

/-- A packet at a tile whose state is n, with the ring pointers (tail, head) and k entries not acknowledged. -/
def diverted (n : Nat) (tail head : BitVec 32) (k : Nat) : State :=
  { parked n fun t => { t with balWait := k, pr := { t.pr with balptr := tail ++ head } } with
    net := [mail 0 ⟨3, 0⟩ (.packet (pkt 0 0))] }

/-- A ring with room and a full one; an empty ring; an entry to acknowledge; an entry to deliver with and without cells; a timer that is
due and one that is off; TCTL values; a period that begins in a field whose tile spent tokens. -/
theorem witness_BalloonsTimersAndTokens :
    let f := mail 0 ⟨3, 0⟩ (.packet (pkt 0 0))
    let room := diverted 2 5 0 1
    let d := diverted 0 1 0 0
    let none_ := d.mapTile fun t => { t with pr := { t.pr with qlim := t.pr.qlim.set 1 0x1000100 } }
    let due := State.reset.mapTile fun t => { t with r := { t.r with timer := 0x8000000000000000 } }
    let x : Field := { Field.reset with tctl := 1, periods := 1, lcyc := 1024, tten := Field.reset.tten.set 0 0x10001 }
    let spent : State := { State.reset.mapTile fun t => { t with pr := { t.pr with toke := 0x0400000100000000 } } with fields := [(0, x)] }
    (room.tile.pr.pctx.extractLsb' 0 3 ≠ 0 ∧ (room.tile.pr.balloon.extractLsb' 60 4).toNat = 4 ∧ room.net = [f] ∧ f.atTile room.foc = true ∧
      f.name = none ∧ (pkt 0 0).payload = [] ∧ Memory.wf room.mem = true) ∧
    (((5 : BitVec 32) + BitVec.ofNat 32 1 - 0).toNat ≠ 2 ^ 4 ∧ ((15 : BitVec 32) + BitVec.ofNat 32 1 - 0).toNat = 2 ^ 4) ∧
    (let e (vc : BitVec 4) : Flight := mail vc ⟨3, 0⟩ (.decr 0x40 1)
     f.whole = true ∧ f.vc ∈ divertedChannels ∧ (e 13).atTile room.foc = true ∧ (e 13).whole = true ∧ (e 5).whole = true ∧ (e 5).name = none) ∧
    (let e := d.mapTile fun t => { t with balSrc := [⟨⟨3, 0⟩, false, true⟩], r := { t.r with hall := 0 } }
     (e.tile.balSrc.headD ⟨e.foc, false, false⟩).decr = true ∧ e.tile.foreign (hdrHall 0) false = false ∧ e.tile.wqFree 0 = true ∧
      e.localFirst e.nextSeq = false ∧ (d.tile.balSrc.headD ⟨d.foc, false, false⟩).decr = false) ∧
    ((diverted 0 3 3 0).tile.pr.pctx.extractLsb' 0 3 = 0 ∧ (diverted 0 3 3 0).tile.balWait = 0 ∧ room.tile.balWait ≠ 0) ∧
    (d.tile.pr.pctx.extractLsb' 0 3 = 0 ∧ Memory.readN d.mem 4096 8 = 0 ∧ (hdrLen 0 + 2) / 2 = 1 ∧ 1 ≤ qcap d.tile 0 ∧
      d.tile.cellTest 0 1 = true ∧ d.tile.findRun 1 = some 0 ∧ none_.tile.cellTest 0 1 = false) ∧
    (due.tile.r.timer.getLsbD 63 = true ∧ ((due.wtime + due.tile.lag).extractLsb' 0 48 - due.tile.r.timer.extractLsb' 0 48).getLsbD 47 = false ∧
      due.tile.pr.pctx.extractLsb' 0 3 = 0 ∧ State.reset.tile.r.timer.getLsbD 63 = false) ∧
    ((1 : Word).toNat ≤ 1 ∧ ¬ (2 : Word).toNat ≤ 1 ∧ Field.reset.tctl.getLsbD 0 = false) ∧
    ((spent.field 0).tctl.getLsbD 0 = true ∧ 1024 * x.periods ≤ (x.lcyc - x.tstart).toNat ∧ spent.tiles = [] ∧ fieldOf spent.foc = 0 ∧
      0 < x.periods ∧ spent.tile.pr.toke.extractLsb' 16 4 = 0 ∧ spent.tile.pr.toke.extractLsb' 32 16 ≠ 0 ∧
      spent.tile.pr.tokm.extractLsb' 32 16 = 0 ∧ spent.tile.pr.tokm.getLsbD 31 = false ∧ 0 < (x.tten[0].extractLsb' 16 14).toNat ∧
      0 < (x.tten[0].extractLsb' 0 8).toNat) := by decide +kernel

/-- A tile 5·2^14 into a frame and one before; a clock that may rise and one that may not; a skewed crossing found at tick 0, and not yet
noted; a window that is over and one that is not; the first, third and second miss of a tile of an intact stair. -/
theorem witness_ClocksKeepWaferTime :
    let c : Coord := ⟨0, 1⟩
    let one (x : Field) : State := { State.reset with fields := [(0, x)], wtime := 98304 }
    let cool : Field := { Field.reset with fclk := 0x1314, coolTicks := 4097 }
    let open_ : Field := { Field.reset with slows := [4096] }
    let ends (x : Field) : Bool := x.slows == [4096] && decide (65536 * (x.closed + 1) + (32768 * 4096 + 4095) / 4096 ≤ 98304)
    let late (n : Nat) : Field := { open_ with misses := [(c, n)] }
    (81920 ≤ (((one { Field.reset with phase := 65536 }).field 0).phase : Int) + 16384 ∧ (Field.reset.phase : Int) + 0 < 81920) ∧
    (let g : State := (at_ (gallerySite 0)).setGallery 0 { Gallery.reset with extra := 81920 }
     isGallery g.foc = true ∧ 81920 ≤ ((g.field 0).phase : Int) + (g.gallery 0).extra ∧ isGallery State.reset.foc = false) ∧
    (4096 < cool.coolTicks ∧ cool.phase = 0 ∧ ({ cool with phase := 65 } : Field).phase ≠ 0 ∧ (cool.fclk.extractLsb' 8 5).toNat < (cool.fclk.extractLsb' 0 5).toNat ∧ Field.reset.coolTicks < 4096) ∧
    (fieldOf c = 0 ∧ State.reset.wtime.toNat % 1048576 = 0 ∧ c ∉ Field.reset.corrections) ∧
    (ends open_ = true ∧ ends { open_ with closed := 1 } = false ∧ open_.misses = [] ∧ Field.reset.slows = []) ∧
    ((late 1).slows = [4096] ∧ ends (late 2) = true ∧ (late 1).fclk.getLsbD 16 = false ∧ (late 1).fclk.getLsbD 17 = false ∧ (late 1).waves = [] ∧
      isCompute c = true ∧ ((one (late 2)).tileAt c).absent = false ∧ (late 1).misses = [(c, 1)] ∧ (late 2).misses = [(c, 2)]) ∧
    (({ one (late 2) with boot := { Boot.reset with ckctl := 0x1000000000000000 } } : State).checkpointing = true ∧ (one (late 2)).checkpointing = false ∧ (late 2).stair (stairOf c) = stairReset (stairOf c) ∧
      (stairCoords 0 (stairOf c)).all (fun k => placeOf k ((one (late 2)).tileAt k) == logicalPlace k) = true ∧ logicalPlace c < 27) := by
  decide +kernel

/-- REPAIR at a gallery site, at an absent tile, during a checkpoint, at places 3 and 27 of intact stairs; a wave whose next tile is in
focus, parked and idle, with places left and with none, and one that is not; a hall of one tile. -/
theorem witness_RepairShiftsStairsAndRebuildsLines :
    let gone := (at_ ⟨3, 3⟩).mapTile fun t => { t with absent := true }
    let place (c : Coord) : Nat := (at_ c).tile.prow - 29 * (c.y % 112 / 28)
    let w (p : Nat) : Wave := ⟨3, 3, p, ⟨3, 3⟩, [⟨3, 27⟩], none⟩
    let moving (c : Coord) (p : Nat) (g : Tile → Tile) : State :=
      { (at_ c).mapTile fun t => g { t with pr := { t.pr with pctx := 2 } } with fields := [(0, { Field.reset with waves := [w p] })] }
    let still (s : State) : Bool := s.tile.pr.pctx.extractLsb' 0 3 == 2 && s.tile.ops.isEmpty && s.tile.copies.isEmpty && s.tile.wq.isEmpty &&
      s.tile.monitors.isEmpty
    let ck : State := { at_ ⟨3, 3⟩ with boot := { Boot.reset with ckctl := 0x1000000000000000 } }
    let hall := State.reset.mapTile fun t => { t with r := { t.r with hall := 1 } }
    (isCompute (at_ (gallerySite 0)).foc = false ∧ gone.tile.absent = true ∧ (gone.field 0).waves = [] ∧ ck.checkpointing = true ∧
      isCompute ck.foc = true ∧ ck.tile.absent = false ∧ (at_ ⟨3, 3⟩).checkpointing = false) ∧
    (place ⟨3, 3⟩ = 3 ∧ place ⟨3, 27⟩ = 27 ∧ (((at_ ⟨3, 3⟩).field 0).stair 3).extractLsb' 62 2 = 0 ∧
      (stairCoords 0 3).all (fun k => placeOf k ((at_ ⟨3, 3⟩).tileAt k) == logicalPlace k) = true) ∧
    (((moving ⟨3, 27⟩ 27 id).field 0).waves = [w 27] ∧ 128 * (27 % 112 / 28) + 3 % 128 = (w 27).stair ∧ (⟨3, 27⟩ : Coord) ≠ (w 27).lost ∧
      place ⟨3, 27⟩ = (w 27).place ∧ still (moving ⟨3, 27⟩ 27 id) = true ∧ (w 27).place - 1 ≠ (w 27).failed ∧ (w 27).held.contains ⟨3, 27⟩ = true ∧
      (w 27).held.contains ⟨3, 26⟩ = false) ∧
    (still (moving ⟨3, 4⟩ 4 id) = true ∧ place ⟨3, 4⟩ = (w 4).place ∧ (w 4).place - 1 = (w 4).failed) ∧
    (still (moving ⟨3, 27⟩ 27 fun t => { t with wq := [⟨0, [], false⟩] }) = false ∧ place ⟨3, 27⟩ ≠ (w 26).place) ∧
    (hall.net = [] ∧ hall.hallTiles 1 = [⟨0, 0⟩] ∧ (hall.tileAt ⟨0, 0⟩).absent = false ∧ ¬ (1 = 0 ∨ 4 < 1)) := by decide +kernel

def le (n v : Nat) : List (BitVec 8) := (List.range n).map fun i => BitVec.ofNat 8 (v / 256 ^ i)
/-- A placement record of a hall of 16 by 16 with one tile, which has entry table chunks, and one packet for it; its head as R64 gives it. -/
def recordOf (version : Nat) : List (BitVec 8) :=
  le 4 0x4C505946 ++ le 2 version ++ le 2 0 ++ le 2 16 ++ le 2 16 ++ le 4 1 ++ le 4 1 ++ le 1 1 ++ le 1 0 ++ le 2 1 ++ le 16 0 ++ le 8 104 ++
  le 2 0 ++ le 14 0 ++
  (le 2 0 ++ le 2 0 ++ le 4 7 ++ le 4 1 ++ le 4 0) ++
  (le 2 5 ++ le 2 0 ++ le 4 16 ++ le 8 0x10000 ++ le 8 0xFFFF000700000040) ++
  (le 2 0 ++ le 2 0 ++ le 4 0 ++ le 8 0x101 ++ le 8 0 ++ le 16 5)
def initial : Packet := ⟨0x101, 0, [5, 0], false⟩
/-- Tile (0, 0) in hall 1. -/
def hall1 : State := State.reset.mapTile fun t => { t with r := { t.r with hall := 1 } }
def found (ok : Bool) : BootFindings := ⟨ok, ok, ok, [], [], [], [], false, true⟩

/-- A record that is taken, one of another magic number and one of another version; its packet on its way; the wafer at power-on and in
minimal mode, after three failed boots and before the watchdog's time; features. -/
theorem witness_LaunchAndBootBringTheWaferUp :
    let p : Placement := ⟨0, 16, 16, 1, 1, 0, [⟨64, 0, 0, 7, [], [], [], [], some 0x10000, [0xFFFF000700000040], [], [], [], none, none, []⟩], [(0, 0, 0, initial)]⟩
    let waits : State := { hall1 with halls := [(1, { Hall.reset with waves := [(0, 0, 0, initial)] })] }
    let b := Boot.reset
    hall1.readPlacement 1 (recordOf 1) = .ok p ∧ hall1.readPlacement 1 (recordOf 2) = .error 4 ∧
    ((recordOf 1).take 4 = [0x46, 0x59, 0x50, 0x4C] ∧ (recordOf 2).getD 4 0 ≠ 1 ∧ ([] : List (BitVec 8)).take 4 ≠ [0x46, 0x59, 0x50, 0x4C]) ∧
    (hall1.hallTiles 1 = [⟨0, 0⟩] ∧ (hall1.tileAt ⟨0, 0⟩).absent = false ∧ (hall1.hallOf 1).waves = [] ∧
      (waits.hallOf 1).waves = [(0, 0, 0, initial)] ∧ waits.stewardBusy (waits.stewardOf 1) [⟨0, 0⟩] = false ∧ (waits.hallBox 1).1 = 0 ∧
      (waits.hallBox 1).2.1 = 0 ∧ isCompute ⟨0 + 0, 0 + 0⟩ = true) ∧
    ((found true).powerCycle = false ∧ b.powered = true ∧ b.minimal = none ∧ b.logInUse = none ∧ (found true).retained = true ∧
      (found true).links = [] ∧ (found true).failed = [] ∧ (found true).ports = [] ∧ (found true).places = []) ∧
    (b.minimalReason (found false) 0 = some 1 ∧ Tab.wf flashBlank b.flash = true ∧ b.image = none ∧ (b.bootst.extractLsb' 2 2).toNat = 0 ∧ b.bootst.getLsbD 16 = false ∧
      ({ b with bootst := 12 } : Boot).bootst.extractLsb' 2 2 = 3) ∧
    (b.bootst.getLsbD 1 = false ∧ 65536 * b.boottmo.toNat ≤ (0x40000000 : Word).toNat ∧ State.reset.wtime.toNat < 65536 * b.boottmo.toNat) ∧
    (({ b with minimal := some 1 } : Boot).minimal = some 1 ∧ b.accWritten = (false, false) ∧ (0 : Word) &&& ~~~(Config.featuresOffered.setWidth 64) = 0 ∧
      ({ b with accWritten := (true, true) } : Boot).accWritten.1 = true) := by decide +kernel

/-- A flash image from address a: its bytes but for those that an erased flash has. -/
def flashOf : Nat → List (BitVec 8) → List Host.Cell
  | _, [] => []
  | a, x :: l => if x = 0xFF then flashOf (a + 1) l else (a, x) :: flashOf (a + 1) l
theorem flashOf_low (a k : Nat) (l : List (BitVec 8)) (h : k < a) : Tab.get flashBlank (flashOf a l) k = 0xFF := by
  induction l generalizing a with
  | nil => rfl
  | cons x l ih =>
    simp only [flashOf]; split
    · exact ih _ (by omega)
    · simp [Tab.get, h, flashBlank]
theorem flashOf_get (a i : Nat) (l : List (BitVec 8)) : Tab.get flashBlank (flashOf a l) (a + i) = l.getD i 0xFF := by
  induction l generalizing a i with
  | nil => rfl
  | cons x l ih =>
    simp only [flashOf]; split
    · next h =>
      cases i with
      | zero => simp [flashOf_low (a + 1) a l (by omega), h]
      | succ i => simpa [Nat.add_assoc, Nat.add_comm 1 i] using ih (a + 1) i
    · cases i with
      | zero => simp [Tab.get]
      | succ i =>
        have h1 : ¬ a + (i + 1) < a := by omega
        simp only [Tab.get, h1, if_false]
        simpa [Nat.add_assoc, Nat.add_comm 1 i] using ih (a + 1) i
theorem flashOf_bytes (b : Boot) (l : List (BitVec 8)) (h : b.flash = flashOf 0 l) (a n : Nat) :
    b.flashBytes a n = (l.drop a ++ List.replicate n 0xFF).take n := by
  apply List.ext_getElem?
  intro i
  have hg := fun k => flashOf_get 0 k l
  simp only [Nat.zero_add] at hg
  simp only [Boot.flashBytes, h, hg, List.getElem?_map, List.getElem?_take, List.getElem?_append, List.getElem?_drop]
  by_cases hi : i < n
  · by_cases hl : i < (l.drop a).length
    · have : a + i < l.length := by simp at hl; omega
      simp [hi, List.getD, this, hl]; omega
    · have : l.length ≤ a + i := by simp at hl; omega
      have h3 : l.length ≤ i + a := by omega
      have h4 : i - (l.length - a) < n := by omega
      simp [hi, List.getD, this, hl, h3, h4, List.getElem?_replicate]
  · simp [hi]

/-- A key of modulus 2^4096 - 1 and exponent 1, under which a signature is the encoded message itself, and its digest. -/
def testKey : List (BitVec 8) := List.replicate 512 0xFF ++ List.replicate 511 0 ++ [1]
def testDigest : Nat := 0x81a7fe1af107abfca727a14d9c0c4524657414e5d7339e04d437ee9491fc9bd36b6e57b562d697b6c21d74bacd6c09c397e1242ea8bb375fbca770e49504a3d4
/-- The header of a bank of version 1 whose body is that key, and its encoded message, worked out with another implementation of SHA-512. -/
def testHeader : List (BitVec 8) := le 4 0x5A314246 ++ le 4 1 ++ le 8 1024 ++ beBytes 64 testDigest ++ List.replicate 432 0
def testSignature : List (BitVec 8) := beBytes 512
  0x33747d5c77502a345fb7bd3bec563a15690ce9ab271799df29d2f4066077b3391d28e07d649a93d89d1bda98901b5fc457c652915378cbdc8e34c2f6c402f833eae87ab3b6a593d15263e6a87904ee3c330cf3bafcf6922b183b1f32996b6ab34e36e9ed54cbbdd58c1c2bf1822e3f3f8eaa4e98c0d06af333ecadec41cdea7bfa4f33cf55a4d893e34da2aeea2ba75c753ab0c670d9d5f5590847ec9c1f4a1087e8450195881a36e47459e743ded376d4038973c5ee771f6a49bac5f67342497c7d08dccb9c2e624d7cecb477b81db5fd31c118c5c68c176b63ebe17e2e7d59b08779be052e480b8e12379191d974a2a1e5c0f0b4a905617b42a20bc4de1a41b95ff9f9c3803cc5233945ddcc305dae30f3c81c3617130f49803b555ee17f7c84f423734b0e95dab0a760e7f5792fc18cb00128dd5b149db343cf2fa588141c24c0753509d462c8c3caf8370595745b93cd1c4b4cdecb6823ad87445ded1547996372bfe308a562c93ef8362d17552ae18e4c857df928d1e6b74ab57c40dc1e7c247731fc9adcb4fadb5b2cebd3aa17cc52651165a22a6f0ef6ee56eb481589d0aac1d78ca83bc69f458e79e0e110a7fb3a77005c8990f6ff1c6527dd895f0cddf2d90dc1ae37d607b58a6ba21beffa350a3282ad558e11b8eb61c958ea47ac697853b4f52c8928be55762eba421949eace0c4002ae980c7cdcd3ca41a9dbc
def flashed : Boot :=
  { Boot.reset with flash := flashOf 0 (testHeader ++ testSignature ++ testKey), keyDigest := BitVec.ofNat 512 testDigest }
theorem test_sha512 : sha512 testKey = beBytes 64 testDigest := by decide +kernel
/-- The bank passes the checks of R458. -/
theorem test_bank_signature : flashed.bankSigned false = true := by
  have hk : flashed.flashBytes 1024 1024 = testKey := by rw [flashOf_bytes flashed _ rfl]; decide +kernel
  have hn : flashed.bankLength false = 1024 := by
    simp only [Boot.bankLength, Boot.flashNat, flashOf_bytes flashed _ rfl]; decide +kernel
  have h0 : bankBase false + 1024 = 1024 := rfl
  simp only [Boot.bankSigned, Boot.bankForm, hn, h0, hk, test_sha512, Boot.flashNat, flashOf_bytes flashed _ rfl]
  decide +kernel
theorem test_logs_erased : flashed.logInUse = none ∧ flashed.bankForm true = false := by
  simp only [Boot.bankForm, Boot.bankLength, Boot.logInUse, Boot.logCopy, Boot.logGen, Boot.flashNat, flashOf_bytes flashed _ rfl]
  decide +kernel
/-- A boot of bank A with both logs erased. -/
theorem witness_LaunchAndBootBringTheWaferUp_boots :
    flashed.pickBank = .ok false ∧ flashed.minimalReason (found true) 0 = none ∧ flashed.logInUse = none ∧ flashed.image = none ∧
    (flashed.bootst.extractLsb' 2 2).toNat = 0 ∧ flashed.bootst.getLsbD 16 = false ∧ flashed.powered = true ∧ flashed.minimal = none := by
  have hb : flashed.bankSigned true = false := by rw [Boot.bankSigned, test_logs_erased.2]; rfl
  have h : flashed.pickBank = .ok false := by
    have hv : (flashed.minVer.toNat : Nat) = 0 := rfl
    simp only [Boot.pickBank, Boot.bankValid, test_bank_signature, hb, hv]; rfl
  exact ⟨h, by simp [Boot.minimalReason, h, test_logs_erased.1, found], test_logs_erased.1, rfl, rfl, rfl, rfl, rfl⟩

/-- A wafer in each checkpoint state, with the GO of a management write taken and with every tile parked; RESUME; a failing supply before
and after 12 ms; power gone. -/
theorem witness_CheckpointsAndPowerFailuresSaveTheWafer :
    let ck (w : Word) : State := { parked 2 id with boot := { Boot.reset with ckctl := w, ckParked := [⟨0, 0⟩] } }
    let st (s : State) : Nat := (s.boot.ckctl.extractLsb' 60 2).toNat
    let out : State := { State.reset with wtime := 480000, boot := { Boot.reset with failAt := some 0 } }
    (State.reset.boot.goPending = false ∧ st State.reset = 0 ∧ st (ck 0x3000000000000000) = 3 ∧ State.reset.boot.failAt = none ∧
      isCompute ⟨0, 0⟩ = true ∧ (State.reset.tileAt ⟨0, 0⟩).absent = false ∧ (State.reset.tileAt ⟨0, 0⟩).pr.pctx = 0) ∧
    (st (ck 0x1000000000000000) = 1 ∧ (ck 0x1000000000000000).parkingDone = true ∧ State.reset.parkingDone = false ∧ Memory.wf (ck 0).mem = true) ∧
    (st (ck 0x2000000000000000) = 2 ∧ (ck 0x2000000000000000).boot.ckctl.getLsbD 62 = false ∧ (ck 0x6000000000000000).boot.ckctl.getLsbD 62 = true ∧
      st (ck 0x6000000000000000) = 2 ∧ (ck 0x6000000000000000).boot.ckParked = [⟨0, 0⟩] ∧
      ((ck 0x6000000000000000).tileAt ⟨0, 0⟩).pr.pctx.extractLsb' 0 3 = 2) ∧
    ((List.range 80).all (fun f => ((ck 0x2000000000000000).field f).doomed == []) = true ∧
      ((ck 0x6000000000000000).boot.ckParked = [⟨0, 0⟩]) ∧
      (let e := ck 0x7000000000000000
       st e = 3 ∧ e.boot.ckctl.getLsbD 62 = true ∧ e.boot.ckParked = [⟨0, 0⟩] ∧ (e.tileAt ⟨0, 0⟩).pr.pctx.extractLsb' 0 3 = 2 ∧
        ({ e with boot := { e.boot with ckParked := [] } } : State).boot.ckParked = [])) ∧
    (let e := ck 0x2000000000000000
     isCompute e.foc = true ∧ e.tiles = [] ∧ e.ports = [] ∧ e.tile.acc = [] ∧ e.tile.cst = [] ∧ e.tile.knots = [] ∧ e.mem = [] ∧ e.desc = []) ∧
    (let c : Coord := ⟨0, 1⟩
     let e : State := { State.reset with fields := [(0, { Field.reset with doomed := [c] })], boot := { Boot.reset with ckctl := 0x2000000000000000 } }
     st e = 2 ∧ e.boot.ckctl.getLsbD 62 = false ∧ (List.range 80).all (fun f => (e.field f).doomed == (if f = fieldOf c then [c] else [])) = true ∧
      isCompute c = true ∧ (e.tileAt c).absent = false ∧ (e.tileAt c).pr.pctx.extractLsb' 0 3 = 0 ∧ logicalPlace c < 27 ∧
      (e.field (fieldOf c)).stair (stairOf c) = stairReset (stairOf c) ∧
      (stairCoords (fieldOf c) (stairOf c)).all (fun k => placeOf k (e.tileAt k) == logicalPlace k) = true) ∧
    (out.boot.failAt = some 0 ∧ 480000 ≤ (out.wtime - 0).toNat ∧ (State.reset.wtime - 0).toNat < 480000) ∧
    (({ State.reset with boot := { Boot.reset with powered := false } } : State).agenda = []) := by decide +kernel

theorem witness_DecodeReadsBackEveryEncoding :
    Instr.wf (.addiLiteral 6 0 0x100000000) = true ∧ encode (.addiLiteral 6 0 0x100000000) ≠ [] := by decide +kernel
theorem witness_WordsDecodeAsTheChaptersWriteThem : readWords [0xFFE08408] = .ok (.addi 4 4 (-8)) := by decide +kernel

/-- Thread 0 about to run the instruction of words l, changed by f. -/
def loaded (l : List (BitVec 32)) (f : Thread → Thread) : State :=
  ((List.range l.length).zip l).foldl (fun (s : State) x => s.store (s.pa (0x10000 + 4 * x.1)) 4 (x.2.zeroExtend 64)) (th f)

/-- ADDI g4, g4, -8 and VST at PC 0; an erased word; a turn, unconfirmed operations, a register that awaits an answer; an event on the
agenda. -/
theorem witness_StepRunsTheFetchedInstruction :
    let s := loaded [0xFFE08408] id
    let read (s : State) : Except DecodeErr Instr :=
      decode (BitVec.ofNat 32 (Memory.readN s.mem (s.pa 0x10000) 4)) 0 0 0 0
    let b := loaded [0xFFE08408] fun h => { h with skipBkpt := true }
    let w := loaded [0xFFE08408] fun h => { h with pending := 0x10 }
    let q : State := s.mapTile fun t => { t with ops := [running (.ok 0 [])] }
    (s.frameDue = false ∧ s.offered = false ∧
      ({ s with fields := [(0, { Field.reset with phase := 65536 })] } : State).frameDue = true ∧ (Instr.boot default).ofUnit = true) ∧
    (s.agenda = [] ∧ s.boot.powered = true ∧ s.boot.minimal = none ∧ s.turn = false ∧ s.ready s.foc s.tid = true ∧ s.th.deferred = none ∧
      s.th.cycles < s.tile.limit ∧ s.tile.pstate = 0 ∧ s.th.heldWait = false ∧ s.atBreak = false) ∧
    (read s = .ok (.addi 4 4 (-8)) ∧ lengthOf 0xFFE08408 = 1 ∧ s.th.waitsFor (.addi 4 4 (-8)) = false ∧ s.unconfirmed = false) ∧
    (b.th.skipBkpt = true ∧ b.ready b.foc b.tid = true ∧ w.th.waitsFor (.addi 4 4 (-8)) = true ∧ w.ready w.foc w.tid = true) ∧
    (q.unconfirmed = true ∧ q.ready q.foc q.tid = true ∧ (Instr.addi 4 4 (-8)).confined = true ∧ Instr.ret.confined = false ∧
      Instr.ret.isEngine = false) ∧
    ((decode 0xFFFFFFFF 0 0 0 0).toOption = none ∧ 4096 < 4095 + lengthOf 0x00000609) ∧
    ((Instr.frameMarker [] []).fetched = false ∧ (s.tileAt ⟨0, 0⟩).absent = false) := by
  decide +kernel

theorem witness_StepKeepsStoresCanonical : State.reset.stored = true := by decide +kernel
/-- No input of any router holds more than four flits at reset. -/
theorem witness_MessagesEnterAndCrossTheMesh_limit : ∀ (x : Coord) (d v : Nat), State.reset.flitsIn x d v ≤ 4 := by
  intro x d v; simp [State.flitsIn, State.reset]

/-! ### Single operations on the manual's worked examples -/

/-- A line of elements of w bits, the first lowest. -/
def lineOf (w : Nat) (xs : List Nat) : Line := BitVec.ofNat 512 (xs.foldr (fun x a => x + 2 ^ w * a) 0)
/-- Line l with descriptor d at local address a of the tile in focus. -/
def withLine (s : State) (a : Nat) (d : Desc) (l : Line) : State := (s.storeLine (s.pa a) l).setDesc (s.pa a) d
/-- Thread 0 running with v registers that hold lines under tags. -/
def vregs (l : List (VReg × Line × Desc)) : State :=
  th fun h => l.foldl (fun (h : Thread) x => { h with v := h.v.setIfInBounds x.1.toNat x.2.1, vtag := h.vtag.setIfInBounds x.1.toNat x.2.2 }) h
/-- What an operation of thread 0 finds: its flags and writes. -/
def finds (s : State) (e : Engine) (o : EOp) : Option (Flags × List Eff) :=
  match runOp s (qop 1 e o) with
  | some (.ok x) => some x
  | _ => none
def flagsOf (s : State) (e : Engine) (o : EOp) : Option Flags := (finds s e o).map (·.1)
/-- The element i, w bits wide, that the operation writes to v register d. -/
def elemOf (s : State) (e : Engine) (o : EOp) (d : VReg) (w i : Nat) : Option Nat :=
  (finds s e o).bind fun x => x.2.findSome? fun
    | .v r l _ => if r = d then some ((l.extractLsb' (w * i) w).toNat) else none
    | _ => none
def tagOf (s : State) (e : Engine) (o : EOp) (d : VReg) : Option Desc :=
  (finds s e o).bind fun x => x.2.findSome? fun
    | .v r _ t => if r = d then some t else none
    | _ => none
/-- The state with the accumulator rows, knots and cells that a matrix operation writes. -/
def accAfter (s : State) (o : MatOp) : State :=
  ((((finds s .matrix (.mat o)).map (·.2)).getD []).foldl (fun (s : State) x => match x with
    | .acc i w => s.mapTile fun t => { t with acc := Tab.set accBlank t.acc i w }
    | .knot i r => s.mapTile fun t => { t with knots := Tab.set knotBlank t.knots i r }
    | .line a l d => withLine s a d l
    | .merge a mask l d _ => withLine s a (d.getD (s.descAt (s.pa a / 64))) ((s.loadLine (s.pa a) &&& ~~~mask) ||| (l &&& mask))
    | _ => s) s)
/-- The state that exec answers. -/
def after (o : Out) : State := match o with
  | .next s => s
  | _ => State.reset

/-- The conversions of 300 (the example of R200). -/
theorem test_fcvt : let s := regs [(7, 0x43960000)]
    let t (s : State) := s.mapTh fun h => { h with tcm := true }
    let n := after (exec (.fcvt .e4m3 .f32 6 7) s)
    let o := after (exec (.fcvt .e4m3 .f32 6 7) (t s))
    let z := after (exec (.fpConvertXForm .e4m3 .f32 false ⟨.none, some .rtz⟩ 6 7) (t s))
    (n.gr 6 = 0x79 ∧ n.th.fflags = 1) ∧ (o.gr 6 = 0x78 ∧ o.th.fflags = 5) ∧ z.gr 6 = 0x77 ∧ z.th.fflags = 5 := by decide +kernel
/-- The ninth and the tenth CALL (the example of R208). -/
theorem test_call_spills : let s := th fun h => { h with rstore := [1, 2, 3, 4, 5, 6, 7, 8], rsp := 0xF800, rsbase := 0xF800, rslim := 0xF7F8 }
    let a := after (exec (.call 10) s)
    let b := after (exec (.call 10) a)
    (a.th.rsp = 0xF7F8 ∧ a.th.rstore.length = 8 ∧ Memory.readN a.mem (a.pa 0xF7F8) 8 = 1 ∧ a.th.pc = 10) ∧
    b.th.rsp = 0xF7F8 ∧ b.th.state = .stop ∧ (b.th.record.map fun r => (r.info.cause, r.info.faddr)) = some (0x0A, 0xF7F0) := by decide +kernel
/-- The extra value of an E2M1 line (the example of R84). -/
theorem test_e2m1_extra_value :
    let s := vregs [(1, 0x8D, 0x02507E06)]
    let o : EOp := .vec (.cvt .rne 2 1 0 .fp32)
    elemOf s .vector o 2 32 0 = some 0xBFC00000 ∧ elemOf s .vector o 2 32 1 = some 0x40800000 := by decide +kernel
/-- The tree of a reduction (the example of R101): 2^24, 1, 1, 0 and 1, 1, 2^24, 0. -/
theorem test_reduction_tree :
    let s := (vregs [(1, lineOf 32 [0x4B800000, 0x3F800000, 0x3F800000, 0], 0x02007F01),
      (2, lineOf 32 [0x3F800000, 0x3F800000, 0x4B800000, 0], 0x02007F01)]).mapTh fun h => { h with m := h.m.set 1 0xF }
    let o (a : VReg) : EOp := .vec (.red .sum ⟨false, .rne, 1, 0, none⟩ 3 a)
    elemOf s .vector (o 1) 3 32 0 = some 0x4B800000 ∧ elemOf s .vector (o 2) 3 32 0 = some 0x4B800001 := by decide +kernel
/-- A block of 64 FP32 values quantised, and read back (the example of R259). -/
def block : State :=
  vregs [(0, lineOf 32 [0x447A0000, 0x40400000, 0xBC23D70A], 0x02007F01), (1, 0, 0x02007F01), (2, 0, 0x02007F01), (3, 0, 0x02007F01)]
theorem test_quantised_block :
    let o : EOp := .vec (.qnt .rne 8 0 false .e4m3)
    let r := vregs [(8, lineOf 8 [0x78, 0x34, 0x81], 0x02008104)]
    let d : EOp := .vec (.dqnt .rne 8 8 .fp32)
    ([0, 1, 2, 3].map (elemOf block .vector o 8 8) = [some 0x78, some 0x34, some 0x81, some 0] ∧ tagOf block .vector o 8 = some 0x02008104 ∧
      flagsOf block .vector o = some 3) ∧
    [0, 1, 2, 3].map (elemOf r .vector d 8 32) = [some 0x44800000, some 0x40400000, some 0xBC000000, some 0] := by decide +kernel
/-- An FP32 atomic add to 2^24 (the example of R153), twice: the tie goes to the even value, and each returns 2^24. -/
theorem test_atomic_add_rounds : let s := put (regs []) 0x40 4 0x4B800000
    s.amoAt (s.pa 0x40) .fadd 4 0x3F800000 0 = some (0x4B800000, 0x4B800000, 1) := by decide +kernel
/-- RTEX2 at router (199, 40) beside the absent tile (200, 40) (the example of R122). -/
theorem test_route_exception_word : rtexWord false 0 200 1023 0 40 = 0xA00C87FE00014000 := by decide +kernel
/-- The acceptance of a packet of eight cells (the example of R136), which takes two of its own reservation. -/
theorem test_cells_are_shared :
    let t := (tl [] fun t => { t with runs := [⟨0, 6, 0, false, true, false, false, ⟨3, 0⟩⟩],
                                      pr := { t.pr with qlim := t.pr.qlim.set 0 0x1000008 } }).tile
    t.used 0 = 6 ∧ t.cellTest 0 8 = true ∧ t.cellTest 0 218 = true ∧ t.cellTest 0 219 = false := by decide +kernel
/-- The steward of the hall of block columns 5 to 10 and all rows (the example of R380). -/
theorem test_steward :
    let t (c : Coord) : Coord × Tile := (c, { Tile.reset c with r := { TileRegs.reset with hall := 1 } })
    let s : State := { State.reset with tiles := [t ⟨80, 0⟩, t ⟨175, 1119⟩] }
    s.hallBox 1 = (80, 0, 96, 1120) ∧ s.nearestGallery 1 = 32 := by decide +kernel
/-- The record of a STACK_LIMIT (the example of R388): hall 5, entry 0, PC 5, thread 0. -/
theorem test_record_words :
    ((recordWords false 5 0 0 0 ⟨0x0A, 5, 0xECA0, 0xEDC0, 0xED00, 0x120, 0⟩ 0 0).take 6) =
      [0x000500000005000A, 0xECA0, 0xEDC0, 0xED00, 0x120, 0] := by decide +kernel
/-- COORD and STAIRST after a shift (the example of R452): tile (300, 497) is replaced, the places from 21 on have moved down. -/
theorem test_shifted_stair :
    let t (y : Nat) : Coord × Tile := (⟨300, y⟩, { Tile.reset ⟨300, y⟩ with prow := (Tile.reset ⟨300, y⟩).prow + 1 })
    let s : State := { State.reset with tiles := (List.range 7).map fun k => t (497 + k) }
    coordReg ⟨300, 500⟩ (s.tileAt ⟨300, 500⟩).prow = 0x36088961F4 ∧ fieldOf ⟨300, 497⟩ = 34 ∧
    s.stairWord 34 (stairOf ⟨300, 497⟩) 2 21 none = 0xAA0000001FDFFFFF := by decide +kernel
/-- TSEL at the root of the example of R342: four descents choose the edges 2, 0, 0 and 1. -/
def root (vl : List Nat) : State :=
  let edge (k n w p child : Nat) : Nat := child * 2 ^ 96 + (vl.getD k 0) * 2 ^ 80 + p * 2 ^ 64 + w * 2 ^ 32 + n
  let s := ((regs []).focus ⟨2, 1⟩ 0).mapTile fun t => { t with r := { t.r with hall := 1 } }
  let t : Tile := { Tile.reset ⟨0, 0⟩ with r := { TileRegs.reset with hall := 1 } }
  withLine { s with tiles := (⟨0, 0⟩, t) :: s.tiles.filter (·.1 != ⟨0, 0⟩) } 0x800 0x02000010
    (lineOf 128 [0x00000007000000000000050300000009, edge 0 4 0x40000000 0x3F00 0x00200C10, edge 1 4 0x3F800000 0x3E80 0x00201050,
      edge 2 0 0 0x3E80 0x00201010])
/-- What the TSEL of step 7 returns. -/
def chosen (vl : List Nat) : Option Word :=
  (finds (root vl) .tree (.tree (.sel 5 0x00200820 7))).bind fun x => x.2.findSome? fun
    | .ret _ w _ => some w
    | _ => none
theorem test_descents : [[0, 0, 0], [0, 0, 1], [1, 0, 1], [2, 0, 1]].map chosen =
    [some 0x0020101000008820, some 0x00200C1000000020, some 0x00200C1000000020, some 0x0020105000004420] := by decide +kernel

/-- Column 0 of row 1 of the streamed product (the example of R283): 2^38 · 1 + 2 · 0.5 is halfway between FP48 numbers; NX. -/
theorem test_streamed_product :
    let bf (x : Nat) : FpVal := fpDecode .bf16 false x
    let a := [0x5280, 0, 0, 0x4000, 0, 0, 0, 0, 0, 0, 0, 0, 0, 0, 0, 0].map bf
    let b := [0x3F80, 0, 0, 0x3F00, 0, 0, 0, 0, 0, 0, 0, 0, 0, 0, 0, 0].map bf
    let c := dot16 false a b
    (cvtElem .fp32 false rneMode c.1).1 = 0x52800000 ∧ c.2 = 1 := by decide +kernel
/-- The knot row of the spline chapter's example, in MODE m, and its coefficients 0 to 4. -/
def knotOf (m : Nat) : BitVec 128 := BitVec.ofNat 128 (2 ^ 127 + m * 2 ^ 104 + 2 * 2 ^ 96 + 0x40000000 * 2 ^ 64 + 0x3F000000 * 2 ^ 32)
def fp32Of (x : Nat) : FpVal := fpDecode .fp32 false x
/-- x = 0.5 gives 2.0; x = 2.0 lies outside the grid: 3.0 in CLAMP, +0 in ZERO, 5.0 in EXTEND. -/
theorem test_spline_cell :
    let out (m x : Nat) : Nat := (round32 (cellOut (knotOf m) ([0, 0x3F800000, 0x40000000, 0x40400000, 0x40800000].map fp32Of) (fp32Of x)).1).toNat
    knotCheck (knotOf 0 &&& ~~~((1 : BitVec 128) <<< 127)) = 0 ∧ out 0 0x3F000000 = 0x40000000 ∧ out 0 0x40000000 = 0x40400000 ∧
      out 1 0x40000000 = 0 ∧ out 2 0x40000000 = 0x40A00000 := by decide +kernel
/-- The gradients of x = 0.5 in slots 1 to 4, and the refined row and coefficients of the same example. -/
theorem test_spline_gradient_and_refinement :
    let g := gradStep (knotOf 0) (fp32Of 0x3F000000) (fp32Of 0x3F800000) (List.replicate 16 (0, 0))
    let r := refined .fp32 2 ([0, 0x3F800000, 0x40000000, 0x40400000, 0x40800000].map fp32Of)
    (g.1.map fun x => x.1.toNat).take 6 = [0, 0x3E2AAAAB, 0x3F2AAAAB, 0x3E2AAAAB, 0, 0] ∧
    (r.map (·.1)).take 8 = [0x3F000000, 0x3F800000, 0x3FC00000, 0x40000000, 0x40200000, 0x40400000, 0x40600000, 0] ∧
    refinedKnot (knotOf 0) = BitVec.ofNat 128 (2 ^ 127 + 4 * 2 ^ 96 + 0x40800000 * 2 ^ 64 + 0x3E800000 * 2 ^ 32) := by decide +kernel

/-! ### Single steps -/

theorem test_add_wraps : (after (exec (.add 3 5 6) (regs [(5, 0xFFFFFFFFFFFFFFFF), (6, 2)]))).gr 3 = 1 := by decide +kernel
theorem test_g0_reads_zero : (after (exec (.addi 0 5 7) (regs [(5, 1)]))).gr 0 = 0 := by decide +kernel
theorem test_subsat_saturates : (after (exec (.subsat 3 5 6) (regs [(5, 0x8000000000000000), (6, 1)]))).gr 3 = 0x8000000000000000 := by decide +kernel
theorem test_mulhsu_mixes_signs : (after (exec (.mulhsu 3 5 6) (regs [(5, 0xFFFFFFFFFFFFFFFF), (6, 0xFFFFFFFFFFFFFFFF)]))).gr 3 = 0xFFFFFFFFFFFFFFFF := by
  decide +kernel
theorem test_div_overflows_to_itself : (after (exec (.div 3 5 6) (regs [(5, 0x8000000000000000), (6, 0xFFFFFFFFFFFFFFFF)]))).gr 3 =
    0x8000000000000000 := by decide +kernel
theorem test_rem_takes_the_dividend_sign : (after (exec (.rem 3 5 6) (regs [(5, 0xFFFFFFFFFFFFFFF9), (6, 2)]))).gr 3 = 0xFFFFFFFFFFFFFFFF := by
  decide +kernel
theorem test_divu_by_zero_traps : let t := after (exec (.divu 3 5 0) (regs [(5, 9), (3, 4)]))
    t.th.state = .stop ∧ t.gr 3 = 4 ∧ (t.th.record.map fun r => (r.info.cause, r.info.op0, r.info.op1)) = some (0x15, 9, 0) := by decide +kernel
theorem test_ror : (after (exec (.rori 3 5 4) (regs [(5, 0x1F)]))).gr 3 = 0xF000000000000001 := by decide +kernel
theorem test_cmpi_is_signed : (after (exec (.cmpiLt 2 5 (-5)) (regs [(5, 0xFFFFFFFFFFFFFFFA)]))).th.p.getLsbD 2 = true := by decide +kernel
theorem test_ld_sign_extends : (after (exec (.ld 4 3 5 (-1)) (put (regs [(5, 0x101)]) 0x100 1 0x80))).gr 3 = 0xFFFFFFFFFFFFFF80 := by decide +kernel
theorem test_st_is_little_endian : let t := after (exec (.st 1 3 5 0) (regs [(5, 0x100), (3, 0x1234)]))
    Memory.read t.mem (t.pa 0x100) = 0x34 ∧ Memory.read t.mem (t.pa 0x101) = 0x12 := by decide +kernel
/-- ST with a post-increment stores the base register as it was (R210). -/
theorem test_st_post_increment : let t := after (exec (.stXForm .none 3 5 5 (.post 8)) (regs [(5, 0x100)]))
    Memory.readN t.mem (t.pa 0x100) 8 = 0x100 ∧ t.gr 5 = 0x108 := by decide +kernel
theorem test_alloc : (after (exec (.alloc 3) (regs [(31, 0x10000)]))).gr 31 = 0xFFD0 := by decide +kernel
theorem test_loop_of_no_passes_skips : (after (exec (.loop 5 3) (regs [(6, 9)]))).th.pc = 4 := by decide +kernel
theorem test_csrrw_of_rmode : let t := after (exec (.csrw 3 5 0) (regs [(5, 0x105)]))
    t.gr 3 = 0x1F00 ∧ t.th.rmode = 0x105 := by decide +kernel
theorem test_brk_stops_behind_itself : let t := after (exec (.brkXForm .none 7) (regs []))
    t.th.state = .stop ∧ t.th.resumeSkip = 3 ∧ (t.th.record.map (·.info.cause)) = some 0x17 := by decide +kernel
/-- A POST to a name goes out as a decrement on its channel, and waits there for the name's place (R228, R131). -/
theorem test_post : let t := after (exec (.post .none 7 8 true 13 1) (regs [(7, 0x100), (8, 0x1000)]))
    (t.tile.seeks.map fun i => (i.1, i.2.addr, i.2.msg)) = [(13, .name 0x100, .decr 0x1000 1)] := by decide +kernel
/-- VADDS of INT8 saturates, VADD wraps (R255). -/
theorem test_vector_sums :
    let s := vregs [(1, lineOf 8 [100, 0x9C], 0x02007F07), (2, lineOf 8 [100, 0x9C], 0x02007F07)]
    let o (k : IntVOp) : EOp := .vec (.int k ⟨false, .rne, 0, 0, none⟩ 3 1 (.v 2))
    [0, 1].map (elemOf s .vector (o .adds) 3 8) = [some 0x7F, some 0x80] ∧ [0, 1].map (elemOf s .vector (o .add) 3 8) = [some 200, some 0x38] := by
  decide +kernel
/-- A frame marker: TICKS and LCYC advance (R445). -/
theorem test_marker_advances_time : let t := after (exec (.frameMarker [] []) State.reset)
    t.wtime = 1 ∧ (t.field 0).lcyc = 20 := by decide +kernel
/-- A word stored where the machine fetches runs as the first instruction: ADDI g4, g4, -8. -/
theorem test_fetched_word_runs : (after (step (State.reset.withFetchWord 32 0xFFE08408))).gr 4 = 0xFFFFFFFFFFFFFFF8 := by decide +kernel

end Sys2Proof.Tests
end

/-! ### What a wafer reset leaves (O60) -/

namespace Sys2Proof.Machine

/-- At reset no tile is listed, so each stands at the value of an unlisted one. -/
theorem State.tileAt_reset (c : Coord) : State.reset.tileAt c = State.reset.blankTile c := by
  unfold State.tileAt
  split
  · next h => rw [h]; rfl
  · rfl

theorem Tile.th_of_replicate (t : Tile) (h : Thread) (ht : t.threads = Vector.replicate 4 h) (i : Tid) : t.th i = h := by
  simp [Tile.th, ht]

theorem State.blankTile_th (s : State) (c : Coord) (i : Tid) : (s.blankTile c).th i = Thread.reset :=
  Tile.th_of_replicate _ _ rfl i

/-- The reset limits of the sixteen channels: two of them have a capacity of 16 cells (R135). -/
theorem PrivRegs.reset_qlim (f : Nat) :
    (PrivRegs.reset f).qlim.toList = List.replicate 14 0x1000000 ++ [0x1000010, 0x1000010] := by
  simp [PrivRegs.reset]; decide

/-- Settles O60: every unit is unlisted at reset, so each register is read off the reset record of its unit. -/
theorem resetLeavesWhatTheRegisterMapsSay : Obligations.ResetLeavesWhatTheRegisterMapsSay := by
  unfold Obligations.ResetLeavesWhatTheRegisterMapsSay
  refine ⟨rfl, fun _ => rfl, rfl, fun c => ?_, fun f => ⟨rfl, rfl, rfl, rfl, fun k => ⟨rfl, rfl⟩⟩⟩
  simp only [State.tileAt_reset, State.blankTile_th]
  exact ⟨rfl, rfl, rfl, rfl, rfl, rfl, rfl, rfl, rfl, rfl, rfl, PrivRegs.reset_qlim _, rfl, rfl, rfl, rfl, rfl, rfl, rfl, rfl,
    fun _ => ⟨rfl, rfl, rfl, rfl, rfl, rfl, rfl, rfl, rfl⟩⟩

end Sys2Proof.Machine

/-! ### A step runs the fetched instruction (O58) -/

namespace Sys2Proof.Machine

/-- A word of the instruction SRAM, written as the bytes that hold it. -/
theorem State.iword_eq (s : State) (i : Nat) :
    s.iword i = if i < 4096 then BitVec.ofNat 32 (Memory.readN s.mem (s.pa (0x10000 + 4 * i)) 4) else 0 := by
  unfold State.iword State.load
  split
  · exact BitVec.setWidth_ofNat_of_le (by decide) _
  · rfl

theorem State.fetch_ok (s : State) (i : Instr) (hd : decode (s.iword s.th.pc.toNat) (s.iword (s.th.pc.toNat + 1))
      (s.iword (s.th.pc.toNat + 2)) (s.iword (s.th.pc.toNat + 3)) (s.iword (s.th.pc.toNat + 4)) = .ok i)
    (hl : s.th.pc.toNat + lengthOf (s.iword s.th.pc.toNat) ≤ 4096) : s.fetch = some i := by
  unfold State.fetch; simp only [hd, if_pos hl]

theorem State.fetch_none (s : State) (h : (∀ i, decode (s.iword s.th.pc.toNat) (s.iword (s.th.pc.toNat + 1))
      (s.iword (s.th.pc.toNat + 2)) (s.iword (s.th.pc.toNat + 3)) (s.iword (s.th.pc.toNat + 4)) ≠ .ok i) ∨
      4096 < s.th.pc.toNat + lengthOf (s.iword s.th.pc.toNat)) : s.fetch = none := by
  unfold State.fetch
  dsimp only
  split
  · next i hd =>
    rcases h with h | h
    · exact absurd hd (h i)
    · exact if_neg (by omega)
  · rfl

/-- Nothing takes the place of the focus thread's next instruction at its boundary. -/
structure State.Clear (s : State) : Prop where
  sound : s.th.deferred = none
  inBudget : s.th.cycles < s.tile.limit
  inTime : s.tile.pstate = 1 → s.parkCycles s.foc < s.tile.limit
  notHeld : s.th.heldWait = false ∨ s.th.wait ≠ .none
  portTook : s.offered = false
  noBreak : s.atBreak = false ∨ s.th.skipBkpt = true

/-- A thread whose boundary is clear runs what it fetches, or traps as illegal what does not decode. -/
theorem issue_of_clear (s : State) (h : s.Clear) : issue s = match s.fetch with
    | some i => runInstr i s
    | none => if s.unconfirmed then .next s.stall else .next s.trapIllegal := by
  have hb : ¬ s.tile.limit ≤ s.th.cycles := by have := h.inBudget; omega
  have ht : ¬ (s.tile.pstate = 1 ∧ s.tile.limit ≤ s.parkCycles s.foc) := fun ⟨a, b⟩ => by have := h.inTime a; omega
  have hh : (s.th.heldWait && (s.th.wait == .none)) = false := by
    rcases h.notHeld with e | e
    · simp [e]
    · simp [beq_eq_false_iff_ne.mpr e]
  have hk : (s.atBreak && !s.th.skipBkpt) = false := by rcases h.noBreak with e | e <;> simp [e]
  unfold issue
  simp only [h.sound, hb, ht, hh, h.portTook, hk]
  rfl

theorem Thread.overruns_iff (t u : Thread) (i : Instr) : t.overruns u i = true ↔
    u.state = .stop ∨ (i.isEngine = false ∧ (u.loop ≠ t.loop ∨ u.srseq ≠ t.srseq)) := by
  simp [Thread.overruns]

/-! What `runInstr` does: it waits for pending registers, waits for unconfirmed operations, or executes. -/

theorem runInstr_pending (s : State) (i : Instr) (h : s.th.waitsFor i = true) : runInstr i s = .next s.stall := by
  simp [runInstr, h]

theorem runInstr_confirmed (s : State) (i : Instr) (hw : s.th.waitsFor i = false) (hu : s.unconfirmed = false) :
    runInstr i s = mapNext (fun u => if s.th.skipBkpt then u.mapTh (·.issued) else u) (exec i s) := by
  unfold runInstr
  simp only [hw, hu]
  cases exec i s <;> rfl

theorem runInstr_waits_for_confirmation (s : State) (i : Instr) (hw : s.th.waitsFor i = false) (hu : s.unconfirmed = true)
    (hc : i.confined = false) (he : i.isEngine = false) : runInstr i s = .next s.confirmWait := by
  simp [runInstr, hw, hu, hc, he]

/-- An instruction that may run ahead of unconfirmed operations is held back where it would overrun them (R53). -/
theorem runInstr_ahead (s u : State) (i : Instr) (hw : s.th.waitsFor i = false) (hu : s.unconfirmed = true)
    (hc : i.confined = true ∨ i.isEngine = true) (hs : s.th.skipBkpt = false) (hx : exec i s = .next u) :
    runInstr i s = .next (if s.th.overruns u.th i then s.heldBack i else u) := by
  have hgo : (s.unconfirmed && !i.confined && !i.isEngine) = false := by rcases hc with h | h <;> simp [h]
  unfold runInstr
  rw [hw, hgo, hx, hu, hs]
  cases h : s.th.overruns u.th i <;> simp [h]

/-- With an empty agenda, the focus thread issues when it has the turn, may issue, and no marker is due. -/
theorem step_issues (s : State) (ha : s.agenda = []) (hp : s.boot.powered = true) (hm : s.boot.minimal = none)
    (hf : s.frameDue = false) (ht : s.turn = false) (hr : s.ready s.foc s.tid = true) :
    step s = issue { s with turn := true } := by
  simp [step, ownStep, ha, hp, hm, hf, ht, hr]

theorem step_marker (s : State) (ha : s.agenda = []) (hp : s.boot.powered = true) (hm : s.boot.minimal = none)
    (hf : s.frameDue = true) : step s = marker s := by
  simp [step, ownStep, ha, hp, hm, hf]

theorem step_event (s : State) (c : Coord) (j : Tid) (e : Instr) (rest : List (Coord × Tid × Option Instr))
    (ha : s.agenda = (c, j, some e) :: rest) (hp : s.boot.powered = true) (hm : s.boot.minimal = none) (hf : e.fetched = false)
    (hu : (s.tileAt c).absent = false ∨ e.ofUnit = true) : step s = takePlace (c, j, e) { s with agenda := rest } := by
  have ht : (({ s with agenda := rest } : State).tileAt c).absent = (s.tileAt c).absent := rfl
  have hx : ((s.tileAt c).absent && !e.ofUnit) = false := by rcases hu with h | h <;> simp [h]
  simp [step, agendaTurn, ha, hp, hm, hf, ht, hx]

/-- Settles O58: a clear boundary issues what the fetch reads, and `runInstr` says what an instruction waits for. -/
theorem stepRunsTheFetchedInstruction : Obligations.StepRunsTheFetchedInstruction := by
  unfold Obligations.StepRunsTheFetchedInstruction
  intro s i rest c j e t pc word read s1 runs turns held
  have hword : ∀ k, s1.iword (pc + k) = word k := fun k => State.iword_eq s1 _
  refine ⟨?_, ?_, ?_⟩
  · rintro ⟨⟨ha, hp, hm⟩, hf, ht, hr, ho, hd, hc, hq, hw, hb⟩
    have hclear : s1.Clear := ⟨hd, hc, hq, hw, ho, hb⟩
    have hstep := step_issues s ha hp hm hf ht hr
    rw [issue_of_clear s1 hclear] at hstep
    constructor
    · intro hread hlen
      have hfetch : s1.fetch = some i := by
        refine State.fetch_ok s1 i ?_ ?_
        · show decode (s1.iword (pc + 0)) (s1.iword (pc + 1)) (s1.iword (pc + 2)) (s1.iword (pc + 3)) (s1.iword (pc + 4)) = _
          simp only [hword]; exact hread
        · show pc + lengthOf (s1.iword (pc + 0)) ≤ 4096
          rw [hword]; exact hlen
      have hrun : step s = runInstr i s1 := by rw [hstep, hfetch]
      have hth : s1.th = t := rfl
      rw [hrun]
      refine ⟨runInstr_pending s1 i, fun hw hu hs => ?_, fun hw hu hs => ?_, runInstr_waits_for_confirmation s1 i,
        fun hw hu hc hs u hx => ?_⟩
      · rw [runInstr_confirmed s1 i hw hu, hth, hs]
        cases exec i s1 <;> rfl
      · rw [runInstr_confirmed s1 i hw hu, hth, hs]; rfl
      · rw [runInstr_ahead s1 u i hw hu hc hs hx]
        simp only [Thread.overruns_iff]
        rfl
    · intro hbad
      have hfetch : s1.fetch = none := by
        refine State.fetch_none s1 ?_
        show (∀ x, decode (s1.iword (pc + 0)) (s1.iword (pc + 1)) (s1.iword (pc + 2)) (s1.iword (pc + 3)) (s1.iword (pc + 4)) ≠ .ok x) ∨
          4096 < pc + lengthOf (s1.iword (pc + 0))
        simp only [hword]; exact hbad
      rw [hstep, hfetch]
      show (s.unconfirmed = false → (if s.unconfirmed then _ else _) = _) ∧ (s.unconfirmed = true → (if s.unconfirmed then _ else _) = _)
      exact ⟨fun h => by rw [h]; rfl, fun h => by rw [h]; rfl⟩
  · rintro ⟨ha, hp, hm⟩ hf
    rw [step_marker s ha hp hm hf]; rfl
  · intro ha hp hm hf hu o
    rw [step_event s c j e rest ha hp hm hf hu]
    unfold takePlace
    constructor
    · rintro m r rfl; rfl
    · intro hne
      cases e with
      | frameMarker m r => exact absurd rfl (hne m r)
      | _ => rfl
end Sys2Proof.Machine

/-! ### Vector instructions enter their queue (O30) -/

namespace Sys2Proof.Machine

/-- Vector instruction i issues with operation o: it enters the queue where there is room, and else waits (R52, R245). -/
def State.issuesVec (s : State) (i : Instr) (o : VecOp) (n adv : Nat) : Prop :=
  (s.engineRoom .vector = true → s.enters i .vector (.vec o) n false { s.th.outc with tops := s.th.outc.tops + 1 } adv) ∧
    (s.engineRoom .vector = false → exec i s = .next (s.stallEach 0x08))

/-- An instruction whose meaning is `issueVec` issues when its guard holds. -/
theorem State.issuesVec_of_issueVec {s : State} {gd : Guard} {i : Instr} {o : VecOp} {n adv : Nat}
    (hg : guardHolds gd s.th = true) (h : exec i s = issueVec gd o n adv s) : s.issuesVec i o n adv := by
  have hi : exec i s = if s.engineRoom .vector then .next ((((s.enqueue .vector (.vec o) n false).mapTh (·.addTop)).mapTh
      fun t => { t with srseq := t.srseq + BitVec.ofNat 64 adv }).retire n) else .next (s.stallEach 0x08) := by
    rw [h]; exact guarded_on _ _ hg
  constructor
  · intro hr
    exact State.enters_top s i .vector (.vec o) n adv (by rw [hi, if_pos hr])
  · intro hr
    rw [hi, if_neg (by simp [hr])]

/-- A reduction under mode 5 waits for the thread's earlier vector operations (log 59). -/
theorem vred_waits (o : RedVOp) (x : Option VX) (d a : VReg) (s : State) (hg : guardHolds (vxGuard x) s.th = true)
    (hm : (vmodOf s x d).mode = .rsr) (hb : s.vecBusy = true) : vred o x d a s = .next s.stall := by
  unfold vred; rw [guarded_on _ _ hg, if_pos ⟨hm, hb⟩]

theorem vred_issues (o : RedVOp) (x : Option VX) (d a : VReg) (s : State) (hg : guardHolds (vxGuard x) s.th = true)
    (h : (vmodOf s x d).mode ≠ .rsr ∨ s.vecBusy = false) : vred o x d a s =
      issueVec .none (.red o (vmodOf s x d) d a) (vxWords x)
        (if (dFormat (s.th.vt a)).isInt && ((vmodOf s x d).rfmt.getD (dFormat (s.th.vt a))).isInt then 0
          else srAdvance (vmodOf s x d).mode 128) s := by
  have hw : ¬ ((vmodOf s x d).mode = .rsr ∧ s.vecBusy = true) := by
    rintro ⟨hm, hb⟩
    rcases h with h | h
    · exact h hm
    · simp [h] at hb
  unfold vred; rw [guarded_on _ _ hg, if_neg hw]

/-- Settles O30: each instruction's meaning is `issueVec` of its operation, or, for a reduction, becomes so once it need not wait. -/
theorem vectorArithmeticEntersItsQueue : Obligations.VectorArithmeticEntersItsQueue := by
  unfold Obligations.VectorArithmeticEntersItsQueue
  intro s x gd rm d a r m b g part fmt xv md mc y n gx top full issues rounds int cmp fp red um
  refine ⟨fun hx => ?_, fun hg => ?_⟩
  · replace hx : guardHolds (vxGuard x) s.th = true := hx
    have hn : n = vxWords x := by cases x <;> rfl
    have vec {i : Instr} {o : VecOp} {adv : Nat} (h : exec i s = issueVec (vxGuard x) o (vxWords x) adv s) : issues i o n adv :=
      State.issuesVec_of_issueVec hx (hn ▸ h)
    have reduces {i : Instr} {o : RedVOp} (h : exec i s = vred o x d a s) : red i o := by
      refine ⟨fun hm hb => h.trans (vred_waits o x d a s hx hm hb), fun hf => ?_⟩
      have hi := h.trans (vred_issues o x d a s hx hf)
      simp only [Bool.and_eq_true, ← hn] at hi
      exact State.issuesVec_of_issueVec (guardHolds_none _) hi
    exact ⟨⟨vec rfl, vec rfl, vec rfl, vec rfl, vec rfl, vec rfl, vec rfl, vec rfl, vec rfl, vec rfl, vec rfl, vec rfl, vec rfl, vec rfl, vec rfl⟩,
      ⟨vec rfl, vec rfl, vec rfl, vec rfl, vec rfl, vec rfl, vec rfl, vec rfl⟩,
      ⟨vec rfl, vec rfl, vec rfl, vec rfl, vec rfl, vec rfl, vec rfl, vec rfl, vec rfl, vec rfl, vec rfl, vec rfl⟩,
      reduces rfl, reduces rfl, reduces rfl, vec rfl, vec rfl, vec rfl, vec rfl⟩
  · have vec {i : Instr} {o : VecOp} {adv : Nat} (h : exec i s = issueVec gd o 3 adv s) : issues i o 3 adv :=
      State.issuesVec_of_issueVec hg h
    exact ⟨vec rfl, vec rfl, vec rfl⟩

end Sys2Proof.Machine

/-! ### Values that the vector engine returns to g registers (O32) -/

namespace Sys2Proof.Machine

theorem popCount_eq_countP (a : Word) (n : Nat) : popCount a n = (List.range n).countP a.getLsbD := by
  induction n with
  | zero => rfl
  | succ n ih => simp [popCount, ih, List.range_succ, List.countP_cons]

theorem splitLine_getD (l : Line) (w n i : Nat) (h : i < n) :
    (splitLine l w n).getD i 0 = l.toNat / 2 ^ (w * i) % 2 ^ w := by
  simp [splitLine, h, Nat.shiftRight_eq_div_pow]

/-- Lanes and lane width of a register with this tag (R246). -/
theorem tagLanes_eq (d : Desc) : tagLanes d =
    (if dValid d = true ∧ (dFormat d).isNumeric = true then (dFormat d).count else 8,
      512 / (if dValid d = true ∧ (dFormat d).isNumeric = true then (dFormat d).count else 8)) := by
  unfold tagLanes
  by_cases h : dValid d = true ∧ (dFormat d).isNumeric = true
  · simp [h, Fmt.width]
  · simp [h]

theorem tagLanes_pos (d : Desc) : 0 < (tagLanes d).1 := by
  unfold tagLanes
  cases dFormat d <;> simp [Fmt.isNumeric, Fmt.count] <;> split <;> decide

/-- A signed element's value is the two's complement reading of its bits (R68). -/
theorem intElem_signed (f : Fmt) (x : Nat) (hf : f = .int8 ∨ f = .int16 ∨ f = .int32) (hx : x < 2 ^ f.width) :
    intElem f x = (BitVec.ofNat f.width x).toInt := by
  rcases hf with rfl | rfl | rfl <;>
    (simp only [intElem, Fmt.width, Fmt.count] at *; rw [BitVec.toInt_eq_toNat_cond]; simp only [BitVec.toNat_ofNat]; omega)

theorem intElem_uint8 (x : Nat) : intElem .uint8 x = x := rfl

theorem Fmt.isInt_iff (f : Fmt) : f.isInt = true ↔ f = .uint8 ∨ f = .int8 ∨ f = .int16 ∨ f = .int32 := by
  cases f <;> simp [Fmt.isInt]

/-- The bits of the lane that VEXT's index picks, modulo the number of lanes (R275). -/
def Thread.laneBits (t : Thread) (a : VReg) (idx : Nat) : Nat :=
  (t.vr a).toNat / 2 ^ ((tagLanes (t.vt a)).2 * (idx % (tagLanes (t.vt a)).1)) % 2 ^ (tagLanes (t.vt a)).2

theorem extValue_of_laneBits (t : Thread) (a : VReg) (idx : Nat) : extValue t a idx =
    if dValid (t.vt a) && (dFormat (t.vt a)).isInt then BitVec.ofInt 64 (intElem (dFormat (t.vt a)) (t.laneBits a idx))
    else BitVec.ofNat 64 (t.laneBits a idx) := by
  have h : (splitLine (t.vr a) (tagLanes (t.vt a)).2 (tagLanes (t.vt a)).1).getD (idx % (tagLanes (t.vt a)).1) 0 = t.laneBits a idx :=
    splitLine_getD _ _ _ _ (Nat.mod_lt _ (tagLanes_pos _))
  rw [← h]; rfl

/-- VEXT's value: the element, sign-extended for a signed integer format (R275). -/
theorem extValue_eq (t : Thread) (a : VReg) (idx : Nat) : extValue t a idx =
    if dValid (t.vt a) = true ∧ (dFormat (t.vt a) = .int8 ∨ dFormat (t.vt a) = .int16 ∨ dFormat (t.vt a) = .int32)
    then BitVec.ofInt 64 (BitVec.ofNat (tagLanes (t.vt a)).2 (t.laneBits a idx)).toInt else BitVec.ofNat 64 (t.laneBits a idx) := by
  rw [extValue_of_laneBits]
  have hx : t.laneBits a idx < 2 ^ (tagLanes (t.vt a)).2 := Nat.mod_lt _ (Nat.two_pow_pos _)
  by_cases hs : dValid (t.vt a) = true ∧ (dFormat (t.vt a) = .int8 ∨ dFormat (t.vt a) = .int16 ∨ dFormat (t.vt a) = .int32)
  · obtain ⟨hv, hf⟩ := hs
    have hi : (dFormat (t.vt a)).isInt = true := (Fmt.isInt_iff _).mpr (.inr hf)
    have hn : (dFormat (t.vt a)).isNumeric = true := by rcases hf with h | h | h <;> rw [h] <;> rfl
    have hw : (tagLanes (t.vt a)).2 = (dFormat (t.vt a)).width := by simp [tagLanes, hv, hn]
    rw [hw] at hx ⊢
    simp [hv, hi, hf, intElem_signed _ _ hf hx]
  · rw [if_neg hs]
    split
    · next hv =>
      rw [Bool.and_eq_true, Fmt.isInt_iff] at hv
      have hu : dFormat (t.vt a) = .uint8 := by tauto
      rw [hu, intElem_uint8]
      exact BitVec.ofInt_natCast _ _
    · rfl

theorem vecReturn_busy (u : Option Guard) (d : GReg) (v : State → Word) (s : State) (hg : guardHolds (guardOf u) s.th = true)
    (hb : s.vecBusy = true) : vecReturn u d v s = .next (s.stallOn 0x03) := by
  unfold vecReturn; rw [guarded_on _ _ hg, if_pos hb]

theorem vecReturn_ready (u : Option Guard) (d : GReg) (v : State → Word) (s : State) (hg : guardHolds (guardOf u) s.th = true)
    (hb : s.vecBusy = false) : vecReturn u d v s = .next ((s.setG d (v s)).retire (vxWords u)) := by
  unfold vecReturn; rw [guarded_on _ _ hg, if_neg (by simp [hb])]

theorem narrowTag_iff (d : Desc) : narrowTag d = true ↔ dValid d = true ∧ dFormat d = .e2m1 := by simp [narrowTag]

/-- VEXT traps on an E2M1 tag once the engine is done with the thread, and is else a returned value (R254, R275; log 29). -/
theorem execVext_eq (u : Option Guard) (d : GReg) (a : VReg) (ix : VIdx) (s : State) (hg : guardHolds (guardOf u) s.th = true) :
    execVext u d a ix s = if s.vecBusy = false ∧ narrowTag (s.th.vt a) = true then .next (s.trap Cause.formatMismatch 0)
      else vecReturn u d (fun s => extValue s.th a (vidxOf s ix)) s := by
  unfold execVext
  rw [hg]
  simp

/-- Settles O32: `vecReturn` waits for the engine, and each value is the one that the spec reads. -/
theorem vectorValuesReturnToScalarRegisters : Obligations.VectorValuesReturnToScalarRegisters := by
  unfold Obligations.VectorValuesReturnToScalarRegisters
  intro s u d a ix m n idx tag f lanes w x signed returns hg
  replace hg : guardHolds (guardOf u) s.th = true := by cases u <;> exact hg
  have hn : n = vxWords u := by cases u <;> rfl
  have hidx : idx = vidxOf s ix := by cases ix <;> rfl
  have returned {i : Instr} {v : State → Word} (h : exec i s = vecReturn u d v s) : returns i (v s) :=
    ⟨fun hb => h.trans (vecReturn_busy u d v s hg hb), fun hb => by rw [hn]; exact h.trans (vecReturn_ready u d v s hg hb)⟩
  have hext : exec (.vext u d a ix) s = _ := execVext_eq u d a ix s hg
  refine ⟨fun hb => ?_, fun hb hv hf => ?_, fun hf hb => ?_, ?_, ?_, returned (v := fun s => s.th.mr m) rfl⟩
  · rw [hext, if_neg (by simp [hb])]
    exact vecReturn_busy u d _ s hg hb
  · rw [hext, if_pos ⟨hb, (narrowTag_iff _).mpr ⟨hv, hf⟩⟩]; rfl
  · have hv : extValue s.th a idx = if signed then BitVec.ofInt 64 (BitVec.ofNat w x).toInt else BitVec.ofNat 64 x := by
      rw [extValue_eq, Thread.laneBits, tagLanes_eq]
    rw [hn, ← hv, hidx]
    exact (hext.trans (if_neg fun h => hf ((narrowTag_iff _).mp h.2))).trans (vecReturn_ready u d _ s hg hb)
  · have h : (s.th.vt a).zeroExtend 64 = BitVec.ofNat 64 tag.toNat := BitVec.eq_of_toNat_eq (by simp [tag])
    rw [← h]
    exact returned (v := fun s => (s.th.vt a).zeroExtend 64) rfl
  · rw [← popCount_eq_countP]
    exact returned (v := fun s => BitVec.ofNat 64 (popCount (s.th.mr m) 64)) rfl

end Sys2Proof.Machine

/-! ### What keeps a thread's registers

The registers of a thread as one value, so that `State.keeps` is an equation; then what the shared operations keep. -/

namespace Sys2Proof.Machine

/-- Every register of a thread that `State.keeps` speaks of. -/
def Thread.regs (t : Thread) :=
  (t.g, t.p, t.v, t.vtag, t.m, t.rmode, t.fflags, t.tcm, t.slim, t.rsp, t.rsbase, t.rslim, t.rstore, t.srseq)

theorem State.keeps_iff (s t : State) : s.keeps t ↔ t.th.regs = s.th.regs ∧ t.mem = s.mem ∧ t.desc = s.desc ∧
    ∀ i, i ≠ s.tid → t.tile.th i = s.tile.th i := by
  simp only [State.keeps, State.still, Thread.regs, Prod.mk.injEq]
  tauto

@[simp] theorem Thread.next_regs (t : Thread) (n : Nat) : (t.next n).regs = t.regs := by
  unfold Thread.next; dsimp only; (repeat' split) <;> rfl
@[simp] theorem Thread.stepped_regs (t : Thread) : t.stepped.regs = t.regs := by unfold Thread.stepped; split <;> rfl
@[simp] theorem Thread.advance_regs (t : Thread) (n : Nat) : (t.advance n).regs = t.regs := by
  unfold Thread.advance
  rw [Thread.stepped_regs]
  exact Thread.next_regs t n

theorem State.keeps_trans {s t u : State} (h : s.keeps t) (k : t.keeps u) (hi : t.tid = s.tid) : s.keeps u := by
  rw [State.keeps_iff] at *
  obtain ⟨hr, hm, hd, ho⟩ := h
  obtain ⟨kr, km, kd, ko⟩ := k
  exact ⟨kr.trans hr, km.trans hm, kd.trans hd, fun i hne => (ko i (by rwa [hi])).trans (ho i hne)⟩

theorem State.keeps_mapTh (s : State) (f : Thread → Thread) (h : (f s.th).regs = s.th.regs) : s.keeps (s.mapTh f) := by
  rw [State.keeps_iff]
  exact ⟨by rw [State.mapTh_th, h], rfl, rfl, fun i hi => State.setTh_other _ _ _ hi⟩

theorem State.cycle_other (s : State) (i : Tid) (hi : i ≠ s.tid) : s.cycle.tile.th i = s.tile.th i := by
  unfold State.cycle
  rw [show ∀ (u : State) f, i ≠ u.tid → (u.mapTh f).tile.th i = u.tile.th i from fun u f h => State.setTh_other _ _ _ h]
  · simp [Tile.th, State.mapTile]
  · simpa using hi

@[simp] theorem State.keeps_cycle (s : State) : s.keeps s.cycle := by
  rw [State.keeps_iff]
  exact ⟨by rw [State.cycle_th]; rfl, rfl, rfl, s.cycle_other⟩

theorem State.keeps_stall (s : State) : s.keeps s.stall :=
  State.keeps_trans s.keeps_cycle (State.keeps_mapTh _ _ rfl) rfl

theorem State.keeps_trapWith (s : State) (c : BitVec 8) (f o0 o1 o2 o3 : Word) : s.keeps (s.trapWith c f o0 o1 o2 o3) :=
  State.keeps_mapTh _ _ rfl

theorem Tile.setTh_th (t : Tile) (i j : Tid) (h : Thread) : (t.setTh i h).th j = if i = j then h else t.th j := by
  unfold Tile.setTh Tile.th
  split
  · next e => subst e; simp
  · next e =>
    have : i.val ≠ j.val := fun k => e (Fin.ext k)
    simp [this]

theorem Tile.mapTh_th (t : Tile) (i j : Tid) (f : Thread → Thread) : (t.mapTh i f).th j = if i = j then f (t.th i) else t.th j :=
  Tile.setTh_th _ _ _ _

@[simp] theorem Tile.count_th (t : Tile) (e : BitVec 8) (n : Word) (i : Tid) : (t.count e n).th i = t.th i := by
  unfold Tile.th; rw [Tile.count_threads]

/-- A cycle leaves the tile but for its threads and performance counters. -/
theorem State.cycle_tile (s : State) : s.cycle.tile =
    { s.tile with threads := s.cycle.tile.threads, r := { s.tile.r with perf := s.cycle.tile.r.perf } } := by
  unfold State.cycle
  simp only [State.mapTh, State.setTh_tile, State.mapTile_tile]
  rw [Tile.count_eq]
  rfl

/-- A thread in RUN goes on in RUN past its instruction, unless it is stepping (R383). -/
theorem Thread.advance_state (t : Thread) (n : Nat) (h : t.stepping = false) : (t.advance n).state = t.state := by
  unfold Thread.advance Thread.stepped
  rw [if_neg (by simp [h])]
  unfold Thread.next; dsimp only; (repeat' split) <;> rfl

end Sys2Proof.Machine

/-! ### Copy tags (O26) -/

namespace Sys2Proof.Machine

theorem trailZeros_le (n m : Nat) : trailZeros n m ≤ n := by
  induction n generalizing m with
  | zero => exact Nat.le_refl _
  | succ n ih =>
    unfold trailZeros
    split
    · omega
    · have := ih (m / 2); omega

theorem testBit_of_lt_trailZeros (n m j : Nat) (h : j < trailZeros n m) : m.testBit j = false := by
  induction n generalizing m j with
  | zero => simp [trailZeros] at h
  | succ n ih =>
    unfold trailZeros at h
    split at h
    · omega
    · next ho =>
      cases j with
      | zero => simpa using ho
      | succ j => rw [Nat.testBit_succ]; exact ih _ _ (by omega)

theorem testBit_trailZeros (n m : Nat) (h : trailZeros n m < n) : m.testBit (trailZeros n m) = true := by
  induction n generalizing m with
  | zero => omega
  | succ n ih =>
    unfold trailZeros at h ⊢
    split
    · next ho => simpa using ho
    · next ho =>
      rw [if_neg ho] at h
      rw [Nat.add_comm, Nat.testBit_succ]
      exact ih _ (by omega)

/-- `ctz64` is the lowest bit set, or 64. -/
theorem ctz64_spec (a : Word) : ctz64 a ≤ 64 ∧ (∀ j, j < ctz64 a → a.getLsbD j = false) ∧ (ctz64 a < 64 → a.getLsbD (ctz64 a) = true) :=
  ⟨trailZeros_le _ _, fun j hj => testBit_of_lt_trailZeros _ _ j hj, fun h => testBit_trailZeros _ _ h⟩

/-- WTAG's condition as R235 has it: all of the mask's tags are DONE, or one of them is, if there is any. -/
theorem tagCond_iff (all : Bool) (m tags : Word) :
    tagCond all m tags = true ↔ if all then m &&& ~~~tags = 0 else m = 0 ∨ m &&& tags ≠ 0 := by
  cases all
  · simp [tagCond, BitVec.and_comm]
  · simp only [tagCond, if_true, beq_iff_eq]
    constructor
    · intro h; rw [← h]; ext j hj; simp +contextual
    · intro h
      ext j hj
      have := congrArg (·.getLsbD j) h
      simp at this ⊢
      intro hm
      simpa [hj, hm] using this

/-- WTAG traps on tags that can never complete, goes on when its condition holds, and else waits (R235, R236). -/
theorem wtag_cases (all : Bool) (m : Word) (n : Nat) (s : State) :
    let live := s.tile.busy ||| s.tile.r.tags
    let never : Prop := if all then m &&& ~~~live ≠ 0 else m ≠ 0 ∧ m &&& live = 0
    (never → wtag all m n s = .next (s.trap Cause.tagInvalid 0)) ∧
      (¬ never → tagCond all m s.tile.r.tags = true → wtag all m n s = .next (s.retire n)) ∧
      (¬ never → tagCond all m s.tile.r.tags = false →
        wtag all m n s = .next (s.cycle.mapTh fun h => { h with state := .wtag, wait := .wtag all m n })) := by
  intro live never
  have hb : (if all then m &&& ~~~live != 0 else m != 0 && m &&& live == 0) = decide never := by
    rw [Bool.eq_iff_iff]
    cases all <;> simp [never]
  unfold wtag
  dsimp only
  rw [hb]
  refine ⟨fun h => by simp [h], fun h hc => by simp [h, hc], fun h hc => by simp [h, hc]⟩

/-- FTAG gives the lowest of its tags that is DONE, and clears it in its clearing form (R235). -/
theorem ftag_eq (clr : Bool) (d : GReg) (m : Word) (n : Nat) (s : State) : ∃ u : State,
    ftag clr d m n s = .next ((u.setG d (BitVec.ofNat 64 (ctz64 (s.tile.r.tags &&& m)))).retire n) ∧
      u.th = s.th ∧ u.mem = s.mem ∧
      ∀ j, u.tile.r.tags.getLsbD j = (s.tile.r.tags.getLsbD j && !(clr && decide (j = ctz64 (s.tile.r.tags &&& m)))) := by
  refine ⟨_, rfl, ?_, ?_, ?_⟩
  · split <;> rfl
  · split <;> rfl
  · intro j
    split
    · next h =>
      obtain ⟨hc, hi⟩ := h
      simp only [State.mapTile_tile, hc]
      by_cases hj : j < 64
      · by_cases hk : j = ctz64 (s.tile.r.tags &&& m)
        · subst hk; simp [hj]
        · simp [hj, hk]; intro _; omega
      · simp [BitVec.getLsbD_of_ge _ _ (Nat.le_of_not_lt hj)]
    · next h =>
      by_cases hk : clr = true ∧ j = ctz64 (s.tile.r.tags &&& m)
      · obtain ⟨hc, hj⟩ := hk
        rw [BitVec.getLsbD_of_ge _ j (by simp [hc] at h; omega)]
        rfl
      · have : (clr && decide (j = ctz64 (s.tile.r.tags &&& m))) = false := by simpa using hk
        simp [this]

theorem Thread.advance_wait (t : Thread) (n : Nat) (h : t.stepping = false) : (t.advance n).wait = t.wait := by
  unfold Thread.advance Thread.stepped
  rw [if_neg (by simp [h])]
  unfold Thread.next; dsimp only; (repeat' split) <;> rfl

/-- A thread whose wait for tags ends: it goes on in RUN past its WTAG of n words (R236). -/
def Thread.woken (t : Thread) (n : Nat) : Thread := ({ t with state := .run, wait := .none } : Thread).advance n

theorem Thread.woken_regs (t : Thread) (n : Nat) : (t.woken n).regs = t.regs := Thread.advance_regs _ _
theorem Thread.woken_pc (t : Thread) (n : Nat) : (t.woken n).pc = (t.next n).pc :=
  (Thread.advance_pc _ _).trans (Thread.next_pc_congr _ _ _ rfl rfl)
theorem Thread.woken_loop (t : Thread) (n : Nat) : (t.woken n).loop = (t.next n).loop :=
  (Thread.advance_loop _ _).trans (Thread.next_congr_loop _ _ _ rfl rfl)
theorem Thread.woken_state (t : Thread) (n : Nat) (h : t.stepping = false) : (t.woken n).state = .run := Thread.advance_state _ _ h
theorem Thread.woken_wait (t : Thread) (n : Nat) (h : t.stepping = false) : (t.woken n).wait = .none := Thread.advance_wait _ _ h

theorem Thread.wtagWake_of_cond (t : Thread) (tags : Word) (all : Bool) (m : Word) (n : Nat) (hs : t.state = .wtag)
    (hw : t.wait = .wtag all m n) (hc : tagCond all m tags = true) : t.wtagWake tags = t.woken n := by
  unfold Thread.wtagWake
  simp [hs, hw, hc, Thread.woken]

theorem Thread.wtagWake_of_not_cond (t : Thread) (tags : Word) (all : Bool) (m : Word) (n : Nat) (hs : t.state = .wtag)
    (hw : t.wait = .wtag all m n) (hc : tagCond all m tags = false) : t.wtagWake tags = t := by
  unfold Thread.wtagWake
  simp [hs, hw, hc]

/-- WTAG_WAKE ends the focus thread's wait when its condition holds (R236). -/
theorem execWtagWake_eq (s : State) (all : Bool) (m : Word) (n : Nat) (hs : s.th.state = .wtag) (hw : s.th.wait = .wtag all m n)
    (hst : s.th.stepping = false) (hc : tagCond all m s.tile.r.tags = true) :
    execWtagWake s = .next ((s.setTh (s.th.woken n)).mapTile (·.count 0x02 1)) := by
  unfold execWtagWake
  rw [Thread.wtagWake_of_cond s.th s.tile.r.tags all m n hs hw hc, hs]
  simp [Thread.woken_state _ _ hst]

/-- Settles O26: each instruction's meaning is `wtag`, `ftag` or `tclr` of its mask. -/
theorem tagOperations : Obligations.TagOperations := by
  unfold Obligations.TagOperations
  intro s d a v dn live waits finds clears
  have waited {all : Bool} {i : Instr} {m : Word} {n : Nat} (h : exec i s = wtag all m n s) : waits all i m n := by
    obtain ⟨htrap, hgo, hwait⟩ := wtag_cases all m n s
    refine ⟨fun hn => h.trans (htrap hn), fun hn hc => h.trans (hgo hn ((tagCond_iff _ _ _).mpr hc)), fun hn hc => ?_⟩
    have hf : tagCond all m s.tile.r.tags = false := by
      rw [← Bool.not_eq_true, tagCond_iff]; exact hc
    refine ⟨_, h.trans (hwait hn hf), State.keeps_trans s.keeps_cycle (State.keeps_mapTh _ _ rfl) rfl, ?_, ?_, ?_⟩ <;>
      rw [State.mapTh_th, State.cycle_th]
  have found {clr : Bool} {i : Instr} {m : Word} {n : Nat} (h : exec i s = ftag clr d m n s) : finds clr i m n := by
    obtain ⟨u, hu, hth, hmem, htags⟩ := ftag_eq clr d m n s
    obtain ⟨hle, hlow, hbit⟩ := ctz64_spec (dn &&& m)
    refine ⟨_, ctz64 (dn &&& m), h.trans hu, hle, hlow, hbit, fun hd => ?_, fun q hq => ?_, fun j => ?_, ?_, ?_⟩
    · rw [State.retire_gr, State.setG_gr_same _ _ _ hd]
    · rw [State.retire_gr, State.setG_gr_other _ _ _ _ hq, State.gr_th, hth]; rfl
    · rw [State.retire_tile]; exact htags j
    · exact hmem
    · exact (State.retire_next s _ n (by simp [hth]) (by simp [hth])).1
  have cleared {i : Instr} {m : Word} {n : Nat} (h : exec i s = tclr m n s) : clears i m n := by
    refine ⟨_, h, State.passes_retire s _ n (State.keeps_mapTile s _ rfl) rfl rfl rfl, ?_, fun j hj => ?_⟩
    · rw [State.retire_tile]; rfl
    · rw [State.retire_tile]; simp [hj, dn]
  refine ⟨waited rfl, waited rfl, waited rfl, waited rfl, found rfl, found rfl, found rfl, found rfl, cleared rfl, cleared rfl,
    fun all m n hs hw hc hst => ?_⟩
  have hth : ((s.setTh (s.th.woken n)).mapTile (·.count 0x02 1)).th = s.th.woken n := by
    rw [State.mapTile_th _ _ (Tile.count_threads _ _ _), State.setTh_th]
  have hk : s.keeps (s.setTh (s.th.woken n)) := State.keeps_mapTh s (·.woken n) (Thread.woken_regs _ _)
  refine ⟨_, execWtagWake_eq s all m n hs hw hst ((tagCond_iff _ _ _).mpr hc),
    ⟨State.keeps_trans hk (State.keeps_mapTile _ _ (Tile.count_threads _ _ _)) rfl, ?_, ?_⟩, ?_, ?_⟩ <;> rw [hth]
  · exact Thread.woken_pc _ _
  · exact Thread.woken_loop _ _
  · exact Thread.woken_state _ _ hst
  · exact Thread.woken_wait _ _ hst

end Sys2Proof.Machine

/-! ### Publishing and the completion of copies (O25) -/

namespace Sys2Proof.Machine

@[simp] theorem Tile.wtagWakes_th (t : Tile) (i : Tid) : t.wtagWakes.th i = (t.th i).wtagWake t.r.tags := by
  simp [Tile.wtagWakes, Tile.th]

/-- Ending waits changes the tile's threads and performance counters alone. -/
theorem Tile.wtagWakes_eq (t : Tile) :
    t.wtagWakes = { t with threads := t.wtagWakes.threads, r := { t.r with perf := t.wtagWakes.r.perf } } := by
  unfold Tile.wtagWakes
  dsimp only
  rw [Tile.count_eq]

@[simp] theorem Tile.wtagWakes_tags (t : Tile) : t.wtagWakes.r.tags = t.r.tags := by rw [Tile.wtagWakes_eq]
@[simp] theorem Tile.wtagWakes_busy (t : Tile) : t.wtagWakes.busy = t.busy := by rw [Tile.wtagWakes_eq]
@[simp] theorem Tile.wtagWakes_copies (t : Tile) : t.wtagWakes.copies = t.copies := by rw [Tile.wtagWakes_eq]
@[simp] theorem Tile.wtagWakes_ops (t : Tile) : t.wtagWakes.ops = t.ops := by rw [Tile.wtagWakes_eq]

@[simp] theorem Thread.wtagWake_outc (t : Thread) (tags : Word) : (t.wtagWake tags).outc = t.outc := by
  unfold Thread.wtagWake
  split
  · split
    · exact Thread.advance_outc _ _
    · rfl
  · rfl

/-- Setting a tag ends the waits that it satisfies: each thread in WTAG goes on, or still waits (R236). -/
theorem Thread.wtagWake_spec (t : Thread) (tags : Word) (all : Bool) (m : Word) (n : Nat) (hs : t.state = .wtag)
    (hw : t.wait = .wtag all m n) (hst : t.stepping = false) :
    (tagCond all m tags = true → (t.wtagWake tags).state = .run ∧ (t.wtagWake tags).wait = .none ∧
      (t.wtagWake tags).pc = (t.next n).pc) ∧
    (tagCond all m tags = false → (t.wtagWake tags).state = .wtag) := by
  constructor
  · intro hc
    rw [Thread.wtagWake_of_cond t tags all m n hs hw hc]
    exact ⟨Thread.woken_state _ _ hst, Thread.woken_wait _ _ hst, Thread.woken_pc _ _⟩
  · intro hc
    rw [Thread.wtagWake_of_not_cond t tags all m n hs hw hc, hs]

@[simp] theorem getLsbD_tagBit (g : BitVec 6) (j : Nat) : (tagBit g).getLsbD j = decide (j = g.toNat) := by
  have hg := g.isLt
  unfold tagBit
  by_cases hj : j < 64
  · by_cases h : j = g.toNat
    · subst h; simp [hj]
    · simp [hj, h]; omega
  · rw [BitVec.getLsbD_of_ge _ j (by omega)]
    simp; omega

theorem Tile.tagDone_tags (t : Tile) (g : BitVec 6) (j : Nat) :
    (t.tagDone g).r.tags.getLsbD j = (t.r.tags.getLsbD j || decide (j = g.toNat)) := by
  simp [Tile.tagDone]
theorem Tile.tagDone_busy (t : Tile) (g : BitVec 6) (j : Nat) :
    (t.tagDone g).busy.getLsbD j = (decide (j < 64) && (t.busy.getLsbD j && !decide (j = g.toNat))) := by
  by_cases hj : j < 64
  · rw [← getLsbD_tagBit, Tile.tagDone, BitVec.getLsbD_and, BitVec.getLsbD_not]; simp [hj]
  · simp [Tile.tagDone, hj]

/-- A fold that only sets the monitors of the focus tile changes nothing else. -/
theorem State.foldl_monitors {α : Type} (g : State → Tile → α → List Monitor) (l : List α) (s : State) : ∃ ms,
    l.foldl (fun (s : State) x => s.mapTile fun t => { t with monitors := g s t x }) s =
      { s with tile := { s.tile with monitors := ms } } := by
  induction l generalizing s with
  | nil => exact ⟨s.tile.monitors, rfl⟩
  | cons x l ih =>
    obtain ⟨ms, h⟩ := ih (s.mapTile fun t => { t with monitors := g s t x })
    exact ⟨ms, h⟩

/-- A publish flips its window; the writes that it exposes may wake monitors (R114, R139, R222). -/
theorem State.publish_eq (s : State) (w : Nat) : ∃ hs ms,
    s.publish w = { s with tile := { s.tile.flip w with hidden := hs, monitors := ms } } := by
  obtain ⟨ms, h⟩ := State.foldl_monitors (fun s t (x : Nat × Nat) => s.fired s.foc t x.1 x.2)
    ((s.tile.flip w).hidden.filter fun x => !(s.tile.flip w).hiddenLine (x.1 / 64))
    { s with tile := { s.tile.flip w with hidden := (s.tile.flip w).hidden.filter fun x => (s.tile.flip w).hiddenLine (x.1 / 64) } }
  exact ⟨_, ms, h⟩

theorem getV4_eq (v : Vector Word 4) (i : Nat) (h : i < 4) : getV4 v i = v[i] := by simp [getV4, h]
theorem setV4_get_same (v : Vector Word 4) (i : Nat) (w : Word) (h : i < 4) : (setV4 v i w)[i] = w := by simp [setV4]
theorem setV4_get_other (v : Vector Word 4) (i j : Nat) (w : Word) (h : j < 4) (hj : j ≠ i) : (setV4 v i w)[j] = v[j] := by
  simp [setV4, hj.symm]

/-- PUBL waits for its thread's operations and copies into data SRAM (R155). -/
theorem publ_ready_iff (s : State) : (!(s.tile.ops.any fun o => o.tid == s.tid && o.op.publWaits) &&
      !(s.tile.copies.any fun c => c.tid == s.tid && c.kind.intoSram)) = true ↔
    (∀ o ∈ s.tile.ops, o.tid = s.tid → o.op.publWaits = false) ∧ ∀ k ∈ s.tile.copies, k.tid = s.tid → k.kind.intoSram = false := by
  simp

/-- PUBL of an enabled window waits, then publishes; of a disabled one it is illegal (R234). -/
theorem execPubl_eq (gd : Guard) (w : BitVec 2) (s : State) (hg : guardHolds gd s.th = true) : execPubl gd w s =
    if pwinEn (getV4 s.tile.r.pwin w.toNat) then
      whenReady (!(s.tile.ops.any fun o => o.tid == s.tid && o.op.publWaits) &&
        !(s.tile.copies.any fun c => c.tid == s.tid && c.kind.intoSram)) s fun s => .next ((s.publish w.toNat).retire 3)
    else .next s.trapIllegal := by
  unfold execPubl
  rw [guarded_on _ _ hg]
  cases pwinEn (getV4 s.tile.r.pwin w.toNat) <;> rfl

/-- A finished copy leaves its tile: its tag is set, its thread's COPIES falls, and the waits that the tag satisfies end (R56, R232). -/
def Tile.copyDone (t : Tile) (tag : BitVec 6) (c : CopyRec) : Tile :=
  ({ t with copies := t.copies.filter fun x => x.id != c.id }.tagDone tag).mapTh c.tid fun h =>
    { h with outc := { h.outc with copies := h.outc.copies - 1 } }

theorem execCopyComplete_some (s : State) (tag : BitVec 6) (c : CopyRec)
    (h : s.tile.copies.find? (fun k => k.tag == tag && (k.complete == k.n || k.failed)) = some c) :
    execCopyComplete tag s = .next (s.mapTile fun t => (t.copyDone tag c).wtagWakes) := by
  have h' : s.tile.copies.find? (fun k => k.tag == tag && k.finished) = some c := h
  simp only [execCopyComplete, h', Tile.copyDone]

theorem execCopyComplete_none (s : State) (tag : BitVec 6)
    (h : s.tile.copies.find? (fun k => k.tag == tag && (k.complete == k.n || k.failed)) = none) :
    execCopyComplete tag s = .next s := by
  have h' : s.tile.copies.find? (fun k => k.tag == tag && k.finished) = none := h
  simp only [execCopyComplete, h']

theorem Tile.copyDone_th (t : Tile) (tag : BitVec 6) (c : CopyRec) (i : Tid) : ∃ o : Outc,
    (t.copyDone tag c).th i = { t.th i with outc := o } ∧ (i = c.tid → o.copies = (t.th i).outc.copies - 1) := by
  unfold Tile.copyDone
  rw [Tile.mapTh_th]
  split
  · next h => subst h; exact ⟨_, rfl, fun _ => rfl⟩
  · next h => exact ⟨_, rfl, fun k => absurd k.symm h⟩

/-- Settles O25: a publish changes windows and monitors alone, and a completed copy's tag ends the waits that it satisfies. -/
theorem publishesFlipAndCopiesComplete : Obligations.PublishesFlipAndCopiesComplete := by
  unfold Obligations.PublishesFlipAndCopiesComplete
  intro s gd w tag c win done
  have hw : w.toNat < 4 := w.isLt
  have hwin : getV4 s.tile.r.pwin w.toNat = win := getV4_eq _ _ hw
  refine ⟨fun hg => ?_, fun hc => ?_, fun hc => execCopyComplete_none s tag hc⟩
  · have hx : exec (.publ gd w) s = _ := execPubl_eq gd w s hg
    rw [hwin] at hx
    refine ⟨fun he => hx.trans (if_neg (by simpa [pwinEn] using he)), fun he hd => (hx.trans (if_pos he)).trans (whenReady_off _ ?_),
      fun he hd => ?_⟩
    · rw [← Bool.not_eq_true, publ_ready_iff]; exact hd
    · obtain ⟨hs, ms, hp⟩ := State.publish_eq s w.toNat
      refine ⟨(s.publish w.toNat).retire 3, ?_, ?_, ?_, fun j hj => ?_⟩
      · exact (hx.trans (if_pos he)).trans (whenReady_on _ ((publ_ready_iff s).mpr hd))
      · rw [hp]; exact State.passes_retire s _ 3 (State.keeps_mapTile s (fun _ => _) rfl) rfl rfl rfl
      · rw [hp, State.retire_tile]
        exact (setV4_get_same _ _ _ hw).trans (by rw [hwin])
      · rw [hp, State.retire_tile]
        exact setV4_get_other _ _ _ _ j.isLt hj
  · refine ⟨_, execCopyComplete_some s tag c hc, ?_⟩
    simp only [State.mapTile_tile, Tile.wtagWakes_tags, Tile.wtagWakes_busy, Tile.wtagWakes_copies, Tile.wtagWakes_th,
      Thread.wtagWake_outc]
    refine ⟨?_, ?_, fun j hj => ?_, rfl, ?_, rfl, fun i all m n hs hwt hst => ?_⟩
    · exact (Tile.tagDone_tags _ _ _).trans (by simp)
    · exact (Tile.tagDone_busy _ _ _).trans (by simp)
    · exact (Tile.tagDone_tags _ _ _).trans (by simp [hj])
    · obtain ⟨o, ho, hcop⟩ := Tile.copyDone_th s.tile tag c c.tid
      rw [ho]
      exact hcop rfl
    · obtain ⟨o, ho, -⟩ := Tile.copyDone_th s.tile tag c i
      obtain ⟨hgo, hwait⟩ := Thread.wtagWake_spec ((s.tile.copyDone tag c).th i) (s.tile.copyDone tag c).r.tags all m n
        (by rw [ho]; exact hs) (by rw [ho]; exact hwt) (by rw [ho]; exact hst)
      by_cases hc : tagCond all m (s.tile.copyDone tag c).r.tags = true
      · rw [if_pos ((tagCond_iff _ _ _).mp hc)]
        obtain ⟨hrun, hnone, hpc⟩ := hgo hc
        exact ⟨hrun, hnone, hpc.trans (Thread.next_pc_congr _ _ _ (by rw [ho]) (by rw [ho]))⟩
      · rw [if_neg fun h => hc ((tagCond_iff _ _ _).mpr h)]
        exact hwait (Bool.not_eq_true _ ▸ hc)

end Sys2Proof.Machine

/-! ### Copies issue on their tags (O24) -/

namespace Sys2Proof.Machine

/-! What `localChecks` answers, check by check (R232). -/
section
variable {srcs dsts : List Word} {n : Nat} {s : State} {k : Out} {x y : Word}

theorem find_misaligned_src_none (h : ∀ a ∈ srcs, srcAligned a.toNat = true) : srcs.find? (fun a => !srcAligned a.toNat) = none := by
  rw [List.find?_eq_none]; intro a ha; simp [h a ha]
theorem find_misaligned_dst_none (h : ∀ a ∈ dsts, a.toNat % 64 = 0) : dsts.find? (fun a => a.toNat % 64 != 0) = none := by
  rw [List.find?_eq_none]; intro a ha; simp [h a ha]
theorem find_bad_src_none (h : ∀ a ∈ srcs, s.copySrcOk a.toNat n = true) : srcs.find? (fun a => !s.copySrcOk a.toNat n) = none := by
  rw [List.find?_eq_none]; intro a ha; simp [h a ha]
theorem find_bad_dst_none (h : ∀ a ∈ dsts, s.copyDstOk a.toNat n = true) : dsts.find? (fun a => !s.copyDstOk a.toNat n) = none := by
  rw [List.find?_eq_none]; intro a ha; simp [h a ha]

theorem localChecks_src_misaligned (hx : srcAligned x.toNat = false) :
    localChecks [x] dsts n s k = .next (s.trapWith 0x03 x 0 0 0 0) := by
  simp [localChecks, hx]; rfl
theorem localChecks_dst_misaligned (hs : ∀ a ∈ srcs, srcAligned a.toNat = true) (hy : y.toNat % 64 ≠ 0) :
    localChecks srcs [y] n s k = .next (s.trapWith 0x03 y 0 0 0 0) := by
  simp only [localChecks, find_misaligned_src_none hs]; simp [hy]; rfl
theorem localChecks_src_out (hx : srcAligned x.toNat = true) (hd : ∀ a ∈ dsts, a.toNat % 64 = 0) (ho : s.copySrcOk x.toNat n = false) :
    localChecks [x] dsts n s k = .next (s.trapWith 0x04 x 0 0 0 0) := by
  simp only [localChecks, find_misaligned_dst_none hd]; simp [hx, ho]; rfl
theorem localChecks_dst_out (hs : ∀ a ∈ srcs, srcAligned a.toNat = true ∧ s.copySrcOk a.toNat n = true) (hy : y.toNat % 64 = 0)
    (ho : s.copyDstOk y.toNat n = false) : localChecks srcs [y] n s k = .next (s.trapWith 0x04 y 0 0 0 0) := by
  simp only [localChecks, find_misaligned_src_none fun a h => (hs a h).1, find_bad_src_none fun a h => (hs a h).2]; simp [hy, ho]; rfl
theorem localChecks_ok (hs : ∀ a ∈ srcs, srcAligned a.toNat = true ∧ s.copySrcOk a.toNat n = true)
    (hd : ∀ a ∈ dsts, a.toNat % 64 = 0 ∧ s.copyDstOk a.toNat n = true) : localChecks srcs dsts n s k = k := by
  simp only [localChecks, find_misaligned_src_none fun a h => (hs a h).1, find_bad_src_none fun a h => (hs a h).2,
    find_misaligned_dst_none fun a h => (hd a h).1, find_bad_dst_none fun a h => (hd a h).2]
end

/-! What `copyHead` answers (R232). -/
section
variable {tag : BitVec 6} {dsc : Option GReg} {s : State} {k : Option Desc → Out}

/-- The descriptor that a copy is given, as read at issue. -/
def State.givenDesc (s : State) (dsc : Option GReg) : Option Desc := dsc.map fun c => (s.gr c).setWidth 32

theorem copyHead_busy (h : s.tile.tagBusy tag = true) : copyHead tag dsc s k = .next (s.trapWith 0x1A 0 0 0 0 0) := by
  simp [copyHead, h]; rfl
theorem copyHead_illegal (h : s.tile.tagBusy tag = false) (hd : ∃ e, s.givenDesc dsc = some e ∧ dLegal e = false) :
    copyHead tag dsc s k = .next (s.trapWith 0x0D 0 0 0 0 0) := by
  obtain ⟨e, he, hl⟩ := hd
  cases dsc with
  | none => simp [State.givenDesc] at he
  | some c =>
    have hc : (s.gr c).setWidth 32 = e := by simpa [State.givenDesc] using he
    simp [copyHead, h, hc, hl]; rfl
theorem copyHead_ok (h : s.tile.tagBusy tag = false) (hd : ∀ e, s.givenDesc dsc = some e → dLegal e = true) :
    copyHead tag dsc s k = k (s.givenDesc dsc) := by
  cases dsc with
  | none => simp [copyHead, h, State.givenDesc]
  | some c => simp [copyHead, h, State.givenDesc, hd _ rfl]
end

/-! What `startCopy` answers (R53, R55, R56, R232). -/
section
variable {s : State} {tag : BitVec 6} {kind : CopyKind} {n : Nat} {d : Option Desc}

theorem startCopy_full (h : 16 ≤ s.th.outc.copies) : startCopy tag kind n d s = .next s.stall :=
  whenReady_off _ (decide_eq_false (by omega))

/-- With no thread in WTAG, a tag that is set ends no wait. -/
theorem Tile.wtagWakes_threads_of_calm (t : Tile) (h : ∀ i, (t.th i).state ≠ .wtag) : t.wtagWakes.threads = t.threads := by
  apply Vector.ext
  intro i hi
  have hw : (t.wtagWakes.th ⟨i, hi⟩) = t.th ⟨i, hi⟩ := by
    rw [Tile.wtagWakes_th, Thread.wtagWake]
    split
    · next hs _ => exact absurd hs (h _)
    · rfl
  exact hw

/-- A copy of no lines completes its tag at once (R53, R56). -/
theorem startCopy_empty (hc : s.th.outc.copies < 16) (hn : n = 0) (hu : s.tile.unconfirmed s.tid = 0)
    (hcalm : ∀ i, (s.tile.th i).state ≠ .wtag) : ∃ t : State, startCopy tag kind n d s = .next t ∧
      s.passes t 3 ∧ t.tile.r.tags.getLsbD tag.toNat = true ∧ t.tile.busy.getLsbD tag.toNat = false ∧
      t.th.outc = s.th.outc ∧ t.tile.ops = s.tile.ops := by
  have hthreads : (((s.tile.tagIssue tag).tagDone tag).wtagWakes).threads = s.tile.threads :=
    Tile.wtagWakes_threads_of_calm _ hcalm
  have hth := State.mapTile_th s (fun t => ((t.tagIssue tag).tagDone tag).wtagWakes) hthreads
  refine ⟨(s.mapTile fun t => ((t.tagIssue tag).tagDone tag).wtagWakes).retire 3, ?_, ?_, ?_, ?_, ?_, ?_⟩
  · unfold startCopy
    rw [whenReady_on _ (decide_eq_true hc), if_pos ⟨hn, hu⟩]
  · exact State.passes_retire s _ 3 (State.keeps_mapTile s _ hthreads) rfl (by rw [hth]) (by rw [hth])
  · rw [State.retire_tile]
    simp only [State.mapTile_tile, Tile.wtagWakes_tags, Tile.tagDone_tags]
    simp
  · rw [State.retire_tile]
    simp only [State.mapTile_tile, Tile.wtagWakes_busy, Tile.tagDone_busy]
    simp
  · rw [State.retire_th, Thread.advance_outc, hth]
  · rw [State.retire_tile]
    exact Tile.wtagWakes_ops _

theorem Tile.tagIssue_tags (t : Tile) (g : BitVec 6) (j : Nat) :
    (t.tagIssue g).r.tags.getLsbD j = (t.r.tags.getLsbD j && !decide (j = g.toNat)) := by
  by_cases hj : j < 64
  · rw [← getLsbD_tagBit, Tile.tagIssue, BitVec.getLsbD_and, BitVec.getLsbD_not]; simp [hj]
  · simp [Tile.tagIssue, BitVec.getLsbD_of_ge _ j (Nat.le_of_not_lt hj)]
theorem Tile.tagIssue_busy (t : Tile) (g : BitVec 6) (j : Nat) :
    (t.tagIssue g).busy.getLsbD j = (t.busy.getLsbD j || decide (j = g.toNat)) := by
  simp [Tile.tagIssue]

/-- Any other copy enters the queue, with its tag busy and not DONE (R52, R55, R56). -/
theorem startCopy_queued (hc : s.th.outc.copies < 16) (hn : ¬ (n = 0 ∧ s.tile.unconfirmed s.tid = 0))
    (hq : s.tile.queued s.tid .copy < 2) : ∃ t : State, startCopy tag kind n d s = .next t ∧
      s.passes t 3 ∧ ∃ q r, t.tile.ops = s.tile.ops ++ [q] ∧ q.tid = s.tid ∧ q.eng = .copy ∧ q.op = .cop (.copy r) ∧
        r.tid = s.tid ∧ r.tag = tag ∧ r.kind = kind ∧ r.n = n ∧ r.dsc = d ∧
        t.tile.busy.getLsbD tag.toNat = true ∧ t.tile.r.tags.getLsbD tag.toNat = false ∧
        (∀ j, j ≠ tag.toNat → t.tile.r.tags.getLsbD j = s.tile.r.tags.getLsbD j) ∧
        t.th.outc = { s.th.outc with copies := s.th.outc.copies + 1 } := by
  let r : CopyRec := ⟨s.nextId, s.tid, tag, kind, n, d, s.th.pc12, 0, 0, false, none, none⟩
  let v : State := ({ s with nextId := s.nextId + 1 } : State).enqueue .copy (.cop (.copy r)) 3 true
  let u : State := (v.mapTile (·.tagIssue tag)).mapTh fun t => { t.addCopy with srseq := t.srseq + BitVec.ofNat 64 0 }
  have hv : s.keeps (v.mapTile (·.tagIssue tag)) := (State.keeps_iff _ _).mpr ⟨rfl, rfl, rfl, fun _ _ => rfl⟩
  have hu : s.keeps u := State.keeps_trans hv (State.keeps_mapTh _ _ (by simp [Thread.regs, Thread.addCopy])) rfl
  have hth : u.th = { s.th.addCopy with srseq := s.th.srseq + BitVec.ofNat 64 0 } := State.mapTh_th _ _
  refine ⟨u.retire 3, ?_, State.passes_retire s u 3 hu rfl (by rw [hth]; rfl) (by rw [hth]; rfl), ?_⟩
  · unfold startCopy issueCop
    rw [whenReady_on _ (decide_eq_true hc), if_neg hn]
    refine (whenReady_on _ (decide_eq_true hc)).trans (if_pos ?_)
    simpa using hq
  · refine ⟨⟨s.nextSeq, s.tid, .copy, .cop (.copy r), s.th.pc12, 3, s.th.tcm, s.th.rmode, s.th.srseq, s.checkpoint,
      (EOp.cop (.copy r)).tagWas s.tile, false, none, true⟩, r, ?_, rfl, rfl, rfl, rfl, rfl, rfl, rfl, rfl, ?_, ?_, fun j hj => ?_, ?_⟩
    · rw [State.retire_tile]; rfl
    · rw [State.retire_tile]; exact (Tile.tagIssue_busy _ _ _).trans (by simp)
    · rw [State.retire_tile]; exact (Tile.tagIssue_tags _ _ _).trans (by simp)
    · rw [State.retire_tile]; exact (Tile.tagIssue_tags _ _ _).trans (by simp [hj]; rfl)
    · rw [State.retire_th, Thread.advance_outc, hth]; rfl
end

theorem deviceRange_fault {sp : BitVec 16} {a : Word} {n : Nat} {s : State} {k : Word → Out} {c : BitVec 8}
    (h : deviceFault s.tile false sp a.toNat (64 * n) 64 = some c) : deviceRange sp a n s k = .next (s.trapWith c a 0 0 0 0) := by
  simp [deviceRange, h]; rfl
theorem deviceRange_ok {sp : BitVec 16} {a : Word} {n : Nat} {s : State} {k : Word → Out}
    (h : deviceFault s.tile false sp a.toNat (64 * n) 64 = none) : deviceRange sp a n s k = k a := by
  simp [deviceRange, h]

/-! The three copies past their guards: the checks in their order, then the start. -/
section
variable {gd : Guard} {tag : BitVec 6} {sp : BitVec 16} {d a b : GReg} {dsc : Option GReg} {s : State}

theorem execCpy_on (hg : guardHolds gd s.th = true) : execCpy gd tag d a b dsc s = copyHead tag dsc s fun e =>
    localChecks [s.gr a] [s.gr d] (s.gr b).toNat s
      (startCopy tag (.loc (s.gr d).toNat (s.gr a).toNat) (s.gr b).toNat e s) := by
  unfold execCpy; rw [guarded_on _ _ hg]
theorem execCpyxG_on (hg : guardHolds gd s.th = true) : execCpyxG gd tag sp d a b dsc s = copyHead tag dsc s fun e =>
    localChecks [] [s.gr d] (s.gr b).toNat s (deviceRange sp (s.gr a) (s.gr b).toNat s fun off =>
      startCopy tag (.get (s.gr d).toNat sp off) (s.gr b).toNat e s) := by
  unfold execCpyxG; rw [guarded_on _ _ hg]
theorem execCpyxP_on (hg : guardHolds gd s.th = true) : execCpyxP gd tag sp d a b dsc s = copyHead tag dsc s fun e =>
    localChecks [s.gr d] [] (s.gr b).toNat s (deviceRange sp (s.gr a) (s.gr b).toNat s fun off =>
      startCopy tag (.put (s.gr d).toNat sp off) (s.gr b).toNat e s) := by
  unfold execCpyxP; rw [guarded_on _ _ hg]
end

/-- Settles O24: `copyHead`, `localChecks` and `deviceRange` check in their order, then `startCopy` completes or queues the copy. -/
theorem copiesIssueOnTheirTags : Obligations.CopiesIssueOnTheirTags := by
  unfold Obligations.CopiesIssueOnTheirTags
  intro s gd tag sp d a b dsc n x y ds cpy get put traps srcOk dstOk devOk headOk done queued atOnce calm hg
  -- past the guard and the head, each instruction makes its local checks, then the device check, and starts
  let startLoc : Out := startCopy tag (.loc y.toNat x.toNat) n ds s
  let startGet : Out := deviceRange sp x n s fun off => startCopy tag (.get y.toNat sp off) n ds s
  let startPut : Out := deviceRange sp x n s fun off => startCopy tag (.put y.toNat sp off) n ds s
  have hcpy : exec cpy s = copyHead tag dsc s fun e => localChecks [x] [y] n s (startCopy tag (.loc y.toNat x.toNat) n e s) :=
    execCpy_on hg
  have hget : exec get s = copyHead tag dsc s fun e => localChecks [] [y] n s
      (deviceRange sp x n s fun off => startCopy tag (.get y.toNat sp off) n e s) := execCpyxG_on hg
  have hput : exec put s = copyHead tag dsc s fun e => localChecks [y] [] n s
      (deviceRange sp x n s fun off => startCopy tag (.put y.toNat sp off) n e s) := execCpyxP_on hg
  have hloc (hh : headOk) : exec cpy s = localChecks [x] [y] n s startLoc := hcpy.trans (copyHead_ok hh.1 hh.2)
  have hdev (hh : headOk) : exec get s = localChecks [] [y] n s startGet := hget.trans (copyHead_ok hh.1 hh.2)
  have hout (hh : headOk) : exec put s = localChecks [y] [] n s startPut := hput.trans (copyHead_ok hh.1 hh.2)
  have one {P : Word → Prop} {z : Word} (h : P z) : ∀ w ∈ [z], P w := by simpa using h
  have none {P : Word → Prop} : ∀ w ∈ ([] : List Word), P w := by simp
  -- past its checks, each instruction starts its copy
  have cpyStarts (hh : headOk) (hs : srcOk x) (hd : dstOk y) : exec cpy s = startLoc :=
    (hloc hh).trans (localChecks_ok (one (P := srcOk) hs) (one (P := dstOk) hd))
  have getStarts (hh : headOk) (hd : dstOk y) (hv : devOk) : exec get s = startCopy tag (.get y.toNat sp x) n ds s :=
    ((hdev hh).trans (localChecks_ok none (one (P := dstOk) hd))).trans (deviceRange_ok hv)
  have putStarts (hh : headOk) (hs : srcOk y) (hv : devOk) : exec put s = startCopy tag (.put y.toNat sp x) n ds s :=
    ((hout hh).trans (localChecks_ok (one (P := srcOk) hs) none)).trans (deviceRange_ok hv)
  refine ⟨fun hb => ⟨hcpy.trans (copyHead_busy hb), hget.trans (copyHead_busy hb), hput.trans (copyHead_busy hb)⟩,
    fun hb hd => ⟨hcpy.trans (copyHead_illegal hb hd), hget.trans (copyHead_illegal hb hd), hput.trans (copyHead_illegal hb hd)⟩,
    fun hh => ⟨fun hx => ?_, fun hy => ?_, fun hy => ⟨?_, fun hx => ?_⟩, fun hx hy ho => ?_, fun hy ho => ?_, fun hy ho => ⟨?_, fun hx => ?_⟩,
      fun c hc => ⟨fun hd => ?_, fun hs => ?_⟩, fun hf => ⟨fun hs hd => ?_, fun hd hv => ?_, fun hs hv => ?_⟩⟩,
    fun hh hc h0 hcalm => ⟨fun hs hd => ?_, fun hd hv => ?_, fun hs hv => ?_⟩,
    fun hh hc h0 hq => ⟨fun hs hd => ?_, fun hd hv => ?_, fun hs hv => ?_⟩⟩
  · exact (hloc hh).trans (localChecks_src_misaligned hx)
  · exact (hout hh).trans (localChecks_src_misaligned hy)
  · exact (hdev hh).trans (localChecks_dst_misaligned none hy)
  · exact (hloc hh).trans (localChecks_dst_misaligned (one hx) hy)
  · exact (hloc hh).trans (localChecks_src_out hx (one hy) ho)
  · exact (hout hh).trans (localChecks_src_out hy none ho)
  · exact (hdev hh).trans (localChecks_dst_out none hy ho)
  · exact (hloc hh).trans (localChecks_dst_out (one hx) hy ho)
  · exact ((hdev hh).trans (localChecks_ok none (one hd))).trans (deviceRange_fault hc)
  · exact ((hout hh).trans (localChecks_ok (one hs) none)).trans (deviceRange_fault hc)
  · exact (cpyStarts hh hs hd).trans (startCopy_full hf)
  · exact (getStarts hh hd hv).trans (startCopy_full hf)
  · exact (putStarts hh hs hv).trans (startCopy_full hf)
  · show ∃ t, exec cpy s = _ ∧ _
    rw [cpyStarts hh hs hd]; exact startCopy_empty hc h0.1 h0.2 hcalm
  · show ∃ t, exec get s = _ ∧ _
    rw [getStarts hh hd hv]; exact startCopy_empty hc h0.1 h0.2 hcalm
  · show ∃ t, exec put s = _ ∧ _
    rw [putStarts hh hs hv]; exact startCopy_empty hc h0.1 h0.2 hcalm
  · show ∃ t, exec cpy s = _ ∧ _
    rw [cpyStarts hh hs hd]; exact startCopy_queued hc h0 hq
  · show ∃ t, exec get s = _ ∧ _
    rw [getStarts hh hd hv]; exact startCopy_queued hc h0 hq
  · show ∃ t, exec put s = _ ∧ _
    rw [putStarts hh hs hv]; exact startCopy_queued hc h0 hq

end Sys2Proof.Machine

/-! ### Stores that a tile makes to its own data SRAM

What `tileStore`, `homeStore`, `queueRecord` and `decrement` change at the focus tile, each said once. -/

namespace Sys2Proof.Machine

/-- Check bits of a store change no more than descriptors and the words in error (R83). -/
theorem State.storeChecked_eq (s : State) (k n : Nat) (v : Word) : ∃ de ba,
    s.storeChecked k n v = { s with mem := Memory.writeN s.mem k n v.toNat, desc := de, bad := ba } := by
  unfold State.storeChecked State.poison
  dsimp only
  (repeat' split) <;> exact ⟨_, _, rfl⟩

theorem State.notify_foc_eq (s : State) (a n : Nat) : ∃ hs ms,
    s.notify s.foc a n = { s with tile := { s.tile with hidden := hs, monitors := ms } } := by
  unfold State.notify
  simp only [State.tileAt_foc, State.setTileAt_foc]
  (repeat' split) <;> exact ⟨_, _, rfl⟩

/-- A store of n bytes by the focus tile writes them, and changes besides the line's check bits and who waits for it (R83, R222). -/
theorem State.tileStore_foc_eq (s : State) (a n : Nat) (v : Word) : ∃ de ba hs ms, s.tileStore s.foc a n v =
    { s with mem := Memory.writeN s.mem (s.pa a) n v.toNat, desc := de, bad := ba, tile := { s.tile with hidden := hs, monitors := ms } } := by
  obtain ⟨de, ba, h⟩ := State.storeChecked_eq s (s.pa a) n v
  unfold State.tileStore
  rw [show tileBase s.foc + a = s.pa a from rfl, h]
  obtain ⟨hs, ms, h'⟩ := State.notify_foc_eq { s with mem := Memory.writeN s.mem (s.pa a) n v.toNat, desc := de, bad := ba } a n
  exact ⟨de, ba, hs, ms, h'⟩

/-- A state that differs from s in memory, check bits and its tile alone, and in no thread. -/
structure State.Stored (s t : State) : Prop where
  rest : ∃ m de ba tl, t = { s with mem := m, desc := de, bad := ba, tile := tl }
  threads : t.tile.threads = s.tile.threads

theorem State.Stored.refl (s : State) : s.Stored s := ⟨⟨_, _, _, _, rfl⟩, rfl⟩
theorem State.Stored.trans {s t u : State} (h : s.Stored t) (k : t.Stored u) : s.Stored u := by
  obtain ⟨⟨m, de, ba, tl, rfl⟩, ht⟩ := h
  obtain ⟨⟨m', de', ba', tl', rfl⟩, hu⟩ := k
  exact ⟨⟨m', de', ba', tl', rfl⟩, hu.trans ht⟩
theorem State.Stored.foc {s t : State} (h : s.Stored t) : t.foc = s.foc := by obtain ⟨m, de, ba, tl, rfl⟩ := h.rest; rfl
theorem State.Stored.tid {s t : State} (h : s.Stored t) : t.tid = s.tid := by obtain ⟨m, de, ba, tl, rfl⟩ := h.rest; rfl
theorem State.Stored.th {s t : State} (h : s.Stored t) : t.th = s.th := by
  unfold State.th; simp only [h.threads, h.tid]
theorem State.Stored.pa {s t : State} (h : s.Stored t) (a : Nat) : t.pa a = s.pa a := by unfold State.pa; rw [h.foc]
theorem State.Stored.mapTile (s : State) (f : Tile → Tile) (h : (f s.tile).threads = s.tile.threads) : s.Stored (s.mapTile f) :=
  ⟨⟨_, _, _, _, rfl⟩, h⟩

theorem State.poison_eq (s : State) (k : Nat) : ∃ de, s.poison k = { s with desc := de } := by
  unfold State.poison; split <;> exact ⟨_, rfl⟩
theorem State.markBad_eq (s : State) (k n : Nat) : ∃ de, s.markBad k n = { s with desc := de } := by
  unfold State.markBad
  split
  · exact s.poison_eq k
  · exact ⟨s.desc, rfl⟩
@[simp] theorem State.markBad_mem (s : State) (k n : Nat) : (s.markBad k n).mem = s.mem := by
  obtain ⟨de, h⟩ := s.markBad_eq k n; rw [h]
@[simp] theorem State.markBad_th (s : State) (k n : Nat) : (s.markBad k n).th = s.th := by
  obtain ⟨de, h⟩ := s.markBad_eq k n; rw [h]; rfl

theorem State.stored_tileStore (s : State) (a n : Nat) (v : Word) : s.Stored (s.tileStore s.foc a n v) := by
  obtain ⟨de, ba, hs, ms, h⟩ := State.tileStore_foc_eq s a n v
  rw [h]; exact ⟨⟨_, _, _, _, rfl⟩, rfl⟩
theorem State.tileStore_foc_mem (s : State) (a n : Nat) (v : Word) :
    (s.tileStore s.foc a n v).mem = Memory.writeN s.mem (s.pa a) n v.toNat := State.tileStore_mem _ _ _ _ _
theorem State.tileStore_ring (s : State) (a n : Nat) (v : Word) : (s.tileStore s.foc a n v).tile.ring = s.tile.ring := by
  obtain ⟨de, ba, hs, ms, h⟩ := State.tileStore_foc_eq s a n v; rw [h]
theorem State.tileStore_chain (s : State) (a n : Nat) (v : Word) : (s.tileStore s.foc a n v).tile.chain = s.tile.chain := by
  obtain ⟨de, ba, hs, ms, h⟩ := State.tileStore_foc_eq s a n v; rw [h]
/-- The tile's own store goes behind an entry of the write queue that holds its line, else to the array (R140). -/
theorem State.homeStore_foc_cases (s : State) (a n : Nat) (v : Word) :
    (s.homeStore s.foc a n v = s.mapTile fun t => { t with wq := wqMerge t.wq (a / 64) (.store a n v) }) ∨
      s.homeStore s.foc a n v = s.tileStore s.foc a n v := by
  unfold State.homeStore
  simp only [State.tileAt_foc, State.setTileAt_foc]
  split
  · exact .inl rfl
  · exact .inr rfl

theorem State.stored_homeStore (s : State) (a n : Nat) (v : Word) : s.Stored (s.homeStore s.foc a n v) := by
  rcases State.homeStore_foc_cases s a n v with h | h
  · rw [h]; exact State.Stored.mapTile _ _ rfl
  · rw [h]; exact State.stored_tileStore _ _ _ _

theorem State.mapTileAt_of_foc (s : State) (c : Coord) (f : Tile → Tile) (h : c = s.foc) : s.mapTileAt c f = s.mapTile f := by
  subst h; exact State.mapTileAt_foc s f

/-- Word 0 of a record as it is queued: QD set, COUNT and RAN clear (R46, R47). -/
def recQueuedWord (w : Word) : Word := recRanTo false (recQdTo true (recCountTo w 0))

/-- With room on the ring and nothing in the chain, a record is queued by one store of its word 0 and joins the ring (R47). -/
theorem State.queueRecord_ring (s : State) (a : Nat) (w : Word) (hr : s.tile.ring.length < 64) (hc : s.tile.chain = []) :
    s.queueRecord s.foc a w = (s.tileStore s.foc a 8 (recQueuedWord w)).mapTile fun t => { t with ring := t.ring ++ [a] } := by
  unfold State.queueRecord
  simp only [State.tileAt_foc]
  rw [if_pos ⟨hr, by simp [hc]⟩]
  exact State.mapTileAt_of_foc _ _ _ (State.stored_tileStore s a 8 _).foc.symm

/-- Else it joins the overflow chain, whose last record is linked to it (R47, R48). -/
theorem State.queueRecord_chain (s : State) (a : Nat) (w : Word) (h : ¬ (s.tile.ring.length < 64 ∧ s.tile.chain = [])) :
    let s1 := s.tileStore s.foc a 8 (recOvfTo true (recCountTo (recQueuedWord w) 0xFFFF))
    s.queueRecord s.foc a w = (match s.tile.chain.getLast? with
      | some b => s1.homeStore s1.foc b 2 (BitVec.ofNat 64 (a / 16))
      | none => s1).mapTile fun t => { t with chain := t.chain ++ [a] } := by
  intro s1
  have hf : s1.foc = s.foc := (State.stored_tileStore s a 8 _).foc
  unfold State.queueRecord
  simp only [State.tileAt_foc]
  rw [if_neg (by simpa using h)]
  rw [hf]
  cases s.tile.chain.getLast? with
  | some b =>
    have hh : (s1.homeStore s1.foc b 2 (BitVec.ofNat 64 (a / 16))).foc = s1.foc := (State.stored_homeStore _ _ _ _).foc
    rw [hf] at hh
    exact State.mapTileAt_of_foc _ _ _ hh.symm
  | none => exact State.mapTileAt_of_foc _ _ _ hf.symm

theorem State.stored_queueRecord (s : State) (a : Nat) (w : Word) : s.Stored (s.queueRecord s.foc a w) := by
  by_cases h : s.tile.ring.length < 64 ∧ s.tile.chain = []
  · rw [State.queueRecord_ring s a w h.1 h.2]
    exact (State.stored_tileStore _ _ _ _).trans (State.Stored.mapTile _ _ rfl)
  · rw [State.queueRecord_chain s a w h]
    refine State.Stored.trans ?_ (State.Stored.mapTile _ _ rfl)
    split
    · exact (State.stored_tileStore _ _ _ _).trans (State.stored_homeStore _ _ _ _)
    · exact State.stored_tileStore _ _ _ _

/-- A report changes the tile's reports, its count of lost ones and its performance counters. -/
theorem Tile.report_threads (w : Word) (t : Tile) (c : Coord) (cause : BitVec 8) (f o0 o1 : Word) :
    (t.report w c cause f o0 o1).threads = t.threads := by
  unfold Tile.report Tile.pushReport; split
  · rfl
  · exact Tile.count_threads _ _ _

/-- What a decrement of a record of the focus tile does, by the first check that it fails or its count (R47, R83). -/
theorem State.decrement_foc_cases (s : State) (addr : Word) (d : Nat) :
    (∃ cause, s.decrement s.foc addr d = { s with tile := s.tile.report s.wtime s.foc cause addr 0 0 }) ∨
    (s.decrement s.foc addr d =
      { s.poison (s.pa addr.toNat) with tile := s.tile.report s.wtime s.foc Cause.ecc addr 0 0 }) ∨
    (s.decrement s.foc addr d = { s with tile := s.tile.lateDecr }) ∨
    (addr.toNat < 65536 ∧ addr.toNat % 16 = 0 ∧ s.tile.inEntries addr.toNat 16 = false ∧
      (s.decrement s.foc addr d = s.tileStore s.foc addr.toNat 8 (s.load (s.pa addr.toNat) 8 - BitVec.ofNat 64 d) ∨
      s.decrement s.foc addr d = s.queueRecord s.foc addr.toNat (s.load (s.pa addr.toNat) 8))) := by
  have hpa : tileBase s.foc + addr.toNat = s.pa addr.toNat := rfl
  unfold State.decrement
  simp only [State.tileAt_foc, State.setTileAt_foc, hpa]
  split
  · exact .inl ⟨_, rfl⟩
  · next h16 =>
    split
    · exact .inl ⟨_, rfl⟩
    · next hin =>
      have hin' : addr.toNat < 65536 ∧ s.tile.inEntries addr.toNat 16 = false := by simpa using hin
      split
      · refine .inr (.inl ?_)
        have hp : (s.poison (s.pa addr.toNat)).foc = s.foc := State.poison_foc _ _
        rw [← State.setTileAt_foc, hp]
      · split
        · exact .inr (.inr (.inl rfl))
        · refine .inr (.inr (.inr ⟨hin'.1, by simpa using h16, hin'.2, ?_⟩))
          split
          · exact .inl rfl
          · exact .inr rfl

theorem State.stored_decrement (s : State) (addr : Word) (d : Nat) : s.Stored (s.decrement s.foc addr d) := by
  rcases s.decrement_foc_cases addr d with ⟨c, h⟩ | h | h | ⟨-, -, -, h | h⟩ <;> rw [h]
  · exact ⟨⟨_, _, _, _, rfl⟩, Tile.report_threads _ _ _ _ _ _ _⟩
  · refine ⟨?_, Tile.report_threads _ _ _ _ _ _ _⟩
    obtain ⟨de, h⟩ := s.poison_eq (s.pa addr.toNat)
    rw [h]
    exact ⟨_, _, _, _, rfl⟩
  · exact ⟨⟨_, _, _, _, rfl⟩, Tile.count_threads _ _ _⟩
  · exact State.stored_tileStore _ _ _ _
  · exact State.stored_queueRecord _ _ _

theorem inTurn_on {a : Nat} {s : State} (k : State → Out) (h : s.queueTurn a = true) : inTurn a s k = k s := by simp [inTurn, h]
theorem inTurn_off {a : Nat} {s : State} (k : State → Out) (h : s.queueTurn a = false) : inTurn a s k = .next s.stallTurn := by
  simp [inTurn, h]

/-- The record's COUNT as it stands in memory (R46). -/
theorem recCount_load (s : State) (k : Nat) : recCount (s.load k 8) = Memory.readN s.mem k 8 % 65536 := by
  have := Memory.readN_lt s.mem k 8
  simp only [recCount, State.load, BitVec.extractLsb'_toNat, BitVec.toNat_ofNat]
  omega

theorem State.retire_ring (s : State) (n : Nat) : (s.retire n).tile.ring = s.tile.ring := by rw [State.retire_tile]
theorem State.retire_chain (s : State) (n : Nat) : (s.retire n).tile.chain = s.tile.chain := by rw [State.retire_tile]

end Sys2Proof.Machine

/-! ### Traps, halts, pins and software events (O28) -/

namespace Sys2Proof.Machine

/-- The focus thread has stopped at its instruction with record (kind, info), the rest of it as it was, and resumes `skip` words on. -/
def State.stopsWith (s t : State) (kind : BitVec 2) (info : TrapInfo) (skip : Nat) : Prop :=
  s.keeps t ∧ t.th.pc = s.th.pc ∧ t.th.loop = s.th.loop ∧ t.th.record = some ⟨kind, info, false⟩ ∧ t.th.wait = .none ∧
    (t.th.resume).state = .run ∧ (t.th.resume).pc = s.th.pc + BitVec.ofNat 13 skip ∧ (t.th.resume).g = s.th.g

theorem State.stopsWith_halted (s : State) (n : Nat) : s.stopsWith (s.mapTh (·.halted n)) 2 ⟨0, s.th.pc12, 0, 0, 0, 0, 0⟩ n := by
  refine ⟨State.keeps_mapTh _ _ rfl, ?_⟩
  rw [State.mapTh_th]
  exact ⟨rfl, rfl, rfl, rfl, rfl, rfl, rfl⟩

theorem State.stopsWith_trap (s : State) (c : BitVec 8) (f o0 o1 o2 o3 : Word) :
    s.stopsWith (s.trapWith c f o0 o1 o2 o3) 0 ⟨c, s.th.pc12, f, o0, o1, o2, o3⟩ 0 := by
  refine ⟨State.keeps_trapWith _ _ _ _ _ _ _, ?_⟩
  rw [State.trapWith_th]
  exact ⟨rfl, rfl, rfl, rfl, rfl, rfl, rfl⟩

/-- A trap that an instruction raises by itself is resumed past it (R243, R389). -/
theorem softTrap_stops (c : BitVec 8) (o0 o1 o2 : Word) (n : Nat) (s : State) : ∃ t : State, softTrap c o0 o1 o2 n s = .next t ∧
    t.th.state = .stop ∧ s.stopsWith t 0 ⟨c, s.th.pc12, 0, o0, o1, o2, 0⟩ n := by
  refine ⟨_, rfl, ?_, State.keeps_trans (State.keeps_trapWith s c 0 o0 o1 o2 0) (State.keeps_mapTh _ _ rfl) rfl, ?_⟩
  · rw [State.mapTh_th, State.trapWith_th]; rfl
  · rw [State.mapTh_th, State.trapWith_th]
    exact ⟨rfl, rfl, rfl, rfl, rfl, rfl, rfl⟩

/-! REDPIN -/

theorem State.pinTaken_eq_false_iff (s : State) :
    s.pinTaken = false ↔ ∀ i : Tid, i ≠ s.tid → (s.tile.th i).pinRec = false ∧ (s.tile.th i).unpinned = false := by
  simp [State.pinTaken, List.any_eq_false]

/-- What REDPIN records and answers: the pin that it wants, if its thread has it or may take it (R244). -/
def State.pinAnswer (s : State) (a : GReg) : Bool := if (s.gr a).getLsbD 0 then s.th.pinRec || !s.pinTaken else false

/-- State t has w in gd, the rest of the thread's registers and all of memory as in s, and the focus thread past a word. -/
def State.answers (s t : State) (d : GReg) (w : Word) : Prop :=
  (d ≠ 0 → t.gr d = w) ∧ (∀ q, q ≠ d → t.gr q = s.gr q) ∧ (∀ q, t.pr q = s.pr q) ∧ t.mem = s.mem ∧
    t.th.pc = (s.th.next 1).pc ∧ t.th.pinNow = s.th.pinNow

/-- Retiring with a value in gd, from a state with the thread's registers, PC, loop state and pin. -/
theorem State.answers_retire (s u : State) (d : GReg) (w : Word) (hg : u.th.g = s.th.g) (hp : u.th.p = s.th.p)
    (hpc : u.th.pc = s.th.pc) (hl : u.th.loop = s.th.loop) (hn : u.th.pinNow = s.th.pinNow) (hm : u.mem = s.mem) :
    s.answers ((u.setG d w).retire 1) d w := by
  refine ⟨fun hd => ?_, fun q hq => ?_, fun q => ?_, hm, ?_, ?_⟩
  · rw [State.retire_gr, State.setG_gr_same _ _ _ hd]
  · rw [State.retire_gr, State.setG_gr_other _ _ _ _ hq]; exact Thread.gr_congr _ _ hg q
  · rw [State.retire_pr, State.setG_pr]; exact Thread.pr_congr _ _ hp q
  · exact (State.retire_next s _ 1 (by simp [hpc]) (by simp [hl])).1
  · simp [Thread.setG_pinNow, hn]

theorem execRedpin_answers (d a : GReg) (s : State) : ∃ t : State, execRedpin d a s = .next t ∧
    s.answers t d (if s.pinAnswer a then 1 else 0) ∧ t.th.pinRec = s.pinAnswer a := by
  refine ⟨_, rfl, State.answers_retire s _ d _ ?_ ?_ ?_ ?_ ?_ rfl, ?_⟩
  any_goals rw [State.mapTh_th]
  simp [Thread.setG_pinRec, State.pinAnswer]

/-! PERF -/

theorem Tile.count_perf (t : Tile) (e : BitVec 8) (n : Word) (he : e ≠ 0) (i : Fin 4) : (t.count e n).r.perf[i] =
    t.r.perf[i] + if t.r.perfsel.extractLsb' (8 * i.val) 8 = e then n else 0 := by
  unfold Tile.count
  rw [if_neg he]
  fin_cases i <;> rfl
theorem Tile.count_perfsel (t : Tile) (e : BitVec 8) (n : Word) : (t.count e n).r.perfsel = t.r.perfsel := by rw [Tile.count_eq]

/-- Counting another event leaves a counter as it was. -/
theorem Tile.count_perf_other (t : Tile) (e : BitVec 8) (n : Word) (he : e ≠ 0) (i : Fin 4)
    (hi : t.r.perfsel.extractLsb' (8 * i.val) 8 ≠ e) : (t.count e n).r.perf[i] = t.r.perf[i] := by
  rw [Tile.count_perf t e n he i, if_neg hi]; simp

/-- Retirement counts the events 0x01 and 0x02 (R245), so a counter of any other event stands still. -/
theorem State.retire_perf_other (s : State) (n : Nat) (i : Fin 4) (h1 : s.tile.r.perfsel.extractLsb' (8 * i.val) 8 ≠ 0x01)
    (h2 : s.tile.r.perfsel.extractLsb' (8 * i.val) 8 ≠ 0x02) : (s.retire n).tile.r.perf[i] = s.tile.r.perf[i] := by
  show (Tile.count (Tile.count (s.mapTh (·.advance n)).tile 0x02 1) 0x01 1).r.perf[i] = _
  rw [Tile.count_perf_other _ _ _ (by decide) i (by rw [Tile.count_perfsel]; exact h1), Tile.count_perf_other (s.mapTh (·.advance n)).tile _ _ (by decide) i h2]
  rfl

theorem setWidth_32_64 (w : Word) : (w.setWidth 32).zeroExtend 64 = BitVec.ofNat 64 (w.toNat % 2 ^ 32) := by
  apply BitVec.eq_of_toNat_eq; simp

/-- Settles O28: a stop keeps the thread and leaves its record; REDPIN and PERF retire with their answers. -/
theorem trapsHaltsPinsAndEvents : Obligations.TrapsHaltsPinsAndEvents := by
  unfold Obligations.TrapsHaltsPinsAndEvents
  constructor
  · intro s gd a b code cause f o0 o1 o2 o3 stops pc
    refine ⟨⟨_, rfl, ?_, s.stopsWith_halted 1⟩, softTrap_stops _ _ _ _ _ s, fun hg => ⟨?_, ?_⟩, ?_, s.stopsWith_trap _ _ _ _ _ _⟩
    · rw [State.mapTh_th]; rfl
    · have h : exec (.brkXForm gd code) s = softTrap Cause.breakpoint (code.zeroExtend 64) 0 0 3 s := guarded_on 3 _ hg
      have hcode : code.zeroExtend 64 = BitVec.ofNat 64 code.toNat := BitVec.eq_of_toNat_eq (by simp)
      rw [h, hcode]
      exact softTrap_stops _ _ _ _ _ s
    · have h : exec (.trap gd a b cause) s = softTrap cause (s.gr a) (s.gr b) 2 3 s := guarded_on 3 _ hg
      rw [h]
      exact softTrap_stops _ _ _ _ _ s
    · rw [State.trapWith_th]; rfl
  · intro s d a want free gives
    obtain ⟨t, ht, hans, hpin⟩ := execRedpin_answers d a s
    have hfree : s.pinTaken = false ↔ free := s.pinTaken_eq_false_iff
    have answered {b : Bool} {w : Word} (hb : s.pinAnswer a = b) (hw : (if b then 1 else 0) = w) :
        ∃ t : State, exec (.redpin d a) s = .next t ∧ gives t w ∧ t.th.pinRec = b :=
      ⟨t, ht, by rw [hb, hw] at hans; exact hans, hpin.trans hb⟩
    refine ⟨fun hw => answered ?_ rfl, fun hw hf => answered ?_ rfl, fun hw hr hf => answered ?_ rfl, ?_⟩
    · exact if_neg (Bool.not_eq_true _ ▸ hw)
    · refine (if_pos hw).trans ?_
      rcases hf with h | h
      · simp [h]
      · simp [hfree.mpr h]
    · refine (if_pos hw).trans ?_
      rw [← hfree] at hf
      simp [hr, hf]
    · refine ⟨_, rfl, State.answers_retire s _ d _ ?_ ?_ ?_ ?_ ?_ rfl, fun i hi => ?_⟩
      any_goals rw [State.mapTile_th _ _ (Tile.count_threads _ _ _)]
      have hsel : (((s.mapTile (·.count 0x0A (((s.gr a).setWidth 32).zeroExtend 64))).setG d (s.field (fieldOf s.foc)).lcyc).tile.r.perfsel) =
          s.tile.r.perfsel := Tile.count_perfsel _ _ _
      rw [State.retire_perf_other _ _ i (by rw [hsel, hi]; decide) (by rw [hsel, hi]; decide)]
      have hperf := Tile.count_perf s.tile 0x0A (((s.gr a).setWidth 32).zeroExtend 64) (by decide) i
      rw [if_pos hi] at hperf
      rw [← setWidth_32_64]
      exact hperf

end Sys2Proof.Machine

/-! ### Ending a handler (O27) -/

namespace Sys2Proof.Machine

/-! The firings of a packet handler (R51, R240). -/

/-- What each successor handle of the packet at c0 asks for: a firing, nothing, or a report (R51). -/
def State.handlesOf (s : State) (c0 : Nat) : List (Option Inj × Bool) :=
  if s.th.fwdUsed then []
  else (List.range (hdrNsucc (s.cellWord c0 0)).toNat).map fun i =>
    handleInj s.tid (s.cellWord c0 (2 + 2 * hdrLen (s.cellWord c0 0) - ((hdrNsucc (s.cellWord c0 0)).toNat - i)))
/-- The firings of the packet at c0. -/
def State.firingsOf (s : State) (c0 : Nat) : List Inj := (s.handlesOf c0).filterMap (·.1)
/-- The reports of the handles that are not fired (R51). -/
def State.refusedTile (s : State) (c0 : Nat) : Tile :=
  (List.range ((s.handlesOf c0).filter (·.2)).length).foldl (fun t _ => t.pushReport none
    (t.recordOf s.wtime s.foc (s.th.entry.setWidth 16) 1 s.tid.val ⟨Cause.entryInvalid, s.th.pc12, 0, 0, 0, 0, 0⟩)) s.tile

theorem State.endHandler_packet (s : State) (c0 n : Nat) (h : s.th.work = .packet c0 n) : s.endHandler =
    if (s.firingsOf c0).isEmpty then ({ s with tile := (s.refusedTile c0).freeCells c0 }.retired).mapTh (·.finish)
    else ({ s with tile := { s.refusedTile c0 with inj := (s.refusedTile c0).inj ++ markLast (s.firingsOf c0) c0 } } : State).stall := by
  unfold State.endHandler
  rw [h]
  rfl

theorem State.endHandler_plain (s : State) (h : ∀ c0 n, s.th.work ≠ .packet c0 n) : s.endHandler = s.retired.mapTh (·.finish) := by
  unfold State.endHandler
  split
  · next c0 n hw => exact absurd hw (h c0 n)
  · rfl

/-- A report pushed changes the tile's reports, its lost ones and its counters. -/
theorem Tile.pushReport_eq (t : Tile) (d : Option Nat) (ws : List Word) : ∃ rs l p,
    t.pushReport d ws = { t with reports := rs, lost := l, r := { t.r with perf := p } } := by
  unfold Tile.pushReport
  split
  · exact ⟨_, _, t.r.perf, rfl⟩
  · rw [Tile.count_eq]; exact ⟨_, _, _, rfl⟩

theorem Tile.foldl_pushReport_eq {α : Type} (l : List α) (f : Tile → List Word) (t : Tile) : ∃ rs n p,
    l.foldl (fun t _ => t.pushReport none (f t)) t = { t with reports := rs, lost := n, r := { t.r with perf := p } } := by
  induction l generalizing t with
  | nil => exact ⟨t.reports, t.lost, t.r.perf, rfl⟩
  | cons x l ih =>
    obtain ⟨rs, n, p, h⟩ := Tile.pushReport_eq t none (f t)
    obtain ⟨rs', n', p', h'⟩ := ih (t.pushReport none (f t))
    exact ⟨rs', n', p', by rw [List.foldl_cons, h', h]⟩

theorem State.refusedTile_eq (s : State) (c0 : Nat) : ∃ rs n p,
    s.refusedTile c0 = { s.tile with reports := rs, lost := n, r := { s.tile.r with perf := p } } :=
  Tile.foldl_pushReport_eq _ _ _

/-- With no handle refused, nothing is reported. -/
theorem State.refusedTile_of_none (s : State) (c0 : Nat) (h : (s.handlesOf c0).filter (·.2) = []) : s.refusedTile c0 = s.tile := by
  unfold State.refusedTile; rw [h]; rfl

/-! What an ended handler is. -/

/-- Thread h has ended the handler of thread t: FREE, registers as they were, the recorded pin in force (R240, R244). -/
def Thread.endedFrom (t h : Thread) : Prop :=
  h.state = .free ∧ h.work = .none ∧ h.g = t.g ∧ h.p = t.p ∧ h.pinNow = t.pinRec ∧ h.fwdUsed = false

theorem Thread.endedFrom_finish (t : Thread) : t.endedFrom t.finish := ⟨rfl, rfl, rfl, rfl, rfl, rfl⟩

theorem State.retired_tile (s : State) : s.retired.tile =
    { s.tile with threads := s.retired.tile.threads, r := { s.tile.r with perf := s.retired.tile.r.perf } } := by
  unfold State.retired State.cycle
  simp only [State.mapTh, State.setTh_tile, State.mapTile_tile]
  rw [Tile.count_eq]
  simp only [State.mapTile, State.setField]
  rw [Tile.count_eq]

/-- Retiring and finishing ends the handler, and changes the tile's counters besides (R240). -/
theorem State.finish_retired (s : State) : s.th.endedFrom (s.retired.mapTh (·.finish)).th ∧
    ∃ ths p, (s.retired.mapTh (·.finish)).tile = { s.tile with threads := ths, r := { s.tile.r with perf := p } } := by
  constructor
  · rw [State.mapTh_th, State.retired_th]
    exact ⟨rfl, rfl, rfl, rfl, rfl, rfl⟩
  · rw [State.mapTh, State.setTh_tile, State.retired_tile]
    exact ⟨_, _, rfl⟩

theorem State.stall_tile (s : State) : s.stall.tile =
    { s.tile with threads := s.stall.tile.threads, r := { s.tile.r with perf := s.stall.tile.r.perf } } := by
  unfold State.stall
  rw [State.mapTh, State.setTh_tile, State.cycle_tile]

/-- Ending a handler changes no memory and no register, and of the tile its inbox, its port and its reports. -/
theorem State.endHandler_frame (s : State) : s.endHandler.mem = s.mem ∧ s.endHandler.th.g = s.th.g ∧
    s.endHandler.tile.ring = s.tile.ring ∧ s.endHandler.tile.chain = s.tile.chain ∧ s.endHandler.tile.late = s.tile.late := by
  by_cases hp : ∃ c0 n, s.th.work = .packet c0 n
  · obtain ⟨c0, n, h⟩ := hp
    obtain ⟨rs, k, p, ht⟩ := s.refusedTile_eq c0
    rw [State.endHandler_packet s c0 n h, ht]
    split
    · obtain ⟨he, ths, q, htile⟩ := State.finish_retired
        { s with tile := (Tile.freeCells { s.tile with reports := rs, lost := k, r := { s.tile.r with perf := p } } c0) }
      rw [htile]
      exact ⟨rfl, he.2.2.1, rfl, rfl, rfl⟩
    · rw [State.stall_tile, State.stall_th]
      exact ⟨rfl, rfl, rfl, rfl, rfl⟩
  · rw [State.endHandler_plain s fun c0 n h => hp ⟨c0, n, h⟩]
    obtain ⟨he, ths, q, htile⟩ := State.finish_retired s
    rw [htile]
    exact ⟨rfl, he.2.2.1, rfl, rfl, rfl⟩

/-- A packet handler with no successor to fire ends at once and frees its cells (R240). -/
theorem State.endHandler_silent (s : State) (c0 n : Nat) (h : s.th.work = .packet c0 n)
    (hs : hdrNsucc (s.cellWord c0 0) = 0 ∨ s.th.fwdUsed = true) :
    s.th.endedFrom s.endHandler.th ∧ s.endHandler.mem = s.mem ∧
      s.endHandler.tile.runs = s.tile.runs.filter (fun r => r.c0 != c0) ∧ s.endHandler.tile.inj = s.tile.inj := by
  have hh : s.handlesOf c0 = [] := by
    unfold State.handlesOf
    split
    · rfl
    · next hf => rw [hs.resolve_right hf]; rfl
  rw [State.endHandler_packet s c0 n h, State.refusedTile_of_none s c0 (by rw [hh]; rfl)]
  rw [if_pos (by simp [State.firingsOf, hh])]
  obtain ⟨he, ths, q, htile⟩ := State.finish_retired { s with tile := s.tile.freeCells c0 }
  rw [htile]
  exact ⟨he, rfl, rfl, rfl⟩

theorem State.endHandler_other (s : State) (h : ∀ c0 n, s.th.work ≠ .packet c0 n) :
    s.th.endedFrom s.endHandler.th ∧ s.endHandler.mem = s.mem ∧ s.endHandler.tile.runs = s.tile.runs ∧
      s.endHandler.tile.inj = s.tile.inj := by
  rw [State.endHandler_plain s h]
  obtain ⟨he, ths, q, htile⟩ := State.finish_retired s
  rw [htile]
  exact ⟨he, rfl, rfl, rfl⟩

/-- The firing of a handle word that names a successor on a channel for decrements (R51, R126). -/
theorem handleInj_fires (i : Tid) (w : Word) (hn : w.setWidth 32 ≠ (0 : BitVec 32))
    (hv : (w.extractLsb' 56 8).toNat ≤ 7 ∨ (w.extractLsb' 56 8).toNat = 13) (ha : w.extractLsb' 48 8 ≠ 0) :
    handleInj i w = (some ⟨some i, (w.extractLsb' 56 8).setWidth 4, .name (w.setWidth 32),
      .decr (BitVec.ofNat 64 (8 * (w.extractLsb' 32 16).toNat)) (w.extractLsb' 48 8).toNat, .fire⟩, false) := by
  have hname : w.extractLsb' 0 32 = w.setWidth 32 := by ext k hk; simp
  have hvc : BitVec.ofNat 4 (w.extractLsb' 56 8).toNat = (w.extractLsb' 56 8).setWidth 4 := BitVec.eq_of_toNat_eq (by simp)
  have haddr : ((w.extractLsb' 32 16).zeroExtend 64 <<< 3 : Word) = BitVec.ofNat 64 (8 * (w.extractLsb' 32 16).toNat) := by
    apply BitVec.eq_of_toNat_eq
    simp [Nat.shiftLeft_eq]
    omega
  have hamount : (w.extractLsb' 48 8).toNat ≠ 0 := fun h => ha (BitVec.eq_of_toNat_eq h)
  unfold handleInj
  simp only [hname, hvc, haddr]
  rw [if_neg hn, if_pos ⟨hv, hamount⟩]

/-- A packet handler with one successor to fire offers its decrement, and ends as the port takes it (R51, R240; log 39). -/
theorem State.endHandler_fires (s : State) (c0 n : Nat) (h : s.th.work = .packet c0 n) (hn : hdrNsucc (s.cellWord c0 0) = 1)
    (hf : s.th.fwdUsed = false) (m : Inj)
    (hm : handleInj s.tid (s.cellWord c0 (2 + 2 * hdrLen (s.cellWord c0 0) - 1)) = (some { m with entered := .fire }, false))
    (he : m.entered = .last c0) : s.endHandler = (s.mapTile fun t => { t with inj := t.inj ++ [m] }).stall := by
  have hh : s.handlesOf c0 = [(some { m with entered := .fire }, false)] := by
    unfold State.handlesOf
    rw [hn, hf, ← hm]; rfl
  have hfire : s.firingsOf c0 = [{ m with entered := .fire }] := by rw [State.firingsOf, hh]; rfl
  rw [State.endHandler_packet s c0 n h, State.refusedTile_of_none s c0 (by rw [hh]; rfl), hfire]
  have hlast : markLast [{ m with entered := .fire }] c0 = [m] := by rw [markLast, ← he]
  rw [hlast]
  rfl

/-- As the last firing enters, its thread's handler ends and its cells are free (R240). -/
theorem Tile.entered_last (t : Tile) (m : Inj) (i : Tid) (c0 : Nat) (ht : m.tid = some i) (he : m.entered = .last c0) :
    (t.th i).endedFrom ((t.entered m).th i) ∧ (t.entered m).runs = t.runs.filter (fun r => r.c0 != c0) := by
  have hx : t.entered m = ((t.freeCells c0).mapTh i (·.finish)).count 0x02 1 := by simp [Tile.entered, ht, he]
  rw [hx, Tile.count_th, Tile.mapTh_th, if_pos rfl, Tile.count_eq]
  exact ⟨(t.th i).endedFrom_finish, rfl⟩

/-- A last firing that stands at the port: the thread waits in RUN, and its handler has ended once the message has entered (R240). -/
theorem State.offeredLast (s : State) (m : Inj) (c0 : Nat) (hi : m.tid = some s.tid) (he : m.entered = .last c0) :
    let t := (s.mapTile fun t => { t with inj := t.inj ++ [m] }).stall
    s.keeps t ∧ t.th.pc = s.th.pc ∧ t.th.state = s.th.state ∧ t.tile.runs = s.tile.runs ∧ t.tile.inj = s.tile.inj ++ [m] ∧
      s.th.endedFrom ((t.tile.entered m).th s.tid) ∧ (t.tile.entered m).runs = s.tile.runs.filter (fun r => r.c0 != c0) := by
  intro t
  have hth : t.th = { s.th with cycles := s.th.cycles + 1, stalled := true } := State.stall_th _
  have hruns : t.tile.runs = s.tile.runs := by rw [State.stall_tile]; rfl
  obtain ⟨hend, hcells⟩ := Tile.entered_last t.tile m s.tid c0 hi he
  refine ⟨State.keeps_trans (State.keeps_mapTile s _ rfl) (State.keeps_stall _) rfl, by rw [hth], by rw [hth], hruns, ?_, ?_, ?_⟩
  · rw [State.stall_tile]; rfl
  · rw [show t.tile.th s.tid = t.th from rfl, hth] at hend
    exact hend
  · rw [hcells, hruns]

theorem execDoneXForm_on (gd : Guard) (s : State) (hg : guardHolds gd s.th = true) :
    execDoneXForm gd s = whenReady s.mayEnd s fun s => .next s.endHandler := guarded_on 3 _ hg
theorem execYieldXForm_on (gd : Guard) (a : GReg) (s : State) (hg : guardHolds gd s.th = true) :
    execYieldXForm gd a s = yielding (s.gr a) s := guarded_on 3 _ hg

/-! YIELD's checks, then its release and its turn in the write queue (R241; log 35). -/
section
variable {s : State} {a : Word}

theorem yielding_misaligned (h : a.toNat % 16 ≠ 0) : yielding a s = .next (s.trapWith 0x03 a 0 0 0 0) := if_pos h
theorem yielding_out (h : a.toNat % 16 = 0) (ho : 0x10000 ≤ a.toNat ∨ s.tile.inEntries a.toNat 16 = true) :
    yielding a s = .next (s.trapWith 0x04 a 0 0 0 0) := (if_neg (by simpa using h)).trans (if_pos ho)
theorem yielding_checked (h : a.toNat % 16 = 0) (hlt : a.toNat < 0x10000) (hin : s.tile.inEntries a.toNat 16 = false) :
    yielding a s = whenReady (s.mayEnd && !s.tile.wqHolds a.toNat) s fun s => inTurn a.toNat s fun s =>
      .next (s.decrement s.foc a (recCount (s.load (s.pa a.toNat) 8))).endHandler := by
  have hr : ¬ (0x10000 ≤ a.toNat ∨ s.tile.inEntries a.toNat 16 = true) := by
    rintro (h | h)
    · omega
    · simp [hin] at h
  unfold yielding
  rw [if_neg (by simpa using h), if_neg hr]
end

/-- Settles O27: the release waits, then `endHandler` ends the handler or offers its firings; YIELD decrements its record first. -/
theorem handlersEndOrYield : Obligations.HandlersEndOrYield := by
  unfold Obligations.HandlersEndOrYield
  constructor
  · intro s gd ended ends
    have ended_of {i : Instr} (h : exec i s = whenReady s.mayEnd s fun s => .next s.endHandler) : ends i := by
      refine ⟨fun hw => h.trans (whenReady_off _ ?_), fun hr hp => ?_⟩
      · unfold State.mayEnd; rcases hw with e | e <;> simp [e]
      · have hx : exec i s = .next s.endHandler := h.trans (whenReady_on _ (by simp [State.mayEnd, hr, hp]))
        refine ⟨fun hw => ⟨_, hx, s.endHandler_other hw⟩, fun c0 n hw => ?_⟩
        intro h w slot m cells
        refine ⟨fun hs => ⟨_, hx, s.endHandler_silent c0 n hw hs⟩, fun hn hf hname hvc ham => ?_⟩
        have hfire := s.endHandler_fires c0 n hw hn hf m (handleInj_fires s.tid w hname hvc ham) rfl
        rw [hfire] at hx
        refine ⟨_, hx, s.offeredLast m c0 rfl rfl⟩
    exact ⟨ended_of rfl, fun hg => ended_of (execDoneXForm_on gd s hg)⟩
  · intro s gd a k u yields
    have hstored : s.Stored u := State.stored_decrement s (s.gr a) _
    have yields_of {i : Instr} (h : exec i s = yielding (s.gr a) s) : yields i := by
      refine ⟨fun hk => h.trans (yielding_misaligned hk), fun hk hr => h.trans (yielding_out hk hr), fun hk hlt hin => ?_⟩
      have hx := h.trans (yielding_checked hk hlt hin)
      refine ⟨fun hw => hx.trans (whenReady_off _ ?_), fun hr hp hq ht => ?_, fun hr hp hq ht => ?_⟩
      · unfold State.mayEnd; rcases hw with e | e | e <;> simp [e, k] at *
      · exact (hx.trans (whenReady_on _ (by simp [State.mayEnd, hr, hp]; exact hq))).trans (inTurn_off _ ht)
      · have hgo := (hx.trans (whenReady_on _ (by simp [State.mayEnd, hr, hp]; exact hq))).trans (inTurn_on _ ht)
        rw [recCount_load] at hgo
        obtain ⟨hmem, hg, hring, hchain, hlate⟩ := u.endHandler_frame
        refine ⟨u.endHandler, hgo, hg.trans (by rw [hstored.th]), hmem, hring, hchain, hlate, fun hs => ?_⟩
        by_cases hw : ∃ c0 n, s.th.work = .packet c0 n
        · obtain ⟨c0, n, hw⟩ := hw
          have hend := (u.endHandler_silent c0 n (by rw [hstored.th]; exact hw) (by rw [hstored.th]; exact hs c0 n hw)).1
          exact ⟨hend.1, hend.2.1⟩
        · have hend := (u.endHandler_other fun c0 n h => hw ⟨c0, n, by rw [← hstored.th]; exact h⟩).1
          exact ⟨hend.1, hend.2.1⟩
    exact ⟨yields_of rfl, fun hg => yields_of (execYieldXForm_on gd a s hg)⟩

end Sys2Proof.Machine

/-! ### Activation records (O23) -/

namespace Sys2Proof.Machine

/-! The address checks of CSET and CREAD, in their order (R230; log 18). -/
section
variable {s : State} {ea : Int} {k : Nat → Out}

theorem recordAddr_misaligned (h : (BitVec.ofInt 64 ea).toNat % 16 ≠ 0) :
    recordAddr s ea k = .next (s.trapWith 0x03 (BitVec.ofInt 64 ea) 0 0 0 0) := if_pos h

theorem recordAddr_out (h : (BitVec.ofInt 64 ea).toNat % 16 = 0) (ho : ea < 0 ∨ 0x10000 ≤ ea) :
    recordAddr s ea k = .next (s.trapWith 0x04 (BitVec.ofInt 64 ea) 0 0 0 0) := by
  unfold recordAddr; dsimp only
  rw [if_neg (not_not.mpr h), if_pos ho]; rfl

theorem recordAddr_within (h : (BitVec.ofInt 64 ea).toNat % 16 = 0) (h0 : 0 ≤ ea) (h1 : ea < 0x10000) :
    recordAddr s ea k = if s.tile.inEntries ea.toNat 16 || s.tile.window_ (ea.toNat / 64) != .out then
        .next (s.trapWith 0x04 (BitVec.ofInt 64 ea) 0 0 0 0)
      else if s.tile.wqHolds ea.toNat then .next s.stall
      else if s.damaged (s.pa ea.toNat) 8 then
        .next ((s.markBad (s.pa ea.toNat) 8).trapWith 0x0E (BitVec.ofInt 64 ea) 0 0 0 0)
      else k ea.toNat := by
  unfold recordAddr; dsimp only
  rw [if_neg (not_not.mpr h), if_neg (by omega)]; rfl

theorem recordAddr_held (h : (BitVec.ofInt 64 ea).toNat % 16 = 0) (h0 : 0 ≤ ea) (h1 : ea < 0x10000)
    (hx : s.tile.inEntries ea.toNat 16 = true ∨ s.tile.window_ (ea.toNat / 64) ≠ .out) :
    recordAddr s ea k = .next (s.trapWith 0x04 (BitVec.ofInt 64 ea) 0 0 0 0) := by
  rw [recordAddr_within h h0 h1, if_pos (by simpa using hx)]

variable (h : ea.toNat % 16 = 0) (h0 : 0 ≤ ea) (h1 : ea < 0x10000) (hin : s.tile.inEntries ea.toNat 16 = false)
  (hwin : s.tile.window_ (ea.toNat / 64) = .out) (hq : s.tile.wqHolds ea.toNat = false)
include h h0 h1 hin hwin hq

theorem recordAddr_readable : recordAddr s ea k =
    if s.damaged (s.pa ea.toNat) 8 then .next ((s.markBad (s.pa ea.toNat) 8).trapWith 0x0E (BitVec.ofInt 64 ea) 0 0 0 0)
    else k ea.toNat := by
  have hf : (BitVec.ofInt 64 ea).toNat % 16 = 0 := by rw [BitVec.toNat_ofInt]; omega
  rw [recordAddr_within hf h0 h1, if_neg (by simp [hin, hwin]), if_neg (by simp [hq])]

theorem recordAddr_damaged (hd : s.damaged (s.pa ea.toNat) 8 = true) : recordAddr s ea k =
    .next ((s.markBad (s.pa ea.toNat) 8).trapWith 0x0E (BitVec.ofInt 64 ea) 0 0 0 0) := by
  rw [recordAddr_readable h h0 h1 hin hwin hq, if_pos hd]

theorem recordAddr_ok (hd : s.damaged (s.pa ea.toNat) 8 = false) : recordAddr s ea k = k ea.toNat := by
  rw [recordAddr_readable h h0 h1 hin hwin hq, if_neg (by simp [hd])]
end

theorem execCread_on (gd : Guard) (d a : GReg) (i : BitVec 32) (s : State) (hg : guardHolds gd s.th = true) :
    execCread gd d a i s = recordAddr s ((s.gr a).toNat + i.toInt) fun ea => .next ((s.setG d (s.load (s.pa ea) 8)).retire 3) :=
  guarded_on 3 _ hg

/-! A record's words as CSET leaves them. -/

/-- The two words of a record stored by the tile (R230). -/
def State.withRecord (s : State) (k : Nat) (w0 w1 : Word) : State :=
  (s.tileStore s.foc k 8 w0).tileStore s.foc (k + 8) 8 w1
/-- What CSET leaves before it answers: a record whose count is zero joins the queue at once (R230). -/
def State.csetRecord (s : State) (k : Nat) (w0 w1 : Word) : State :=
  if recCount w0 = 0 then (s.withRecord k w0 w1).queueRecord s.foc k w0 else s.withRecord k w0 w1

theorem State.stored_withRecord (s : State) (k : Nat) (w0 w1 : Word) : s.Stored (s.withRecord k w0 w1) := by
  have h := s.stored_tileStore k 8 w0
  have h' := State.stored_tileStore (s.tileStore s.foc k 8 w0) (k + 8) 8 w1
  rw [h.foc] at h'
  exact h.trans h'
theorem State.stored_csetRecord (s : State) (k : Nat) (w0 w1 : Word) : s.Stored (s.csetRecord k w0 w1) := by
  have h := s.stored_withRecord k w0 w1
  unfold State.csetRecord
  split
  · have h' := State.stored_queueRecord (s.withRecord k w0 w1) k w0
    rw [h.foc] at h'
    exact h.trans h'
  · exact h

theorem State.withRecord_mem (s : State) (k : Nat) (w0 w1 : Word) : (s.withRecord k w0 w1).mem =
    Memory.writeN (Memory.writeN s.mem (s.pa k) 8 w0.toNat) (s.pa k + 8) 8 w1.toNat := by
  have hk : tileBase s.foc + (k + 8) = s.pa k + 8 := (Nat.add_assoc _ k 8).symm
  unfold State.withRecord
  rw [State.tileStore_mem (s.tileStore s.foc k 8 w0), hk, State.tileStore_foc_mem]
theorem State.withRecord_ring (s : State) (k : Nat) (w0 w1 : Word) : (s.withRecord k w0 w1).tile.ring = s.tile.ring := by
  have h := (s.stored_tileStore k 8 w0).foc
  unfold State.withRecord
  rw [← State.tileStore_ring s k 8 w0, ← State.tileStore_ring (s.tileStore s.foc k 8 w0) (k + 8) 8 w1, h]
theorem State.withRecord_chain (s : State) (k : Nat) (w0 w1 : Word) : (s.withRecord k w0 w1).tile.chain = s.tile.chain := by
  have h := (s.stored_tileStore k 8 w0).foc
  unfold State.withRecord
  rw [← State.tileStore_chain s k 8 w0, ← State.tileStore_chain (s.tileStore s.foc k 8 w0) (k + 8) 8 w1, h]

/-- Eight bytes written are read back (R10). -/
theorem Memory.readN_writeN_word (m : List Host.Cell) (k : Nat) (w : Word) (h : Memory.wf m = true) :
    Memory.readN (Memory.writeN m k 8 w.toNat) k 8 = w.toNat := by
  rw [Memory.readN_writeN m k 8 _ h]; omega
theorem Memory.readN_writeN_off (m : List Host.Cell) (k n v j l : Nat) (h : Memory.wf m = true) (hj : j + l ≤ k ∨ k + n ≤ j) :
    Memory.readN (Memory.writeN m k n v) j l = Memory.readN m j l :=
  Memory.readN_congr _ _ _ _ fun i _ _ => Memory.read_writeN_other m k n v i h (by omega)

section
variable {s : State} (hwf : Memory.wf s.mem = true)
include hwf

theorem State.withRecord_words (k : Nat) (w0 w1 : Word) :
    Memory.readN (s.withRecord k w0 w1).mem (s.pa k) 8 = w0.toNat ∧ Memory.readN (s.withRecord k w0 w1).mem (s.pa k + 8) 8 = w1.toNat := by
  have hw := Memory.writeN_wf s.mem (s.pa k) 8 w0.toNat hwf
  rw [State.withRecord_mem, Memory.readN_writeN_off _ _ _ _ _ _ hw (by omega), Memory.readN_writeN_word _ _ _ hwf,
    Memory.readN_writeN_word _ _ _ hw]
  exact ⟨rfl, rfl⟩

theorem State.withRecord_wf (k : Nat) (w0 w1 : Word) : Memory.wf (s.withRecord k w0 w1).mem = true := by
  rw [State.withRecord_mem]; exact Memory.writeN_wf _ _ _ _ (Memory.writeN_wf _ _ _ _ hwf)

theorem State.withRecord_elsewhere (k : Nat) (w0 w1 : Word) (j : Nat) (hj : j < s.pa k ∨ s.pa k + 16 ≤ j) :
    Memory.read (s.withRecord k w0 w1).mem j = Memory.read s.mem j := by
  rw [State.withRecord_mem, Memory.read_writeN_other _ _ _ _ _ (Memory.writeN_wf _ _ _ _ hwf) (by omega),
    Memory.read_writeN_other _ _ _ _ _ hwf (by omega)]
end

/-! Word 0 of a record as it is queued (R46, R47). -/

theorem recQueuedWord_toNat_mod (w : Word) : (recQueuedWord w).toNat % 65536 = 0 := by
  have h : (recQueuedWord w).extractLsb' 0 16 = 0 := by
    unfold recQueuedWord recRanTo recQdTo recBit recCountTo
    ext i hi
    have : i < 64 := by omega
    simp
    interval_cases i <;> simp [BitVec.getLsbD_eq_getElem, this]
  have := congrArg BitVec.toNat h
  simpa [BitVec.extractLsb'_toNat] using this
theorem recQueuedWord_qd (w : Word) : (recQueuedWord w).getLsbD 26 = true := by
  simp [recQueuedWord, recRanTo, recQdTo, recBit]

/-- A word with a count of zero and bits 26 to 28 clear is queued by adding QD to it. -/
theorem recQueuedWord_of_clear (w : Word) (hc : w.toNat % 65536 = 0) (hf : w.toNat / 2 ^ 26 % 8 = 0) :
    (recQueuedWord w).toNat = w.toNat + 2 ^ 26 := by
  have hbit (i : Nat) (h : i < 64) (hi : i < 16 ∨ i = 26 ∨ i = 28) : w[i] = false := by
    have hd : ¬ w.toNat / 2 ^ i % 2 = 1 := by
      rcases hi with hi | rfl | rfl
      · interval_cases i <;> omega
      · omega
      · omega
    rw [← BitVec.getLsbD_eq_getElem, ← BitVec.testBit_toNat, Nat.testBit_eq_decide_div_mod_eq]
    exact decide_eq_false hd
  have hand : w &&& 0x4000000 = 0 := by
    refine BitVec.eq_of_getLsbD_eq fun i hi => ?_
    by_cases h26 : i = 26
    · simp [h26, hbit]
    · interval_cases i <;> simp_all
  have hor : recQueuedWord w = w + 0x4000000 := by
    rw [BitVec.add_eq_or_of_and_eq_zero _ _ hand]
    unfold recQueuedWord recRanTo recQdTo recBit recCountTo
    refine BitVec.eq_of_getLsbD_eq fun i hi => ?_
    interval_cases i <;> simp [hbit]
  have hq : (0x4000000 : Word).toNat = 2 ^ 26 := rfl
  have hlt := w.isLt
  rw [hor, BitVec.toNat_add, hq]
  omega

/-- Word 0 as CSET takes it of gb: its bits 26 to 31 are zero (R230). -/
def csetWord (w : Word) : Word := w.extractLsb' 32 32 ++ ((0 : BitVec 6) ++ w.extractLsb' 0 26)

theorem csetWord_eq (w : Word) : (w.extractLsb' 32 32 ++ (0 : BitVec 6) ++ w.extractLsb' 0 26 : Word) = csetWord w := by
  rw [csetWord, BitVec.append_assoc, BitVec.cast_eq]

theorem csetWord_toNat (w : Word) : (csetWord w).toNat = w.toNat / 2 ^ 32 * 2 ^ 32 + w.toNat % 2 ^ 26 := by
  have h := w.isLt
  have hlo : ((0 : BitVec 6) ++ w.extractLsb' 0 26).toNat = w.toNat % 2 ^ 26 := by
    rw [BitVec.toNat_append, BitVec.extractLsb'_toNat]; simp
  unfold csetWord
  rw [BitVec.toNat_append, ← Nat.shiftLeft_add_eq_or_of_lt (BitVec.isLt _), hlo, BitVec.extractLsb'_toNat, Nat.shiftLeft_eq,
    Nat.shiftRight_eq_div_pow]
  omega

section
variable {s : State} (hwf : Memory.wf s.mem = true) (hr : s.tile.ring.length < 64) (hc : s.tile.chain = [])
include hr hc

theorem State.queueRecord_room (k : Nat) (w : Word) :
    (s.queueRecord s.foc k w).tile.ring = s.tile.ring ++ [k] ∧
      (s.queueRecord s.foc k w).mem = Memory.writeN s.mem (s.pa k) 8 (recQueuedWord w).toNat := by
  rw [State.queueRecord_ring s k w hr hc]
  exact ⟨congrArg (· ++ [k]) (State.tileStore_ring s k 8 _), State.tileStore_foc_mem s k 8 _⟩

theorem State.csetRecord_queued (k : Nat) (w0 w1 : Word) (h0 : recCount w0 = 0) :
    (s.csetRecord k w0 w1).tile.ring = s.tile.ring ++ [k] ∧ (s.csetRecord k w0 w1).mem =
      Memory.writeN (s.withRecord k w0 w1).mem (s.pa k) 8 (recQueuedWord w0).toNat := by
  have hst := s.stored_withRecord k w0 w1
  have hq := State.queueRecord_room (s := s.withRecord k w0 w1) (by rwa [State.withRecord_ring]) (by rwa [State.withRecord_chain]) k w0
  rw [hst.foc, hst.pa, State.withRecord_ring] at hq
  unfold State.csetRecord
  rwa [if_pos h0]
end

theorem execCset_on (gd : Guard) (p : PReg) (a b c : GReg) (i : BitVec 32) (s : State) (hg : guardHolds gd s.th = true) :
    execCset gd p a b c i s = recordAddr s ((s.gr a).toNat + i.toInt) fun ea => inTurn ea s fun s =>
      if recQd (s.load (s.pa ea) 8) then .next ((s.setP p false).retire 3)
      else .next (((s.csetRecord ea (csetWord (s.gr b)) (s.gr c)).setP p true).retire 3) := by
  refine (guarded_on 3 _ hg).trans ?_
  simp only [csetWord_eq]
  rfl

/-! What a decrement does to a record it may count down (R47). -/
section
variable {s : State} {k : Nat} (hk : k % 16 = 0) (hlt : k < 65536) (hin : s.tile.inEntries k 16 = false)
  (hd : s.damaged (s.pa k) 8 = false)
include hk hlt hin hd

theorem State.decrement_counts (d : Nat) : s.decrement s.foc (BitVec.ofNat 64 k) d =
    if recQd (s.load (s.pa k) 8) ∨ recCount (s.load (s.pa k) 8) = 0 then { s with tile := s.tile.lateDecr }
    else if d < recCount (s.load (s.pa k) 8) then s.tileStore s.foc k 8 (s.load (s.pa k) 8 - BitVec.ofNat 64 d)
    else s.queueRecord s.foc k (s.load (s.pa k) 8) := by
  have hn : (BitVec.ofNat 64 k).toNat = k := by rw [BitVec.toNat_ofNat]; omega
  have hpa : tileBase s.foc + k = s.pa k := rfl
  unfold State.decrement
  simp only [State.tileAt_foc, State.setTileAt_foc, hn, hpa]
  rw [if_neg (not_not.mpr hk), if_neg (by simp [hin]; omega), if_neg (by simp [hd])]
end

/-- Settles O23: the address checks in order, then the record's words as `csetRecord` and `decrement` leave them. -/
theorem recordsAreSetCountedAndQueued : Obligations.RecordsAreSetCountedAndQueued := by
  unfold Obligations.RecordsAreSetCountedAndQueued
  constructor
  · intro s gd d a b c p i ea f k rec0 w0 both hg
    have hset := execCset_on gd p a b c i s hg
    have hread := execCread_on gd d a i s hg
    refine ⟨fun hf => ?_, fun hf ho => ?_, fun hf h0 h1 hx => ?_, fun hk h0 h1 hin hwin hq hd => ?_, fun hk h0 h1 hin hwin hq hd => ?_⟩
    · exact ⟨hset.trans (recordAddr_misaligned hf), hread.trans (recordAddr_misaligned hf)⟩
    · exact ⟨hset.trans (recordAddr_out hf ho), hread.trans (recordAddr_out hf ho)⟩
    · exact ⟨hset.trans (recordAddr_held hf h0 h1 hx), hread.trans (recordAddr_held hf h0 h1 hx)⟩
    · intro x hx
      have hgo : exec x s = .next ((s.markBad (s.pa k) 8).trapWith 0x0E f 0 0 0 0) := by
        rcases List.mem_pair.mp hx with rfl | rfl
        · exact hset.trans (recordAddr_damaged hk h0 h1 hin hwin hq hd)
        · exact hread.trans (recordAddr_damaged hk h0 h1 hin hwin hq hd)
      exact ⟨_, hgo, by rw [State.trapWith_th, State.trapWith_th, State.markBad_th], by simp⟩
    · have hset := hset.trans (recordAddr_ok hk h0 h1 hin hwin hq hd)
      refine ⟨hread.trans (recordAddr_ok hk h0 h1 hin hwin hq hd), fun ht => hset.trans (inTurn_off _ ht),
        fun ht hqd => (hset.trans (inTurn_on _ ht)).trans (if_pos hqd), fun ht hqd hwf => ?_⟩
      have hgo : exec (.cset gd p a b c i) s = .next (((s.csetRecord k w0 (s.gr c)).setP p true).retire 3) :=
        (hset.trans (inTurn_on _ ht)).trans (if_neg (by rw [show recQd (s.load (s.pa k) 8) = false from hqd]; exact Bool.false_ne_true))
      have hst := s.stored_csetRecord k w0 (s.gr c)
      have hcount : recCount w0 = w0.toNat % 65536 := by simp [recCount, BitVec.extractLsb'_toNat]
      have hmem : (((s.csetRecord k w0 (s.gr c)).setP p true).retire 3).mem = (s.csetRecord k w0 (s.gr c)).mem := rfl
      have hring : (((s.csetRecord k w0 (s.gr c)).setP p true).retire 3).tile.ring = (s.csetRecord k w0 (s.gr c)).tile.ring := by
        rw [State.retire_ring]; rfl
      have hchain : (((s.csetRecord k w0 (s.gr c)).setP p true).retire 3).tile.chain = (s.csetRecord k w0 (s.gr c)).tile.chain := by
        rw [State.retire_chain]; rfl
      refine ⟨_, hgo, fun hp => ?_, fun q hq => ?_, fun q => ?_, ?_, fun hn => ?_, fun hn hr hc => ?_⟩
      · rw [State.retire_pr]; exact State.setP_pr_same _ _ _ hp
      · rw [State.retire_pr, State.setP_pr_other _ _ _ _ hq, State.pr, hst.th]; rfl
      · rw [State.retire_gr, State.setP_gr, State.gr, hst.th]; rfl
      · exact (State.retire_next s _ 3 (by simp [hst.th]) (by simp [hst.th])).1
      · have hw : s.csetRecord k w0 (s.gr c) = s.withRecord k w0 (s.gr c) := if_neg (by rwa [hcount])
        rw [hmem, hring, hchain, hw]
        have hwords := State.withRecord_words hwf k w0 (s.gr c)
        exact ⟨hwords.1, hwords.2, s.withRecord_ring k w0 _, s.withRecord_chain k w0 _, State.withRecord_elsewhere hwf k w0 _⟩
      · have hq := State.csetRecord_queued hr hc k w0 (s.gr c) (hcount.trans hn)
        have hwf' := State.withRecord_wf hwf k w0 (s.gr c)
        have hw0 : w0.toNat = _ := csetWord_toNat (s.gr b)
        rw [hmem, hring, hq.1, hq.2]
        refine ⟨rfl, ?_, fun j hj => ?_⟩
        · rw [Memory.readN_writeN_word _ _ _ hwf', recQueuedWord_of_clear w0 hn (by omega)]
        · rw [Memory.read_writeN_other _ _ _ _ _ hwf' (by omega), State.withRecord_elsewhere hwf k w0 _ j hj]
  · intro s k d at_ w n t hk hlt hin hd hwf
    have ht : t = _ := State.decrement_counts hk hlt hin hd d
    have hwlt : w.toNat = Memory.readN s.mem at_ 8 := by
      have := Memory.readN_lt s.mem at_ 8
      exact Nat.mod_eq_of_lt this
    have hcount : recCount (s.load (s.pa k) 8) = n := by
      rw [recCount_load, ← hwlt]
    have hlate (h : w.getLsbD 26 = true ∨ n = 0) : t = { s with tile := s.tile.lateDecr } := ht.trans (if_pos (by rwa [hcount]))
    have hlow (h : w.getLsbD 26 = false) (hdn : d < n) : t = s.tileStore s.foc k 8 (w - BitVec.ofNat 64 d) := by
      rw [ht, hcount, if_neg (by simp only [not_or]; exact ⟨by simp [recQd]; exact h, by omega⟩), if_pos hdn]; rfl
    have hzero (h : w.getLsbD 26 = false) (hn : n ≠ 0) (hdn : n ≤ d) : t = s.queueRecord s.foc k w := by
      rw [ht, hcount, if_neg (by simp only [not_or]; exact ⟨by simp [recQd]; exact h, hn⟩), if_neg (by omega)]; rfl
    have hst : s.Stored t := s.stored_decrement _ d
    refine ⟨fun h => ?_, fun h hdn => ?_, fun h hn hdn hr hc => ?_, fun j hroom hj => ?_, fun q => ?_⟩
    · rw [hlate h]; exact ⟨rfl, rfl⟩
    · have hdw : (BitVec.ofNat 64 d).toNat = d := Nat.mod_eq_of_lt (by omega)
      have hle : BitVec.ofNat 64 d ≤ w := by rw [BitVec.le_def, hdw]; omega
      rw [hlow h hdn, State.tileStore_foc_mem, Memory.readN_writeN_word _ _ _ hwf, BitVec.toNat_sub_of_le hle, hdw]
      exact ⟨rfl, s.tileStore_ring k 8 _⟩
    · have hq := State.queueRecord_room hr hc k w
      rw [hzero h hn hdn, hq.1, hq.2, Memory.readN_writeN_word _ _ _ hwf, BitVec.ofNat_toNat, BitVec.setWidth_eq]
      exact ⟨rfl, recQueuedWord_toNat_mod w, recQueuedWord_qd w⟩
    · have hstore (x : Word) (hm : t.mem = Memory.writeN s.mem at_ 8 x.toNat) : Memory.read t.mem j = Memory.read s.mem j := by
        rw [hm]; exact Memory.read_writeN_other _ _ _ _ _ hwf hj
      by_cases hz : w.getLsbD 26 = true ∨ n = 0
      · rw [hlate hz]
      · obtain ⟨hqd, hn⟩ : w.getLsbD 26 = false ∧ n ≠ 0 := by simpa using hz
        by_cases hdn : d < n
        · exact hstore _ (by rw [hlow hqd hdn]; exact State.tileStore_foc_mem ..)
        · obtain ⟨hr, hc⟩ := hroom hqd hn
          exact hstore _ (by rw [hzero hqd hn (by omega)]; exact (State.queueRecord_room hr hc k w).2)
    · rw [State.gr, hst.th]; rfl

end Sys2Proof.Machine

/-! ### Control registers, PWIN, VCW and SCRUB (O18) -/

namespace Sys2Proof.Machine

/-! The map of R212. -/

/-- A register of 0x000 to 0x1FF that a thread may write (R213). -/
def csrWritable (n : Nat) : Prop :=
  n < 8 ∨ n = 0x107 ∨ n = 0x108 ∨ n = 0x109 ∨ n = 0x10A ∨ (0x10C ≤ n ∧ n ≤ 0x10F) ∨ n = 0x125 ∨ n = 0x130 ∨ (0x131 ≤ n ∧ n ≤ 0x134)

theorem csrInfo_priv {n : Nat} (h : 0x200 ≤ n) : csrInfo n = none := by
  unfold csrInfo
  iterate 19 rw [if_neg (by omega)]

/-- A register that no thread may write has no writable bits (R213). -/
theorem csrInfo_of_not_writable {n : Nat} (h : ¬ csrWritable n) : csrInfo n = none ∨ csrInfo n = some ⟨0, 0, allBits⟩ := by
  unfold csrWritable at h
  unfold csrInfo
  iterate 8 rw [if_neg (by omega)]
  split
  · exact .inr rfl
  · split
    · exact .inr rfl
    · iterate 5 rw [if_neg (by omega)]
      split
      · exact .inr rfl
      · iterate 3 rw [if_neg (by omega)]
        exact .inl rfl

theorem csrInfo_writable {n : Nat} {f : CsrInfo} (h : csrInfo n = some f) (hw : f.rw ||| f.w1c ≠ 0) : csrWritable n := by
  by_contra hn
  rcases csrInfo_of_not_writable hn with h' | h'
  · simp [h'] at h
  · rw [h', Option.some.injEq] at h
    exact hw (by rw [← h]; rfl)

theorem csrInfo_pwin {n : Nat} (h : 0x10C ≤ n) (h' : n ≤ 0x10F) : csrInfo n = some ⟨0x800000003FFFFFFF, 0, 0x4000000000000000⟩ := by
  unfold csrInfo
  iterate 14 rw [if_neg (by omega)]
  rw [if_pos ⟨h, h'⟩]

/-! What a write leaves in its register (R213). -/

/-- The value that a write of `bits` where `mask` leaves: RW bits take them, W1C bits clear (R213). -/
def csrValue (f : CsrInfo) (old bits mask : Word) : Word :=
  (old &&& ~~~(f.rw &&& mask) &&& ~~~(f.w1c &&& bits)) ||| (f.rw &&& bits)

theorem csrNext_eq (n : Nat) (f : CsrInfo) (old bits mask : Word) (hw : f.rw ||| f.w1c ≠ 0) (hb : bits &&& mask = bits) :
    csrNext n f old bits mask = if bits &&& ~~~(f.rw ||| f.w1c ||| f.ro) ≠ 0 then none
      else if csrValueOk n (csrValue f old bits mask) then some (csrValue f old bits mask) else none := by
  have h1 : f.w1c &&& mask &&& bits = f.w1c &&& bits := by rw [BitVec.and_assoc, BitVec.and_comm mask, hb]
  have h2 : bits &&& f.rw &&& mask = f.rw &&& bits := by
    rw [BitVec.and_assoc, BitVec.and_comm f.rw, ← BitVec.and_assoc, hb, BitVec.and_comm]
  unfold csrNext
  rw [if_neg hw, hb, h1, h2]
  simp only [bne_iff_ne]
  rfl

/-- The state as a write of register n stores its value (R212, R112); new flags reach their unions (R91). -/
def State.csrPut (s : State) (n : Nat) (old v : Word) : State :=
  if n < 0x100 then
    if n = 0x001 then (s.mapTh (·.putCsr n v)).feedUnions s.foc (v.extractLsb' 0 6 &&& ~~~old.extractLsb' 0 6) else s.mapTh (·.putCsr n v)
  else if 0x10C ≤ n ∧ n ≤ 0x10F then s.mapTile (·.pwinPut (n - 0x10C) v)
  else s.mapTile fun t => { t with r := t.r.put n v }

section
variable {s : State} {d : GReg} {n : Nat} {bits mask old : Word} {f : CsrInfo} (hr : readCsr s.wtime s.tile s.foc s.tid n = some old)
include hr

theorem csrWrite_priv (hp : 0x200 ≤ n) : csrWrite d n bits mask s = .next (s.trapWith 0x02 0 0 0 0 0) := by
  unfold csrWrite; rw [hr, csrInfo_priv hp]; rfl

variable (hf : csrInfo n = some f)
include hf

theorem csrWrite_readOnly (hw : f.rw ||| f.w1c = 0) : csrWrite d n bits mask s = .next ((s.setG d old).retire 1) := by
  unfold csrWrite csrNext; rw [hr, hf]; simp only [if_pos hw]

variable (hw : f.rw ||| f.w1c ≠ 0) (hb : bits &&& mask = bits)
include hw hb

theorem csrWrite_reserved (h : bits &&& ~~~(f.rw ||| f.w1c ||| f.ro) ≠ 0) : csrWrite d n bits mask s = .next s.trapIllegal := by
  unfold csrWrite; rw [hr, hf]
  dsimp only
  rw [csrNext_eq n f old bits mask hw hb, if_pos h]

variable (h0 : bits &&& ~~~(f.rw ||| f.w1c ||| f.ro) = 0)
include h0

theorem csrWrite_forbidden (h : csrValueOk n (csrValue f old bits mask) = false) : csrWrite d n bits mask s = .next s.trapIllegal := by
  unfold csrWrite; rw [hr, hf]
  dsimp only
  rw [csrNext_eq n f old bits mask hw hb, if_neg (not_not.mpr h0), if_neg (by simp [h])]

theorem csrWrite_puts (h : csrValueOk n (csrValue f old bits mask) = true)
    (hp : 0x10C ≤ n → n ≤ 0x10F → pwinOk s.tile (n - 0x10C) (csrValue f old bits mask) = true ∧ s.tile.ops = [] ∧ s.tile.copies = []) :
    csrWrite d n bits mask s = .next (((s.csrPut n old (csrValue f old bits mask)).setG d old).retire 1) := by
  unfold csrWrite; rw [hr, hf]
  dsimp only
  rw [csrNext_eq n f old bits mask hw hb, if_neg (not_not.mpr h0), if_pos h]
  dsimp only
  unfold State.csrPut
  rw [if_neg hw]
  split
  · rfl
  · split
    · next hw =>
      obtain ⟨hok, ho, hc⟩ := hp hw.1 hw.2
      rw [if_neg (by simp [hok])]
      exact whenReady_on _ (by simp [ho, hc])
    · rfl
end

/-! What is read after a write. -/

/-- No register of 0x000 to 0x00C is where another is written (R212). -/
theorem Thread.putCsr_csr (t : Thread) (i : Tid) (n k : Nat) (v : Word) (hn : n < 8) (hk : k ≠ n) : (t.putCsr n v).csr i k = t.csr i k := by
  unfold Thread.csr
  split <;> interval_cases n <;> first | rfl | contradiction

/-- TCM has one bit (R86). -/
theorem Thread.putCsr_csr_same (t : Thread) (i : Tid) (n : Nat) (v : Word) (hn : n < 8) (h2 : n = 2 → ∀ b, b ≠ 0 → v.getLsbD b = false) :
    (t.putCsr n v).csr i n = some v := by
  by_cases h : n = 2
  · subst h
    have hv : (if v.getLsbD 0 then 1 else 0 : Word) = v := by
      refine BitVec.eq_of_getLsbD_eq fun b hb => ?_
      by_cases hb0 : b = 0
      · subst hb0; cases v.getLsbD 0 <;> rfl
      · rw [h2 rfl b hb0]
        split
        · simp [hb0]
        · exact BitVec.getLsbD_zero
    exact congrArg some hv
  · interval_cases n <;> first | rfl | contradiction

theorem Tile.csr_threads_perf (w : Word) (t : Tile) (c : Coord) (k : Nat) (x : Vector Thread 4) (p : Vector Word 4) (hk : k < 0x131 ∨ 0x134 < k) :
    Tile.csr w { t with threads := x, r := { t.r with perf := p } } c k = Tile.csr w t c k := by
  have hp : ¬ (0x131 ≤ k ∧ k ≤ 0x134) := by omega
  simp only [Tile.csr, if_neg hp]
  rfl

/-- A retiring instruction that writes gd changes no control register but LOOP and the performance counters. -/
theorem readCsr_setG_retire (u : State) (d : GReg) (x : Word) (n k : Nat) (hk : k ≠ 0x00C) (hp : k < 0x131 ∨ 0x134 < k) :
    let t := (u.setG d x).retire n
    readCsr t.wtime t.tile t.foc t.tid k = readCsr u.wtime u.tile u.foc u.tid k := by
  intro t
  unfold readCsr
  split
  · have ht : t.tile.th t.tid = { (u.th.setG d x).advance n with cycles := (u.th.setG d x).cycles + 1 } := by
      rw [← State.setG_th]; exact State.retire_th _ _
    rw [ht]
    change _ = u.th.csr u.tid k
    unfold Thread.csr
    split <;> first | contradiction | simp [t]
  · have ht : t.tile = _ := State.retire_tile (u.setG d x) n
    rw [ht]
    exact Tile.csr_threads_perf _ _ _ _ _ _ hp

/-! A tile register as a write stores it. -/
section
variable (w : Word) (t : Tile) (c : Coord) (v : Word)

/-- No tile register is where another is written, counters aside (R212). -/
theorem Tile.csr_put_other {n k : Nat} (hn : csrWritable n) (h8 : 0x100 ≤ n) (hw : ¬ (0x10C ≤ n ∧ n ≤ 0x10F)) (hk : k ≠ n)
    (hp : k < 0x131 ∨ 0x134 < k) : Tile.csr w { t with r := t.r.put n v } c k = Tile.csr w t c k := by
  have hpk : ¬ (0x131 ≤ k ∧ k ≤ 0x134) := by omega
  rcases hn with h | rfl | rfl | rfl | rfl | h | rfl | rfl | h
  · omega
  · simp only [Tile.csr, if_neg hk]; rfl
  · simp only [Tile.csr, if_neg hk]; rfl
  · simp only [Tile.csr, if_neg hk]; rfl
  · simp only [Tile.csr, if_neg hk]; rfl
  · exact absurd h hw
  · simp only [Tile.csr, if_neg hk]; rfl
  · simp only [Tile.csr, if_neg hk]; rfl
  · have hput : t.r.put n v = { t.r with perf := setV4 t.r.perf (n - 0x131) v } := by
      unfold TileRegs.put
      iterate 8 rw [if_neg (by omega)]
      rw [if_pos h]
    rw [hput]
    exact Tile.csr_threads_perf w t c k t.threads _ hp

theorem Tile.csr_put_same {n : Nat} (hn : csrWritable n) (h8 : 0x100 ≤ n) (hw : ¬ (0x10C ≤ n ∧ n ≤ 0x10F)) (hp : n < 0x131) :
    Tile.csr w { t with r := t.r.put n v } c n = some v := by
  rcases hn with h | rfl | rfl | rfl | rfl | h | rfl | rfl | h
  · omega
  · rfl
  · rfl
  · rfl
  · rfl
  · exact absurd h hw
  · rfl
  · rfl
  · omega

theorem Tile.csr_pwin {n : Nat} (h : 0x10C ≤ n ∧ n ≤ 0x10F) : Tile.csr w t c n = some (getV4 t.r.pwin (n - 0x10C)) := by
  unfold Tile.csr
  iterate 10 rw [if_neg (by omega)]
  rw [if_pos h]

theorem Tile.csr_pwinPut_other {n k : Nat} (h : 0x10C ≤ n ∧ n ≤ 0x10F) (hk : k ≠ n) :
    Tile.csr w (t.pwinPut (n - 0x10C) v) c k = Tile.csr w t c k := by
  by_cases hw : 0x10C ≤ k ∧ k ≤ 0x10F
  · rw [Tile.csr_pwin _ _ _ hw, Tile.csr_pwin _ _ _ hw, getV4_eq _ _ (by omega), getV4_eq _ _ (by omega)]
    exact congrArg some (setV4_get_other _ _ _ _ (by omega) (by omega))
  · unfold Tile.pwinPut
    simp only [Tile.csr, if_neg hw]
    rfl
end

/-- The window that a PWIN write leaves: side A shows if it is enabled, and VIS stands if it is not (R112). -/
def pwinWritten (old v : Word) : Word := (v &&& 0xBFFFFFFFFFFFFFFF) ||| (if pwinEn v then 0 else old &&& 0x4000000000000000)

theorem Tile.pwinPut_get (t : Tile) (i : Nat) (v : Word) (h : i < 4) : (t.pwinPut i v).r.pwin[i] = pwinWritten t.r.pwin[i] v := by
  rw [← getV4_eq t.r.pwin i h]
  exact setV4_get_same _ _ _ h

theorem pwinWritten_enabled (old v : Word) (h : v.getLsbD 63 = true) : pwinWritten old v = v &&& ~~~0x4000000000000000 := by
  unfold pwinWritten pwinEn
  rw [if_pos h]
  exact BitVec.or_zero

theorem pwinWritten_disabled (old v : Word) (h : v.getLsbD 63 = false) (hv : v &&& 0x4000000000000000 = old &&& 0x4000000000000000) :
    pwinWritten old v = v := by
  unfold pwinWritten pwinEn
  rw [if_neg (by rw [h]; exact Bool.false_ne_true), ← hv, ← BitVec.and_or_distrib_left]
  exact BitVec.and_allOnes

/-- A thread's write leaves VIS as it was in the bits it offers to the window. -/
theorem csrValue_pwin_vis (old bits mask : Word) :
    csrValue ⟨0x800000003FFFFFFF, 0, 0x4000000000000000⟩ old bits mask &&& 0x4000000000000000 = old &&& 0x4000000000000000 := by
  unfold csrValue
  refine BitVec.eq_of_getLsbD_eq fun i hi => ?_
  by_cases h : i = 62
  · subst h; simp
  · interval_cases i <;> simp_all

/-- The bits of TCM but the lowest stay clear (R86). -/
theorem csrValue_tcm_high (x : Bool) (bits mask : Word) (b : Nat) (hb : b ≠ 0) :
    (csrValue ⟨1, 0, 0⟩ (if x then 1 else 0) bits mask).getLsbD b = false := by
  unfold csrValue
  cases x <;> simp [hb]

section
variable (s : State) (n : Nat) (old v : Word)

theorem State.feedUnions_eq (c : Coord) (f : Flags) : ∃ bf hf, s.feedUnions c f = { s with blockFlags := bf, hallFlags := hf } := by
  unfold State.feedUnions
  dsimp only
  (repeat' split) <;> exact ⟨_, _, rfl⟩

theorem Thread.putCsr_frame (t : Thread) : (t.putCsr n v).g = t.g ∧ (t.putCsr n v).p = t.p ∧ (t.putCsr n v).pc = t.pc ∧
    (t.putCsr n v).loop = t.loop := by
  unfold Thread.putCsr
  split <;> exact ⟨rfl, rfl, rfl, rfl⟩

/-- A per-thread register is stored in the thread, and the unions of flags may rise (R91). -/
theorem State.csrPut_thread (hn : n < 0x100) : ∃ bf hf, s.csrPut n old v = { s.mapTh (·.putCsr n v) with blockFlags := bf, hallFlags := hf } := by
  unfold State.csrPut
  rw [if_pos hn]
  split
  · exact State.feedUnions_eq _ _ _
  · exact ⟨_, _, rfl⟩
theorem State.csrPut_window (h : 0x10C ≤ n ∧ n ≤ 0x10F) : s.csrPut n old v = s.mapTile (·.pwinPut (n - 0x10C) v) := by
  unfold State.csrPut
  rw [if_neg (by omega), if_pos h]
theorem State.csrPut_tile (h8 : 0x100 ≤ n) (hw : ¬ (0x10C ≤ n ∧ n ≤ 0x10F)) :
    s.csrPut n old v = s.mapTile fun t => { t with r := t.r.put n v } := by
  unfold State.csrPut
  rw [if_neg (by omega), if_neg hw]

/-- A control register's write changes registers of the thread and its tile, and the unions of flags (R91). -/
theorem State.csrPut_frame : (s.csrPut n old v).foc = s.foc ∧ (s.csrPut n old v).tid = s.tid ∧ (s.csrPut n old v).wtime = s.wtime ∧
    (s.csrPut n old v).mem = s.mem ∧ (s.csrPut n old v).th.g = s.th.g ∧ (s.csrPut n old v).th.p = s.th.p ∧
    (s.csrPut n old v).th.pc = s.th.pc ∧ (s.csrPut n old v).th.loop = s.th.loop := by
  by_cases hn : n < 0x100
  · obtain ⟨bf, hf, h⟩ := s.csrPut_thread n old v hn
    have hth : (s.csrPut n old v).th = s.th.putCsr n v := by
      rw [h]; exact State.mapTh_th s (·.putCsr n v)
    rw [hth, h]
    exact ⟨rfl, rfl, rfl, rfl, s.th.putCsr_frame n v⟩
  · by_cases hw : 0x10C ≤ n ∧ n ≤ 0x10F
    · rw [s.csrPut_window n old v hw]; exact ⟨rfl, rfl, rfl, rfl, rfl, rfl, rfl, rfl⟩
    · rw [s.csrPut_tile n old v (by omega) hw]; exact ⟨rfl, rfl, rfl, rfl, rfl, rfl, rfl, rfl⟩

end

/-- The thread that a per-thread register's write leaves is the one it is read from. -/
theorem State.csrPut_thread_reads (s : State) (n k : Nat) (old v : Word) (hn : n < 0x100) :
    readCsr (s.csrPut n old v).wtime (s.csrPut n old v).tile (s.csrPut n old v).foc (s.csrPut n old v).tid k =
      if k < 0x100 then (s.th.putCsr n v).csr s.tid k else s.tile.csr s.wtime s.foc k := by
  obtain ⟨bf, hf, h⟩ := s.csrPut_thread n old v hn
  rw [h]
  unfold readCsr
  split
  · exact congrArg (·.csr s.tid k) (State.mapTh_th s (·.putCsr n v))
  · rfl

section
variable {s : State} {n : Nat} (old v : Word) (hn : csrWritable n)
include hn

theorem State.csrPut_reads_other {k : Nat} (hk : k ≠ n) (hp : k < 0x131 ∨ 0x134 < k) :
    readCsr (s.csrPut n old v).wtime (s.csrPut n old v).tile (s.csrPut n old v).foc (s.csrPut n old v).tid k =
      readCsr s.wtime s.tile s.foc s.tid k := by
  by_cases h8 : n < 0x100
  · rw [s.csrPut_thread_reads n k old v h8, Thread.putCsr_csr _ _ _ _ _ (by unfold csrWritable at hn; omega) hk]
    rfl
  · by_cases hw : 0x10C ≤ n ∧ n ≤ 0x10F
    · rw [s.csrPut_window n old v hw]
      unfold readCsr
      split
      · rfl
      · exact Tile.csr_pwinPut_other _ _ _ _ hw hk
    · rw [s.csrPut_tile n old v (by omega) hw]
      unfold readCsr
      split
      · rfl
      · exact Tile.csr_put_other _ _ _ _ hn (by omega) hw hk hp

/-- What is read back: the value, without VIS if it enables a window (R112, R213). -/
theorem State.csrPut_reads_same (hp : n < 0x131) (h2 : n = 2 → ∀ b, b ≠ 0 → v.getLsbD b = false)
    (hvis : 0x10C ≤ n → n ≤ 0x10F → v &&& 0x4000000000000000 = getV4 s.tile.r.pwin (n - 0x10C) &&& 0x4000000000000000) :
    readCsr (s.csrPut n old v).wtime (s.csrPut n old v).tile (s.csrPut n old v).foc (s.csrPut n old v).tid n =
      some (if 0x10C ≤ n ∧ n ≤ 0x10F ∧ v.getLsbD 63 = true then v &&& ~~~0x4000000000000000 else v) := by
  by_cases h8 : n < 0x100
  · rw [s.csrPut_thread_reads n n old v h8, if_pos h8, Thread.putCsr_csr_same _ _ _ _ (by unfold csrWritable at hn; omega) h2,
      if_neg (by omega)]
  · by_cases hw : 0x10C ≤ n ∧ n ≤ 0x10F
    · rw [s.csrPut_window n old v hw]
      have hi : n - 0x10C < 4 := by omega
      have hread : ∀ u : Tile, readCsr s.wtime u s.foc s.tid n = some u.r.pwin[n - 0x10C] := fun u => by
        unfold readCsr
        rw [if_neg h8, Tile.csr_pwin _ _ _ hw, getV4_eq _ _ hi]
      refine (hread _).trans (congrArg some ((Tile.pwinPut_get _ _ _ hi).trans ?_))
      by_cases he : v.getLsbD 63 = true
      · rw [if_pos ⟨hw.1, hw.2, he⟩, pwinWritten_enabled _ _ he]
      · rw [if_neg (fun h => he h.2.2)]
        refine pwinWritten_disabled _ _ (by simpa using he) ?_
        rw [hvis hw.1 hw.2, getV4_eq _ _ hi]
    · rw [s.csrPut_tile n old v (by omega) hw, if_neg (fun h => hw ⟨h.1, h.2.1⟩)]
      unfold readCsr
      rw [if_neg h8]
      exact Tile.csr_put_same _ _ _ _ hn (by omega) hw hp
end

/-! SCRUB (R83). -/

/-- Every line of a tile has a descriptor (R467). -/
theorem hasDesc_pa (s : State) (k : Nat) : hasDesc (s.pa k) = true := by
  unfold hasDesc State.pa tileBase
  rw [Bool.not_eq_true', decide_eq_false_iff_not]
  omega

theorem State.markBad_clean (s : State) (k n : Nat) (h : s.isBad k n = false) : s.markBad k n = s := by
  unfold State.markBad; rw [if_neg (by simp [h])]
theorem State.markBad_poisons (s : State) (k n : Nat) (h : s.isBad k n = true) (hd : hasDesc k = true) (hwf : Tab.wf descBlank s.desc = true) :
    dPoison ((s.markBad k n).descAt k) = true := by
  unfold State.markBad State.poison
  rw [if_pos h, if_pos hd, descAt_setDesc_same _ _ _ hwf]
  simp [dPoison]

/-- What SCRUB leaves of a line but its POISON: its single-bit errors corrected and counted (R83). -/
def State.scrubbed (s : State) (k : Nat) : State :=
  let n := (s.soft.filter fun w => w / 8 == k / 64).length
  ({ s with soft := s.soft.filter fun w => !(w / 8 == k / 64) } : State).mapTile fun t =>
    { t.count 0x0B (BitVec.ofNat 64 n) with softCount := t.softCount + n }

theorem execScrub_line (s : State) (line : Nat) (h : line < 1280) :
    execScrub line s = .next ((s.scrubbed (s.pa (scrubAddr line))).markBad (s.pa (scrubAddr line)) 64) := if_neg (by omega)

theorem State.scrubbed_markBad (s : State) (k : Nat) (hd : hasDesc k = true) :
    let t := (s.scrubbed k).markBad k 64
    t.soft = (s.soft.filter fun w => w / 8 ≠ k / 64) ∧ t.tile.softCount = s.tile.softCount + (s.soft.filter fun w => w / 8 = k / 64).length ∧
      t.mem = s.mem ∧ t.tile.threads = s.tile.threads ∧ (s.isBad k 64 = false → t.desc = s.desc ∧ t.bad = s.bad) ∧
      (s.isBad k 64 = true → Tab.wf descBlank s.desc = true → dPoison (t.descAt k) = true) := by
  intro t
  have hbad : (s.scrubbed k).isBad k 64 = s.isBad k 64 := rfl
  have hfilter : (s.soft.filter fun w => !(w / 8 == k / 64)) = s.soft.filter fun w => w / 8 ≠ k / 64 := by
    simp only [decide_not]; rfl
  have hlen : (s.soft.filter fun w => w / 8 == k / 64) = s.soft.filter fun w => w / 8 = k / 64 := rfl
  obtain ⟨de, hde⟩ := (s.scrubbed k).markBad_eq k 64
  refine ⟨?_, ?_, ?_, ?_, fun h => ?_, fun h hwf => State.markBad_poisons (s.scrubbed k) k 64 h hd hwf⟩
  · rw [← hfilter]; exact congrArg State.soft hde
  · rw [← hlen]; exact congrArg (fun u : State => u.tile.softCount) hde
  · exact (congrArg State.mem hde).trans rfl
  · exact (congrArg (fun u : State => u.tile.threads) hde).trans (Tile.count_threads _ _ _)
  · have : t = s.scrubbed k := State.markBad_clean _ _ _ h
    rw [this]; exact ⟨rfl, rfl⟩

theorem pwinWritten_bits (old v : Word) : (pwinWritten old v).extractLsb' 0 62 = v.extractLsb' 0 62 ∧
    (pwinWritten old v).getLsbD 63 = v.getLsbD 63 ∧ (pwinWritten old v).getLsbD 62 = (!v.getLsbD 63 && old.getLsbD 62) := by
  unfold pwinWritten pwinEn
  refine ⟨BitVec.eq_of_getLsbD_eq fun i hi => ?_, ?_, ?_⟩
  · interval_cases i <;> cases v.getLsbD 63 <;> simp
  · simp only [BitVec.getLsbD_or, BitVec.getLsbD_and]
    cases v.getLsbD 63 <;> simp
  · cases v.getLsbD 63 <;> simp

/-! A register that does not exist, and one that is read (R212). -/

theorem csrRead_none (s : State) (d : GReg) (c : BitVec 12) (h : readCsr s.wtime s.tile s.foc s.tid c.toNat = none) :
    execCsrr d c s = .next s.trapIllegal := by
  unfold execCsrr; rw [h]
theorem csrRead_some (s : State) (d : GReg) (c : BitVec 12) (w : Word) (h : readCsr s.wtime s.tile s.foc s.tid c.toNat = some w) :
    execCsrr d c s = .next ((s.setG d w).retire 1) := by
  unfold execCsrr; rw [h]
theorem csrWrite_none (s : State) (d : GReg) (n : Nat) (bits mask : Word) (h : readCsr s.wtime s.tile s.foc s.tid n = none) :
    csrWrite d n bits mask s = .next s.trapIllegal := by
  unfold csrWrite; rw [h]

/-! CSRW, CSRS and CSRC as one write (R212). -/

/-- What a write of `bits` where `mask` does, once the register is one that exists (R213). -/
theorem csrWrite_writes (s : State) (d : GReg) (n : Nat) (bits mask old : Word) (hb : bits &&& mask = bits)
    (hr : readCsr s.wtime s.tile s.foc s.tid n = some old) {f : CsrInfo} (hf : csrInfo n = some f) (hw : f.rw ||| f.w1c ≠ 0)
    (h0 : bits &&& ~~~(f.rw ||| f.w1c ||| f.ro) = 0) (hok : csrValueOk n (csrValue f old bits mask) = true)
    (hp : 0x10C ≤ n → n ≤ 0x10F → pwinOk s.tile (n - 0x10C) (csrValue f old bits mask) = true ∧ s.tile.ops = [] ∧ s.tile.copies = []) :
    let v := csrValue f old bits mask
    let w := if 0x10C ≤ n ∧ n ≤ 0x10F ∧ v.getLsbD 63 = true then v &&& ~~~0x4000000000000000 else v
    ∃ t : State, csrWrite d n bits mask s = .next t ∧ (d ≠ 0 → t.gr d = old) ∧ (∀ q, q ≠ d → t.gr q = s.gr q) ∧ t.mem = s.mem ∧
      t.th.pc = (s.th.next 1).pc ∧ (n < 0x131 → readCsr t.wtime t.tile t.foc t.tid n = some w) ∧
      ∀ k, k ≠ n → k ≠ 0x00C → k < 0x131 ∨ 0x134 < k → readCsr t.wtime t.tile t.foc t.tid k = readCsr s.wtime s.tile s.foc s.tid k := by
  intro v w
  have hcw := csrInfo_writable hf hw
  obtain ⟨hfoc, htid, htime, hmem, hg, hpr, hpc, hloop⟩ := s.csrPut_frame n old v
  refine ⟨_, csrWrite_puts hr hf hw hb h0 hok hp, fun hd => ?_, fun q hq => ?_, hmem, ?_, fun hn => ?_, fun k hk hkl hkp => ?_⟩
  · rw [State.retire_gr]; exact State.setG_gr_same _ _ _ hd
  · rw [State.retire_gr, State.setG_gr_other _ _ _ _ hq]; exact Thread.gr_congr _ _ hg q
  · exact (State.retire_next s _ 1 (by simp [v, hpc]) (by simp [v, hloop])).1
  · have hn12 : n ≠ 0x00C := by unfold csrWritable at hcw; omega
    refine (readCsr_setG_retire _ d old 1 n hn12 (.inl hn)).trans (State.csrPut_reads_same old v hcw hn (fun h2 => ?_) fun h h' => ?_)
    · subst h2
      obtain rfl : (if s.th.tcm then 1 else 0) = old := Option.some.inj hr
      obtain rfl : (⟨1, 0, 0⟩ : CsrInfo) = f := Option.some.inj hf
      exact csrValue_tcm_high _ bits mask
    · have hold : some (getV4 s.tile.r.pwin (n - 0x10C)) = some old := by
        rw [← hr, readCsr, if_neg (by omega), Tile.csr_pwin _ _ _ ⟨h, h'⟩]
      rw [Option.some.inj hold]
      obtain rfl : _ = f := Option.some.inj ((csrInfo_pwin h h').symm.trans hf)
      exact csrValue_pwin_vis old bits mask
  · exact (readCsr_setG_retire _ d old 1 k hkl hkp).trans (State.csrPut_reads_other old v hcw hk hkp)

/-- Settles O18: the three writes are `csrWrite_writes`; SCRUB, PWIN_WRITE and VCW_WRITE as `scrubbed`, `pwinWritten` and `vcwPut` say. -/
theorem controlRegisterAndTileWrites : Obligations.ControlRegisterAndTileWrites := by
  unfold Obligations.ControlRegisterAndTileWrites
  constructor
  · intro s d a c n reads writes
    have hcsrw : exec (.csrw d a c) s = csrWrite d n (s.gr a) allBits s := rfl
    have hcsrs (ha : a ≠ 0) : exec (.csrs d a c) s = csrWrite d n (s.gr a) (s.gr a) s := if_neg ha
    have hcsrc (ha : a ≠ 0) : exec (.csrc d a c) s = csrWrite d n 0 (s.gr a) s := if_neg ha
    have writes_of {i : Instr} {bits mask : Word} (hb : bits &&& mask = bits) (hi : exec i s = csrWrite d n bits mask s) :
        writes i bits mask := by
      intro old hr
      rw [hi]
      constructor
      · exact csrWrite_priv hr
      · intro f hf v w
        refine ⟨csrWrite_readOnly hr hf, fun hw h => csrWrite_reserved hr hf hw hb h, fun hw h0 => ⟨?_, fun hok hp => ?_⟩⟩
        · exact csrWrite_forbidden hr hf hw hb h0
        · exact csrWrite_writes s d n bits mask old hb hr hf hw h0 hok hp
    have hs0 : execCsrs d 0 c s = execCsrr d c s := if_pos rfl
    have hc0 : execCsrc d 0 c s = execCsrr d c s := if_pos rfl
    refine ⟨fun hr => ?_, fun old hr => ?_, hs0, hc0, writes_of BitVec.and_allOnes hcsrw,
      fun ha => ⟨writes_of BitVec.and_self (hcsrs ha), writes_of BitVec.zero_and (hcsrc ha)⟩⟩
    · have hread := csrRead_none s d c hr
      have hwrite (bits mask : Word) := csrWrite_none s d n bits mask hr
      refine ⟨hread, hwrite _ _, ?_, ?_⟩
      · by_cases ha : a = 0
        · exact (if_pos ha).trans hread
        · exact (hcsrs ha).trans (hwrite _ _)
      · by_cases ha : a = 0
        · exact (if_pos ha).trans hread
        · exact (hcsrc ha).trans (hwrite _ _)
    · exact csrRead_some s d c old hr
  · intro s line w v x base soft
    refine ⟨fun hl => ?_, fun ho hc hok => ?_, ?_⟩
    · exact ⟨_, execScrub_line s line hl, s.scrubbed_markBad _ (hasDesc_pa s _)⟩
    · obtain ⟨hlow, hen, hvis⟩ := pwinWritten_bits s.tile.r.pwin[w.toNat] v
      have hput := s.tile.pwinPut_get w.toNat v w.isLt
      refine ⟨_, if_pos (by simp [ho, hc, hok]), rfl, rfl, ?_⟩
      simp only [State.mapTile_tile, hput]
      exact ⟨hlow, hen, hvis, fun j hj => setV4_get_other _ _ _ _ j.isLt fun h => hj (BitVec.eq_of_toNat_eq h)⟩
    · exact ⟨_, rfl, rfl, rfl, rfl, rfl, fun c => by simp [Tile.vcwPut]⟩

end Sys2Proof.Machine

/-! ### What leaves memory as it is

Each shared operation of the thread instructions, said once: `memIs m o` holds of an outcome whose next state has memory m. -/

namespace Sys2Proof.Machine

/-! Operations on the state. -/

@[simp] theorem State.setTileAt_mem (s : State) (c : Coord) (t : Tile) : (s.setTileAt c t).mem = s.mem := by
  unfold State.setTileAt; split <;> rfl
@[simp] theorem State.mapTileAt_mem (s : State) (c : Coord) (f : Tile → Tile) : (s.mapTileAt c f).mem = s.mem := State.setTileAt_mem _ _ _
@[simp] theorem State.setHartAt_mem (s : State) (a : Nat) (h : Hart) : (s.setHartAt a h).mem = s.mem :=
  State.setGallery_mem _ _ _
@[simp] theorem State.learnAt_mem (s : State) (c : Coord) (f : Flight) : (s.learnAt c f).mem = s.mem := by
  unfold State.learnAt
  split
  · rfl
  · exact State.mapTileAt_mem _ _ _
@[simp] theorem State.send_mem (s : State) (m : Msg) (vc : BitVec 4) (src : Coord) (d : Dest) (n : BitVec 32) (name : Option (BitVec 32))
    (hall : BitVec 6) (sys : Bool) : (s.send m vc src d n name hall sys).mem = s.mem := by
  unfold State.send; dsimp only
  split
  · rfl
  · exact State.learnAt_mem _ _ _
@[simp] theorem State.answer_mem (s : State) (c : Coord) (vc : BitVec 4) (who : Who) (v : AnsVal) (fl : Flags) :
    (s.answer c vc who v fl).mem = s.mem := by
  unfold State.answer
  split
  · exact State.setHartAt_mem _ _ _
  · exact State.send_mem _ _ _ _ _ _ _ _ _
@[simp] theorem State.discardReport_mem (s : State) (f : Flight) (c : BitVec 8) (w : Word) : (s.discardReport f c w).mem = s.mem := by
  unfold State.discardReport; dsimp only
  split
  · rfl
  · exact State.mapTileAt_mem _ _ _
@[simp] theorem State.discard_mem (s : State) (f : Flight) (c : BitVec 8) : (s.discard f c).mem = s.mem := by
  unfold State.discard; dsimp only
  split
  · exact (State.answer_mem _ _ _ _ _ _).trans (State.discardReport_mem _ _ _ _)
  · exact (State.send_mem _ _ _ _ _ _ _ _ _).trans (State.discardReport_mem _ _ _ _)
  · exact State.discardReport_mem _ _ _ _

/-- A fold of steps that leave memory leaves it. -/
theorem foldl_mem {α : Type} (f : State → α → State) (h : ∀ s x, (f s x).mem = s.mem) (l : List α) (s : State) : (l.foldl f s).mem = s.mem := by
  induction l generalizing s with
  | nil => rfl
  | cons x l ih => rw [List.foldl_cons, ih, h]

@[simp] theorem State.seekAt_mem (s : State) (c : Coord) (f : Flight) (m : Msg) (n : BitVec 32) (came : Option Coord) :
    (s.seekAt c f m n came).mem = s.mem := by
  unfold State.seekAt; dsimp only
  split
  · exact State.send_mem _ _ _ _ _ _ _ _ _
  · refine (foldl_mem _ ?_ _ _).trans ?_
    · exact fun _ _ => rfl
    · split
      · rfl
      · exact State.learnAt_mem _ _ _
@[simp] theorem State.charge_mem (s : State) (i : Inj) : (s.charge i).mem = s.mem := by unfold State.charge; split <;> rfl
@[simp] theorem State.injectAt_mem (s : State) (k : Nat) (i : Inj) : (s.injectAt k i).mem = s.mem := by
  unfold State.injectAt
  split
  · exact (State.send_mem _ _ _ _ _ _ _ _ _).trans (State.charge_mem _ _)
  · exact State.discard_mem _ _ _
  · exact (State.seekAt_mem _ _ _ _ _ _).trans (State.charge_mem _ _)
@[simp] theorem State.push_mem (s : State) (c : Coord) (i : Inj) : (s.push c i).mem = s.mem := State.mapTileAt_mem _ _ _
@[simp] theorem State.offer_mem (s : State) (i : Inj) : (s.offer i).mem = s.mem := by
  unfold State.offer; dsimp only
  split
  · split
    · rw [State.cycle_mem, State.injectAt_mem, State.push_mem]
    · rw [State.stall_mem, State.push_mem]
  · rw [State.stall_mem, State.push_mem]
@[simp] theorem State.request_mem (s : State) (k : ReqKind) (pk : PendKind) (sp : BitVec 16) (off : Word) :
    (s.request k pk sp off).mem = s.mem := State.push_mem _ _ _
@[simp] theorem State.orFlags_mem (s : State) (c : Coord) (i : Tid) (f : Flags) : (s.orFlags c i f).mem = s.mem := by
  unfold State.orFlags; dsimp only
  rw [State.feedUnions_mem, State.mapTileAt_mem]
@[simp] theorem State.orFlagsLate_mem (s : State) (c : Coord) (i : Tid) (f : Flags) : (s.orFlagsLate c i f).mem = s.mem := by
  unfold State.orFlagsLate
  rw [State.mapTileAt_mem, State.orFlags_mem]
@[simp] theorem State.stallOn_mem (s : State) (e : BitVec 8) : (s.stallOn e).mem = s.mem := by unfold State.stallOn; split <;> rfl
@[simp] theorem bumpSr_mem (m : Option RMode) (s : State) : (bumpSr m s).mem = s.mem := by unfold bumpSr; split <;> rfl
@[simp] theorem xPost_mem (s : State) (a : GReg) (m : AddrMode) : (xPost s a m).mem = s.mem := by cases m <;> rfl
@[simp] theorem State.publish_mem (s : State) (w : Nat) : (s.publish w).mem = s.mem := by
  refine foldl_mem _ ?_ _ _
  exact fun _ _ => rfl
@[simp] theorem State.endHandler_mem (s : State) : s.endHandler.mem = s.mem := s.endHandler_frame.1
@[simp] theorem State.enqueue_mem (s : State) (e : Engine) (op : EOp) (n : Nat) (c : Bool) : (s.enqueue e op n c).mem = s.mem := rfl
@[simp] theorem State.stallEach_mem (s : State) (e : BitVec 8) : (s.stallEach e).mem = s.mem := rfl
@[simp] theorem State.stallTurn_mem (s : State) : s.stallTurn.mem = s.mem := by unfold State.stallTurn; split <;> rfl

/-! Outcomes. -/

/-- Every next state of o has memory m. -/
def memIs (m : List Host.Cell) (o : Out) : Prop := ∀ t, o = .next t → t.mem = m

theorem memIs_next {m : List Host.Cell} {t : State} (h : t.mem = m) : memIs m (.next t) := fun _ e => Host.Outcome.next.inj e ▸ h
theorem memIs_ite {m : List Host.Cell} {c : Prop} [Decidable c] {a b : Out} (ha : memIs m a) (hb : memIs m b) : memIs m (if c then a else b) := by
  split
  · exact ha
  · exact hb

section
variable {s : State} {m : List Host.Cell}

theorem memIs_guarded {gd : Guard} {n : Nat} {k : State → Out} (h : memIs s.mem (k s)) : memIs s.mem (guarded gd n s k) :=
  memIs_ite h (memIs_next rfl)
theorem memIs_whenReady {c : Bool} {k : State → Out} (h : memIs s.mem (k s)) : memIs s.mem (whenReady c s k) := memIs_ite h (memIs_next rfl)
theorem memIs_inTurn {a : Nat} {k : State → Out} (h : memIs s.mem (k s)) : memIs s.mem (inTurn a s k) :=
  memIs_ite h (memIs_next s.stallTurn_mem)
theorem memIs_trap {c : BitVec 8} {w : Word} : memIs s.mem (.next (s.trap c w)) := memIs_next rfl
theorem memIs_illegal : memIs s.mem (.next s.trapIllegal) := memIs_next rfl
theorem memIs_localAddr {ea : Int} {n : Nat} {ok : Nat → Bool} {k : Nat → Out} (h : ∀ a, memIs s.mem (k a)) :
    memIs s.mem (localAddr s ea n ok k) := memIs_ite memIs_trap (memIs_ite memIs_trap (memIs_ite memIs_trap (h _)))
theorem memIs_checkedAddr {ea : Int} {n : Nat} {l : Bool} {ok : Nat → Bool} {k : Nat → Out} (h : ∀ a, memIs s.mem (k a)) :
    memIs s.mem (checkedAddr s ea n l ok k) := memIs_localAddr fun a => memIs_ite memIs_trap (h a)
theorem memIs_loading {ea : Int} {n : Nat} {k : Word → Out} (h : ∀ w, memIs s.mem (k w)) : memIs s.mem (loading s ea n k) :=
  memIs_checkedAddr fun _ => memIs_ite (memIs_next rfl) (memIs_ite (memIs_next (State.markBad_mem _ _ _)) (h _))
theorem memIs_deviceAccess {tgt2 : Bool} {sp : BitVec 16} {off : Int} {n : Nat} {k : Word → Out} (h : ∀ w, memIs s.mem (k w)) :
    memIs s.mem (deviceAccess s tgt2 sp off n k) := by
  unfold deviceAccess
  split
  · exact memIs_trap
  · exact h _
theorem memIs_deviceRange {sp : BitVec 16} {a : Word} {n : Nat} {k : Word → Out} (h : ∀ w, memIs s.mem (k w)) :
    memIs s.mem (deviceRange sp a n s k) := by
  unfold deviceRange
  split
  · exact memIs_trap
  · exact h _
theorem memIs_recordAddr {ea : Int} {k : Nat → Out} (h : ∀ a, memIs s.mem (k a)) : memIs s.mem (recordAddr s ea k) :=
  memIs_ite memIs_trap (memIs_ite memIs_trap (memIs_ite memIs_trap (memIs_ite (memIs_next rfl)
    (memIs_ite (memIs_next (State.markBad_mem _ _ _)) (h _)))))
theorem memIs_checks {cs : List (Bool × BitVec 8 × Word)} {k : Out} (h : memIs s.mem k) : memIs s.mem (checks s cs k) := by
  unfold checks
  split
  · exact memIs_trap
  · exact h
theorem memIs_transferTo {t : Int} {k : BitVec 12 → Out} (h : ∀ x, memIs s.mem (k x)) : memIs s.mem (transferTo t s k) :=
  memIs_ite memIs_trap (h _)
theorem memIs_copyHead {tag : BitVec 6} {dsc : Option GReg} {k : Option Desc → Out} (h : ∀ d, memIs s.mem (k d)) :
    memIs s.mem (copyHead tag dsc s k) := by
  refine memIs_ite memIs_trap ?_
  split
  · exact h _
  · exact memIs_ite (h _) memIs_trap
theorem memIs_localChecks {srcs dsts : List Word} {n : Nat} {k : Out} (h : memIs s.mem k) : memIs s.mem (localChecks srcs dsts n s k) := by
  unfold localChecks
  split
  · exact memIs_trap
  · exact memIs_trap
  · split
    · exact memIs_trap
    · exact memIs_trap
    · exact h
theorem memIs_nodeHandle {a : Word} {k : Out} (h : memIs s.mem k) : memIs s.mem (nodeHandle s a k) := by
  unfold nodeHandle
  dsimp only
  split
  · exact memIs_next rfl
  · exact memIs_ite h (memIs_next rfl)
theorem memIs_edgeRef {a : Word} {k : Out} (h : memIs s.mem k) : memIs s.mem (edgeRef s a k) := by
  unfold edgeRef
  split
  · exact memIs_next rfl
  · exact memIs_ite (memIs_next rfl) h
theorem memIs_raising {f : Flags} {k : State → Out} (h : ∀ u : State, u.mem = s.mem → memIs s.mem (k u)) : memIs s.mem (raising f s k) :=
  memIs_ite (memIs_next rfl) (h _ (State.orFlags_mem _ _ _ _))
end

/-! The operations that many instructions share. -/
section
variable {s : State}

theorem memIs_aluG {op : AluOp} {d : GReg} {a b : Word} {n : Nat} : memIs s.mem (aluG op d a b n s) := memIs_ite (memIs_next rfl) (memIs_next rfl)
theorem memIs_aluP {op : AluOp} {d : PReg} {a b : Word} {n : Nat} : memIs s.mem (aluP op d a b n s) := memIs_next rfl
theorem memIs_fpWrite {m : Option RMode} {d : GReg} {w : Word} {fl : Flags} {n : Nat} : memIs s.mem (fpWrite m d w fl n s) :=
  memIs_raising fun u hu => memIs_next (by simp [hu])
theorem memIs_fpResult {m : Option RMode} {f : BitVec 2} {d : GReg} {v : FpVal × Flags} {n : Nat} : memIs s.mem (fpResult m f d v n s) :=
  memIs_fpWrite
theorem memIs_fpu {op : FpOp} {m : Option RMode} {f : BitVec 2} {d : GReg} {a b : Word} {n : Nat} : memIs s.mem (fpu op m f d a b n s) := by
  have raises {r : State → State} {fl : Flags} (h : ∀ u, (r u).mem = u.mem) : memIs s.mem (raising fl s fun u => .next (r u)) :=
    memIs_raising fun u hu => memIs_next ((h u).trans hu)
  unfold fpu
  dsimp only
  cases op with
  | fadd | fsub | fmul | fdiv | fsqrt => exact memIs_fpResult
  | fmin | fmax | feq | flt | fle | funord => exact raises fun _ => by simp
  | fneg | fabs | fsgnj | fclass => exact memIs_next (by simp)
theorem memIs_fpuFma {p c : Bool} {x : FpX} {f : BitVec 2} {d a : GReg} {b : RegLit} {e : GReg} : memIs s.mem (fpuFma p c x f d a b e s) := by
  unfold fpuFma
  dsimp only
  exact memIs_guarded memIs_fpResult
theorem memIs_fcvt {m : Option RMode} {u v : FpCode} {d : GReg} {w : Word} {n : Nat} : memIs s.mem (fcvt m u v d w n s) := by
  unfold fcvt
  dsimp only
  split
  · exact memIs_fpWrite
  · exact memIs_fpWrite
theorem memIs_fround {m : Option RMode} {v : FpCode} {d : GReg} {w : Word} {n : Nat} : memIs s.mem (fround m v d w n s) := memIs_fpWrite
theorem memIs_remoteLoad {x : DevArgs} {t : Bool} {sp : State → BitVec 16} : memIs s.mem (remoteLoad x t sp s) := by
  unfold remoteLoad
  exact memIs_guarded (memIs_deviceAccess fun _ => memIs_whenReady (memIs_next (by simp)))
theorem memIs_remoteStore {x : DevArgs} {t : Bool} {sp : State → BitVec 16} : memIs s.mem (remoteStore x t sp s) := by
  unfold remoteStore
  exact memIs_guarded (memIs_deviceAccess fun _ => memIs_whenReady (memIs_next (by simp)))
theorem memIs_amo {op : AmoOp} {x : AmoArgs} {c : GReg} : memIs s.mem (amo op x c s) := by
  unfold amo
  refine memIs_guarded ?_
  cases x.tgt with
  | glob | ext => exact memIs_deviceAccess fun _ => memIs_whenReady (memIs_next (by simp))
  | loc =>
    refine memIs_checkedAddr fun _ => memIs_whenReady (memIs_inTurn (memIs_ite (memIs_next ?_) (memIs_next ?_)))
    · rw [State.retire_mem, State.mapTh_mem, State.mapTile_mem]
    · rw [State.retire_mem, State.orFlagsLate_mem, State.mapTile_mem]
theorem memIs_waitv {x : AmoArgs} {c : GReg} : memIs s.mem (execWaitv x c s) := by
  unfold execWaitv
  refine memIs_guarded ?_
  cases x.tgt with
  | glob | ext => exact memIs_deviceAccess fun _ => memIs_whenReady (memIs_next (by simp))
  | loc => exact memIs_localAddr fun _ => memIs_next rfl
theorem memIs_stackMove {m : BitVec 14} {new : Int} {l : Word} {bad : Bool} : memIs s.mem (stackMove m new l bad s) :=
  memIs_ite (memIs_next rfl) (memIs_ite (memIs_next rfl) (memIs_next rfl))
theorem memIs_csrr {d : GReg} {c : BitVec 12} : memIs s.mem (execCsrr d c s) := by
  unfold execCsrr
  split <;> exact memIs_next rfl
theorem memIs_csrWrite {d : GReg} {n : Nat} {w m : Word} : memIs s.mem (csrWrite d n w m s) := by
  unfold csrWrite
  split
  · split
    · exact memIs_illegal
    · refine memIs_ite (memIs_next (by simp)) (memIs_ite (memIs_next ?_) (memIs_ite (memIs_ite memIs_illegal ?_) (memIs_next (by simp))))
      · rw [State.retire_mem, State.setG_mem]
        split
        · exact State.feedUnions_mem _ _ _
        · rfl
      · exact memIs_whenReady (memIs_next (by simp))
  · exact memIs_trap
  · exact memIs_illegal
theorem memIs_wtag {all : Bool} {m : Word} {n : Nat} : memIs s.mem (wtag all m n s) :=
  memIs_ite memIs_trap (memIs_ite (memIs_next rfl) (memIs_next rfl))
theorem memIs_ftag {c : Bool} {d : GReg} {m : Word} {n : Nat} : memIs s.mem (ftag c d m n s) := by
  refine memIs_next ?_
  dsimp only
  split <;> rfl
theorem memIs_tclr {m : Word} {n : Nat} : memIs s.mem (tclr m n s) := memIs_next rfl
theorem memIs_softTrap {c : BitVec 8} {a b d : Word} {n : Nat} : memIs s.mem (softTrap c a b d n s) := memIs_next rfl
theorem memIs_issueVec {gd : Guard} {o : VecOp} {n adv : Nat} : memIs s.mem (issueVec gd o n adv s) :=
  memIs_guarded (memIs_ite (memIs_next (by simp)) (memIs_next (by simp)))
theorem memIs_vred {o : RedVOp} {x : Option VX} {d a : VReg} : memIs s.mem (vred o x d a s) := by
  unfold vred
  exact memIs_guarded (memIs_ite (memIs_next rfl) memIs_issueVec)
theorem memIs_vmemIssue {st : Bool} {x : Option VMemX} {a b : GReg} {k : Nat → Option Desc → VecOp} : memIs s.mem (vmemIssue st x a b s k) := by
  unfold vmemIssue
  exact memIs_guarded (memIs_ite memIs_trap (memIs_ite memIs_trap (memIs_ite memIs_trap (memIs_ite memIs_trap memIs_issueVec))))
theorem memIs_vecReturn {x : Option Guard} {d : GReg} {v : State → Word} : memIs s.mem (vecReturn x d v s) :=
  memIs_guarded (memIs_ite (memIs_next (by simp)) (memIs_next (by simp)))
theorem memIs_issueTop {e : Engine} {op : EOp} {n : Nat} : memIs s.mem (issueTop e op n s) :=
  memIs_ite (memIs_next (by simp)) (memIs_next (by simp))
theorem memIs_issueCop {e : Engine} {op : CopOp} {n : Nat} {c : Bool} {adv : Nat} : memIs s.mem (issueCop e op n c adv s) := by
  unfold issueCop
  exact memIs_whenReady (memIs_ite (memIs_next (by simp)) (memIs_next (by simp)))
theorem memIs_startCopy {tag : BitVec 6} {k : CopyKind} {n : Nat} {d : Option Desc} : memIs s.mem (startCopy tag k n d s) :=
  memIs_whenReady (memIs_ite (memIs_next rfl) (memIs_issueCop (s := { s with nextId := s.nextId + 1 })))
theorem memIs_issueRet {o : TreeOp} {n : Nat} : memIs s.mem (issueRet o n s) :=
  memIs_ite (memIs_next rfl) (memIs_ite (memIs_next (by simp)) (memIs_next (by simp)))
theorem memIs_stream {x : StreamArgs} {p0 np rows : Nat} {k : Nat → Nat → MatOp} : memIs s.mem (stream x p0 np rows k s) := by
  unfold stream
  exact memIs_guarded (memIs_checks memIs_issueTop)
theorem memIs_tsel {d a b : GReg} {n : Nat} : memIs s.mem (tsel d a b n s) := memIs_nodeHandle memIs_issueRet
end

end Sys2Proof.Machine

/-! ### Thread instructions that leave memory as it is -/

namespace Sys2Proof.Machine

section
variable {s : State}

/-! Instructions with an outcome of their own. -/

theorem memIs_send {gd : Guard} {a b c : GReg} {ctl : Ctl} : memIs s.mem (execSend gd a b c ctl s) := by
  unfold execSend
  refine memIs_guarded (memIs_ite memIs_trap (memIs_ite memIs_trap ?_))
  split
  · exact memIs_trap
  · refine memIs_ite memIs_illegal (memIs_ite (memIs_next (by simp)) ?_)
    split
    · exact memIs_next (by simp)
    · exact memIs_whenReady (memIs_next (by simp))
theorem memIs_sendi {gd : Guard} {a b c : GReg} {e : RegLit} {ctl : Ctl} : memIs s.mem (execSendi gd a b c e ctl s) :=
  memIs_guarded (memIs_ite memIs_trap (memIs_ite memIs_illegal (memIs_whenReady (memIs_next (by simp)))))
theorem memIs_fwd {gd : Guard} {a : GReg} {named : Bool} {vc : BitVec 3} {e : BitVec 10} : memIs s.mem (execFwd gd a named vc e s) := by
  unfold execFwd
  refine memIs_guarded ?_
  dsimp only
  split
  · exact memIs_ite memIs_illegal (memIs_whenReady (memIs_next (by simp)))
  · exact memIs_illegal
theorem memIs_post {gd : Guard} {a b : GReg} {named : Bool} {vc : BitVec 4} {n : BitVec 8} : memIs s.mem (execPost gd a b named vc n s) :=
  memIs_guarded (memIs_ite memIs_trap (memIs_ite memIs_illegal (memIs_whenReady (memIs_next (by simp)))))
theorem memIs_scall {gd : Guard} {d a b : GReg} {len : BitVec 2} {e : BitVec 10} : memIs s.mem (execScall gd d a b len e s) := by
  unfold execScall
  refine memIs_guarded ?_
  split
  · exact memIs_ite (memIs_next (by simp)) (memIs_next (by simp))
  · exact memIs_next (by simp)
  · refine memIs_ite memIs_trap (memIs_ite memIs_trap (memIs_ite memIs_trap ?_))
    split
    · exact memIs_trap
    · refine memIs_ite (memIs_next (by simp)) ?_
      split
      · exact memIs_next (by simp)
      · exact memIs_whenReady (memIs_ite memIs_trap (memIs_next (by simp)))
theorem memIs_ret : memIs s.mem (execRet s) := by
  unfold execRet
  split
  · exact memIs_next (by simp)
  · exact memIs_ite (memIs_next (by simp)) (memIs_loading fun _ => memIs_next (by simp))
theorem memIs_loop {a : GReg} {n : BitVec 10} : memIs s.mem (execLoop a n s) :=
  memIs_ite memIs_illegal (memIs_ite memIs_trap (memIs_ite (memIs_next (by simp)) (memIs_next (by simp))))
theorem memIs_tleaf {gd : Guard} {d a b c e : GReg} : memIs s.mem (execTleaf gd d a b c e s) := by
  refine memIs_guarded (memIs_nodeHandle ?_)
  split
  · exact memIs_trap
  · exact memIs_whenReady (memIs_ite (memIs_next (by simp)) (memIs_next (by simp)))

/-- A thread instruction that is no store, spill or record operation leaves memory as it is (R104). -/
theorem exec_memIs {i : Instr} (hf : i.fetched = true) (hs : i.storesHere = false) : memIs s.mem (exec i s) := by
  cases i with
  | add | sub | and | or | xor | andn | sll | srl | sra | rol | ror | min | max | minu | maxu | mul | mulh | mulhu | mulhsu | div | divu
  | rem | remu | addsat | subsat | clz | ctz | popc | sextB | sextH | sextW | zextB | zextH | zextW | addi | andi | ori | xori
  | addiLiteral | andiLiteral | oriLiteral | xoriLiteral | slli | srli | srai | rori => rw [exec]; exact memIs_aluG
  | cmpEq | cmpNe | cmpLt | cmpGe | cmpLtu | cmpGeu | tst | cmpiEq | cmpiNe | cmpiLt | cmpiGe | cmpiLtu | cmpiGeu | cmpiTst => rw [exec]; exact memIs_aluP
  | sel => rw [exec]; exact memIs_guarded (memIs_next (by simp))
  | integerAluXForm => rw [exec]; exact memIs_guarded (memIs_ite memIs_aluP memIs_aluG)
  | li | liLiteral => rw [exec]; exact memIs_next (by simp)
  | fadd | fsub | fmul | fdiv | fsqrt | fmin | fmax | fneg | fabs | fsgnj | feq | flt | fle | funord | fclass => rw [exec]; exact memIs_fpu
  | fma | fms | fnma => rw [exec]; exact memIs_fpuFma
  | fpAluXForm => rw [exec]; exact memIs_guarded memIs_fpu
  | fcvt => rw [exec]; exact memIs_fcvt
  | fround => rw [exec]; exact memIs_fround
  | fpConvertXForm => rw [exec]; exact memIs_guarded (memIs_ite memIs_fround memIs_fcvt)
  | br => rw [exec]; exact memIs_ite (memIs_transferTo fun _ => memIs_next (by simp)) (memIs_next (by simp))
  | jmp | jmpr => rw [exec]; exact memIs_transferTo fun _ => memIs_next (by simp)
  | ret => rw [exec]; exact memIs_ret
  | loop => rw [exec]; exact memIs_loop
  | pand | por | pxor | pandn | pnot | ppack | punpk => rw [exec]; exact memIs_next (by simp)
  | ld => rw [exec]; exact memIs_loading fun _ => memIs_next (by simp)
  | ldXForm => rw [exec]; exact memIs_guarded (memIs_loading fun _ => memIs_next (by simp))
  | ldg | ldx => rw [exec]; exact memIs_remoteLoad
  | stg | stx => rw [exec]; exact memIs_remoteStore
  | amoAdd | amoAnd | amoOr | amoXor | amoSwap | amoCas | amoMin | amoMax | amoMinu | amoMaxu | amoFadd | amoFmin | amoFmax => rw [exec]; exact memIs_amo
  | waitv => rw [exec]; exact memIs_waitv
  | alloc | free => rw [exec]; exact memIs_stackMove
  | csrr => rw [exec]; exact memIs_csrr
  | csrw => rw [exec]; exact memIs_csrWrite
  | csrs | csrc => rw [exec]; exact memIs_ite memIs_csrr memIs_csrWrite
  | waitc => rw [exec, execWaitc]; exact memIs_whenReady (memIs_next (by simp))
  | fence | loopf => rw [exec]; exact memIs_whenReady (memIs_next (by simp))
  | send => rw [exec]; exact memIs_send
  | sendi => rw [exec]; exact memIs_sendi
  | fwd => rw [exec]; exact memIs_fwd
  | post => rw [exec]; exact memIs_post
  | cread => rw [exec]; exact memIs_guarded (memIs_recordAddr fun _ => memIs_next (by simp))
  | cpy => rw [exec]; exact memIs_guarded (memIs_copyHead fun _ => memIs_localChecks memIs_startCopy)
  | cpyxG | cpyxP => rw [exec]; exact memIs_guarded (memIs_copyHead fun _ => memIs_localChecks (memIs_deviceRange fun _ => memIs_startCopy))
  | publ => rw [exec]; exact memIs_guarded (memIs_ite memIs_illegal (memIs_whenReady (memIs_next (by simp))))
  | wtagAny | wtagAll | wtagAnyLiteral | wtagAllLiteral => rw [exec]; exact memIs_wtag
  | ftag | ftagC | ftagLiteral | ftagCLiteral => rw [exec]; exact memIs_ftag
  | tclr | tclrLiteral => rw [exec]; exact memIs_tclr
  | done => rw [exec]; exact memIs_whenReady (memIs_next (by simp))
  | doneXForm => rw [exec]; exact memIs_guarded (memIs_whenReady (memIs_next (by simp)))
  | halt => rw [exec]; exact memIs_next (by simp)
  | brk => rw [exec]; exact memIs_softTrap
  | brkXForm | trap => rw [exec]; exact memIs_guarded memIs_softTrap
  | redpin | perf => rw [exec]; exact memIs_next (by simp)
  | scall => rw [exec]; exact memIs_scall
  | vadd | vsub | vadds | vsubs | vmul | vmulh | vmin | vmax | vand | vor | vxor | vsll | vsrl | vsra | vabs | vcmpEq | vcmpNe | vcmpLt
  | vcmpLe | vfadd | vfsub | vfmul | vfdiv | vfsqrt | vfmin | vfmax | vfneg | vfabs | vfcmpEq | vfcmpLt | vfcmpLe | vfcmpUnord | vfma
  | vfms | vfnma | vcvt | vqnt | vdqnt | vperm | vslup | vsldn | vrev | vrng | vsrnd | vdrop | vins | vbcast | vmov | mand | mor | mxor
  | mandn | mnot | mset => rw [exec]; exact memIs_issueVec
  | vrsum | vrmax | vrmin => rw [exec]; exact memIs_vred
  | vld | vst => rw [exec]; exact memIs_vmemIssue
  | vopt => rw [exec, execVopt]; exact memIs_guarded (memIs_ite memIs_trap (memIs_ite memIs_trap memIs_issueVec))
  | vext => rw [exec]; exact memIs_ite memIs_trap memIs_vecReturn
  | vtag | mpop | mget => rw [exec]; exact memIs_vecReturn
  | vsett => rw [exec]; exact memIs_guarded (memIs_ite memIs_trap memIs_issueVec)
  | mldb | mldbS | mprog | acz | mgang => rw [exec]; exact memIs_guarded (memIs_checks memIs_issueTop)
  | mknot => rw [exec, execMknot]; exact memIs_guarded (memIs_checks memIs_issueTop)
  | mspld => rw [exec, execMspld]; exact memIs_guarded (memIs_checks memIs_issueTop)
  | mrefine => rw [exec, execMrefine]; exact memIs_guarded (memIs_checks memIs_issueTop)
  | mstb => rw [exec]; exact memIs_guarded (memIs_checks memIs_issueCop)
  | acld => rw [exec, execAcld]; exact memIs_guarded (memIs_checks memIs_issueCop)
  | acst => rw [exec, execAcst]; exact memIs_guarded (memIs_checks memIs_issueCop)
  | acmv => rw [exec, execAcmv]; exact memIs_guarded (memIs_checks memIs_issueCop)
  | msgrad => rw [exec, execMsgrad]; exact memIs_guarded (memIs_checks memIs_issueCop)
  | mmac | mmact | mrec | mspl => rw [exec]; exact memIs_stream
  | tsel => rw [exec]; exact memIs_tsel
  | tselXForm => rw [exec]; exact memIs_guarded memIs_tsel
  | tnew => rw [exec]; exact memIs_guarded (memIs_ite (memIs_next rfl) (memIs_ite memIs_illegal memIs_issueRet))
  | texp => rw [exec]; exact memIs_guarded (memIs_nodeHandle (memIs_ite memIs_illegal (memIs_ite memIs_trap (memIs_ite memIs_trap memIs_issueTop))))
  | tnewLink | tback | tabortXForm | tfreeKeep => rw [exec]; exact memIs_guarded (memIs_edgeRef memIs_issueTop)
  | tabort => rw [exec]; exact memIs_edgeRef memIs_issueTop
  | troot => rw [exec]; exact memIs_nodeHandle memIs_issueTop
  | trootXForm | tfree | tfreeInit => rw [exec]; exact memIs_guarded (memIs_nodeHandle memIs_issueTop)
  | tstat => rw [exec]; exact memIs_guarded (memIs_nodeHandle memIs_issueRet)
  | tleaf => rw [exec]; exact memIs_tleaf
  | st | stXForm | call | callr | cset | yield | yieldXForm => exact absurd hs (by simp [Instr.storesHere])
  | _ => exact absurd hf Bool.false_ne_true
end

end Sys2Proof.Machine

/-! ### Where thread instructions store (O37) -/

namespace Sys2Proof.Machine

/-! Stores, spills and records. -/

/-- Memory m differs from that of s in the tile's data SRAM and in the links of the overflow chain's records alone (R47, R104). -/
def State.storesWithin (s : State) (m : List Host.Cell) : Prop :=
  Memory.wf s.mem = true → ∀ k, k < s.pa 0 ∨ s.pa 0x10000 ≤ k → (∀ b ∈ s.tile.chain, k < s.pa b ∨ s.pa b + 8 ≤ k) →
    Memory.read m k = Memory.read s.mem k

/-- Every next state of o has stored so. -/
def staysIn (s : State) (o : Out) : Prop := ∀ t, o = .next t → s.storesWithin t.mem

section
variable {s : State}

theorem State.pa_add (s : State) (a : Nat) : s.pa a = s.pa 0 + a := by
  unfold State.pa; omega

theorem State.storesWithin_same : s.storesWithin s.mem := fun _ _ _ _ => rfl
theorem State.storesWithin_of_mem {m : List Host.Cell} (h : m = s.mem) : s.storesWithin m := h ▸ State.storesWithin_same
theorem State.storesWithin_writeN {a n v : Nat} (h : a + n ≤ 0x10000) : s.storesWithin (Memory.writeN s.mem (s.pa a) n v) := by
  intro hwf k hk _
  rw [s.pa_add 0x10000] at hk
  exact Memory.read_writeN_other _ _ _ _ _ hwf (by rw [s.pa_add a]; omega)
theorem State.storesWithin_trans {u : State} {m : List Host.Cell} (h : s.storesWithin u.mem) (hpa : ∀ a, u.pa a = s.pa a)
    (hchain : u.tile.chain = s.tile.chain) (hwf : Memory.wf s.mem = true → Memory.wf u.mem = true) (h' : u.storesWithin m) :
    s.storesWithin m := by
  intro hw k hk hc
  refine (h' (hwf hw) k (by rwa [hpa, hpa]) fun b hb => ?_).trans (h hw k hk hc)
  rw [hpa]
  exact hc b (hchain ▸ hb)

theorem staysIn_next {t : State} (h : s.storesWithin t.mem) : staysIn s (.next t) := fun _ e => Host.Outcome.next.inj e ▸ h
theorem staysIn_of_memIs {o : Out} (h : memIs s.mem o) : staysIn s o := fun t e => (h t e).symm ▸ State.storesWithin_same
theorem staysIn_ite {c : Prop} [Decidable c] {a b : Out} (ha : c → staysIn s a) (hb : ¬ c → staysIn s b) : staysIn s (if c then a else b) := by
  split
  · next h => exact ha h
  · next h => exact hb h
theorem staysIn_guarded {gd : Guard} {n : Nat} {k : State → Out} (h : staysIn s (k s)) : staysIn s (guarded gd n s k) :=
  staysIn_ite (fun _ => h) fun _ => staysIn_of_memIs (memIs_next (by simp))
theorem staysIn_whenReady {c : Bool} {k : State → Out} (h : staysIn s (k s)) : staysIn s (whenReady c s k) :=
  staysIn_ite (fun _ => h) fun _ => staysIn_of_memIs (memIs_next (by simp))
theorem staysIn_inTurn {a : Nat} {k : State → Out} (h : staysIn s (k s)) : staysIn s (inTurn a s k) :=
  staysIn_ite (fun _ => h) fun _ => staysIn_of_memIs (memIs_next (by simp))
theorem staysIn_trap {c : BitVec 8} {w : Word} : staysIn s (.next (s.trap c w)) := staysIn_of_memIs memIs_trap

/-- A store that passes its checks stays in data SRAM (R104, R211). -/
theorem staysIn_storing {ea : Int} {n : Nat} {v : Word} {k : State → Out} (hk : ∀ u, memIs u.mem (k u)) : staysIn s (storing s ea n v k) := by
  refine staysIn_ite (fun _ => staysIn_trap) fun _ => staysIn_ite (fun _ => staysIn_trap) fun _ => staysIn_ite (fun _ => staysIn_trap) fun hok => ?_
  refine staysIn_ite (fun _ => staysIn_trap) fun _ => staysIn_ite (fun _ => staysIn_of_memIs (memIs_next (by simp))) fun _ t ht => ?_
  have hin : ea.toNat + n ≤ 0x10000 := by
    simp only [State.storeOk, Bool.not_eq_true', Bool.not_eq_false, Bool.and_eq_true, decide_eq_true_eq] at hok
    exact hok.1.1
  rw [hk _ t ht, State.tileStore_foc_mem]
  exact State.storesWithin_writeN hin

theorem staysIn_calling {x : BitVec 12} : staysIn s (calling x s) := by
  unfold calling
  split
  · refine staysIn_ite (fun _ => staysIn_of_memIs (memIs_next (by simp))) fun _ => staysIn_ite (fun _ => staysIn_of_memIs (memIs_next (by simp))) fun _ => ?_
    exact staysIn_storing fun _ => memIs_next (by simp)
  · exact staysIn_of_memIs (memIs_next (by simp))
theorem staysIn_transferTo {t : Int} {k : BitVec 12 → Out} (h : ∀ x, staysIn s (k x)) : staysIn s (transferTo t s k) :=
  staysIn_ite (fun _ => staysIn_trap) fun _ => h _

/-- A record that is queued stores its word 0, and its address in the chain's last record (R47). -/
theorem State.queueRecord_within {a : Nat} (w : Word) (ha : a + 8 ≤ 0x10000) : s.storesWithin (s.queueRecord s.foc a w).mem := by
  by_cases h : s.tile.ring.length < 64 ∧ s.tile.chain = []
  · rw [(State.queueRecord_room h.1 h.2 a w).2]
    exact State.storesWithin_writeN ha
  · rw [State.queueRecord_chain s a w h, State.mapTile_mem]
    have hst := s.stored_tileStore a 8 (recOvfTo true (recCountTo (recQueuedWord w) 0xFFFF))
    have hmem := s.tileStore_foc_mem a 8 (recOvfTo true (recCountTo (recQueuedWord w) 0xFFFF))
    have hchain := s.tileStore_chain a 8 (recOvfTo true (recCountTo (recQueuedWord w) 0xFFFF))
    generalize s.tileStore s.foc a 8 (recOvfTo true (recCountTo (recQueuedWord w) 0xFFFF)) = u at hst hmem hchain
    have hu : s.storesWithin u.mem := hmem ▸ State.storesWithin_writeN ha
    split
    · next b hb =>
      refine State.storesWithin_trans hu hst.pa hchain (fun hw => hmem ▸ Memory.writeN_wf _ _ _ _ hw) ?_
      rcases u.homeStore_foc_cases b 2 (BitVec.ofNat 64 (a / 16)) with h' | h'
      · rw [h']; exact State.storesWithin_same
      · rw [h', State.tileStore_foc_mem]
        intro hw k _ hc
        have := hc b (hchain ▸ List.mem_of_getLast? hb)
        exact Memory.read_writeN_other _ _ _ _ _ hw (by omega)
    · exact hu

theorem State.csetRecord_within {a : Nat} (w0 w1 : Word) (ha : a + 16 ≤ 0x10000) : s.storesWithin (s.csetRecord a w0 w1).mem := by
  have hst := s.stored_withRecord a w0 w1
  have hu : s.storesWithin (s.withRecord a w0 w1).mem := fun hw k hk _ => by
    rw [s.pa_add 0x10000] at hk
    exact State.withRecord_elsewhere hw a w0 w1 k (by rw [s.pa_add a]; omega)
  unfold State.csetRecord
  split
  · have h := State.queueRecord_within (s := s.withRecord a w0 w1) w0 (show a + 8 ≤ 0x10000 by omega)
    rw [hst.foc] at h
    exact State.storesWithin_trans hu hst.pa (s.withRecord_chain a w0 w1) (fun hw => State.withRecord_wf hw a w0 w1) h
  · exact hu

theorem staysIn_recordAddr {ea : Int} {k : Nat → Out} (h : ∀ a, a + 16 ≤ 0x10000 → staysIn s (k a)) : staysIn s (recordAddr s ea k) := by
  refine staysIn_ite (fun _ => staysIn_trap) fun h16 => staysIn_ite (fun _ => staysIn_trap) fun hr => staysIn_ite (fun _ => staysIn_trap) fun _ => ?_
  refine staysIn_ite (fun _ => staysIn_of_memIs (memIs_next (by simp))) fun _ => staysIn_ite (fun _ => staysIn_of_memIs (memIs_next (by simp))) fun _ => ?_
  refine h _ ?_
  rw [BitVec.toNat_ofInt] at h16
  omega

theorem staysIn_cset {gd : Guard} {p : PReg} {a b c : GReg} {i : BitVec 32} : staysIn s (execCset gd p a b c i s) := by
  by_cases hg : guardHolds gd s.th = true
  · rw [execCset_on gd p a b c i s hg]
    refine staysIn_recordAddr fun k hk => staysIn_inTurn (staysIn_ite (fun _ => ?_) fun _ => staysIn_next ?_)
    · exact staysIn_of_memIs (memIs_next (by simp))
    · rw [State.retire_mem, State.setP_mem]
      exact State.csetRecord_within _ _ hk
  · rw [execCset, guarded_off _ _ (by simpa using hg)]
    exact staysIn_of_memIs (memIs_next (by simp))

theorem State.decrement_within (a : Word) (d : Nat) : s.storesWithin (s.decrement s.foc a d).mem := by
  rcases s.decrement_foc_cases a d with ⟨c, h⟩ | h | h | ⟨hlt, h16, -, h | h⟩
  · exact State.storesWithin_of_mem (by rw [h])
  · obtain ⟨de, hp⟩ := s.poison_eq (s.pa a.toNat)
    exact State.storesWithin_of_mem (by rw [h, hp])
  · exact State.storesWithin_of_mem (by rw [h])
  · rw [h, State.tileStore_foc_mem]; exact State.storesWithin_writeN (by omega)
  · rw [h]; exact State.queueRecord_within _ (by omega)

theorem staysIn_yielding {a : Word} : staysIn s (yielding a s) :=
  staysIn_ite (fun _ => staysIn_trap) fun _ => staysIn_ite (fun _ => staysIn_trap) fun _ => staysIn_whenReady (staysIn_inTurn (staysIn_next (by
    rw [State.endHandler_mem]; exact State.decrement_within _ _)))

/-- A thread instruction that stores does so within its tile's data SRAM (R104). -/
theorem exec_within {i : Instr} (hs : i.storesHere = true) : staysIn s (exec i s) := by
  cases i with
  | st => rw [exec]; exact staysIn_storing fun _ => memIs_next (by simp)
  | stXForm => rw [exec]; exact staysIn_guarded (staysIn_storing fun _ => memIs_next (by simp))
  | call | callr => rw [exec]; exact staysIn_transferTo fun _ => staysIn_calling
  | cset => rw [exec]; exact staysIn_cset
  | yield => rw [exec]; exact staysIn_yielding
  | yieldXForm => rw [exec]; exact staysIn_guarded staysIn_yielding
  | _ => exact absurd hs Bool.false_ne_true
end

/-- Settles O37: stores, spills and records stay within data SRAM (`exec_within`), and nothing else stores (`exec_memIs`). -/
theorem threadInstructionsStoreOnlyToTheirDataSram : Obligations.ThreadInstructionsStoreOnlyToTheirDataSram := by
  unfold Obligations.ThreadInstructionsStoreOnlyToTheirDataSram
  intro i s t hf hx
  refine ⟨fun hs => exec_memIs hf hs t hx, ?_⟩
  by_cases hs : i.storesHere = true
  · exact exec_within hs t hx
  · exact staysIn_of_memIs (exec_memIs hf (by simpa using hs)) t hx

end Sys2Proof.Machine

/-! ### A copy-engine operation that returns a value (O38)

`State.completeOp` writes an operation's results and then sets its tag, which ends the waits for it (R236). Effects and operation are
independent in O38: one on a tag whose result is a returned value retires its thread twice when that thread waits in WTAG for the tag. -/

namespace Sys2Proof.Machine

/-- An ACMV on tag 2 of thread 0, confirmed, whose result returns a value and retires one word. -/
def returningAcmv : QOp :=
  let h := State.reset.th
  ⟨3, 0, .copy, .cop (.acmv 2 0 0 1), 5, 1, false, 0, 0, ⟨h.g, h.p, 5, 0, 0, h.loop⟩, false, true, some (.ok 0 [.ret 0 0 1]), true⟩

/-- Thread 0 waits in WTAG for tag 2, which that ACMV completes. -/
def waitingForAcmv : State :=
  (State.reset.mapTh fun h => { h with state := .wtag, wait := .wtag false 4 3 }).mapTile fun t => { t with ops := [returningAcmv] }

theorem waitingForAcmv_completes : exec (.engineCompletion .copy) waitingForAcmv = .next (waitingForAcmv.completeOp returningAcmv [.ret 0 0 1]) := by
  have hf : waitingForAcmv.tile.ops.find? (fun o => o.eng == .copy && o.started && o.confirmed) = some returningAcmv := by decide +kernel
  change execEngineCompletion .copy waitingForAcmv = _
  unfold execEngineCompletion
  rw [hf]
  rfl

/-- The value's retirement by one word is followed by that of the WTAG, by three. -/
theorem waitingForAcmv_pc : ((waitingForAcmv.completeOp returningAcmv [.ret 0 0 1]).tile.th 0).pc = 4 ∧
    ((waitingForAcmv.tile.th 0).next 1).pc = 1 := by decide +kernel

/-- Refutes O38: an operation on a tag that returns a value to the thread waiting for that tag in WTAG moves its PC past the WTAG too. -/
theorem not_enginesRunTheirOperations : ¬ Obligations.EnginesRunTheirOperations := by
  unfold Obligations.EnginesRunTheirOperations
  intro h
  obtain ⟨-, -, completion, -⟩ := h waitingForAcmv .copy returningAcmv 0 [.ret 0 0 1] ⟨0, 0, 0, 0, none⟩ ⟨0, 0, 0, 0, 0, 0, 0⟩ default 0 0
  obtain ⟨t, ht, -, -, -, -, -, ret, -⟩ := completion (by decide +kernel) rfl
  rw [waitingForAcmv_completes] at ht
  obtain rfl := Host.Outcome.next.inj ht
  have hpc := (ret 0 0 1 rfl (by decide +kernel)).1
  obtain ⟨h4, h1⟩ := waitingForAcmv_pc
  exact absurd (h4.symm.trans (hpc.trans h1)) (by decide)

end Sys2Proof.Machine

/-! ### What messages and reports leave alone

`s.Calm t`: from s to t the focus, the wafer time, the boot, the fields, the halls and memory stand, and every tile keeps its place, its
name and its hall. `s.Still t`: every tile also keeps its life, its threads, its packets and its operations. Sends, answers, discards and
parking are still; the loss of a position is calm. -/

namespace Sys2Proof.Machine

/-! Tables of units. -/
section
variable {α β : Type} [DecidableEq α]

theorem unitGet_unitSet (d : β) (l : List (α × β)) (k j : α) (v : β) : unitGet d (unitSet l k v) j = if k = j then v else unitGet d l j := by
  induction l with
  | nil => rfl
  | cons x l ih =>
    obtain ⟨a, w⟩ := x
    unfold unitSet
    by_cases h : a = k
    · rw [if_pos h]
      by_cases hj : k = j
      · rw [if_pos hj]; exact if_pos hj
      · rw [if_neg hj]
        have ha : a ≠ j := h ▸ hj
        exact (if_neg hj).trans (if_neg ha).symm
    · rw [if_neg h]
      by_cases ha : a = j
      · have hj : k ≠ j := fun e => h (ha.trans e.symm)
        rw [if_neg hj]
        exact (if_pos ha).trans (if_pos ha).symm
      · exact (if_neg ha).trans (ih.trans (by split; rfl; exact (if_neg ha).symm))
end

/-! Tiles of a state. -/

theorem State.tileAt_setTileAt (s : State) (c k : Coord) (t : Tile) : (s.setTileAt c t).tileAt k = if c = k then t else s.tileAt k := by
  by_cases hc : c = s.foc
  · subst hc
    have h : s.setTileAt s.foc t = { s with tile := t } := State.setTileAt_foc s t
    rw [h]
    unfold State.tileAt
    by_cases hk : k = s.foc
    · rw [if_pos hk, if_pos hk.symm]
    · rw [if_neg hk, if_neg (fun e => hk e.symm), if_neg hk]; rfl
  · have h : s.setTileAt c t = { s with tiles := unitSet s.tiles c t } := if_neg hc
    rw [h]
    unfold State.tileAt
    by_cases hk : k = s.foc
    · have : c ≠ k := fun e => hc (e.trans hk)
      rw [if_pos hk, if_neg this, if_pos hk]
    · rw [if_neg hk, if_neg hk]
      exact unitGet_unitSet _ _ _ _ _
theorem State.tileAt_mapTileAt (s : State) (c k : Coord) (f : Tile → Tile) :
    (s.mapTileAt c f).tileAt k = if c = k then f (s.tileAt c) else s.tileAt k := State.tileAt_setTileAt s c k _
/-- What repair and launch write of a tile that its traffic never changes: where it is, its name and its hall. -/
def Tile.site (t : Tile) : Nat × Word × Word := (t.prow, t.r.name, t.r.hall)
/-- A tile's life: whether it is absent, its threads, its packets and its operations. -/
def Tile.life (t : Tile) : Bool × Vector Thread 4 × List CellRun × List QOp := (t.absent, t.threads, t.runs, t.ops)

/-- From s to t the wafer stands but for traffic, threads and reports. -/
structure State.Calm (s t : State) : Prop where
  foc : t.foc = s.foc
  wtime : t.wtime = s.wtime
  boot : t.boot = s.boot
  fields : t.fields = s.fields
  halls : t.halls = s.halls
  mem : t.mem = s.mem
  site : ∀ k, (t.tileAt k).site = (s.tileAt k).site

/-- The tiles live on too. -/
structure State.Still (s t : State) : Prop extends State.Calm s t where
  life : ∀ k, (t.tileAt k).life = (s.tileAt k).life

theorem foldl_rel {σ α : Type} (R : σ → σ → Prop) (refl : ∀ s, R s s) (trans : ∀ {s t u}, R s t → R t u → R s u) (f : σ → α → σ)
    (h : ∀ s x, R s (f s x)) (l : List α) (s : σ) : R s (l.foldl f s) := by
  induction l generalizing s with
  | nil => exact refl s
  | cons x l ih => exact trans (h s x) (ih _)

theorem Tile.pushReport_kept (t : Tile) (d : Option Nat) (ws : List Word) : (t.pushReport d ws).site = t.site ∧ (t.pushReport d ws).life = t.life := by
  unfold Tile.pushReport
  split
  · exact ⟨rfl, rfl⟩
  · rw [Tile.count_eq]; exact ⟨rfl, rfl⟩
theorem Tile.gangResult_site (t : Tile) (r : Result) : (t.gangResult r).site = t.site := by
  unfold Tile.gangResult; split <;> rfl

/-- A tile's new value shows at its own place only. -/
theorem State.mapTileAt_proj {α : Type} (π : Tile → α) (s : State) (c k : Coord) (f : Tile → Tile) (h : π (f (s.tileAt c)) = π (s.tileAt c)) :
    π ((s.mapTileAt c f).tileAt k) = π (s.tileAt k) := by
  rw [State.tileAt_mapTileAt]
  split
  · next e => rw [h, e]
  · rfl

namespace State.Calm

theorem refl (s : State) : s.Calm s := ⟨rfl, rfl, rfl, rfl, rfl, rfl, fun _ => rfl⟩
theorem trans {s t u : State} (h : s.Calm t) (k : t.Calm u) : s.Calm u :=
  ⟨k.foc.trans h.foc, k.wtime.trans h.wtime, k.boot.trans h.boot, k.fields.trans h.fields, k.halls.trans h.halls, k.mem.trans h.mem,
    fun c => (k.site c).trans (h.site c)⟩
theorem field {s t : State} (h : s.Calm t) (f : Nat) : t.field f = s.field f := by unfold State.field; rw [h.fields]
theorem prow {s t : State} (h : s.Calm t) (c : Coord) : (t.tileAt c).prow = (s.tileAt c).prow := congrArg (·.1) (h.site c)
theorem foldl {α : Type} (f : State → α → State) (h : ∀ s x, State.Calm s (f s x)) (l : List α) (s : State) : s.Calm (l.foldl f s) :=
  foldl_rel State.Calm refl trans f h l s

theorem mapTileAt (s : State) (c : Coord) (f : Tile → Tile) (h : (f (s.tileAt c)).site = (s.tileAt c).site) : s.Calm (s.mapTileAt c f) := by
  have hs := fun k => State.mapTileAt_proj Tile.site s c k f h
  by_cases hc : c = s.foc
  · have h : s.mapTileAt c f = { s with tile := f (s.tileAt c) } := if_pos hc
    rw [h] at hs ⊢
    exact ⟨rfl, rfl, rfl, rfl, rfl, rfl, hs⟩
  · have h : s.mapTileAt c f = { s with tiles := unitSet s.tiles c (f (s.tileAt c)) } := if_neg hc
    rw [h] at hs ⊢
    exact ⟨rfl, rfl, rfl, rfl, rfl, rfl, hs⟩

end State.Calm

namespace State.Still

theorem refl (s : State) : s.Still s := ⟨.refl s, fun _ => rfl⟩
theorem trans {s t u : State} (h : s.Still t) (k : t.Still u) : s.Still u := ⟨h.toCalm.trans k.toCalm, fun c => (k.life c).trans (h.life c)⟩
theorem foldl {α : Type} (f : State → α → State) (h : ∀ s x, State.Still s (f s x)) (l : List α) (s : State) : s.Still (l.foldl f s) :=
  foldl_rel State.Still refl trans f h l s
theorem mapTileAt (s : State) (c : Coord) (f : Tile → Tile) (h : (f (s.tileAt c)).site = (s.tileAt c).site)
    (hl : (f (s.tileAt c)).life = (s.tileAt c).life) : s.Still (s.mapTileAt c f) :=
  ⟨.mapTileAt s c f h, fun k => State.mapTileAt_proj Tile.life s c k f hl⟩
theorem setGallery (s : State) (i : Nat) (g : Gallery) : s.Still (s.setGallery i g) := ⟨⟨rfl, rfl, rfl, rfl, rfl, rfl, fun _ => rfl⟩, fun _ => rfl⟩
theorem net (s : State) (n : List Flight) (k : Nat) : s.Still { s with net := n, nextSeq := k } :=
  ⟨⟨rfl, rfl, rfl, rfl, rfl, rfl, fun _ => rfl⟩, fun _ => rfl⟩
theorem unitReports (s : State) (l : List (Nat × Record)) : s.Still { s with unitReports := l } :=
  ⟨⟨rfl, rfl, rfl, rfl, rfl, rfl, fun _ => rfl⟩, fun _ => rfl⟩

theorem learnAt (s : State) (c : Coord) (f : Flight) : s.Still (s.learnAt c f) := by
  unfold State.learnAt
  split
  · exact refl s
  · exact mapTileAt s c _ rfl rfl
theorem send (s : State) (m : Msg) (vc : BitVec 4) (src : Coord) (d : Dest) (n : BitVec 32) (name : Option (BitVec 32))
    (hall : BitVec 6) (sys : Bool) : s.Still (s.send m vc src d n name hall sys) := by
  unfold State.send
  dsimp only
  split
  · exact net s _ _
  · exact (net s _ _).trans (learnAt _ _ _)
theorem answer (s : State) (c : Coord) (vc : BitVec 4) (who : Who) (v : AnsVal) (fl : Flags) : s.Still (s.answer c vc who v fl) := by
  unfold State.answer
  split
  · exact setGallery s _ _
  · exact send _ _ _ _ _ _ _ _ _
theorem answerFrom (s : State) (c : Coord) (m : MgmtCmd) (st : BitVec 8) (v : Word) : s.Still (s.answerFrom c m st v) := send _ _ _ _ _ _ _ _ _
theorem expectAnswer (s : State) (m : MgmtCmd) : s.Still (s.expectAnswer m) := setGallery s _ _
theorem discardReport (s : State) (f : Flight) (c : BitVec 8) (w : Word) : s.Still (s.discardReport f c w) := by
  unfold State.discardReport
  dsimp only
  split
  · exact unitReports s _
  · exact mapTileAt s _ _ (Tile.pushReport_kept _ _ _).1 (Tile.pushReport_kept _ _ _).2
theorem discard (s : State) (f : Flight) (c : BitVec 8) : s.Still (s.discard f c) := by
  have h := discardReport s f c 0
  unfold State.discard
  dsimp only
  split
  · exact h.trans (answer _ _ _ _ _ _)
  · exact h.trans (send _ _ _ _ _ _ _ _ _)
  · exact h
theorem dropTileMonitors (s : State) (c : Coord) : s.Still (s.dropTileMonitors c) := by
  unfold State.dropTileMonitors
  refine (foldl _ (fun s m => ?_) _ _).trans (mapTileAt _ c _ rfl rfl)
  split
  · exact refl s
  · exact answer _ _ _ _ _ _
theorem startPark (s : State) (c : Coord) (b : Bool) : s.Still (s.startPark c b) :=
  (mapTileAt s c _ rfl rfl).trans (dropTileMonitors _ c)
theorem unpark (s : State) (c : Coord) : s.Still (s.unpark c) := mapTileAt s c _ rfl rfl
theorem repairReport (s : State) (c : Coord) (b : BitVec 8) (x y : Word) : s.Still (s.repairReport c b x y) := unitReports s _
theorem writeTables (s : State) (skip rs : List Coord) : s.Still (s.writeTables skip rs) := foldl _ (fun s r => mapTileAt s r _ rfl rfl) _ _
theorem rewriteRtex (s : State) (c : Coord) : s.Still (s.rewriteRtex c) := by
  have h := (mapTileAt s c (fun t => { t with pr := { t.pr with rtex := (s.blankTile c).pr.rtex } }) rfl rfl).trans (writeTables _ [] [c])
  unfold State.rewriteRtex
  dsimp only
  split
  · exact h.trans (startPark _ c false)
  · exact h

end State.Still

theorem State.Calm.gangAborted (s : State) (c : Coord) (b : BitVec 8) (who : Coord) (q : QOp) : s.Calm (s.gangAborted c b who q) := by
  unfold State.gangAborted
  exact .mapTileAt s c _ (by rw [Tile.gangResult_site])
theorem State.Calm.gangLost (s : State) (c : Coord) : s.Calm (s.gangLost c) := by
  unfold State.gangLost
  refine .foldl _ (fun s j => ?_) _ _
  split
  · split
    · exact .gangAborted _ _ _ _ _
    · exact .refl s
  · exact .refl s

/-- A lost tile: absent, with its threads FREE and nothing under way. -/
def Tile.stopped (t : Tile) : Tile :=
  { t with absent := true, dispatchOn := false, arms := [], wq := [], ops := [], copies := [], inj := [], seeks := [], tokenWaits := [],
           reports := [], parkCmd := none, hallop := none, threads := t.threads.map fun h => { h with state := .free, wait := .none, record := none } }
theorem Tile.stopped_free (t : Tile) (i : Tid) : (t.stopped.th i).state = .free := by
  unfold Tile.th Tile.stopped
  simp
/-- A position is lost after calm steps. -/
theorem State.lose_eq (s : State) (c : Coord) : ∃ t, s.Calm t ∧ s.lose c = t.mapTileAt c Tile.stopped := by
  refine ⟨_, ?_, rfl⟩
  refine (State.Calm.gangLost s c).trans ((State.Still.dropTileMonitors _ c).trans ((State.Still.net _ _ _).trans
    ((State.Still.foldl _ (fun s f => .discard s f _) _ _).trans (State.Still.foldl _ (fun s w => ?_) _ _)))).toCalm
  split
  · exact .refl s
  · exact .answer _ _ _ _ _ _
theorem State.Calm.lose (s : State) (c : Coord) : s.Calm (s.lose c) := by
  obtain ⟨t, ht, e⟩ := s.lose_eq c
  rw [e]
  exact ht.trans (.mapTileAt t c _ rfl)
theorem State.lose_tileAt (s : State) (c : Coord) : ∃ u : Tile, (s.lose c).tileAt c = u.stopped := by
  obtain ⟨t, -, e⟩ := s.lose_eq c
  exact ⟨t.tileAt c, by rw [e, State.tileAt_mapTileAt, if_pos rfl]⟩

end Sys2Proof.Machine

/-! ### Stairs and shift waves (O53) -/

namespace Sys2Proof.Machine

/-! STAIRST (R450). -/

theorem sum_filter_le {α : Type} (p : α → Bool) (a b : α → Nat) (l : List α) (h : ∀ x ∈ l, b x ≤ a x) :
    ((l.filter p).map a).sum + ((l.filter fun x => !p x).map b).sum ≤ (l.map a).sum := by
  induction l with
  | nil => simp
  | cons x l ih =>
    have hx := h x (by simp)
    have hl := ih fun y hy => h y (by simp [hy])
    cases hp : p x
    · simp only [hp, Bool.false_eq_true, not_false_eq_true, List.filter_cons_of_neg, Bool.not_false, List.filter_cons_of_pos, List.map_cons,
        List.sum_cons]
      omega
    · simp only [hp, List.filter_cons_of_pos, Bool.not_true, Bool.false_eq_true, not_false_eq_true, List.filter_cons_of_neg, List.map_cons,
        List.sum_cons]
      omega

/-- The 28 logical places of a stair take 28 bits of STAIRST. -/
theorem stairCoords_sum (f st : Nat) : ((stairCoords f st).map fun k => 2 ^ (29 + logicalPlace k)).sum ≤ 2 ^ 57 - 2 ^ 29 := by
  have hall : ((List.range 28).map fun i => (⟨128 * (f % 8) + st % 128, 112 * (f / 8) + 28 * (st / 128) + i⟩ : Coord)).map
      (fun k => 2 ^ (29 + logicalPlace k)) = (List.range 28).map fun i => 2 ^ (29 + i) := by
    rw [List.map_map]
    refine List.map_congr_left fun i hi => ?_
    have hi := List.mem_range.mp hi
    have : logicalPlace ⟨128 * (f % 8) + st % 128, 112 * (f / 8) + 28 * (st / 128) + i⟩ = i := by unfold logicalPlace; dsimp only; omega
    simp [this]
  have hsum : ((List.range 28).map fun i => 2 ^ (29 + i)).sum = 2 ^ 57 - 2 ^ 29 := by decide
  have hsub := (List.filter_sublist (p := isCompute) (l := (List.range 28).map fun i =>
    (⟨128 * (f % 8) + st % 128, 112 * (f / 8) + 28 * (st / 128) + i⟩ : Coord))).map fun k => (2 : Nat) ^ (29 + logicalPlace k)
  have hle := List.Sublist.sum_le_sum hsub fun (a : Nat) _ => Nat.zero_le a
  rw [hall, hsum] at hle
  exact hle

/-- State and failed place stand above 57 bits of places. -/
theorem stairBits (state fplace a b : Nat) (hs : state < 4) (hp : fplace < 32) (hb : a + b < 2 ^ 57) :
    (state * 2 ^ 62 + fplace * 2 ^ 57 + a + b) % 2 ^ 64 / 2 ^ 62 % 4 = state ∧
    (state * 2 ^ 62 + fplace * 2 ^ 57 + a + b) % 2 ^ 64 / 2 ^ 57 % 32 = fplace := by omega
theorem extract_ofNat (n k w : Nat) : ((BitVec.ofNat 64 n).extractLsb' k w).toNat = n % 2 ^ 64 / 2 ^ k % 2 ^ w := by
  rw [BitVec.extractLsb'_toNat, BitVec.toNat_ofNat, Nat.shiftRight_eq_div_pow]
/-- STAIRST shows its state and its failed place above the bits of the places. -/
theorem State.stairWord_state (s : State) (f st state fplace : Nat) (lost : Option Coord) (hs : state < 4) (hp : fplace < 32)
    (h : ∀ k ∈ stairCoords f st, placeOf k (s.tileAt k) ≤ 29 + logicalPlace k) :
    (s.stairWord f st state fplace lost).extractLsb' 62 2 = BitVec.ofNat 2 state ∧
    ((s.stairWord f st state fplace lost).extractLsb' 57 5).toNat = fplace := by
  have hb := sum_filter_le (fun x : Coord × Tile => x.2.absent && some x.1 != lost) (fun x => 2 ^ (29 + logicalPlace x.1))
    (fun x => 2 ^ placeOf x.1 x.2) ((stairCoords f st).map fun c => (c, s.tileAt c)) (by
      rintro x hx
      obtain ⟨k, hk, rfl⟩ := List.mem_map.mp hx
      exact Nat.pow_le_pow_right (by decide) (h k hk))
  rw [List.map_map] at hb
  have hb := hb.trans (stairCoords_sum f st)
  obtain ⟨hst, hpl⟩ := stairBits state fplace _ _ hs hp (hb.trans_lt (by norm_num))
  refine ⟨BitVec.eq_of_toNat_eq ?_, (extract_ofNat _ _ _).trans hpl⟩
  exact ((extract_ofNat _ _ _).trans hst).trans (Nat.mod_eq_of_lt hs).symm

/-! Fields. -/

theorem State.field_setField (s : State) (f g : Nat) (x : Field) : (s.setField f x).field g = if f = g then x else s.field g :=
  unitGet_unitSet _ _ _ _ _
@[simp] theorem State.field_setField_same (s : State) (f : Nat) (x : Field) : (s.setField f x).field f = x := by
  rw [State.field_setField, if_pos rfl]
@[simp] theorem State.setWaves_waves (s : State) (f : Nat) (ws : List Wave) : ((s.setWaves f ws).field f).waves = ws := by
  unfold State.setWaves; rw [State.field_setField_same]
@[simp] theorem State.setStair_waves (s : State) (f st a b : Nat) (o : Option Coord) : ((s.setStair f st a b o).field f).waves = (s.field f).waves := by
  unfold State.setStair; rw [State.field_setField_same]; rfl
theorem State.setStair_stair (s : State) (f st a b : Nat) (o : Option Coord) :
    ((s.setStair f st a b o).field f).stair st = s.stairWord f st a b o := by
  unfold State.setStair; rw [State.field_setField_same]
  unfold Field.stair Field.setStair
  dsimp only
  rw [unitGet_unitSet, if_pos rfl]

/-! States whose tiles are the same but for traffic. -/

/-- The focus, the place of every tile and its life stand. -/
structure State.SameTiles (s t : State) : Prop where
  foc : t.foc = s.foc
  site : ∀ k, (t.tileAt k).site = (s.tileAt k).site
  life : ∀ k, (t.tileAt k).life = (s.tileAt k).life

/-- What a table shows of a unit that it does not list follows the default. -/
theorem unitGet_proj {α β γ : Type} [DecidableEq α] (π : β → γ) (d e : β) (h : π d = π e) (l : List (α × β)) (k : α) :
    π (unitGet d l k) = π (unitGet e l k) := by
  induction l with
  | nil => exact h
  | cons x l ih =>
    unfold unitGet
    split
    · rfl
    · exact ih

namespace State.SameTiles

theorem refl (s : State) : s.SameTiles s := ⟨rfl, fun _ => rfl, fun _ => rfl⟩
theorem trans {s t u : State} (h : s.SameTiles t) (k : t.SameTiles u) : s.SameTiles u :=
  ⟨k.foc.trans h.foc, fun c => (k.site c).trans (h.site c), fun c => (k.life c).trans (h.life c)⟩
theorem of_still {s t : State} (h : s.Still t) : s.SameTiles t := ⟨h.foc, h.site, h.life⟩
/-- What else a state holds shows in the blank tiles' buckets and route exceptions only. -/
theorem of_eq {s t : State} (foc : t.foc = s.foc) (tile : t.tile = s.tile) (tiles : t.tiles = s.tiles) : s.SameTiles t := by
  have h {γ : Type} (π : Tile → γ) (hπ : ∀ k, π (t.blankTile k) = π (s.blankTile k)) (k : Coord) : π (t.tileAt k) = π (s.tileAt k) := by
    unfold State.tileAt
    rw [foc, tile, tiles]
    split
    · rfl
    · exact unitGet_proj π _ _ (hπ k) _ _
  exact ⟨foc, h _ fun _ => rfl, h _ fun _ => rfl⟩
theorem setField (s : State) (f : Nat) (x : Field) : s.SameTiles (s.setField f x) := of_eq rfl rfl rfl
theorem setWaves (s : State) (f : Nat) (ws : List Wave) : s.SameTiles (s.setWaves f ws) := of_eq rfl rfl rfl
theorem setStair (s : State) (f st a b : Nat) (o : Option Coord) : s.SameTiles (s.setStair f st a b o) := of_eq rfl rfl rfl
theorem logWrite (s : State) (l : List Word) : s.SameTiles (s.logWrite l) := of_eq rfl rfl rfl
theorem markStale (s : State) (c : Coord) : s.SameTiles (s.markStale c) := by
  unfold State.markStale
  dsimp only
  split
  · exact refl s
  · exact of_eq rfl rfl rfl
theorem repairAnswer (s : State) (m : Option MgmtCmd) : s.SameTiles (s.repairAnswer m) := by
  unfold State.repairAnswer
  split
  · exact of_still (.answerFrom _ _ _ _ _)
  · exact refl s
theorem placeOf {s t : State} (h : s.SameTiles t) (k : Coord) : placeOf k (t.tileAt k) = placeOf k (s.tileAt k) := by
  have hp : (t.tileAt k).prow = (s.tileAt k).prow := congrArg (·.1) (h.site k)
  unfold Machine.placeOf; rw [hp]

end State.SameTiles

/-! Answers of management commands. -/

/-- An answer only enters the mesh: its unit has no name to be learnt. -/
theorem State.answerFrom_eq (s : State) (c : Coord) (m : MgmtCmd) (st : BitVec 8) (v : Word) :
    ∃ z n, s.answerFrom c m st v = { s with net := s.net ++ [z], nextSeq := n } ∧ z.vc = 14 ∧ z.msg = .cmdAnswer m.agent st m.seq v := by
  unfold State.answerFrom State.emitUnit State.send
  dsimp only
  split
  · exact ⟨_, _, rfl, rfl, rfl⟩
  · exact ⟨_, _, if_pos (.inl rfl), rfl, rfl⟩

/-- The agent of a command is told this status. -/
def State.told (s : State) (c : MgmtCmd) (code : BitVec 8) : Prop := ∃ z ∈ s.net, z.vc = 14 ∧ z.msg = .cmdAnswer c.agent code c.seq 0
theorem State.answerFrom_told (s : State) (k : Coord) (c : MgmtCmd) (code : BitVec 8) : (s.answerFrom k c code 0).told c code := by
  obtain ⟨z, n, e, hv, hm⟩ := s.answerFrom_eq k c code 0
  exact ⟨z, by rw [e]; simp, hv, hm⟩
theorem State.answerFrom_tile (s : State) (k : Coord) (c : MgmtCmd) (code : BitVec 8) (v : Word) : (s.answerFrom k c code v).tile = s.tile := by
  obtain ⟨z, n, e, -, -⟩ := s.answerFrom_eq k c code v
  rw [e]

/-! The end of a wave. -/

theorem State.markStale_fields (s : State) (c : Coord) : (s.markStale c).fields = s.fields := by
  unfold State.markStale; dsimp only; split <;> rfl
theorem State.repairAnswer_fields (s : State) (m : Option MgmtCmd) : (s.repairAnswer m).fields = s.fields := by
  unfold State.repairAnswer
  split
  · exact (State.Still.answerFrom _ _ _ _ _).fields
  · rfl

theorem State.mapTileAt_fields (s : State) (c : Coord) (f : Tile → Tile) : (s.mapTileAt c f).fields = s.fields := by
  unfold State.mapTileAt State.setTileAt; split <;> rfl
theorem State.mapTileAt_foc' (s : State) (c : Coord) (f : Tile → Tile) : (s.mapTileAt c f).foc = s.foc := by
  unfold State.mapTileAt State.setTileAt; split <;> rfl

/-- A fresh tile stands for the lost position, and its storage is clear. -/
def State.refreshed (s : State) (w : Wave) : State :=
  (s.clearStorage w.lost 0).mapTileAt w.lost fun t => t.fresh w.lost (29 * (w.stair / 128) + w.failed + 1)
/-- The state in which STAIRST of the ended wave is written. -/
def State.rebuilt (s : State) (f : Nat) (w : Wave) : State :=
  let s1 := (s.refreshed w).rewriteRtex w.lost
  s1.setWaves f ((s1.field f).waves.filter (·.stair != w.stair))
theorem State.rebuilt_waves (s : State) (f : Nat) (w : Wave) :
    ((s.rebuilt f w).field f).waves = (s.field f).waves.filter (·.stair != w.stair) := by
  unfold State.rebuilt
  dsimp only
  rw [State.setWaves_waves, (State.Still.rewriteRtex _ _).field]
  unfold State.field State.refreshed
  rw [State.mapTileAt_fields]
  rfl
theorem State.rebuilt_foc (s : State) (f : Nat) (w : Wave) : (s.rebuilt f w).foc = s.foc :=
  (State.Still.rewriteRtex _ _).foc.trans (State.mapTileAt_foc' _ _ _)
/-- The fresh tile has its place, its name and its hall, and lives as after a reset; the other tiles stand. -/
theorem State.rebuilt_tileAt (s : State) (f : Nat) (w : Wave) (k : Coord) :
    ((s.rebuilt f w).tileAt k).site =
      (if w.lost = k then (29 * (w.stair / 128) + w.failed + 1, (s.tileAt k).r.name, (s.tileAt k).r.hall) else (s.tileAt k).site) ∧
    ((s.rebuilt f w).tileAt k).life = if w.lost = k then (Tile.reset k).life else (s.tileAt k).life := by
  have h : (s.refreshed w).SameTiles (s.rebuilt f w) := (State.SameTiles.of_still (.rewriteRtex _ w.lost)).trans (.setWaves _ f _)
  have hs := h.site k
  have hl := h.life k
  unfold State.refreshed at hs hl
  rw [State.tileAt_mapTileAt] at hs hl
  rw [hs, hl]
  split
  · next e => subst e; exact ⟨rfl, rfl⟩
  · exact ⟨rfl, rfl⟩

/-- After STAIRST come reports, the log and the answer. -/
theorem State.endWave_eq (s : State) (f : Nat) (w : Wave) : ∃ t : State, s.endWave f w = t.repairAnswer w.cmd ∧
    ((s.rebuilt f w).setStair f w.stair 2 w.failed none).SameTiles t ∧ t.fields = ((s.rebuilt f w).setStair f w.stair 2 w.failed none).fields := by
  refine ⟨_, rfl, (State.SameTiles.of_still (.repairReport _ _ _ _ _)).trans ((State.SameTiles.markStale _ _).trans (.logWrite _ _)), ?_⟩
  exact (State.markStale_fields _ _)

end Sys2Proof.Machine

/-! ### The tiles of a hall, its steward's packets and its kite lines (O53, O54) -/

namespace Sys2Proof.Machine

/-! The tiles of a hall. -/

/-- A unit that is listed keeps its place in the table. -/
theorem unitSet_map {α β γ : Type} [DecidableEq α] (π : β → γ) (d : β) (l : List (α × β)) (k : α) (v : β) (hk : k ∈ l.map (·.1))
    (hv : π v = π (unitGet d l k)) : (unitSet l k v).map (fun x => (x.1, π x.2)) = l.map fun x => (x.1, π x.2) := by
  induction l with
  | nil => simp at hk
  | cons x l ih =>
    obtain ⟨a, w⟩ := x
    unfold unitSet
    unfold unitGet at hv
    split
    · next e =>
      rw [if_pos e] at hv
      simp [hv, e]
    · next e =>
      rw [if_neg e] at hv
      have hk' : k ∈ l.map (·.1) := (List.mem_cons.mp hk).resolve_left fun e' => e e'.symm
      simp only [List.map_cons, ih hk' hv]

/-- A hall's tiles are read from the HALL registers alone. -/
theorem State.hallTiles_eq (s : State) (h : Nat) : s.hallTiles h =
    (((s.foc, s.tile.r.hall) :: (s.tiles.map fun x => (x.1, x.2.r.hall)).filter (·.1 != s.foc)).filter fun x =>
      !x.2.getLsbD 7 && (x.2.extractLsb' 0 6).toNat == h && isCompute x.1).map (·.1) := by
  have hl : (s.foc, s.tile.r.hall) :: (s.tiles.map fun x => (x.1, x.2.r.hall)).filter (·.1 != s.foc) = s.listed.map fun x => (x.1, x.2.r.hall) := by
    unfold State.listed
    rw [List.map_cons, List.filter_map]
    rfl
  rw [hl, List.filter_map, List.map_map]
  rfl
theorem State.listed_of_hallTiles {s : State} {h : Nat} {x : Coord} (hx : x ∈ s.hallTiles h) : x = s.foc ∨ x ∈ s.tiles.map (·.1) := by
  unfold State.hallTiles at hx
  obtain ⟨y, hy, rfl⟩ := List.mem_map.mp hx
  rcases List.mem_cons.mp (List.mem_of_mem_filter hy) with rfl | hy
  · exact .inl rfl
  · exact .inr (List.mem_map_of_mem (List.mem_of_mem_filter hy))
theorem State.isCompute_of_hallTiles {s : State} {h : Nat} {x : Coord} (hx : x ∈ s.hallTiles h) : isCompute x = true := by
  unfold State.hallTiles at hx
  obtain ⟨y, hy, rfl⟩ := List.mem_map.mp hx
  have hp := (List.mem_filter.mp hy).2
  simp only [Bool.and_eq_true] at hp
  exact hp.2
theorem State.hallTiles_mapTileAt (s : State) (c : Coord) (f : Tile → Tile) (h : Nat) (hc : c = s.foc ∨ c ∈ s.tiles.map (·.1))
    (hf : (f (s.tileAt c)).r.hall = (s.tileAt c).r.hall) : (s.mapTileAt c f).hallTiles h = s.hallTiles h := by
  rw [State.hallTiles_eq, State.hallTiles_eq]
  by_cases hfoc : c = s.foc
  · have e : s.mapTileAt c f = { s with tile := f (s.tileAt c) } := if_pos hfoc
    rw [e]
    dsimp only
    rw [hf, hfoc, State.tileAt_foc]
  · have e : s.mapTileAt c f = { s with tiles := unitSet s.tiles c (f (s.tileAt c)) } := if_neg hfoc
    rw [e]
    dsimp only
    have ht : s.tileAt c = unitGet (s.blankTile c) s.tiles c := if_neg hfoc
    rw [unitSet_map (fun t : Tile => t.r.hall) (s.blankTile c) s.tiles c _ (hc.resolve_left hfoc) (ht ▸ hf)]

/-! A steward's packets. -/

theorem isGallery_gallerySite (f : Nat) : isGallery (gallerySite f) = true := by
  unfold isGallery gallerySite
  simp only [decide_eq_true_eq]
  omega
/-- A packet of a steward only enters the mesh: routers of galleries learn no names. -/
theorem State.stewardPacket_eq (s : State) (f : Nat) (hall : Option Nat) (c : Coord) (vc : BitVec 4) (p : Packet) (hc : isCompute c = true) :
    ∃ z n q, s.stewardPacket f hall c vc p = { s with net := s.net ++ [z], nextSeq := n } ∧ z.dest = .tile c ∧ z.vc = vc ∧
      z.msg = .packet q ∧ q.payload = p.payload ∧
      q.word0 = (p.word0 &&& 0xFFFFFFFFC0FFFFFF) ||| (((hall.map (BitVec.ofNat 6)).getD 0).zeroExtend 64 <<< 24) := by
  unfold State.stewardPacket
  dsimp only
  rw [if_pos hc]
  unfold State.send
  dsimp only
  split
  · exact ⟨_, _, _, rfl, rfl, rfl, rfl, rfl, rfl⟩
  · exact ⟨_, _, _, if_pos (.inr (isGallery_gallerySite f)), rfl, rfl, rfl, rfl, rfl⟩

/-! The kite lines of a hall of one tile. -/

theorem Line_.take_single (x : Coord) (taken : List (Coord × Coord)) :
    (⟨[(x, none)], []⟩ : Line_).take [x] taken x = ⟨[(x, none)], []⟩ := by
  unfold Line_.take
  generalize neighbours x = l
  induction l with
  | nil => rfl
  | cons y l ih =>
    have hy : ([x].contains y.2 && !([(x, (none : Option Coord))].any (·.1 == y.2))) = false := by
      by_cases h : y.2 = x <;> simp [h]
    rw [List.foldl_cons]
    simpa only [hy, Bool.false_and, Bool.false_eq_true, if_false] using ih
/-- Its tree is its one tile. -/
theorem kiteLines_single (x corner : Coord) : kiteLines [x] [corner] = [some ⟨[(x, none)], []⟩] := by
  have hg : Line_.grow [x] [] 1 0 ⟨[(x, none)], []⟩ = ⟨[(x, none)], []⟩ := Line_.take_single x []
  unfold kiteLines
  have hr : kiteRoot [x] corner = some x := rfl
  simp only [List.foldl_cons, List.foldl_nil, hr, List.length_singleton, hg]
  rfl
theorem Line_.parentWord_root (x : Coord) (x0 y0 : Nat) : (⟨[(x, none)], []⟩ : Line_).parentWord x x0 y0 = 0xC0000000 := by
  have hk : ((neighbours x).map fun (i, u) => if ([] : List (Coord × Coord)).contains (u, x) then 2 ^ (26 + i) else 0).sum = 0 := by
    simp
  unfold Line_.parentWord
  simp only [List.find?_cons, BEq.rfl, hk]
  rfl
/-- The weight of line 0 is the only one that KITEW can hold then. -/
theorem kiteWord_single (w : BitVec 16) (rent : Nat) (b : Bool) : (kiteWord w rent [b]).extractLsb' 4 12 = 0 := by
  have hw : (w.extractLsb' 0 4).toNat < 16 := (w.extractLsb' 0 4).isLt
  have hs (y : Nat) (hy : y < 16) : (BitVec.ofNat 64 (rent * 2 ^ 16 + y)).extractLsb' 4 12 = 0 := by
    apply BitVec.eq_of_toNat_eq
    rw [BitVec.extractLsb'_toNat, BitVec.toNat_ofNat, Nat.shiftRight_eq_div_pow]
    show (rent * 2 ^ 16 + y) % 2 ^ 64 / 2 ^ 4 % 2 ^ 12 = 0
    omega
  unfold kiteWord
  refine hs _ ?_
  cases b
  · simp [List.range_succ]
  · simp [List.range_succ]
    split <;> omega

/-! A rebuild of a hall of one tile. -/

/-- The hall has one tile, which is live. -/
def State.oneTile (s : State) (h : Nat) (x : Coord) : Prop := s.hallTiles h = [x] ∧ (s.tileAt x).absent = false

theorem State.oneTile.mapTileAt {s : State} {h : Nat} {x : Coord} (o : s.oneTile h x) (f : Tile → Tile)
    (hhall : (f (s.tileAt x)).r.hall = (s.tileAt x).r.hall) (habsent : (f (s.tileAt x)).absent = (s.tileAt x).absent) :
    (s.mapTileAt x f).oneTile h x := by
  obtain ⟨ho, ha⟩ := o
  refine ⟨(s.hallTiles_mapTileAt x f h (State.listed_of_hallTiles (ho ▸ List.mem_singleton_self x)) hhall).trans ho, ?_⟩
  rw [State.tileAt_mapTileAt, if_pos rfl, habsent, ha]
theorem State.mapTileAt_halls (s : State) (c : Coord) (f : Tile → Tile) : (s.mapTileAt c f).halls = s.halls := by
  unfold State.mapTileAt State.setTileAt; split <;> rfl

/-- With no packet in the mesh, only cells of the hall's tiles are freed. -/
theorem State.dropCollectives_oneTile (s : State) (h : Nat) (x : Coord) (hnet : s.net = []) (o : s.oneTile h x) :
    (s.dropCollectives [x]).oneTile h x ∧ (s.dropCollectives [x]).halls = s.halls := by
  unfold State.dropCollectives
  rw [hnet]
  dsimp only [List.filter_nil, List.foldl_nil, List.foldl_cons]
  have o : ({ s with net := [] } : State).oneTile h x := o
  generalize List.filter _ _ = l
  have hs : ({ s with net := [] } : State).halls = s.halls := rfl
  generalize ({ s with net := [] } : State) = u at o hs
  induction l generalizing u with
  | nil => exact ⟨o, hs⟩
  | cons r l ih =>
    refine ih _ (o.mapTileAt _ ?_ ?_) ((State.mapTileAt_halls _ _ _).trans hs)
    · rw [Tile.count_eq]; rfl
    · rw [Tile.count_eq]; rfl

/-! The lines that `State.buildKite` builds, what they miss, and what it writes. -/

def State.liveOf (s : State) (h : Nat) : List Coord := (s.hallTiles h).filter fun c => !(s.tileAt c).absent
def State.kiteTrees (s : State) (h nlines : Nat) : List (Option Line_) :=
  let (x0, y0, w, n) := s.hallBox h
  kiteLines (s.liveOf h)
    (([⟨x0, y0⟩, ⟨x0 + w - 1, y0⟩, ⟨x0, y0 + n - 1⟩, ⟨x0 + w - 1, y0 + n - 1⟩] : List Coord).take nlines)
def State.kiteMissed (s : State) (h nlines : Nat) (c : Coord) : Bool := match (s.kiteTrees h nlines).head? with
  | some (some l) => !(l.on.any (·.1 == c))
  | _ => false
def State.kiteParent (s : State) (h nlines : Nat) (c : Coord) (i : Nat) : Word := match (s.kiteTrees h nlines).getD i none with
  | some l => if s.kiteMissed h nlines c then 0 else l.parentWord c (s.hallBox h).1 (s.hallBox h).2.1
  | none => 0
def State.kiteWeights (s : State) (h nlines : Nat) : Word :=
  kiteWord (s.hallOf h).kitew (s.hallOf h).rent ((s.kiteTrees h nlines).map fun o => o.any fun l => l.on.length == (s.liveOf h).length)
/-- A tile with its parents and its weights. -/
def Tile.withKite (t : Tile) (p : Nat → Word) (kw : Word) : Tile := { t with r := { t.r with parent := Vector.ofFn fun i : Fin 4 => p i.val, kitew := kw } }
/-- The hall's registers are written, and the tiles that no line reaches are reported. -/
def State.kiteWritten (s : State) (h nlines count : Nat) : State :=
  let s1 := (s.liveOf h).foldl (fun (x : State) c => x.mapTileAt c fun t => t.withKite (s.kiteParent h nlines c) (s.kiteWeights h nlines)) s
  let s2 := ((s.liveOf h).filter (s.kiteMissed h nlines)).foldl (fun (s : State) c =>
    s.repairReport c Cause.tileUnreached ((s.tileAt c).r.name &&& 0xFFFFFFFF) (positionWord c)) s1
  s2.setHall h { s.hallOf h with nlines := nlines, rebuilds := count, stale := false }
/-- Without notices that is all; the notices are packets of the steward to pinned tiles of the hall. -/
theorem State.buildKite_quiet (s : State) (h nlines : Nat) : s.buildKite h nlines false = s.kiteWritten h nlines (s.hallOf h).rebuilds := rfl
theorem State.buildKite_notices (s : State) (h nlines : Nat) : ∃ (p : Coord → Packet) (pinned : Coord → Bool), s.buildKite h nlines true =
    ((s.liveOf h).filter pinned).foldl (fun (x : State) c => x.stewardPacket (x.stewardOf h) (some h) c 12 (p c))
      (s.kiteWritten h nlines ((s.hallOf h).rebuilds + 1)) := ⟨_, _, rfl⟩

/-- Packets of a steward to compute positions only enter the mesh. -/
theorem State.notices_eq (f : State → Nat) (hall : Option Nat) (vc : BitVec 4) (p : Coord → Packet) (l : List Coord)
    (hl : ∀ c ∈ l, isCompute c = true) (s : State) :
    ∃ n k, l.foldl (fun (s : State) c => s.stewardPacket (f s) hall c vc (p c)) s = { s with net := n, nextSeq := k } := by
  induction l generalizing s with
  | nil => exact ⟨s.net, s.nextSeq, rfl⟩
  | cons c l ih =>
    obtain ⟨z, m, -, e, -⟩ := s.stewardPacket_eq (f s) hall c vc (p c) (hl c (by simp))
    obtain ⟨n, k, e'⟩ := ih (fun d hd => hl d (by simp [hd])) (s.stewardPacket (f s) hall c vc (p c))
    rw [List.foldl_cons]
    exact ⟨n, k, e'.trans (by rw [e])⟩

/-! A hall of one tile. -/

theorem State.oneTile.liveOf {s : State} {h : Nat} {x : Coord} (o : s.oneTile h x) : s.liveOf h = [x] := by
  obtain ⟨ho, ha⟩ := o
  unfold State.liveOf
  simp [ho, ha]
theorem State.oneTile.kiteTrees {s : State} {h : Nat} {x : Coord} (o : s.oneTile h x) : s.kiteTrees h 1 = [some ⟨[(x, none)], []⟩] := by
  unfold State.kiteTrees
  rw [o.liveOf]
  exact kiteLines_single _ _
theorem State.oneTile.kiteMissed {s : State} {h : Nat} {x : Coord} (o : s.oneTile h x) : s.kiteMissed h 1 x = false := by
  unfold State.kiteMissed
  rw [o.kiteTrees]
  simp
theorem State.oneTile.kiteParent {s : State} {h : Nat} {x : Coord} (o : s.oneTile h x) :
    s.kiteParent h 1 x 0 = 0xC0000000 ∧ s.kiteParent h 1 x 1 = 0 := by
  unfold State.kiteParent
  rw [o.kiteTrees, o.kiteMissed]
  exact ⟨Line_.parentWord_root x _ _, rfl⟩
theorem State.oneTile.kiteWeights {s : State} {h : Nat} {x : Coord} (o : s.oneTile h x) : (s.kiteWeights h 1).extractLsb' 4 12 = 0 := by
  unfold State.kiteWeights
  rw [o.kiteTrees]
  exact kiteWord_single _ _ _

theorem State.hallOf_setHall (s : State) (h : Nat) (x : Hall) : (s.setHall h x).hallOf h = x := (unitGet_unitSet _ _ _ _ _).trans (if_pos rfl)

/-- Its tile is the root of line 0, whose weight alone stands. -/
theorem State.buildKite_oneTile (s : State) (h : Nat) (x : Coord) (o : s.oneTile h x) :
    ((s.buildKite h 1 true).tileAt x).r.parent[0] = 0xC0000000 ∧ ((s.buildKite h 1 true).tileAt x).r.parent[1] = 0 ∧
    ((s.buildKite h 1 true).tileAt x).r.kitew.extractLsb' 4 12 = 0 ∧
    (s.buildKite h 1 true).hallOf h = { s.hallOf h with nlines := 1, rebuilds := (s.hallOf h).rebuilds + 1, stale := false } := by
  obtain ⟨p, pinned, e⟩ := s.buildKite_notices h 1
  have hx : isCompute x = true := State.isCompute_of_hallTiles (o.1 ▸ List.mem_singleton_self x)
  obtain ⟨n, k, e'⟩ := State.notices_eq (fun s => s.stewardOf h) (some h) 12 p ((s.liveOf h).filter pinned) (fun c hc => by
    have := List.mem_of_mem_filter hc
    rw [o.liveOf, List.mem_singleton] at this
    rw [this]; exact hx) (s.kiteWritten h 1 ((s.hallOf h).rebuilds + 1))
  have htile : (s.buildKite h 1 true).tileAt x = (s.tileAt x).withKite (s.kiteParent h 1 x) (s.kiteWeights h 1) := by
    rw [e, e']
    show (s.kiteWritten h 1 ((s.hallOf h).rebuilds + 1)).tileAt x = _
    unfold State.kiteWritten
    simp only [o.liveOf, List.filter_cons, o.kiteMissed, List.filter_nil, List.foldl_cons, List.foldl_nil, Bool.false_eq_true, if_false]
    exact (State.tileAt_mapTileAt _ _ _ _).trans (if_pos rfl)
  obtain ⟨h0, h1⟩ := o.kiteParent
  rw [htile]
  refine ⟨h0, h1, o.kiteWeights, ?_⟩
  rw [e, e']
  exact State.hallOf_setHall _ _ _

end Sys2Proof.Machine

/-! ### REPAIR, the steps of a wave and kite lines (O53) -/

namespace Sys2Proof.Machine

/-- A tile that lives as after a reset, at this row. -/
def Tile.isFresh (t : Tile) (row : Nat) : Prop :=
  t.absent = false ∧ t.prow = row ∧ t.runs = [] ∧ t.ops = [] ∧ ∀ i : Tid, t.th i = Thread.reset
theorem Tile.isFresh_of (t : Tile) (c : Coord) (row : Nat) (h : t.life = (Tile.reset c).life) (hr : t.prow = row) : t.isFresh row := by
  unfold Tile.life at h
  simp only [Prod.mk.injEq] at h
  obtain ⟨ha, ht, hruns, hops⟩ := h
  refine ⟨ha, hr, hruns, hops, fun i => ?_⟩
  unfold Tile.th
  rw [ht]
  exact Vector.getElem_replicate _

/-- The wave that position c's failure begins. -/
structure State.WaveAt (s : State) (c : Coord) (cmd : Option MgmtCmd) (w : Wave) : Prop where
  stair : w.stair = stairOf c
  failed : w.failed = placeOf c (s.tileAt c)
  place : w.place = 27
  lost : w.lost = c
  cmd : w.cmd = cmd
/-- The wave is listed, and STAIRST shows it. -/
def State.shifting (u : State) (f : Nat) (w : Wave) : State :=
  (u.setWaves f ((u.field f).waves ++ [w])).setStair f w.stair 1 w.failed (some w.lost)
/-- A wave begins once the position has been lost and the tiles below it have begun to park. -/
theorem State.startWave_eq (s : State) (f : Nat) (c : Coord) (cmd : Option MgmtCmd) : ∃ (u : State) (w : Wave), (s.lose c).Still u ∧
    s.WaveAt c cmd w ∧ s.startWave f c cmd = if placeOf c (s.tileAt c) = 27 then (u.shifting f w).endWave f w else u.shifting f w :=
  ⟨_, ⟨stairOf c, placeOf c (s.tileAt c), 27, c, _, cmd⟩, State.Still.foldl _ (fun s k => .startPark s k false) _ _, ⟨rfl, rfl, rfl, rfl, rfl⟩, rfl⟩

theorem State.shifting_waves (u : State) (f : Nat) (w : Wave) : ((u.shifting f w).field f).waves = (u.field f).waves ++ [w] := by
  unfold State.shifting; rw [State.setStair_waves, State.setWaves_waves]
theorem State.SameTiles.shifting (u : State) (f : Nat) (w : Wave) : u.SameTiles (u.shifting f w) :=
  (State.SameTiles.setWaves _ _ _).trans (.setStair _ _ _ _ _ _)

/-- The tiles of the stair are where they were at first. -/
def State.intactStair (s : State) (f st : Nat) : Prop := ∀ k ∈ stairCoords f st, placeOf k (s.tileAt k) = logicalPlace k

theorem State.lose_placeOf (s : State) (c k : Coord) : placeOf k ((s.lose c).tileAt k) = placeOf k (s.tileAt k) := by
  unfold placeOf; rw [(State.Calm.lose s c).prow]

/-- REPAIR of a position above the last: its tile is lost, and the wave is listed. -/
theorem State.startWave_shifts (s : State) (f : Nat) (c : Coord) (cmd : Option MgmtCmd) (hc : s.foc = c) (intact : s.intactStair f (stairOf c))
    (hp : placeOf c (s.tileAt c) < 27) : ∃ (t : State) (w : Wave), s.startWave f c cmd = t ∧ s.WaveAt c cmd w ∧
    t.tile.absent = true ∧ (∀ i : Tid, (t.tile.th i).state = .free) ∧ ((t.field f).stair (stairOf c)).extractLsb' 62 2 = 1 ∧
      (((t.field f).stair (stairOf c)).extractLsb' 57 5).toNat = placeOf c (s.tileAt c) ∧ (t.field f).waves = (s.field f).waves ++ [w] := by
  obtain ⟨u, w, hu, hw, e⟩ := s.startWave_eq f c cmd
  rw [if_neg (by omega)] at e
  have hsame := (State.SameTiles.of_still hu).trans (.shifting u f w)
  have hfoc : (u.shifting f w).foc = c := (hsame.foc.trans (State.Calm.lose s c).foc).trans hc
  obtain ⟨l, hl⟩ := s.lose_tileAt c
  have htile : (u.shifting f w).tileAt c = (u.shifting f w).tile := by rw [← hfoc, State.tileAt_foc]
  have hlife := hsame.life c
  rw [hl, htile] at hlife
  have hthreads : (u.shifting f w).tile.threads = l.stopped.threads := congrArg (·.2.1) hlife
  have hplaces : ∀ k ∈ stairCoords f w.stair, placeOf k ((u.setWaves f ((u.field f).waves ++ [w])).tileAt k) ≤ 29 + logicalPlace k := fun k hk => by
    rw [((State.SameTiles.of_still hu).trans (.setWaves _ _ _)).placeOf, s.lose_placeOf, intact k (hw.stair ▸ hk)]
    omega
  have hword := State.setStair_stair (u.setWaves f ((u.field f).waves ++ [w])) f w.stair 1 w.failed (some w.lost)
  obtain ⟨hst, hpl⟩ := State.stairWord_state _ f w.stair 1 w.failed (some w.lost) (by decide) (by rw [hw.failed]; omega) hplaces
  rw [← hword] at hst hpl
  refine ⟨_, w, e, hw, congrArg (·.1) hlife, fun i => ?_, ?_, ?_, ?_⟩
  · unfold Tile.th
    rw [hthreads]
    exact l.stopped_free i
  · rw [← hw.stair]; exact hst
  · rw [← hw.stair, ← hw.failed]; exact hpl
  · rw [State.shifting_waves, hu.field, (State.Calm.lose s c).field]

/-- The end of a wave: its fresh tile stands, the other tiles are where they were, and STAIRST shows a repaired stair. -/
theorem State.endWave_ends (s : State) (f : Nat) (w : Wave) :
    (s.endWave f w).foc = s.foc ∧
    ((s.endWave f w).tileAt w.lost).isFresh (29 * (w.stair / 128) + w.failed + 1) ∧
    ((s.endWave f w).tileAt w.lost).r.name = (s.tileAt w.lost).r.name ∧ ((s.endWave f w).tileAt w.lost).r.hall = (s.tileAt w.lost).r.hall ∧
    (∀ k, w.lost ≠ k → ((s.endWave f w).tileAt k).prow = (s.tileAt k).prow) ∧
    ((s.endWave f w).field f).waves = (s.field f).waves.filter (·.stair != w.stair) ∧
    ((s.endWave f w).field f).stair w.stair = (s.rebuilt f w).stairWord f w.stair 2 w.failed none := by
  obtain ⟨t, e, hsame, hfields⟩ := s.endWave_eq f w
  have hend := (State.SameTiles.setStair (s.rebuilt f w) f w.stair 2 w.failed none).trans (hsame.trans (.repairAnswer t w.cmd))
  have hfields := (State.repairAnswer_fields t w.cmd).trans hfields
  rw [← e] at hend hfields
  obtain ⟨hsite, hlife⟩ := s.rebuilt_tileAt f w w.lost
  rw [if_pos rfl] at hsite hlife
  have hsite := (hend.site w.lost).trans hsite
  have hlife := (hend.life w.lost).trans hlife
  refine ⟨hend.foc.trans (s.rebuilt_foc f w), Tile.isFresh_of _ _ _ hlife (congrArg (·.1) hsite), congrArg (·.2.1) hsite, congrArg (·.2.2) hsite,
    fun k hk => ?_, ?_, ?_⟩
  · have h := (s.rebuilt_tileAt f w k).1
    rw [if_neg hk] at h
    exact congrArg (·.1) ((hend.site k).trans h)
  · unfold State.field
    rw [hfields]
    exact (State.setStair_waves _ _ _ _ _ _).trans (s.rebuilt_waves f w)
  · unfold State.field
    rw [hfields]
    exact State.setStair_stair _ _ _ _ _ _

/-- When a wave has ended, the lost position lies one place below the failed one. -/
theorem State.rebuilt_placeOf (s : State) (f : Nat) (w : Wave) (h : w.stair = stairOf w.lost) (k : Coord) :
    placeOf k ((s.rebuilt f w).tileAt k) = if w.lost = k then w.failed + 1 else placeOf k (s.tileAt k) := by
  have hsite := (s.rebuilt_tileAt f w k).1
  unfold placeOf
  split
  · next e =>
    rw [if_pos e] at hsite
    have hrow : ((s.rebuilt f w).tileAt k).prow = 29 * (w.stair / 128) + w.failed + 1 := congrArg (·.1) hsite
    rw [hrow, h, e]
    unfold stairOf
    omega
  · next e =>
    rw [if_neg e] at hsite
    have hrow : ((s.rebuilt f w).tileAt k).prow = (s.tileAt k).prow := congrArg (·.1) hsite
    rw [hrow]

/-- REPAIR of the last position of a stair: there is nothing to move, and a fresh tile stands for it at once. -/
theorem State.startWave_ends (s : State) (f : Nat) (c : Coord) (m : MgmtCmd) (intact : s.intactStair f (stairOf c))
    (hp : placeOf c (s.tileAt c) = 27) (hnone : (s.field f).waves = []) : ∃ t : State, s.startWave f c (some m) = t ∧ t.foc = s.foc ∧
    t.told m 0 ∧ (t.tileAt c).isFresh (29 * (stairOf c / 128) + 28) ∧ (t.tileAt c).r.name = (s.tileAt c).r.name ∧
      (t.tileAt c).r.hall = (s.tileAt c).r.hall ∧ (t.field f).waves = [] ∧ ((t.field f).stair (stairOf c)).extractLsb' 62 2 = 2 := by
  obtain ⟨u, w, hu, hw, e⟩ := s.startWave_eq f c (some m)
  rw [if_pos hp] at e
  have hsame := (State.SameTiles.of_still hu).trans (.shifting u f w)
  have hsite := (hsame.site c).trans ((State.Calm.lose s c).site c)
  obtain ⟨hfoc, hfresh, hname, hhall, -, hwaves, hstair⟩ := (u.shifting f w).endWave_ends f w
  rw [hw.lost] at hfresh hname hhall
  refine ⟨_, e, hfoc.trans (hsame.foc.trans (State.Calm.lose s c).foc), ?_, ?_, hname.trans (congrArg (·.2.1) hsite),
    hhall.trans (congrArg (·.2.2) hsite), ?_, ?_⟩
  · obtain ⟨t, et, -, -⟩ := (u.shifting f w).endWave_eq f w
    rw [et, hw.cmd]
    exact State.answerFrom_told _ _ _ _
  · rw [hw.stair, hw.failed, hp] at hfresh
    exact hfresh
  · rw [hwaves, State.shifting_waves, hu.field, (State.Calm.lose s c).field, hnone]
    simp
  · rw [← hw.stair, hstair]
    refine (State.stairWord_state _ f w.stair 2 w.failed none (by decide) (by rw [hw.failed]; omega) fun k hk => ?_).1
    rw [State.rebuilt_placeOf _ f w (hw.lost ▸ hw.stair), hsame.placeOf, s.lose_placeOf, hw.failed, intact k (hw.stair ▸ hk)]
    split
    · next ek =>
      have := intact k (hw.stair ▸ hk)
      rw [← ek, hw.lost, hp] at this
      rw [← ek, hw.lost, hp]
      omega
    · omega

/-! Steps of a wave. -/

theorem pctx_restoring (x : Word) : ((x &&& ~~~(7 : Word)) ||| BitVec.ofNat 64 3).extractLsb' 0 3 = 3 := by
  refine BitVec.eq_of_getLsbD_eq fun i hi => ?_
  have h : ∀ j < 3, (~~~(7 : Word)).getLsbD j = false ∧ (BitVec.ofNat 64 3).getLsbD j = (3 : BitVec 3).getLsbD j := by decide
  rw [BitVec.getLsbD_extractLsb', BitVec.getLsbD_or, BitVec.getLsbD_and, Nat.zero_add, (h i hi).1, (h i hi).2]
  simp [hi]
/-- The focus tile has moved one place down, and runs again if the wave held it. -/
def State.movedDown (s : State) (w : Wave) : State :=
  let s1 := s.mapTile fun t => { t with prow := t.prow + 1 }
  if w.held.contains s.foc then s1.unpark s.foc else s1
/-- The wave has gone one place up. -/
def Wave.up (w : Wave) : Wave := { w with place := w.place - 1 }
/-- The step is taken: the field shows it. -/
def State.steppedDown (s : State) (w : Wave) : State :=
  ((s.movedDown w).setWaves (fieldOf s.foc) [w.up]).setStair (fieldOf s.foc) w.stair 1 w.failed (some w.lost)
/-- The focus tile of a wave's place is PARKED and idle. -/
def Tile.idleParked (t : Tile) : Prop := t.pr.pctx.extractLsb' 0 3 = 2 ∧ t.ops = [] ∧ t.copies = [] ∧ t.wq = [] ∧ t.monitors = []

theorem State.movedDown_eq (s : State) (w : Wave) : ∃ u : Tile, s.movedDown w = { s with tile := u } ∧ u.prow = s.tile.prow + 1 ∧
    u.threads = s.tile.threads ∧ (w.held.contains s.foc = true → u.pr.pctx.extractLsb' 0 3 = 3) := by
  unfold State.movedDown
  split
  · refine ⟨({ s.tile with prow := s.tile.prow + 1 } : Tile).setPstate 3, ?_, rfl, rfl, fun _ => ?_⟩
    · exact State.mapTileAt_foc (s.mapTile fun t => { t with prow := t.prow + 1 }) _
    · exact pctx_restoring s.tile.pr.pctx
  · next h => exact ⟨_, rfl, rfl, rfl, fun hh => absurd hh h⟩

/-- A step leaves everything but its tile and its field. -/
theorem State.steppedDown_eq (s : State) (w : Wave) : ∃ (u : Tile) (x : List (Nat × Field)), s.steppedDown w = { s with tile := u, fields := x } ∧
    u.prow = s.tile.prow + 1 ∧ u.threads = s.tile.threads ∧ (w.held.contains s.foc = true → u.pr.pctx.extractLsb' 0 3 = 3) := by
  obtain ⟨u, e, hrow, hthreads, hheld⟩ := s.movedDown_eq w
  refine ⟨u, (s.steppedDown w).fields, ?_, hrow, hthreads, hheld⟩
  unfold State.steppedDown
  rw [e]
  rfl
theorem State.steppedDown_waves (s : State) (w : Wave) : ((s.steppedDown w).field (fieldOf s.foc)).waves = [w.up] :=
  (State.setStair_waves _ _ _ _ _ _).trans (State.setWaves_waves _ _ _)

theorem execShiftStep_moves (s : State) (w : Wave) (hw : (s.field (fieldOf s.foc)).waves = [w]) (hst : w.stair = stairOf s.foc)
    (hlost : s.foc ≠ w.lost) (hp : placeOf s.foc s.tile = w.place) (still : s.tile.idleParked) :
    execShiftStep s = .next (if w.place - 1 = w.failed then (s.steppedDown w).endWave (fieldOf s.foc) w.up else s.steppedDown w) := by
  obtain ⟨hpark, hops, hcopies, hwq, hmon⟩ := still
  have hfind : (s.field (fieldOf s.foc)).waves.find? (fun v => v.stair == stairOf s.foc) = some w := by rw [hw]; simp [hst]
  have hpst : s.tile.pstate = 2 := by unfold Tile.pstate; rw [hpark]; rfl
  have hfield : (s.movedDown w).field (fieldOf s.foc) = s.field (fieldOf s.foc) := by
    obtain ⟨u, e, -, -, -⟩ := s.movedDown_eq w
    rw [e]; rfl
  have hwaves : ((s.movedDown w).field (fieldOf s.foc)).waves.map (fun v => if v.stair = w.stair then w.up else v) = [w.up] := by
    rw [hfield, hw]; simp
  unfold execShiftStep
  dsimp only
  rw [hfind]
  dsimp only
  rw [if_neg (by simp [hp, hlost, hpst, hops, hcopies, hwq, hmon])]
  unfold State.steppedDown
  rw [← hwaves]
  rfl

theorem execShiftStep_waits (s : State) (w : Wave) (hw : (s.field (fieldOf s.foc)).waves = [w])
    (h : ¬ s.tile.idleParked ∨ placeOf s.foc s.tile ≠ w.place) : execShiftStep s = .next s := by
  unfold execShiftStep
  dsimp only
  split
  · rfl
  · next v hv =>
    rw [hw] at hv
    have hvw : v = w := by simpa using List.mem_of_find?_eq_some hv
    subst hvw
    refine if_pos ?_
    by_contra hall
    simp only [not_or, not_not, Bool.not_eq_true, Bool.not_eq_false', Bool.and_eq_true, List.isEmpty_iff] at hall
    obtain ⟨hp, -, hpst, ⟨⟨hops, hcopies⟩, hwq⟩, hmon⟩ := hall
    rcases h with h | h
    · exact h ⟨BitVec.eq_of_toNat_eq hpst, hops, hcopies, hwq, hmon⟩
    · exact h hp

/-! REPAIR as a command. -/

theorem execRepair_refuses (c : MgmtCmd) (s : State) (h : isCompute s.foc = false ∨ (s.tile.absent = true ∧ (s.field (fieldOf s.foc)).waves = [])) :
    execRepair c s = .next (s.cmdAnswer c 1 0) := by
  unfold execRepair
  refine if_pos ?_
  rcases h with h | ⟨ha, hw⟩
  · simp [h]
  · simp [ha, hw]
theorem execRepair_waits (c : MgmtCmd) (s : State) (hc : isCompute s.foc = true) (ha : s.tile.absent = false) (hk : s.checkpointing = true) :
    execRepair c s = .next s := by
  unfold execRepair
  rw [if_neg (by simp [hc, ha]), if_pos hk]
/-- REPAIR of a tile of an intact stair begins a wave once the port awaits its answer. -/
theorem execRepair_starts (c : MgmtCmd) (s : State) (hc : isCompute s.foc = true) (ha : s.tile.absent = false) (hk : s.checkpointing = false)
    (hst : ((s.field (fieldOf s.foc)).stair (stairOf s.foc)).extractLsb' 62 2 = 0) :
    execRepair c s = .next ((s.expectAnswer c).startWave (fieldOf s.foc) s.foc (some c)) := by
  have hstate : stState (((s.expectAnswer c).field (fieldOf s.foc)).stair (stairOf s.foc)) = 0 := by
    rw [(State.Still.expectAnswer s c).field]
    unfold stState
    rw [hst]
    rfl
  unfold execRepair
  rw [if_neg (by simp [hc, ha]), if_neg (by simp [hk])]
  unfold State.failTile
  dsimp only
  rw [hstate]
  rfl

/-- Settles O53, from what the start, the steps and the end of a wave leave and from the lines of a hall of one tile. -/
theorem repairShiftsStairsAndRebuildsLines : Obligations.RepairShiftsStairsAndRebuildsLines := by
  unfold Obligations.RepairShiftsStairsAndRebuildsLines
  intro s c w h nlines x u f st place stair told still intact fresh
  have hexp := State.Still.expectAnswer s c
  have hplace : placeOf s.foc ((s.expectAnswer c).tileAt s.foc) = place := by
    have hp : placeOf s.foc ((s.expectAnswer c).tileAt s.foc) = placeOf s.foc (s.tileAt s.foc) := (State.SameTiles.of_still hexp).placeOf _
    rw [State.tileAt_foc] at hp
    exact hp
  have hintact (hi : intact) : (s.expectAnswer c).intactStair f (stairOf s.foc) := fun k hk =>
    ((State.SameTiles.of_still hexp).placeOf k).trans (hi.2 k hk)
  refine ⟨fun hc => ⟨_, (execRepair_refuses c s hc : exec (.repair c) s = _), State.answerFrom_told _ _ _ _, State.answerFrom_tile _ _ _ _ _⟩,
    fun hc ha hk => execRepair_waits c s hc ha hk, fun hc ha hk hi hp => ?_, fun hc ha hk hi hp hw => ?_, fun hw hst hlost hp hstill => ?_,
    fun hw hst hwait => ?_, fun hn => if_pos hn, fun hnet hx ha => ?_⟩
  · -- a position above the last of its stair
    obtain ⟨t, v, e, hv, habsent, hfree, hstate, hfailed, hwaves⟩ := (s.expectAnswer c).startWave_shifts f s.foc (some c) hexp.foc (hintact hi)
      (by rw [hplace]; exact hp)
    refine ⟨t, (execRepair_starts c s hc ha hk hi.1).trans (congrArg _ e), habsent, hfree, hstate, hfailed.trans hplace, v, ?_, hv.stair,
      hv.failed.trans hplace, hv.place, hv.lost, hv.cmd⟩
    rw [hwaves, hexp.field]
  · -- the last position of its stair
    obtain ⟨t, e, hfoc, htold, hfresh, hname, hhall, hwaves, hstate⟩ := (s.expectAnswer c).startWave_ends f s.foc c (hintact hi)
      (by rw [hplace]; exact hp) (by rw [hexp.field]; exact hw)
    have hfoc := hfoc.trans hexp.foc
    have htile : t.tileAt s.foc = t.tile := by rw [← hfoc, State.tileAt_foc]
    have hsite := hexp.site s.foc
    rw [State.tileAt_foc] at hsite
    rw [htile] at hfresh hname hhall
    exact ⟨t, (execRepair_starts c s hc ha hk hi.1).trans (congrArg _ e), htold, hfresh, hname.trans (congrArg (·.2.1) hsite),
      hhall.trans (congrArg (·.2.2) hsite), hwaves, hstate⟩
  · -- a step of the wave
    have hstep := execShiftStep_moves s w hw hst hlost hp hstill
    have hwaves := s.steppedDown_waves w
    obtain ⟨v, y, e, hrow, hthreads, hheld⟩ := s.steppedDown_eq w
    rw [e] at hstep hwaves
    constructor
    · intro hne
      rw [if_neg hne] at hstep
      exact ⟨_, hstep, hrow, hwaves, rfl, fun i => congrArg (fun ts : Vector Thread 4 => ts[i].g) hthreads, hheld, fun _ => hthreads⟩
    · intro heq
      rw [if_pos heq] at hstep
      obtain ⟨hfoc, hfresh, -, -, hother, hend, -⟩ := State.endWave_ends { s with tile := v, fields := y } f w.up
      have hprow := hother s.foc fun e => hlost e.symm
      refine ⟨_, hstep, ?_, ?_, ?_⟩
      · have htile := State.tileAt_foc (State.endWave { s with tile := v, fields := y } f w.up)
        rw [hfoc] at htile
        rw [← htile, hprow]
        exact (congrArg Tile.prow (State.tileAt_foc { s with tile := v, fields := y })).trans hrow
      · rw [hend, hwaves]
        simp
      · rw [← hst]
        exact hfresh
  · exact execShiftStep_waits s w hw hwait
  · -- the lines of a hall of one tile
    obtain ⟨o, hhalls⟩ := s.dropCollectives_oneTile h x hnet ⟨hx, ha⟩
    obtain ⟨h0, h1, hkw, hhall⟩ := State.buildKite_oneTile _ h x o
    have hof : (s.dropCollectives [x]).hallOf h = s.hallOf h := by unfold State.hallOf; rw [hhalls]
    rw [hof] at hhall
    refine ⟨(s.dropCollectives [x]).buildKite h 1 true, ?_, h0, h1, hkw, by rw [hhall], by rw [hhall], by rw [hhall]⟩
    exact (if_neg (by omega) : execKiteLineRebuild h 1 s = _).trans (by rw [hx])

end Sys2Proof.Machine

/-! ### Launch and initial packets (O54) -/

namespace Sys2Proof.Machine

/-- A tile on which nothing runs and no packet waits. -/
structure Tile.Idle (t : Tile) : Prop where
  runs : t.runs = []
  ring : t.ring = []
  free : ∀ i : Tid, (t.th i).state = .free

theorem Tile.Idle.of_threads {t u : Tile} (h : t.Idle) (hr : u.runs = t.runs) (hg : u.ring = t.ring) (hth : u.threads = t.threads) : u.Idle :=
  ⟨hr.trans h.runs, hg.trans h.ring, fun i => by unfold Tile.th; rw [hth]; exact h.free i⟩
theorem Tile.Idle.reset {t : Tile} (c : Coord) (hr : t.runs = []) (hg : t.ring = []) (hth : t.threads = (Tile.reset c).threads) : t.Idle :=
  ⟨hr, hg, fun i => by
    unfold Tile.th
    rw [hth]
    exact congrArg Thread.state (Vector.getElem_replicate i.isLt)⟩

/-- From s to t the mesh stands and idle tiles stay idle. -/
structure State.Loads (s t : State) : Prop where
  net : t.net = s.net
  idle : ∀ k, (s.tileAt k).Idle → (t.tileAt k).Idle

theorem unitGet_map_imp {α β : Type} [DecidableEq α] (P : β → Prop) (f : β → β) (hf : ∀ v, P v → P (f v)) (d e : β) (h : P d → P e)
    (l : List (α × β)) (k : α) : P (unitGet d l k) → P (unitGet e (l.map fun x => (x.1, f x.2)) k) := by
  induction l with
  | nil => exact h
  | cons x l ih =>
    obtain ⟨a, v⟩ := x
    rw [List.map_cons]
    unfold unitGet
    dsimp only
    split
    · exact hf v
    · exact ih

namespace State.Loads

theorem refl (s : State) : s.Loads s := ⟨rfl, fun _ h => h⟩
theorem trans {s t u : State} (h : s.Loads t) (k : t.Loads u) : s.Loads u := ⟨k.net.trans h.net, fun c i => k.idle c (h.idle c i)⟩
theorem foldl {α : Type} (f : State → α → State) (h : ∀ s x, State.Loads s (f s x)) (l : List α) (s : State) : s.Loads (l.foldl f s) :=
  foldl_rel State.Loads refl trans f h l s
theorem mapTileAt (s : State) (c : Coord) (f : Tile → Tile) (h : (s.tileAt c).Idle → (f (s.tileAt c)).Idle) : s.Loads (s.mapTileAt c f) := by
  refine ⟨by unfold State.mapTileAt State.setTileAt; split <;> rfl, fun k => ?_⟩
  rw [State.tileAt_mapTileAt]
  split
  · next e => exact e ▸ h
  · exact id
/-- Every listed tile is changed alike. -/
theorem ofTiles {s t : State} (f : Tile → Tile) (hf : ∀ u : Tile, u.Idle → (f u).Idle) (net : t.net = s.net) (foc : t.foc = s.foc)
    (tile : t.tile = f s.tile) (tiles : t.tiles = s.tiles.map fun x => (x.1, f x.2)) : s.Loads t := by
  refine ⟨net, fun k => ?_⟩
  unfold State.tileAt
  rw [foc, tile, tiles]
  split
  · exact hf s.tile
  · exact unitGet_map_imp Tile.Idle f hf (s.blankTile k) (t.blankTile k) (fun _ => .reset k rfl rfl rfl) s.tiles k
theorem ofSame {s t : State} (net : t.net = s.net) (foc : t.foc = s.foc) (tile : t.tile = s.tile) (tiles : t.tiles = s.tiles) : s.Loads t :=
  ofTiles id (fun _ h => h) net foc tile (tiles.trans (List.map_id s.tiles).symm)

theorem store (s : State) (a n : Nat) (v : Word) : s.Loads (s.store a n v) := ofSame rfl rfl rfl rfl
theorem setDesc (s : State) (a : Nat) (d : Desc) : s.Loads (s.setDesc a d) := ofSame rfl rfl rfl rfl
theorem storeLine (s : State) (a : Nat) (l : Line) : s.Loads (s.storeLine a l) := by
  unfold State.storeLine
  exact ofSame rfl rfl rfl rfl
theorem clearStorage (s : State) (c : Coord) (v : BitVec 8) : s.Loads (s.clearStorage c v) := ofSame rfl rfl rfl rfl
theorem setHall (s : State) (h : Nat) (x : Hall) : s.Loads (s.setHall h x) := ofSame rfl rfl rfl rfl
theorem repairReport (s : State) (c : Coord) (b : BitVec 8) (x y : Word) : s.Loads (s.repairReport c b x y) := ofSame rfl rfl rfl rfl
theorem dropMonitors (s : State) (c : Coord) (i : Tid) : s.Loads (s.dropMonitors c i) :=
  ofTiles (fun t => { t with monitors := t.monitors.filter fun m => !(m.who.src == c && m.who.tid == i && m.who.agent.isNone) })
    (fun _ h => h.of_threads rfl rfl rfl) rfl rfl rfl rfl
theorem forgetName (s : State) (n : BitVec 32) : s.Loads (s.forgetName n) :=
  ofTiles (fun t => { t with names := t.names.filter (·.name != n) }) (fun _ h => h.of_threads rfl rfl rfl) rfl rfl rfl rfl
theorem putName (s : State) (c : Coord) (w : Word) : s.Loads ((s.putName c w).getD s) := by
  unfold State.putName
  dsimp only
  split
  · exact refl s
  · dsimp only [Option.getD_some]
    exact ((forgetName _ _).trans (forgetName _ _)).trans (mapTileAt _ c _ fun h => h.of_threads rfl rfl rfl)
theorem setNames (s : State) (l : List (Coord × BitVec 32)) : s.Loads (s.setNames l) :=
  (foldl _ (fun _ _ => putName _ _ _) _ _).trans (foldl _ (fun _ _ => putName _ _ _) _ _)

end State.Loads

/-! What a record's sections write. -/

theorem Tile.Idle.loadRow {t : Tile} (h : t.Idle) (i : Tid) (ws : List Word) (pin : Bool) : (t.mapTh i (·.loadRow ws pin)).Idle := by
  refine ⟨h.runs, h.ring, fun j => ?_⟩
  rw [Tile.mapTh_th]
  split
  · exact h.free i
  · exact h.free j
/-- The registers of a section leave a tile idle. -/
theorem Tile.Idle.loadRegs {t : Tile} (h : t.Idle) (x : TileSection) : (t.loadRegs x).Idle := by
  have h1 := foldl_rel (fun t u : Tile => t.Idle → u.Idle) (fun _ h => h) (fun h k i => k (h i))
    (fun (t : Tile) (r : Tid × List Word × Bool) => t.mapTh r.1 (·.loadRow r.2.1 r.2.2)) (fun _ _ h => h.loadRow _ _ _) x.threads t h
  have h2 := foldl_rel (fun t u : Tile => t.Idle → u.Idle) (fun _ h => h) (fun h k i => k (h i))
    (fun (t : Tile) (r : Nat × BitVec 128) => { t with knots := Tab.set knotBlank t.knots r.1 (r.2 ||| (1 : BitVec 128) <<< 127) })
    (fun _ _ h => h.of_threads rfl rfl rfl) x.knots _ h1
  unfold Tile.loadRegs
  dsimp only
  split
  · exact h2.of_threads rfl rfl rfl
  · exact h2.of_threads rfl rfl rfl
theorem State.Loads.loadSection (s : State) (c : Coord) (x : TileSection) : s.Loads (s.loadSection c x) := by
  unfold State.loadSection
  refine .trans (.foldl _ (fun _ _ => .store _ _ _ _) _ _) (.trans (.foldl _ (fun _ _ => .store _ _ _ _) _ _)
    (.trans (.foldl _ (fun _ _ => .setDesc _ _ _) _ _) (.trans (.foldl _ (fun _ _ => ?_) _ _)
    (.trans (.foldl _ (fun _ _ => .store _ _ _ _) _ _) (.mapTileAt _ c _ fun h => h.loadRegs x)))))
  exact .trans (.storeLine _ _ _) (.setDesc _ _ _)
/-- A tile is idle once it is cleared. -/
theorem State.Loads.clearForLaunch (s : State) (c : Coord) : s.Loads (s.clearForLaunch c) ∧ ((s.clearForLaunch c).tileAt c).Idle := by
  have hc (u : State) : ((u.tileAt c).cleared c).Idle := .reset c rfl rfl rfl
  unfold State.clearForLaunch
  refine ⟨(State.Loads.foldl _ (fun _ _ => .dropMonitors _ _ _) _ _).trans ((State.Loads.clearStorage _ _ _).trans
    (.mapTileAt _ c _ fun _ => hc _)), ?_⟩
  rw [State.tileAt_mapTileAt, if_pos rfl]
  exact hc _
theorem State.Loads.kiteWritten (s : State) (h nlines count : Nat) : s.Loads (s.kiteWritten h nlines count) := by
  unfold State.kiteWritten
  exact (State.Loads.foldl _ (fun _ _ => .mapTileAt _ _ _ fun h => h.of_threads rfl rfl rfl) _ _).trans
    ((State.Loads.foldl _ (fun _ _ => .repairReport _ _ _ _ _) _ _).trans (.setHall _ _ _))

/-! The launch of a hall. -/

/-- What a step does to its own item, and no step undoes, holds of every item after a fold. -/
theorem foldl_reaches {σ α : Type} (R : σ → σ → Prop) (refl : ∀ s, R s s) (trans : ∀ {s t u}, R s t → R t u → R s u) (P : α → σ → Prop)
    (keeps : ∀ {x s t}, R s t → P x s → P x t) (f : σ → α → σ) (hR : ∀ s x, R s (f s x)) (hP : ∀ s x, P x (f s x)) (l : List α) (s : σ) :
    ∀ x ∈ l, P x (l.foldl f s) := by
  induction l generalizing s with
  | nil => simp
  | cons y l ih =>
    intro x hx
    rcases List.mem_cons.mp hx with rfl | hx
    · exact keeps (foldl_rel R refl trans f hR l _) (hP s x)
    · exact ih (f s y) x hx

/-- Dispatch is enabled at these tiles. -/
def State.enableDispatch (s : State) (l : List Coord) : State :=
  l.foldl (fun (s : State) c => s.mapTileAt c fun t => { t with dispatchOn := true }) s
theorem State.enableDispatch_dispatchOn (s : State) (l : List Coord) : ∀ c ∈ l, ((s.enableDispatch l).tileAt c).dispatchOn = true := by
  refine foldl_reaches (fun s t : State => ∀ c, (s.tileAt c).dispatchOn = true → (t.tileAt c).dispatchOn = true) (fun _ _ h => h)
    (fun h k c i => k c (h c i)) (fun c s => (s.tileAt c).dispatchOn = true) (fun h => h _) _ (fun s c k h => ?_) (fun s c => ?_) l s
  · rw [State.tileAt_mapTileAt]
    split
    · rfl
    · exact h
  · rw [State.tileAt_mapTileAt, if_pos rfl]
theorem State.Loads.enableDispatch (s : State) (l : List Coord) : s.Loads (s.enableDispatch l) :=
  .foldl _ (fun _ _ => .mapTileAt _ _ _ fun h => h.of_threads rfl rfl rfl) _ _
theorem State.enableDispatch_halls (s : State) (l : List Coord) : (s.enableDispatch l).halls = s.halls :=
  foldl_rel (fun s t : State => t.halls = s.halls) (fun _ => rfl) (fun h k => k.trans h) _ (fun _ _ => State.mapTileAt_halls _ _ _) l s

/-- The live tiles of the hall are cleared. -/
def State.hallCleared (s : State) (h : Nat) : State := (s.liveOf h).foldl (fun (s : State) c => s.clearForLaunch c) s
/-- Each live tile that the record names has its section and its name. -/
def State.sectionsLoaded (s : State) (h : Nat) (p : Placement) : State :=
  let at_ (t : TileSection) : Coord := ⟨(s.hallBox h).1 + t.x, (s.hallBox h).2.1 + t.y⟩
  let tiles := p.tiles.filter fun t => (s.liveOf h).contains (at_ t)
  (tiles.foldl (fun (s : State) t => s.loadSection (at_ t) t) (s.hallCleared h)).setNames (tiles.map fun t => (at_ t, t.name))
theorem State.Loads.sectionsLoaded (s : State) (h : Nat) (p : Placement) : (s.hallCleared h).Loads (s.sectionsLoaded h p) :=
  (State.Loads.foldl _ (fun _ _ => .loadSection _ _ _) _ _).trans (.setNames _ _)
theorem State.launchHall_eq (s : State) (h tenant : Nat) (p : Placement) (hh : h < 64) : s.launchHall h tenant p =
    (((s.sectionsLoaded h p).keepHall h tenant p).buildKite h p.nlines false).enableDispatch (s.liveOf h) := by
  have hplace : s.placementTiles h = (s.hallTiles h, (s.hallBox h).1, (s.hallBox h).2.1) := by unfold State.placementTiles; rw [if_pos hh]
  unfold State.launchHall
  rw [hplace]
  dsimp only
  rw [if_pos hh]
  rfl

/-- The hall is kept and its lines are built on a mesh that stands; its live tiles are idle and take packets. -/
theorem State.launchHall_launches (s : State) (h tenant : Nat) (p : Placement) (hh : h < 64) :
    ((s.launchHall h tenant p).hallOf h).waves = p.packets ∧ ((s.launchHall h tenant p).hallOf h).rejected = none ∧
    ((s.launchHall h tenant p).hallOf h).rent = p.rent ∧ ((s.launchHall h tenant p).hallOf h).tenant = tenant ∧
    ((s.launchHall h tenant p).hallOf h).nlines = p.nlines ∧ ((s.launchHall h tenant p).hallOf h).bridge = p.features.getLsbD 3 ∧
    (s.launchHall h tenant p).net = s.net ∧
    ∀ c ∈ s.liveOf h, ((s.launchHall h tenant p).tileAt c).dispatchOn = true ∧ ((s.launchHall h tenant p).tileAt c).Idle := by
  have e := s.launchHall_eq h tenant p hh
  have hu := State.Loads.sectionsLoaded s h p
  generalize s.sectionsLoaded h p = u at e hu
  have hclear : s.Loads (s.hallCleared h) := .foldl _ (fun s c => (State.Loads.clearForLaunch s c).1) _ _
  have hidle : ∀ c ∈ s.liveOf h, ((s.hallCleared h).tileAt c).Idle :=
    foldl_reaches State.Loads .refl .trans (fun c s => (s.tileAt c).Idle) (fun h => h.idle _) _ (fun s c => (State.Loads.clearForLaunch s c).1)
      (fun s c => (State.Loads.clearForLaunch s c).2) _ _
  have hrest := hu.trans ((State.Loads.setHall u h _).trans ((State.Loads.kiteWritten (u.keepHall h tenant p) h p.nlines
    ((u.keepHall h tenant p).hallOf h).rebuilds).trans (.enableDispatch _ (s.liveOf h))))
  rw [← State.buildKite_quiet, ← e] at hrest
  have hkeep : (u.keepHall h tenant p).hallOf h = _ := State.hallOf_setHall u h _
  have hhall : (s.launchHall h tenant p).hallOf h = { (u.keepHall h tenant p).hallOf h with nlines := p.nlines, stale := false } := by
    rw [e]
    unfold State.hallOf
    rw [State.enableDispatch_halls]
    exact State.hallOf_setHall _ _ _
  rw [hkeep] at hhall
  rw [hhall]
  refine ⟨rfl, rfl, rfl, rfl, rfl, rfl, hrest.net.trans hclear.net, fun c hc => ⟨?_, hrest.idle c (hidle c hc)⟩⟩
  rw [e]
  exact State.enableDispatch_dispatchOn _ _ c hc

/-! Records whose header fails. -/

theorem leAt_four (l : Bytes) : leAt l 0 4 = 0x4C505946 ↔ l.take 4 = [0x46, 0x59, 0x50, 0x4C] := by
  constructor
  · intro h
    match l, h with
    | [], h => simp [leAt] at h
    | [a], h | [a, b], h | [a, b, c], h => simp [leAt] at h; omega
    | a :: b :: c :: d :: r, h =>
      simp [leAt] at h
      have ha : a = 0x46 := BitVec.eq_of_toNat_eq (show a.toNat = 0x46 by omega)
      have hb : b = 0x59 := BitVec.eq_of_toNat_eq (show b.toNat = 0x59 by omega)
      have hc : c = 0x50 := BitVec.eq_of_toNat_eq (show c.toNat = 0x50 by omega)
      have hd : d = 0x4C := BitVec.eq_of_toNat_eq (show d.toNat = 0x4C by omega)
      simp [ha, hb, hc, hd]
  · intro h
    unfold leAt
    rw [List.drop_zero, h]
    rfl
theorem leAt_version (l : Bytes) (h : leAt l 4 2 = 1) : l.getD 4 0 = 1 := by
  unfold leAt at h
  rw [List.getD_eq_getElem?_getD, ← Nat.add_zero 4, ← List.getElem?_drop]
  match l.drop 4, h with
  | [], h => simp at h
  | [a], h => exact BitVec.eq_of_toNat_eq (show a.toNat = 1 by simp at h; omega)
  | a :: b :: r, h => exact BitVec.eq_of_toNat_eq (show a.toNat = 1 by simp at h; omega)

theorem readRecord_headerFault {l : Bytes} {feat : BitVec 128} {has : Nat → Nat → Bool} {e : Nat} (h : headerFault l feat = some e) :
    readRecord l feat has = .error e := by
  unfold readRecord
  dsimp only
  rw [h]
theorem headerFault_magic (l : Bytes) (feat : BitVec 128) (h : l.take 4 ≠ [0x46, 0x59, 0x50, 0x4C]) : headerFault l feat = some 0 := by
  have hm : (leAt l 0 4 == 0x4C505946) = false := by
    rw [beq_eq_false_iff_ne]
    exact fun e => h ((leAt_four l).mp e)
  unfold headerFault firstFault
  dsimp only
  rw [hm]
  rfl
theorem headerFault_version (l : Bytes) (feat : BitVec 128) (h : l.take 4 = [0x46, 0x59, 0x50, 0x4C]) (hv : l.getD 4 0 ≠ 1) :
    headerFault l feat = some 4 := by
  have hm : (leAt l 0 4 == 0x4C505946) = true := beq_iff_eq.mpr ((leAt_four l).mpr h)
  have hn : (leAt l 4 2 == 1) = false := by
    rw [beq_eq_false_iff_ne]
    exact fun e => hv (leAt_version l e)
  unfold headerFault firstFault
  dsimp only
  rw [hm, hn]
  rfl

/-! Initial packets. -/

/-- The low bits of a header that a steward has completed: those of the record. -/
theorem stewardWord_low (w d : Word) (hid : BitVec 6) (i : Nat) (hi : i < 24) (hd : ∀ j < 32, d.getLsbD j = false) :
    ((((w &&& (0xFFFFFFFF : Word)) ||| d) &&& (0xFFFFFFFFC0FFFFFF : Word)) ||| ((hid.zeroExtend 64 : Word) <<< 24)).getLsbD i = w.getLsbD i := by
  have hm : ∀ j < 24, (0xFFFFFFFF : Word).getLsbD j = true ∧ (0xFFFFFFFFC0FFFFFF : Word).getLsbD j = true := by decide
  obtain ⟨h1, h2⟩ := hm i hi
  rw [BitVec.getLsbD_or, BitVec.getLsbD_and, BitVec.getLsbD_or, BitVec.getLsbD_and, h1, h2, hd i (by omega), BitVec.getLsbD_shiftLeft]
  simp [hi]
theorem stewardWord_entry (w d : Word) (hid : BitVec 6) (hd : ∀ j < 32, d.getLsbD j = false) :
    hdrEntry ((((w &&& (0xFFFFFFFF : Word)) ||| d) &&& (0xFFFFFFFFC0FFFFFF : Word)) ||| ((hid.zeroExtend 64 : Word) <<< 24)) = hdrEntry w := by
  refine BitVec.eq_of_getLsbD_eq fun i hi => ?_
  unfold hdrEntry
  rw [BitVec.getLsbD_extractLsb', BitVec.getLsbD_extractLsb', stewardWord_low w d hid (8 + i) (by omega) hd]
theorem stewardWord_hall (w : Word) (hid : BitVec 6) : hdrHall ((w &&& (0xFFFFFFFFC0FFFFFF : Word)) ||| ((hid.zeroExtend 64 : Word) <<< 24)) = hid := by
  refine BitVec.eq_of_getLsbD_eq fun i hi => ?_
  have hm : ∀ j < 6, (0xFFFFFFFFC0FFFFFF : Word).getLsbD (24 + j) = false := by decide
  unfold hdrHall
  rw [BitVec.getLsbD_extractLsb', BitVec.getLsbD_or, BitVec.getLsbD_and, hm i hi, BitVec.getLsbD_shiftLeft]
  have h64 : 24 + i < 64 ∧ i < 64 := by omega
  simp [hi, h64]
/-- The destination of an initial packet stands above bit 31. -/
theorem initialDest_low (w : Word) (c : Coord) (j : Nat) (hj : j < 32) :
    (if hdrNamed w then w &&& 0xFFFFFFFF00000000 else (coordDest c).zeroExtend 64 <<< 32 : Word).getLsbD j = false := by
  have hm : ∀ j < 32, (0xFFFFFFFF00000000 : Word).getLsbD j = false := by decide
  split
  · rw [BitVec.getLsbD_and, hm j hj, Bool.and_false]
  · rw [BitVec.getLsbD_shiftLeft]
    simp [hj]

/-- The one packet of the one wave left enters the mesh with the hall's number. -/
theorem execInitialPacketWave_sends (s : State) (h px py wave : Nat) (k : Packet) (hh : h < 64) (hw : (s.hallOf h).waves = [(px, py, wave, k)])
    (hb : s.stewardBusy (s.stewardOf h) (s.hallTiles h) = false) (hc : isCompute ⟨(s.hallBox h).1 + px, (s.hallBox h).2.1 + py⟩ = true) :
    ∃ (z : Flight) (n : Nat) (q : Packet), execInitialPacketWave h s =
        .next { s.setHall h { s.hallOf h with waves := [] } with net := s.net ++ [z], nextSeq := n } ∧
      z.dest = .tile ⟨(s.hallBox h).1 + px, (s.hallBox h).2.1 + py⟩ ∧ z.vc = hdrVc k.word0 ∧ z.msg = .packet q ∧ q.payload = k.payload ∧
      hdrHall q.word0 = BitVec.ofNat 6 h ∧ hdrEntry q.word0 = hdrEntry k.word0 := by
  have hplace : s.placementTiles h = (s.hallTiles h, (s.hallBox h).1, (s.hallBox h).2.1) := by unfold State.placementTiles; rw [if_pos hh]
  have hload : s.loader h = s.stewardOf h := if_pos hh
  let c : Coord := ⟨(s.hallBox h).1 + px, (s.hallBox h).2.1 + py⟩
  let d : Word := if hdrNamed k.word0 then k.word0 &&& 0xFFFFFFFF00000000 else (coordDest c).zeroExtend 64 <<< 32
  obtain ⟨z, n, q, e, hdest, hvc, hmsg, hpay, hword⟩ := (s.setHall h { s.hallOf h with waves := [] }).stewardPacket_eq (s.stewardOf h) (some h) c
    (hdrVc k.word0) { k with word0 := (k.word0 &&& 0xFFFFFFFF) ||| d } hc
  refine ⟨z, n, q, ?_, hdest, hvc, hmsg, hpay, ?_, ?_⟩
  · unfold execInitialPacketWave
    rw [hplace, hload]
    dsimp only
    rw [hw]
    dsimp only
    rw [hb]
    simp only [Bool.false_eq_true, if_false, List.foldl_nil, bne_self_eq_false, not_false_eq_true, List.filter_cons_of_neg, List.filter_nil,
      beq_self_eq_true, List.filter_cons_of_pos, List.foldl_cons, hh, if_true]
    exact congrArg _ e
  · rw [hword]
    exact stewardWord_hall _ _
  · rw [hword]
    exact stewardWord_entry _ _ _ fun j hj => initialDest_low _ _ j hj

end Sys2Proof.Machine

/-! ### What a boot's maps, image and tests leave of the clock and of BOOTST (O54) -/

namespace Sys2Proof.Machine

/-- From s to t the wafer time, the count of resets and BOOTST but for RESTORED stand. -/
structure State.Steady (s t : State) : Prop where
  wtime : t.wtime = s.wtime
  resets : t.boot.resets = s.boot.resets
  bootst : ∀ i, t.boot.bootst.getLsbD (i + 1) = s.boot.bootst.getLsbD (i + 1)

theorem Boot.writeLog_eq (b : Boot) : ∃ l, b.writeLog = { b with flash := l } := by
  unfold Boot.writeLog
  refine foldl_rel (fun b c : Boot => ∃ l, c = { b with flash := l }) (fun b => ⟨b.flash, rfl⟩) ?_ _ (fun b k => ⟨_, rfl⟩) _ b
  rintro b c d ⟨l, rfl⟩ ⟨m, rfl⟩
  exact ⟨m, rfl⟩

namespace State.Steady

theorem refl (s : State) : s.Steady s := ⟨rfl, rfl, fun _ => rfl⟩
theorem trans {s t u : State} (h : s.Steady t) (k : t.Steady u) : s.Steady u :=
  ⟨k.wtime.trans h.wtime, k.resets.trans h.resets, fun i => (k.bootst i).trans (h.bootst i)⟩
theorem foldl {α : Type} (f : State → α → State) (h : ∀ s x, State.Steady s (f s x)) (l : List α) (s : State) : s.Steady (l.foldl f s) :=
  foldl_rel State.Steady refl trans f h l s
theorem of_eq {s t : State} (wtime : t.wtime = s.wtime) (boot : t.boot = s.boot) : s.Steady t :=
  ⟨wtime, congrArg _ boot, fun _ => by rw [boot]⟩
theorem of_calm {s t : State} (h : s.Calm t) : s.Steady t := of_eq h.wtime h.boot
theorem of_still {s t : State} (h : s.Still t) : s.Steady t := of_calm h.toCalm
theorem mapTileAt (s : State) (c : Coord) (f : Tile → Tile) : s.Steady (s.mapTileAt c f) := by
  unfold State.mapTileAt State.setTileAt
  split
  · exact of_eq rfl rfl
  · exact of_eq rfl rfl

theorem setField (s : State) (f : Nat) (x : Field) : s.Steady (s.setField f x) := of_eq rfl rfl
theorem setWaves (s : State) (f : Nat) (l : List Wave) : s.Steady (s.setWaves f l) := of_eq rfl rfl
theorem setStair (s : State) (f st a b : Nat) (o : Option Coord) : s.Steady (s.setStair f st a b o) := of_eq rfl rfl
theorem setHall (s : State) (h : Nat) (x : Hall) : s.Steady (s.setHall h x) := of_eq rfl rfl
theorem setHartAt (s : State) (a : Nat) (h : Hart) : s.Steady (s.setHartAt a h) := of_eq rfl rfl
theorem forgetName (s : State) (n : BitVec 32) : s.Steady (s.forgetName n) := of_eq rfl rfl
theorem logWrite (s : State) (l : List Word) : s.Steady (s.logWrite l) := by
  obtain ⟨m, e⟩ := Boot.writeLog_eq { s.boot with flog := (s.boot.flog ++ l).take 32764 }
  unfold State.logWrite
  rw [e]
  exact ⟨rfl, rfl, fun _ => rfl⟩
theorem markStale (s : State) (c : Coord) : s.Steady (s.markStale c) := by
  unfold State.markStale
  dsimp only
  split
  · exact refl s
  · exact setHall s _ _
theorem repairAnswer (s : State) (m : Option MgmtCmd) : s.Steady (s.repairAnswer m) := by
  unfold State.repairAnswer
  split
  · exact of_still (.answerFrom _ _ _ _ _)
  · exact refl s

/-! Detours. -/

theorem holdBlock (s : State) (c : Coord) : s.Steady (s.holdBlock c).1 := by
  unfold State.holdBlock
  exact (of_still (.writeTables _ _ _)).trans (foldl _ (fun _ _ => of_still (.startPark _ _ _)) _ _)
theorem withdraw (fuel : Nat) (l : List Coord) (s : State) : s.Steady (State.withdraw fuel l s) := by
  induction fuel generalizing l s with
  | zero => exact refl s
  | succ n ih =>
    cases l with
    | nil => exact refl s
    | cons c rest =>
      unfold State.withdraw
      split
      · exact ih _ _
      · exact ((of_still (.repairReport _ _ _ _ _)).trans (logWrite _ _)).trans ((holdBlock _ c).trans (ih _ _))
theorem avoid (s : State) (c : Coord) : s.Steady (s.avoid c) := (of_still (.writeTables _ _ _)).trans (withdraw _ _ _)

/-! Failures. -/

theorem goAbsent (s : State) (c : Coord) : s.Steady (s.goAbsent c) := by
  have h : s.Steady (if (s.tileAt c).absent then s else s.lose c) := by
    split
    · exact refl s
    · exact of_calm (.lose s c)
  unfold State.goAbsent
  exact h.trans ((forgetName _ _).trans ((of_still (.repairReport _ _ _ _ _)).trans ((markStale _ _).trans ((avoid _ _).trans (logWrite _ _)))))
theorem releaseHeld (s : State) (w : Wave) (but : Option Coord) : s.Steady (s.releaseHeld w but) :=
  foldl _ (fun _ _ => of_still (.unpark _ _)) _ _
theorem stopWave (s : State) (f : Nat) (w : Wave) (c : Coord) (m : Option MgmtCmd) : s.Steady (s.stopWave f w c m) := by
  have h (u : State) : u.Steady (if c = w.lost then u else u.goAbsent c) := by
    split
    · exact refl u
    · exact goAbsent u c
  unfold State.stopWave
  exact (releaseHeld _ _ _).trans ((h _).trans ((goAbsent _ _).trans ((setWaves _ _ _).trans ((setStair _ _ _ _ _ _).trans
    ((logWrite _ _).trans ((repairAnswer _ _).trans (repairAnswer _ _)))))))
theorem endAtPlace (s : State) (f : Nat) (w : Wave) : s.Steady (s.endAtPlace f w) := by
  unfold State.endAtPlace
  exact (releaseHeld _ _ _).trans ((goAbsent _ _).trans ((setWaves _ _ _).trans ((logWrite _ _).trans (repairAnswer _ _))))
theorem clearStorage (s : State) (c : Coord) (v : BitVec 8) : s.Steady (s.clearStorage c v) := of_eq rfl rfl
theorem endWave (s : State) (f : Nat) (w : Wave) : s.Steady (s.endWave f w) := by
  unfold State.endWave
  exact (clearStorage _ _ _).trans ((mapTileAt _ _ _).trans ((of_still (.rewriteRtex _ _)).trans ((setWaves _ _ _).trans
    ((setStair _ _ _ _ _ _).trans ((of_still (.repairReport _ _ _ _ _)).trans ((markStale _ _).trans ((logWrite _ _).trans
    (repairAnswer _ _))))))))
theorem startWave (s : State) (f : Nat) (c : Coord) (m : Option MgmtCmd) : s.Steady (s.startWave f c m) := by
  obtain ⟨u, w, hu, -, e⟩ := s.startWave_eq f c m
  have h : s.Steady (u.shifting f w) := (of_calm (.lose s c)).trans ((of_still hu).trans ((setWaves _ _ _).trans (setStair _ _ _ _ _ _)))
  rw [e]
  split
  · exact h.trans (endWave _ _ _)
  · exact h
theorem failTile (s : State) (c : Coord) (m : Option MgmtCmd) : s.Steady (s.failTile c m) := by
  unfold State.failTile
  dsimp only
  split
  · exact startWave _ _ _ _
  · split
    · exact stopWave _ _ _ _ _
    · exact repairAnswer _ _
  · exact (goAbsent _ _).trans ((setStair _ _ _ _ _ _).trans ((logWrite _ _).trans (repairAnswer _ _)))
theorem failPlace (s : State) (l : Landing) : s.Steady (s.failPlace l) := by
  unfold State.failPlace
  dsimp only
  split
  · exact failTile _ _ _
  · refine trans ?_ ((setStair _ _ _ _ _ _).trans (logWrite _ _))
    split
    · exact endAtPlace _ _ _
    · exact refl s

/-! Maps, images, tests and harts. -/

theorem restoreStair (s : State) (f st : Nat) : s.Steady (s.restoreStair f st) := by
  unfold State.restoreStair
  dsimp only
  have h := fun (a b : List Coord) (g k : Coord → Tile → Tile) => (foldl (fun (s : State) c => s.mapTileAt c (g c)) (fun _ _ => mapTileAt _ _ _) a s).trans
    (foldl (fun (s : State) c => s.mapTileAt c (k c)) (fun _ _ => mapTileAt _ _ _) b _)
  split
  · exact h _ _ _ _
  · exact (h _ _ _ _).trans (setStair _ _ _ _ _ _)
theorem writeGalleryMaps (s : State) : s.Steady s.writeGalleryMaps := by
  unfold State.writeGalleryMaps
  refine .trans ?_ (foldl _ (fun _ _ => mapTileAt _ _ _) _ _)
  exact ⟨rfl, rfl, fun _ => rfl⟩
theorem restoreMaps (s : State) : s.Steady s.restoreMaps := by
  unfold State.restoreMaps
  exact (foldl _ (fun _ _ => restoreStair _ _ _) _ _).trans ((foldl _ (fun _ _ => avoid _ _) _ _).trans (foldl _ (fun _ _ => holdBlock _ _) _ _))
theorem putImage (s : State) (i : Image) : s.Steady (s.putImage i) := by
  unfold State.putImage
  refine .trans ?_ (foldl _ (fun _ _ => mapTileAt _ _ _) _ _)
  exact ⟨rfl, rfl, fun j => by simp [BitVec.getLsbD_or, BitVec.getLsbD_one]⟩
theorem testWafer (s : State) (x : BootFindings) (full : Bool) : s.Steady (s.testWafer x full) := by
  have h : s.Steady ((positionsFailed x full).foldl (fun (s : State) c => if isCompute c && !(s.tileAt c).absent then s.failTile c none else s) s) :=
    foldl _ (fun s c => by
      split
      · exact failTile _ _ _
      · exact refl s) _ _
  unfold State.testWafer
  dsimp only
  split
  · exact h.trans (foldl _ (fun _ _ => failPlace _ _) _ _)
  · exact h
theorem loadHarts (s : State) (bank : Bool) : s.Steady (s.loadHarts bank) := foldl _ (fun _ _ => setHartAt _ _ _) _ _

end State.Steady

end Sys2Proof.Machine

/-! ### Sparse stores: what a filter keeps, and the flash (O54) -/

namespace Sys2Proof.Machine

section
variable {β : Type} {blank : Nat → β}

theorem Tab.get_of_not_mem (l : List (Nat × β)) (k : Nat) (h : ∀ x ∈ l, x.1 ≠ k) : Tab.get blank l k = blank k := by
  induction l with
  | nil => rfl
  | cons x l ih =>
    obtain ⟨a, v⟩ := x
    unfold Tab.get
    have ha : k ≠ a := fun e => h (a, v) (by simp) e.symm
    rw [if_neg ha, ih fun y hy => h y (by simp [hy]), ite_self]
theorem Tab.get_of_mem (l : List (Nat × β)) (k : Nat) (v : β) (hp : l.Pairwise fun x y => x.1 < y.1) (h : (k, v) ∈ l) : Tab.get blank l k = v := by
  induction l with
  | nil => simp at h
  | cons x l ih =>
    obtain ⟨a, w⟩ := x
    obtain ⟨ha, hp⟩ := List.pairwise_cons.mp hp
    unfold Tab.get
    rcases List.mem_cons.mp h with e | h
    · obtain ⟨rfl, rfl⟩ := Prod.mk.inj e
      rw [if_neg (Nat.lt_irrefl _), if_pos rfl]
    · have := ha _ h
      rw [if_neg (by omega), if_neg (by omega), ih hp h]
variable [DecidableEq β]

/-- The canonical form: blank values are not listed, and keys rise. -/
theorem Tab.wf_iff (l : List (Nat × β)) :
    Tab.wf blank l = true ↔ (∀ x ∈ l, x.2 ≠ blank x.1) ∧ l.Pairwise fun x y => x.1 < y.1 := by
  induction l with
  | nil => simp [Tab.wf]
  | cons x l ih =>
    cases l with
    | nil => simp [Tab.wf]
    | cons y r =>
      unfold Tab.wf
      rw [Bool.and_eq_true, Bool.and_eq_true, ih, bne_iff_ne, decide_eq_true_eq, List.pairwise_cons (a := x)]
      constructor
      · rintro ⟨⟨hx, hxy⟩, hb, hp⟩
        refine ⟨fun z hz => ?_, fun z hz => ?_, hp⟩
        · rcases List.mem_cons.mp hz with rfl | hz
          · exact hx
          · exact hb z hz
        · rcases List.mem_cons.mp hz with rfl | hz
          · exact hxy
          · exact hxy.trans ((List.pairwise_cons.mp hp).1 z hz)
      · rintro ⟨hb, hx, hp⟩
        exact ⟨⟨hb x (by simp), hx y (by simp)⟩, fun z hz => hb z (by simp [hz]), hp⟩
theorem Tab.filter_wf (l : List (Nat × β)) (p : Nat × β → Bool) (h : Tab.wf blank l = true) : Tab.wf blank (l.filter p) = true := by
  rw [Tab.wf_iff] at h ⊢
  obtain ⟨hb, hp⟩ := h
  exact ⟨fun x hx => hb x (List.mem_of_mem_filter hx), hp.filter p⟩

/-- What a filter on keys keeps reads as it did. -/
theorem Tab.get_filter (l : List (Nat × β)) (p : Nat → Bool) (k : Nat) (h : Tab.wf blank l = true) :
    Tab.get blank (l.filter fun x => p x.1) k = if p k then Tab.get blank l k else blank k := by
  have hp := ((Tab.wf_iff l).mp h).2
  split
  · next hk =>
    by_cases hm : ∃ v, (k, v) ∈ l
    · obtain ⟨v, hv⟩ := hm
      rw [Tab.get_of_mem l k v hp hv, Tab.get_of_mem _ k v (hp.filter _) (List.mem_filter.mpr ⟨hv, hk⟩)]
    · have hn : ∀ x ∈ l, x.1 ≠ k := fun x hx e => hm ⟨x.2, e ▸ hx⟩
      rw [Tab.get_of_not_mem l k hn, Tab.get_of_not_mem _ k fun x hx => hn x (List.mem_of_mem_filter hx)]
  · next hk => exact Tab.get_of_not_mem _ k fun x hx e => hk (e ▸ (List.mem_filter.mp hx).2)
end

/-- The bytes written, and the others as they were. -/
theorem Boot.flashWrite_get (b : Boot) (k : Nat) (l : Bytes) (h : Tab.wf flashBlank b.flash = true) :
    Tab.wf flashBlank (b.flashWrite k l).flash = true ∧ ∀ a, Tab.get flashBlank (b.flashWrite k l).flash a =
      if k ≤ a ∧ a < k + l.length then l.getD (a - k) 0xFF else Tab.get flashBlank b.flash a := by
  induction l using List.reverseRecOn with
  | nil =>
    refine ⟨h, fun a => ?_⟩
    rw [if_neg (by simp)]
    rfl
  | append_singleton l x ih =>
    have hstep : (b.flashWrite k (l ++ [x])).flash = Tab.set flashBlank (b.flashWrite k l).flash (k + l.length) x := by
      unfold Boot.flashWrite
      dsimp only
      rw [List.length_append, List.length_singleton, List.range_succ, List.zip_append (by simp), List.foldl_append]
      rfl
    obtain ⟨hwf, hget⟩ := ih
    rw [hstep]
    refine ⟨Tab.set_wf _ _ _ _ hwf, fun a => ?_⟩
    by_cases ha : a = k + l.length
    · rw [ha, Tab.get_set_same _ _ _ _ hwf, if_pos (by simp)]
      simp
    · rw [Tab.get_set_other _ _ _ _ _ hwf ha, hget a, List.length_append, List.length_singleton]
      by_cases hin : k ≤ a ∧ a < k + l.length
      · rw [if_pos hin, if_pos (by omega), List.getD_append _ _ _ _ (by omega)]
      · rw [if_neg hin, if_neg (by omega)]

end Sys2Proof.Machine

/-! ### Boot and its watchdog (O54) -/

namespace Sys2Proof.Machine

/-! What a boot reads of the flash. -/

section
variable {b c : Boot} (hf : c.flash = b.flash) (hk : c.keyDigest = b.keyDigest) (hm : c.minVer = b.minVer)
include hf

theorem Boot.flashBytes_congr : c.flashBytes = b.flashBytes := by unfold Boot.flashBytes; rw [hf]
theorem Boot.flashNat_congr : c.flashNat = b.flashNat := by unfold Boot.flashNat; rw [Boot.flashBytes_congr hf]
theorem Boot.logInUse_congr : c.logInUse = b.logInUse := by
  have hcopy : c.logCopy = b.logCopy := by
    unfold Boot.logCopy; rw [Boot.flashNat_congr hf, Boot.flashBytes_congr hf]
  have hgen : c.logGen = b.logGen := by unfold Boot.logGen; rw [Boot.flashNat_congr hf]
  unfold Boot.logInUse
  rw [hcopy, hgen]
include hk
theorem Boot.bankSigned_congr : c.bankSigned = b.bankSigned := by
  unfold Boot.bankSigned Boot.bankForm Boot.bankLength
  rw [Boot.flashNat_congr hf, Boot.flashBytes_congr hf, hk]
include hm
theorem Boot.pickBank_congr : c.pickBank = b.pickBank := by
  unfold Boot.pickBank Boot.bankValid Boot.bankVersion
  rw [Boot.flashNat_congr hf, Boot.bankSigned_congr hf hk, hm]
theorem Boot.minimalReason_congr : c.minimalReason = b.minimalReason := by
  unfold Boot.minimalReason
  rw [Boot.pickBank_congr hf hk hm, Boot.logInUse_congr hf]
end

/-! The reset of a boot. -/

/-- The wafer reset with its log read. -/
def State.bootBase (s : State) (x : BootFindings) : State :=
  let s0 := s.waferReset x.retained
  { s0 with boot := { s0.boot with flog := ((s0.boot.logInUse).map (·.2)).getD [] } }

theorem State.bootBase_minimalReason (s : State) (x : BootFindings) : (s.bootBase x).boot.minimalReason = s.boot.minimalReason :=
  Boot.minimalReason_congr rfl rfl rfl
theorem State.bootBase_pickBank (s : State) (x : BootFindings) : (s.bootBase x).boot.pickBank = s.boot.pickBank :=
  Boot.pickBank_congr rfl rfl rfl
theorem State.waferReset_logInUse (s : State) (retained : Bool) : (s.waferReset retained).boot.logInUse = s.boot.logInUse :=
  Boot.logInUse_congr rfl
theorem State.bootBase_flog (s : State) (x : BootFindings) : (s.bootBase x).boot.flog = (s.boot.logInUse.map (·.2)).getD [] := by
  show (((s.waferReset x.retained).boot.logInUse).map (·.2)).getD [] = _
  rw [s.waferReset_logInUse]
/-- Edge memory reads as it did, where it has its power. -/
theorem State.bootBase_low (s : State) (x : BootFindings) (hr : x.retained = true) (hm : Memory.wf s.mem = true) (a : Nat)
    (ha : a < 0x800000000000) : Memory.read (s.bootBase x).mem a = Memory.read s.mem a := by
  refine (Tab.get_filter s.mem (fun k => x.retained && decide (k < 0x800000000000)) a hm).trans (if_pos ?_)
  rw [hr, Bool.true_and, decide_eq_true_eq]
  exact ha

/-! BOOTST as a boot leaves it. -/

/-- The fields of BOOTST but for the reason. -/
def bootFlags (bank fast full : Bool) (fails : Nat) : Word :=
  (if bank then 0x40000 else 0) ||| ((if fast then 0x20000 else 0) ||| ((if full then 0x10000 else 0) ||| BitVec.ofNat 64 (4 * fails)))
theorem bootFlags_fields : ∀ (bank fast full : Bool) (fails : Fin 4), (bootFlags bank fast full fails.val).extractLsb' 24 8 = (0 : BitVec 8) ∧
    (bootFlags bank fast full fails.val).getLsbD 1 = false ∧ (bootFlags bank fast full fails.val).extractLsb' 2 2 = BitVec.ofNat 2 fails.val ∧
    (bootFlags bank fast full fails.val).getLsbD 17 = fast ∧ (bootFlags bank fast full fails.val).getLsbD 18 = bank := by decide
theorem bootWord_eq (reason : BitVec 8) (bank fast full : Bool) (fails : Nat) :
    bootWord reason bank fast full fails false false = (reason.zeroExtend 64 : Word) <<< 24 ||| bootFlags bank fast full (fails % 4) := by
  unfold bootWord bootFlags
  simp only [Bool.false_eq_true, if_false, BitVec.ofNat_eq_ofNat, BitVec.or_zero, BitVec.or_assoc]
theorem reason_low (reason : BitVec 8) (k : Word) (i : Nat) (hi : i < 24) : ((reason.zeroExtend 64 : Word) <<< 24 ||| k).getLsbD i = k.getLsbD i := by
  rw [BitVec.getLsbD_or, BitVec.getLsbD_shiftLeft]
  simp [hi]
theorem bootWord_fields (reason : BitVec 8) (bank fast full : Bool) (fails : Nat) (hfails : fails < 4) :
    (bootWord reason bank fast full fails false false).extractLsb' 24 8 = reason ∧
    (bootWord reason bank fast full fails false false).getLsbD 1 = false ∧
    (bootWord reason bank fast full fails false false).extractLsb' 2 2 = BitVec.ofNat 2 fails ∧
    (bootWord reason bank fast full fails false false).getLsbD 17 = fast ∧
    (bootWord reason bank fast full fails false false).getLsbD 18 = bank := by
  obtain ⟨hreason, hok, hf, hfast, hbank⟩ := bootFlags_fields bank fast full ⟨fails, hfails⟩
  dsimp only at hreason hok hf hfast hbank
  rw [bootWord_eq, Nat.mod_eq_of_lt hfails]
  refine ⟨?_, (reason_low _ _ _ (by decide)).trans hok, ?_, (reason_low _ _ _ (by decide)).trans hfast, (reason_low _ _ _ (by decide)).trans hbank⟩
  · refine BitVec.eq_of_getLsbD_eq fun i hi => ?_
    have hbit := congrArg (fun w : BitVec 8 => w.getLsbD i) hreason
    have h64 : 24 + i < 64 ∧ i < 64 := by omega
    simp only [BitVec.getLsbD_extractLsb', hi, decide_true, Bool.true_and] at hbit
    rw [BitVec.getLsbD_extractLsb', BitVec.getLsbD_or, hbit, BitVec.getLsbD_shiftLeft]
    simp [hi, h64]
  · refine BitVec.eq_of_getLsbD_eq fun i hi => ?_
    rw [← hf, BitVec.getLsbD_extractLsb', BitVec.getLsbD_extractLsb', reason_low _ _ _ (by omega)]

/-! Minimal mode. -/

/-- A boot that ends in minimal mode. -/
theorem State.bootFrom_minimal (s : State) (x : BootFindings) (old : Word) (fails : Nat) (failed : Bool) (r : BitVec 8)
    (h : s.boot.minimalReason x fails = some r) : ∃ w : Word, s.bootFrom x old fails failed =
      { s.bootBase x with boot := { (s.bootBase x).boot with bootst := w, minimal := some r, uart := s.boot.uart ++ [r] } } ∧
      w = bootWord r (old.getLsbD 18) (!(bootFull old || s.boot.logInUse.isNone || failed)) false fails false false := by
  refine ⟨_, ?_, rfl⟩
  have hr : (s.bootBase x).boot.minimalReason x fails = some r := by rw [s.bootBase_minimalReason]; exact h
  rw [← s.waferReset_logInUse x.retained]
  unfold State.bootFrom
  dsimp only
  unfold State.bootBase at hr
  dsimp only at hr
  rw [hr]
  rfl

/-! A boot that runs. -/

/-- The maps, the image, the tests and the harts of a boot. -/
def State.bringUp (s : State) (x : BootFindings) (full bank : Bool) : State :=
  let s3 := s.writeGalleryMaps.restoreMaps
  let s4 := match s3.boot.image with
    | some i => if s3.headersHold i.seq then s3.putImage i else s3
    | none => s3
  (s4.testWafer x full).loadHarts bank
theorem State.Steady.bringUp (s : State) (x : BootFindings) (full bank : Bool) : s.Steady (s.bringUp x full bank) := by
  have h : s.Steady s.writeGalleryMaps.restoreMaps := (State.Steady.writeGalleryMaps s).trans (.restoreMaps _)
  unfold State.bringUp
  dsimp only
  refine .trans ?_ ((State.Steady.testWafer _ x full).trans (.loadHarts _ bank))
  split
  · split
    · exact h.trans (.putImage _ _)
    · exact h
  · exact h

/-- The base of a boot with its BOOTST written. -/
def State.bootWritten (s : State) (x : BootFindings) (w : Word) : State :=
  { s.bootBase x with boot := { (s.bootBase x).boot with bootst := w } }
/-- A boot ends in minimal mode or brings the wafer up. -/
theorem State.bootFrom_runs (s : State) (x : BootFindings) (old : Word) (fails : Nat) (failed bank : Bool)
    (hr : s.boot.minimalReason x fails = none) (hb : s.boot.pickBank = .ok bank) :
    let full := bootFull old || s.boot.logInUse.isNone || failed
    s.bootFrom x old fails failed =
      (s.bootWritten x (bootWord (old.extractLsb' 24 8) bank (!full) false fails false false)).bringUp x full bank := by
  have hr' : (s.bootBase x).boot.minimalReason x fails = none := by rw [s.bootBase_minimalReason]; exact hr
  have hb' : (s.bootBase x).boot.pickBank = .ok bank := by rw [s.bootBase_pickBank]; exact hb
  intro full
  have hfull : full = (bootFull old || ((s.waferReset x.retained).boot.logInUse).isNone || failed) := by rw [s.waferReset_logInUse]
  rw [hfull]
  unfold State.bootFrom
  dsimp only
  unfold State.bootBase at hr' hb'
  dsimp only at hr' hb'
  rw [hr', hb']
  unfold State.bootWritten State.bootBase State.bringUp
  -- what is left, if anything, is the match on the image, written twice
  dsimp only <;> (generalize State.restoreMaps _ = s3; rfl)

/-- A bank is picked where minimal mode has no reason. -/
theorem Boot.pickBank_of_minimalReason {b : Boot} {x : BootFindings} {fails : Nat} (h : b.minimalReason x fails = none) :
    ∃ bank, b.pickBank = .ok bank := by
  unfold Boot.minimalReason at h
  split at h
  · simp at h
  · split at h
    · simp at h
    · next bank hb => exact ⟨bank, hb⟩
theorem Boot.minimalReason_three (b : Boot) (x : BootFindings) : b.minimalReason x 3 = some 3 := if_pos rfl

/-- What every boot leaves of the clock, the count of resets and BOOTST. -/
theorem State.bootFrom_steady (s : State) (x : BootFindings) (old : Word) (fails : Nat) (failed : Bool) :
    ∃ (reason : BitVec 8) (bank : Bool), (s.bootFrom x old fails failed).wtime = 0 ∧
      (s.bootFrom x old fails failed).boot.resets = s.boot.resets ∧
      ∀ i, (s.bootFrom x old fails failed).boot.bootst.getLsbD (i + 1) =
        (bootWord reason bank (!(bootFull old || s.boot.logInUse.isNone || failed)) false fails false false).getLsbD (i + 1) := by
  cases hr : s.boot.minimalReason x fails with
  | some r =>
    obtain ⟨w, e, hw⟩ := s.bootFrom_minimal x old fails failed r hr
    rw [e]
    exact ⟨r, old.getLsbD 18, rfl, rfl, fun i => by rw [← hw]⟩
  | none =>
    obtain ⟨bank, hb⟩ := Boot.pickBank_of_minimalReason hr
    have e := s.bootFrom_runs x old fails failed bank hr hb
    have h := State.Steady.bringUp (s.bootWritten x (bootWord (old.extractLsb' 24 8) bank
      (!(bootFull old || s.boot.logInUse.isNone || failed)) false fails false false)) x (bootFull old || s.boot.logInUse.isNone || failed) bank
    rw [← e] at h
    exact ⟨_, bank, h.wtime, h.resets, h.bootst⟩

/-! A boot with an empty log, which finds nothing. -/

theorem galleryRtex_origin : rtexOf (galleryRtex ⟨0, 0⟩) = (Tile.reset ⟨0, 0⟩).pr.rtex := by decide

/-- At the origin no gallery is near, and the reset table stands. -/
theorem State.originMap_eq (s : State) (hfoc : s.foc = ⟨0, 0⟩) (htile : s.tile = Tile.reset ⟨0, 0⟩) :
    s.mapTileAt s.foc (fun t => { t with pr := { t.pr with rtex := rtexOf (galleryRtex s.foc) } }) = s := by
  have hr : rtexOf (galleryRtex s.foc) = s.tile.pr.rtex := by rw [hfoc, htile, galleryRtex_origin]
  rw [State.mapTileAt_foc, hr]
  rfl
theorem State.writeGalleryMaps_origin (s : State) (hfoc : s.foc = ⟨0, 0⟩) (htile : s.tile = Tile.reset ⟨0, 0⟩) (htiles : s.tiles = []) :
    s.writeGalleryMaps = { s with boot := { s.boot with mapped := true } } := by
  have hlisted (u : State) (h : u.tiles = []) : u.listed = [(u.foc, u.tile)] := by
    unfold State.listed
    rw [h]
    rfl
  unfold State.writeGalleryMaps
  dsimp only
  rw [hlisted { s with boot := { s.boot with mapped := true } } htiles]
  exact State.originMap_eq { s with boot := { s.boot with mapped := true } } hfoc htile
theorem State.restoreMaps_empty (s : State) (h : s.boot.flog = []) : s.restoreMaps = s := by
  unfold State.restoreMaps
  simp only [h, List.map_nil, List.eraseDups_nil, List.foldl_nil, List.filter_nil]
theorem State.testWafer_nothing (s : State) (x : BootFindings) (full : Bool) (hlinks : x.links = [])
    (hfull : full = true → x.failed = [] ∧ x.ports = [] ∧ x.places = []) : s.testWafer x full = s := by
  unfold State.testWafer positionsFailed
  rw [hlinks]
  cases full with
  | false => rfl
  | true =>
    obtain ⟨hf, hp, hl⟩ := hfull rfl
    rw [hf, hp, hl]
    rfl
/-- Its maps are those of a reset wafer, and its harts take the bank's image. -/
theorem State.bringUp_plain (s : State) (x : BootFindings) (full bank : Bool) (hfoc : s.foc = ⟨0, 0⟩) (htile : s.tile = Tile.reset ⟨0, 0⟩)
    (htiles : s.tiles = []) (hlog : s.boot.flog = []) (himage : s.boot.image = none) (hlinks : x.links = [])
    (hfull : full = true → x.failed = [] ∧ x.ports = [] ∧ x.places = []) :
    s.bringUp x full bank = ({ s with boot := { s.boot with mapped := true } } : State).loadHarts bank := by
  unfold State.bringUp
  rw [s.writeGalleryMaps_origin hfoc htile htiles, State.restoreMaps_empty { s with boot := { s.boot with mapped := true } } hlog]
  dsimp only
  rw [himage]
  dsimp only
  rw [State.testWafer_nothing _ x full hlinks hfull]

theorem State.hartAt_setHartAt (s : State) (a b : Nat) (h : Hart) : (s.setHartAt a h).hartAt b = if a = b then h else s.hartAt b := by
  unfold State.hartAt State.setHartAt
  have hg (g : Gallery) : (s.setGallery (a / 16) g).gallery (b / 16) = if a / 16 = b / 16 then g else s.gallery (b / 16) := unitGet_unitSet _ _ _ _ _
  dsimp only
  rw [hg]
  by_cases hd : a / 16 = b / 16
  · rw [if_pos hd, ← hd]
    dsimp only
    rw [unitGet_unitSet]
    exact if_congr (by omega) rfl rfl
  · rw [if_neg hd, if_neg fun e => hd (by rw [e])]
theorem State.loadHarts_hartAt (s : State) (bank : Bool) (a : Nat) (ha : a < 16) : ((s.loadHarts bank).hartAt a).image = some bank := by
  refine foldl_reaches (fun s t : State => ∀ b, (s.hartAt b).image = some bank → (t.hartAt b).image = some bank) (fun _ _ h => h)
    (fun h k b i => k b (h b i)) (fun b s => (s.hartAt b).image = some bank) (fun h => h _) _ (fun s c b h => ?_) (fun s c => ?_)
    (List.range 16) s a (List.mem_range.mpr ha)
  · rw [State.hartAt_setHartAt]
    split
    · rfl
    · exact h
  · rw [State.hartAt_setHartAt, if_pos rfl]
theorem State.loadHarts_galleries (s : State) (bank : Bool) : ∃ l, s.loadHarts bank = { s with galleries := l } :=
  foldl_rel (fun s t : State => ∃ l, t = { s with galleries := l }) (fun s => ⟨s.galleries, rfl⟩) (fun h k => by
    obtain ⟨l, rfl⟩ := h
    obtain ⟨m, rfl⟩ := k
    exact ⟨m, rfl⟩) _ (fun _ _ => ⟨_, rfl⟩) _ s

end Sys2Proof.Machine

/-! ### Launch, boot, the watchdog and TFTP (O54) -/

namespace Sys2Proof.Machine

/-! The commands. -/

theorem execBoot_warm (x : BootFindings) (s : State) (hc : x.powerCycle = false) (hp : s.boot.powered = true) (hm : s.boot.minimal = none) :
    execBoot x s = .next (s.bootFrom x s.boot.bootst (bootFails s.boot.bootst) (bootFails s.boot.bootst != 0)) := by
  unfold execBoot
  rw [hc, hp, hm]
  simp
theorem execBootWatchdog_idle (s : State) (h : s.boot.bootst.getLsbD 1 = true ∨ s.boot.minimal ≠ none ∨ s.wtime.toNat < 65536 * s.boot.boottmo.toNat) :
    execBootWatchdog s = .next s := by
  unfold execBootWatchdog bootOk
  refine if_pos ?_
  rcases h with h | h | h
  · simp [h]
  · simp [Option.isSome_iff_ne_none.mpr h]
  · simp [h]
/-- The watchdog of a boot: one more reset, and a boot after a failure. -/
theorem execBootWatchdog_boots (s : State) (hok : s.boot.bootst.getLsbD 1 = false) (hm : s.boot.minimal = none)
    (ht : 65536 * s.boot.boottmo.toNat ≤ s.wtime.toNat) :
    execBootWatchdog s = .next (({ s with boot := { s.boot with resets := s.boot.resets + 1 } } : State).bootFrom
      { Config.findings s.boot.resets with retained := true } s.boot.bootst (min 3 (bootFails s.boot.bootst + 1)) true) := by
  unfold execBootWatchdog bootOk
  refine if_neg ?_
  rw [hok, hm]
  simp [ht]

/-- OK is set and FAILS cleared; the fields above stand. -/
theorem bootOk_fields (w : Word) : (((w ||| 2) &&& ~~~(0xC : Word)).getLsbD 1 = true) ∧ ((w ||| 2) &&& ~~~(0xC : Word)).extractLsb' 2 2 = (0 : BitVec 2) ∧
    ((w ||| 2) &&& ~~~(0xC : Word)).extractLsb' 16 48 = (w.extractLsb' 16 48 : BitVec 48) := by
  have h2 : ∀ i < 64, (2 : Word).getLsbD i = decide (i = 1) := by decide
  have hc : ∀ i < 64, (~~~(0xC : Word)).getLsbD i = decide (i ≠ 2 ∧ i ≠ 3) := by decide
  refine ⟨?_, BitVec.eq_of_getLsbD_eq fun i hi => ?_, BitVec.eq_of_getLsbD_eq fun i hi => ?_⟩
  · rw [BitVec.getLsbD_and, BitVec.getLsbD_or, h2 1 (by decide), hc 1 (by decide)]
    simp
  · rw [BitVec.getLsbD_extractLsb', BitVec.getLsbD_and, hc (2 + i) (by omega)]
    rw [decide_eq_false (by omega : ¬ (2 + i ≠ 2 ∧ 2 + i ≠ 3)), Bool.and_false, Bool.and_false]
    simp
  · rw [BitVec.getLsbD_extractLsb', BitVec.getLsbD_extractLsb', BitVec.getLsbD_and, BitVec.getLsbD_or, h2 (16 + i) (by omega), hc (16 + i) (by omega)]
    have h1 : ¬ 16 + i = 1 := by omega
    have h23 : 16 + i ≠ 2 ∧ 16 + i ≠ 3 := by omega
    simp [h1, h23]

/-- In minimal mode a bank is replaced whole. -/
theorem execTftpBankWrite_byte (s : State) (bank : Bool) (img : List (BitVec 8)) (hm : s.boot.minimal.isSome = true)
    (hwf : Tab.wf flashBlank s.boot.flash = true) (hlen : img.length ≤ 201326592) : ∃ b : Boot, execTftpBankWrite bank img s = .next { s with boot := b } ∧
      ∀ a, Tab.get flashBlank b.flash a = if bankBase bank ≤ a ∧ a < bankBase bank + 201326592 then img.getD (a - bankBase bank) 0xFF
        else Tab.get flashBlank s.boot.flash a := by
  have hsize : bankSize = 201326592 := rfl
  refine ⟨_, congrArg _ (if_pos hm), fun a => ?_⟩
  rw [List.take_of_length_le (hlen.trans_eq hsize.symm)]
  let inBank (k : Nat) : Bool := !decide (bankBase bank ≤ k ∧ k < bankBase bank + bankSize)
  have hget := (Boot.flashWrite_get { s.boot with flash := s.boot.flash.filter fun x => inBank x.1 } (bankBase bank) img (Tab.filter_wf _ _ hwf)).2 a
  rw [hget]
  dsimp only
  rw [Tab.get_filter s.boot.flash inBank a hwf]
  have hin : inBank a = !decide (bankBase bank ≤ a ∧ a < bankBase bank + 201326592) := rfl
  rw [hin]
  by_cases hb : bankBase bank ≤ a ∧ a < bankBase bank + 201326592
  · rw [if_pos hb]
    by_cases hi : bankBase bank ≤ a ∧ a < bankBase bank + img.length
    · rw [if_pos hi]
    · rw [if_neg hi, List.getD_eq_default _ _ (by omega)]
      simp [hb, flashBlank]
  · rw [if_neg hb, if_neg (by omega)]
    simp [hb]

theorem featacc_low (f : BitVec 128) (v : Word) :
    ((f &&& ((0xFFFFFFFFFFFFFFFF : BitVec 128) <<< 64)) ||| (v.zeroExtend 128 : BitVec 128)).extractLsb' 0 64 = v := by
  have hm : ∀ i < 64, ((0xFFFFFFFFFFFFFFFF : BitVec 128) <<< 64).getLsbD i = false := by decide
  refine BitVec.eq_of_getLsbD_eq fun i hi => ?_
  have h128 : i < 128 := by omega
  rw [BitVec.getLsbD_extractLsb', BitVec.getLsbD_or, BitVec.getLsbD_and, Nat.zero_add, hm i hi]
  simp [hi, h128]
theorem featacc_high (f : BitVec 128) (v : Word) :
    ((f &&& (0xFFFFFFFFFFFFFFFF : BitVec 128)) ||| ((v.zeroExtend 128 : BitVec 128) <<< 64)).extractLsb' 64 64 = v := by
  have hm : ∀ i < 64, (0xFFFFFFFFFFFFFFFF : BitVec 128).getLsbD (64 + i) = false := by decide
  refine BitVec.eq_of_getLsbD_eq fun i hi => ?_
  have h128 : 64 + i < 128 ∧ i < 128 := by omega
  rw [BitVec.getLsbD_extractLsb', BitVec.getLsbD_or, BitVec.getLsbD_and, hm i hi, BitVec.getLsbD_shiftLeft]
  simp [hi, h128]
/-- Half of FEATACC is written, once. -/
theorem featureAccept_fields (b : Boot) (hi : Bool) (v : Word) (hw : (if hi then b.accWritten.2 else b.accWritten.1) = false)
    (hv : v &&& ~~~(if hi then Config.featuresOffered.extractLsb' 64 64 else Config.featuresOffered.setWidth 64 : Word) = 0) :
    ∃ c : Boot, b.acceptFeatures hi v = some c ∧ c.featacc.extractLsb' (if hi then 64 else 0) 64 = v ∧
      (if hi then c.accWritten.2 else c.accWritten.1) = true := by
  unfold Boot.acceptFeatures
  dsimp only
  rw [hw, hv, if_neg (by decide)]
  cases hi with
  | false => exact ⟨_, rfl, featacc_low _ _, rfl⟩
  | true => exact ⟨_, rfl, featacc_high _ _, rfl⟩
theorem featureAccept_refused (b : Boot) (hi : Bool) (v : Word) (h : (if hi then b.accWritten.2 else b.accWritten.1) = true ∨
    v &&& ~~~(if hi then Config.featuresOffered.extractLsb' 64 64 else Config.featuresOffered.setWidth 64 : Word) ≠ 0) :
    b.acceptFeatures hi v = none := by
  unfold Boot.acceptFeatures
  refine if_pos ?_
  rcases h with h | h
  · rw [h]; rfl
  · rw [bne_iff_ne.mpr h, Bool.or_true]

/-! The boots of the obligation. -/

/-- A boot out of minimal mode's reach that keeps its reason: what it leaves. -/
theorem execBoot_minimal (x : BootFindings) (s : State) (r : BitVec 8) (hc : x.powerCycle = false) (hp : s.boot.powered = true)
    (hm : s.boot.minimal = none) (hr : s.boot.minimalReason x (s.boot.bootst.extractLsb' 2 2).toNat = some r) :
    ∃ t : State, execBoot x s = .next t ∧ t.boot.minimal = some r ∧ t.boot.bootst.extractLsb' 24 8 = r ∧
      t.boot.uart = s.boot.uart ++ [r] ∧ t.boot.bootst.getLsbD 1 = false ∧ t.wtime = 0 ∧ t.net = [] ∧ t.tile = Tile.reset ⟨0, 0⟩ := by
  obtain ⟨w, e, hw⟩ := s.bootFrom_minimal x s.boot.bootst (bootFails s.boot.bootst) (bootFails s.boot.bootst != 0) r hr
  obtain ⟨hreason, hok, -⟩ := bootWord_fields r (s.boot.bootst.getLsbD 18)
    (!(bootFull s.boot.bootst || s.boot.logInUse.isNone || (bootFails s.boot.bootst != 0))) false (bootFails s.boot.bootst)
    (s.boot.bootst.extractLsb' 2 2).isLt
  exact ⟨_, (execBoot_warm x s hc hp hm).trans (congrArg _ e), rfl, hw ▸ hreason, rfl, hw ▸ hok, rfl, rfl, rfl⟩

/-- A boot with nothing to restore that finds nothing. -/
theorem execBoot_plain (x : BootFindings) (s : State) (bank : Bool) (g : Nat) (hc : x.powerCycle = false) (hp : s.boot.powered = true)
    (hm : s.boot.minimal = none) (hr : s.boot.minimalReason x (s.boot.bootst.extractLsb' 2 2).toNat = none) (hb : s.boot.pickBank = .ok bank)
    (himage : s.boot.image = none) (hfails : (s.boot.bootst.extractLsb' 2 2).toNat = 0) (hfullreq : s.boot.bootst.getLsbD 16 = false)
    (hlinks : x.links = []) (hlog : s.boot.logInUse = some (g, []) ∨ s.boot.logInUse = none ∧ x.failed = [] ∧ x.ports = [] ∧ x.places = []) :
    ∃ t : State, execBoot x s = .next t ∧ t.boot.minimal = none ∧ t.boot.bootst.getLsbD 1 = false ∧ t.boot.bootst.extractLsb' 2 2 = 0 ∧
      t.boot.bootst.getLsbD 17 = s.boot.logInUse.isSome ∧ t.boot.bootst.getLsbD 18 = bank ∧ (∀ a, a < 16 → (t.hartAt a).image = some bank) ∧
      t.wtime = 0 ∧ t.net = [] ∧ t.tile = Tile.reset ⟨0, 0⟩ ∧ t.tiles = [] ∧ t.boot.powered = true ∧
      (x.retained = true → Memory.wf s.mem = true → ∀ a, a < 0x800000000000 → Memory.read t.mem a = Memory.read s.mem a) := by
  have hfails' : bootFails s.boot.bootst = 0 := hfails
  have hfull : (bootFull s.boot.bootst || s.boot.logInUse.isNone || (bootFails s.boot.bootst != 0)) = s.boot.logInUse.isNone := by
    unfold bootFull
    rw [hfullreq, hfails']
    simp
  have e := s.bootFrom_runs x s.boot.bootst (bootFails s.boot.bootst) (bootFails s.boot.bootst != 0) bank hr hb
  dsimp only at e
  rw [hfull, hfails'] at e
  have hflog : (s.bootBase x).boot.flog = [] := by
    rw [s.bootBase_flog]
    rcases hlog with h | ⟨h, -⟩ <;> rw [h] <;> rfl
  have himg : (s.bootBase x).boot.image = none := by
    show (if x.retained then s.boot.image else none) = none
    rw [himage, ite_self]
  obtain ⟨-, hok, hf, hfast, hbank⟩ := bootWord_fields (s.boot.bootst.extractLsb' 24 8) bank (!s.boot.logInUse.isNone) false 0 (by decide)
  generalize bootWord (s.boot.bootst.extractLsb' 24 8) bank (!s.boot.logInUse.isNone) false 0 false false = w at e hok hf hfast hbank
  rw [State.bringUp_plain (s.bootWritten x w) x s.boot.logInUse.isNone bank rfl rfl rfl hflog himg hlinks (fun h => by
    rcases hlog with h' | ⟨-, h'⟩
    · rw [h'] at h; cases h
    · exact h')] at e
  have hharts := State.loadHarts_hartAt ({ s.bootWritten x w with boot := { (s.bootWritten x w).boot with mapped := true } } : State) bank
  obtain ⟨l, el⟩ := State.loadHarts_galleries ({ s.bootWritten x w with boot := { (s.bootWritten x w).boot with mapped := true } } : State) bank
  have hstep := execBoot_warm x s hc hp hm
  rw [hfails', e, el] at hstep
  rw [el] at hharts
  refine ⟨_, hstep, rfl, hok, hf, hfast.trans ?_, hbank, hharts, rfl, rfl, rfl, rfl, rfl, fun hret hwf a ha => s.bootBase_low x hret hwf a ha⟩
  cases s.boot.logInUse <;> rfl

/-- The watchdog's boot: its clock, its FAILS, and minimal mode after the third failure. -/
theorem execBootWatchdog_resets (s : State) (hok : s.boot.bootst.getLsbD 1 = false) (hm : s.boot.minimal = none)
    (ht : 65536 * s.boot.boottmo.toNat ≤ s.wtime.toNat) : ∃ t : State, execBootWatchdog s = .next t ∧
      t.wtime = 0 ∧ (t.boot.bootst.extractLsb' 2 2).toNat = min 3 ((s.boot.bootst.extractLsb' 2 2).toNat + 1) ∧
      t.boot.bootst.getLsbD 17 = false ∧ t.boot.resets = s.boot.resets + 1 ∧
      ((s.boot.bootst.extractLsb' 2 2).toNat = 2 → t.boot.minimal = some 3 ∧ t.boot.uart = s.boot.uart ++ [3] ∧
        t.tile = Tile.reset ⟨0, 0⟩ ∧ t.tiles = [] ∧
        (Memory.wf s.mem = true → ∀ a, a < 0x800000000000 → Memory.read t.mem a = Memory.read s.mem a)) := by
  let u : State := { s with boot := { s.boot with resets := s.boot.resets + 1 } }
  let x : BootFindings := { Config.findings s.boot.resets with retained := true }
  let fails := min 3 (bootFails s.boot.bootst + 1)
  have hlt : fails < 4 := by omega
  obtain ⟨reason, bank, htime, hresets, hbits⟩ := u.bootFrom_steady x s.boot.bootst fails true
  rw [Bool.or_true] at hbits
  obtain ⟨-, -, hf, hfast, -⟩ := bootWord_fields reason bank (!true) false fails hlt
  refine ⟨_, execBootWatchdog_boots s hok hm ht, htime, ?_, (hbits 16).trans hfast, hresets, fun htwo => ?_⟩
  · have hfield : (u.bootFrom x s.boot.bootst fails true).boot.bootst.extractLsb' 2 2 = BitVec.ofNat 2 fails := by
      rw [← hf]
      refine BitVec.eq_of_getLsbD_eq fun i _ => ?_
      rw [BitVec.getLsbD_extractLsb', BitVec.getLsbD_extractLsb', Nat.add_comm 2 i]
      exact congrArg _ (hbits (i + 1))
    exact (congrArg BitVec.toNat hfield).trans (Nat.mod_eq_of_lt hlt)
  · have hthree : fails = 3 := by
      have : bootFails s.boot.bootst = 2 := htwo
      omega
    obtain ⟨w, e, -⟩ := u.bootFrom_minimal x s.boot.bootst fails true 3 (by rw [hthree]; exact Boot.minimalReason_three _ _)
    have e' : u.bootFrom x s.boot.bootst (min 3 (bootFails s.boot.bootst + 1)) true = _ := e
    rw [e']
    exact ⟨rfl, rfl, rfl, rfl, fun hwf a ha => u.bootBase_low x rfl hwf a ha⟩

/-- Settles O54, from the fields that a launch, a packet wave, a boot and its watchdog leave and from the bytes of the flash. -/
theorem launchAndBootBringTheWaferUp : Obligations.LaunchAndBootBringTheWaferUp := by
  unfold Obligations.LaunchAndBootBringTheWaferUp
  intro s h off tenant rec p x r px py wave k img hi bank v b cs box low fails offered wrote start byte
  refine ⟨fun he => ?_, fun hm => readRecord_headerFault (headerFault_magic _ _ hm), fun hm hv => readRecord_headerFault (headerFault_version _ _ hm hv),
    fun hh hp => ?_, fun hw => ?_, fun hh hw hb hc => ?_, fun hc hp hm => ⟨fun hr => execBoot_minimal x s r hc hp hm hr, ?_⟩,
    fun hf => ?_, fun hok hm ht => execBootWatchdog_resets s hok hm ht, fun hi => execBootWatchdog_idle s hi, ?_, fun hm => ⟨?_, fun hwf hlen => ?_⟩,
    fun hm => ⟨?_, ?_⟩, fun hw hv => ?_, fun hr => ?_⟩
  · refine ⟨s.setHall h { s.hallOf h with rejected := some off }, ?_, State.hallOf_setHall _ _ _, rfl, rfl, rfl⟩
    show execLaunch h ⟨tenant, rec⟩ s = _
    unfold execLaunch
    rw [he]
  · obtain ⟨hwaves, hrej, hrent, hten, hlines, hbridge, hnet, hlive⟩ := s.launchHall_launches h tenant p hh
    refine ⟨s.launchHall h tenant p, ?_, hwaves, hrej, hrent, hten, hlines, hbridge, hnet, fun c hc ha => ?_⟩
    · show execLaunch h ⟨tenant, rec⟩ s = _
      unfold execLaunch
      rw [hp]
    · obtain ⟨hd, hidle⟩ := hlive c (List.mem_filter.mpr ⟨hc, by simp [ha]⟩)
      exact ⟨hd, hidle.runs, hidle.ring, hidle.free⟩
  · show execInitialPacketWave h s = _
    unfold execInitialPacketWave
    dsimp only
    rw [hw]
  · obtain ⟨z, n, q, e, hdest, hvc, hmsg, hpay, hhall, hentry⟩ := execInitialPacketWave_sends s h px py wave k hh hw hb hc
    refine ⟨_, z, q, e, ?_, rfl, hdest, hvc, hmsg, hpay, hhall, hentry, rfl, rfl⟩
    exact congrArg Hall.waves (State.hallOf_setHall s h { s.hallOf h with waves := [] })
  · intro g hr hb himage hfails hfull hlinks hlog
    exact execBoot_plain x s bank g hc hp hm hr hb himage hfails hfull hlinks hlog
  · rw [hf]
    exact Boot.minimalReason_three _ _
  · obtain ⟨hok, hf, hhigh⟩ := bootOk_fields b.bootst
    exact ⟨_, rfl, hok, hf, rfl, rfl, hhigh⟩
  · show execTftpStatusRead s = _
    exact if_pos (by rw [hm]; rfl)
  · obtain ⟨c, e, hbyte⟩ := execTftpBankWrite_byte s bank img (by rw [hm]; rfl) hwf hlen
    exact ⟨_, e, rfl, rfl, hbyte⟩
  · show execTftpStatusRead s = _
    exact if_neg (by rw [hm]; decide)
  · show execTftpBankWrite bank img s = _
    exact congrArg _ (if_neg (by rw [hm]; decide))
  · obtain ⟨c, e, hacc, hwritten⟩ := featureAccept_fields b hi v hw hv
    refine ⟨{ s with boot := c }, ?_, rfl, rfl, hacc, hwritten⟩
    show execFeatureAccept hi v s = _
    unfold execFeatureAccept
    rw [e]
  · show execFeatureAccept hi v s = _
    unfold execFeatureAccept
    rw [featureAccept_refused b hi v hr]

end Sys2Proof.Machine

/-! ### A fresh tile off the wafer (O59)

`State.endWave` clears the lost position's storage by listing its instruction SRAM byte by byte as 0. On the wafer an unwritten byte there
reads 0xFF, so the list is canonical; but O59 asks for every state, and `Wave.lost` may name a column past the last tile window, where
`Memory.blank` is 0 and the listed zeros are blank. -/

namespace Sys2Proof.Machine

theorem State.markStale_mem (s : State) (c : Coord) : (s.markStale c).mem = s.mem := by
  unfold State.markStale; dsimp only; split <;> rfl
theorem State.repairAnswer_mem (s : State) (m : Option MgmtCmd) : (s.repairAnswer m).mem = s.mem := by
  unfold State.repairAnswer
  split
  · exact (State.Still.answerFrom _ _ _ _ _).mem
  · rfl
theorem State.logWrite_mem (s : State) (l : List Word) : (s.logWrite l).mem = s.mem := rfl
theorem State.repairReport_mem (s : State) (c : Coord) (b : BitVec 8) (x y : Word) : (s.repairReport c b x y).mem = s.mem := rfl
theorem State.setStair_mem (s : State) (f st a b : Nat) (o : Option Coord) : (s.setStair f st a b o).mem = s.mem := rfl
theorem State.setWaves_mem (s : State) (f : Nat) (ws : List Wave) : (s.setWaves f ws).mem = s.mem := rfl
/-- Of all that ends a wave, only the clearing of the lost position's storage touches memory. -/
theorem State.endWave_mem (s : State) (f : Nat) (w : Wave) : (s.endWave f w).mem = (s.clearStorage w.lost 0).mem := by
  unfold State.endWave
  dsimp only
  rw [State.repairAnswer_mem, State.logWrite_mem, State.markStale_mem, State.repairReport_mem, State.setStair_mem, State.setWaves_mem,
    (State.Still.rewriteRtex _ _).mem, State.mapTileAt_mem]

/-- A table whose head lists a blank value is not canonical. -/
theorem Tab.not_wf_blank_head {β : Type} [DecidableEq β] (blank : Nat → β) (a : Nat) (r : List (Nat × β)) :
    Tab.wf blank ((a, blank a) :: r) = false :=
  Bool.eq_false_iff.mpr fun h => Tab.wf_head blank h rfl

/-- Past the tile windows an unwritten byte reads 0, so the zeros that a clearing lists there are blank. -/
theorem State.clearStorage_offWafer (s : State) (c : Coord) (hm : s.mem = []) (hc : 0x840000000000 ≤ tileBase c) :
    Memory.wf (s.clearStorage c 0).mem = false := by
  have hblank : Memory.blank (tileBase c + 0x10000) = 0 := by
    unfold Memory.blank
    exact if_neg fun ⟨_, hlt, _⟩ => absurd hlt (by omega)
  have hlist : (s.clearStorage c 0).mem =
      (List.range' 0 0x4000).map fun k => (tileBase c + 0x10000 + k, (0 : BitVec 8)) := by
    unfold State.clearStorage
    rw [hm, List.range_eq_range']
    simp
  rw [hlist, List.range'_succ, List.map_cons, Nat.add_zero]
  conv_lhs => rw [← hblank]
  exact Tab.not_wf_blank_head _ _ _

theorem State.retried_mem (s : State) : s.retried.mem = s.mem := rfl

/-- A wave of stair 0 whose lost position is in column 2048, one place below its end. -/
def offWaferWave : Wave := ⟨0, 0, 1, ⟨2048, 0⟩, [], none⟩
theorem offWaferWave_base : 0x840000000000 ≤ tileBase offWaferWave.up.lost := by
  simp [tileBase, offWaferWave, Wave.up]
/-- Tile (0, 0), PARKED at that place, is about to take the wave's last step. -/
def offWaferStep : State :=
  { State.reset with
    agenda := [(⟨0, 0⟩, 0, some .shiftStep)], fields := [(0, { Field.reset with waves := [offWaferWave] })],
    tile := { Tile.reset ⟨0, 0⟩ with prow := 1, pr := { PrivRegs.reset 0 with pctx := 2 } } }

/-- What the step does at the tile in focus. -/
theorem offWaferStep_shifts : execShiftStep ({ offWaferStep with agenda := [] } : State) =
    .next ((({ offWaferStep with agenda := [] } : State).steppedDown offWaferWave).endWave 0 offWaferWave.up) :=
  execShiftStep_moves _ offWaferWave rfl rfl (by decide) rfl ⟨by decide, rfl, rfl, rfl, rfl⟩

theorem offWaferStep_next : step offWaferStep =
    .next ((({ offWaferStep with agenda := [] } : State).steppedDown offWaferWave).endWave 0 offWaferWave.up).retried := by
  rw [step_event offWaferStep ⟨0, 0⟩ 0 .shiftStep [] rfl rfl rfl rfl (.inl rfl)]
  exact congrArg (mapNext State.retried) offWaferStep_shifts

/-- Refutes O59: a shift wave whose lost position lies past the last tile window ends by listing blank bytes. O59 takes every state with
canonical stores; this one, which no run from reset is claimed to reach, has empty ones. -/
theorem not_stepKeepsStoresCanonical : ¬ Obligations.StepKeepsStoresCanonical := by
  unfold Obligations.StepKeepsStoresCanonical
  intro h
  have hstored := h _ _ rfl offWaferStep_next
  unfold State.stored at hstored
  have hmem := (Bool.and_eq_true_iff.mp hstored).1
  rw [State.retried_mem, State.endWave_mem, State.clearStorage_offWafer _ _ _ offWaferWave_base] at hmem
  · exact Bool.false_ne_true hmem
  · obtain ⟨u, x, e, -⟩ := State.steppedDown_eq { offWaferStep with agenda := [] } offWaferWave
    rw [e]
    rfl

end Sys2Proof.Machine

/-! ### Rounding a number that its format holds (O10) -/

namespace Sys2Proof.Machine

theorem bitLen_eq (m k : Nat) (h1 : 2 ^ k ≤ m) (h2 : m < 2 ^ (k + 1)) : bitLen m = k + 1 := by
  have hm : m ≠ 0 := by have := Nat.two_pow_pos k; omega
  unfold bitLen
  rw [if_neg hm, (Nat.log2_eq_iff hm).mpr ⟨h1, h2⟩]
theorem bitLen_le (m k : Nat) (h : m < 2 ^ k) : bitLen m ≤ k := by
  unfold bitLen
  split
  · omega
  · next hm => exact (Nat.log2_lt hm).mpr h

/-- A magnitude on the grid is kept. -/
theorem roundMag_grid (s : Bool) (m : Nat) (e : Int) (rm : Rounding) : roundMag s m e false e rm = (m, false, false) := by
  unfold roundMag
  simp

/-- The exponent at which a finite value of leading exponent ex is rounded (R87). -/
def fpGrid (F : FpFmt) (ex : Int) : Int :=
  (if ex < 1 - ((fpParams F).2.2 : Int) then 1 - ((fpParams F).2.2 : Int) else ex) - (fpParams F).1

/-- A value on its format's grid and within its range is kept, whatever the mode. -/
theorem fpRound_grid (F : FpFmt) (tcm : Bool) (rm : Rounding) (s : Bool) (m : Nat) (e : Int) (hm : m ≠ 0)
    (hq : fpGrid F (e + bitLen m - 1) = e) (hle : e ≤ (fpMax F tcm).2) (hfits : m ≤ (fpMax F tcm).1 * 2 ^ ((fpMax F tcm).2 - e).toNat) :
    fpRound F tcm rm (.fin s m e false) = (fpEncode F s m e, 0) := by
  have hbig : (if e ≥ (fpMax F tcm).2 then decide ((fpMax F tcm).1 < m * 2 ^ (e - (fpMax F tcm).2).toNat)
      else decide ((fpMax F tcm).1 * 2 ^ ((fpMax F tcm).2 - e).toNat < m)) = false := by
    split
    · next h =>
      have he : e = (fpMax F tcm).2 := le_antisymm hle h
      rw [he] at hfits ⊢
      simpa using hfits
    · simpa using hfits
  unfold fpGrid at hq
  unfold fpRound
  dsimp only
  rw [if_neg (by simp [hm]), hq, roundMag_grid]
  dsimp only
  rw [hbig]
  simp

theorem fpRound_zero (F : FpFmt) (tcm : Bool) (rm : Rounding) (s : Bool) (e : Int) : fpRound F tcm rm (.fin s 0 e false) = (fpEncode F s 0 0, 0) := by
  simp [fpRound]

/-- Biased exponent E with fraction fr, or E = 0 for a subnormal, as the encoder writes them. -/
theorem fpEncode_normal (F : FpFmt) (s : Bool) (fr E : Nat) (hfr : fr < 2 ^ (fpParams F).1) (hE : 0 < E) :
    fpEncode F s (2 ^ (fpParams F).1 + fr) ((E : Int) - (fpParams F).2.2 - (fpParams F).1) = E * 2 ^ (fpParams F).1 + fr + fpSignBit F s := by
  unfold fpEncode
  have hlt : ¬ 2 ^ (fpParams F).1 + fr ≥ 2 ^ ((fpParams F).1 + 1) := by rw [Nat.pow_succ]; omega
  have hexp : ((E : Int) - (fpParams F).2.2 - (fpParams F).1 + (fpParams F).1 + (fpParams F).2.2).toNat = E := by omega
  have hpos : 0 < E * 2 ^ (fpParams F).1 := Nat.mul_pos hE (Nat.two_pow_pos _)
  dsimp only
  rw [if_neg hlt]
  dsimp only
  rw [if_neg (Nat.not_lt.mpr (Nat.le_add_right _ _)), hexp, Nat.add_sub_cancel_left, if_neg fun h => by omega]
theorem fpEncode_subnormal (F : FpFmt) (s : Bool) (fr : Nat) (q : Int) (hfr : fr < 2 ^ (fpParams F).1)
    (hz : F = .e2m1 → fr = 0 → s = false) : fpEncode F s fr q = fr + fpSignBit F s := by
  unfold fpEncode
  have hlt : ¬ fr ≥ 2 ^ ((fpParams F).1 + 1) := by rw [Nat.pow_succ]; omega
  dsimp only
  rw [if_neg hlt]
  dsimp only
  rw [if_pos hfr]
  split
  · next h => rw [hz h.1 h.2, h.2]; rfl
  · rfl

/-- What a word of a format holds, NaNs aside: an infinity, a subnormal number or zero, or a normal number (R69 to R75). -/
inductive FpHolds (F : FpFmt) (tcm : Bool) (w : Nat) : FpVal → Prop where
  | inf (s : Bool) (h : fpHasInf F tcm = true) (hw : w = fpInf F s) : FpHolds F tcm w (.inf s)
  | sub (s : Bool) (fr : Nat) (hfr : fr < 2 ^ (fpParams F).1) (hz : F = .e2m1 → fr = 0 → s = false) (hw : w = fr + fpSignBit F s) :
    FpHolds F tcm w (.fin s fr (1 - ((fpParams F).2.2 : Int) - (fpParams F).1) false)
  | norm (s : Bool) (fr E : Nat) (hfr : fr < 2 ^ (fpParams F).1) (hE : 0 < E) (hle : (E : Int) - (fpParams F).2.2 - (fpParams F).1 ≤ (fpMax F tcm).2)
    (htop : (E : Int) - (fpParams F).2.2 - (fpParams F).1 = (fpMax F tcm).2 → 2 ^ (fpParams F).1 + fr ≤ (fpMax F tcm).1)
    (hw : w = E * 2 ^ (fpParams F).1 + fr + fpSignBit F s) :
    FpHolds F tcm w (.fin s (2 ^ (fpParams F).1 + fr) ((E : Int) - (fpParams F).2.2 - (fpParams F).1) false)

/-! The fields of a word. -/

def fpSignOf (F : FpFmt) (w : Nat) : Bool := w / 2 ^ ((fpParams F).1 + (fpParams F).2.1) % 2 == 1
def fpExpOf (F : FpFmt) (w : Nat) : Nat := w / 2 ^ (fpParams F).1 % 2 ^ (fpParams F).2.1
def fpFracOf (F : FpFmt) (w : Nat) : Nat := w % 2 ^ (fpParams F).1

theorem fpFracOf_lt (F : FpFmt) (w : Nat) : fpFracOf F w < 2 ^ (fpParams F).1 := Nat.mod_lt _ (Nat.two_pow_pos _)
theorem fpExpOf_lt (F : FpFmt) (w : Nat) : fpExpOf F w < 2 ^ (fpParams F).2.1 := Nat.mod_lt _ (Nat.two_pow_pos _)

/-- A word is its fields. -/
theorem fpFields (F : FpFmt) (w : Nat) (hw : w < 2 ^ fpWidthOf F) :
    w = fpExpOf F w * 2 ^ (fpParams F).1 + fpFracOf F w + fpSignBit F (fpSignOf F w) := by
  have hsign : fpSignBit F (fpSignOf F w) = 2 ^ ((fpParams F).1 + (fpParams F).2.1) * (w / 2 ^ ((fpParams F).1 + (fpParams F).2.1)) := by
    have hlt : w / 2 ^ ((fpParams F).1 + (fpParams F).2.1) < 2 := Nat.div_lt_of_lt_mul (by rwa [← Nat.pow_succ])
    unfold fpSignBit fpSignOf
    generalize w / 2 ^ ((fpParams F).1 + (fpParams F).2.1) = b at hlt
    have hb : b = 0 ∨ b = 1 := by omega
    rcases hb with rfl | rfl <;> simp
  have hlow := Nat.mod_add_div (w % 2 ^ ((fpParams F).1 + (fpParams F).2.1)) (2 ^ (fpParams F).1)
  have hall := Nat.mod_add_div w (2 ^ ((fpParams F).1 + (fpParams F).2.1))
  rw [Nat.pow_add, Nat.mod_mul_right_mod, Nat.mod_mul_right_div_self, ← Nat.pow_add] at hlow
  rw [hsign, fpExpOf, fpFracOf, Nat.mul_comm (w / 2 ^ (fpParams F).1 % 2 ^ (fpParams F).2.1)]
  omega

/-! What a word decodes to, by its exponent field (R69 to R75). -/

theorem fpDecode_sub (F : FpFmt) (tcm : Bool) (w : Nat) (hE : fpExpOf F w = 0) (hz : ¬ (F = .e2m1 ∧ fpSignOf F w = true ∧ fpFracOf F w = 0)) :
    fpDecode F tcm w = .fin (fpSignOf F w) (fpFracOf F w) (1 - ((fpParams F).2.2 : Int) - (fpParams F).1) false := by
  unfold fpExpOf at hE
  unfold fpSignOf fpFracOf at hz ⊢
  cases F with
  | e2m1 => exact (if_pos hE).trans (if_neg fun h => hz ⟨rfl, h⟩)
  | _ => exact if_pos hE
theorem fpDecode_norm (F : FpFmt) (tcm : Bool) (w : Nat) (hE : fpExpOf F w ≠ 0)
    (htop : F = .e2m1 ∨ fpExpOf F w ≠ 2 ^ (fpParams F).2.1 - 1 ∨ (F = .e4m3 ∨ F = .e5m2) ∧ tcm = false ∧ fpFracOf F w ≠ 2 ^ (fpParams F).1 - 1) :
    fpDecode F tcm w = .fin (fpSignOf F w) (2 ^ (fpParams F).1 + fpFracOf F w) ((fpExpOf F w : Int) - (fpParams F).2.2 - (fpParams F).1) false := by
  unfold fpExpOf fpFracOf at *
  unfold fpSignOf
  cases F with
  | e2m1 => exact if_neg hE
  | e4m3 | e5m2 =>
    refine (if_neg hE).trans ?_
    rcases htop with h | h | ⟨-, ht, hf⟩
    · cases h
    · exact if_neg h
    · subst ht
      refine (congrArg (fun x => ite _ x _) (if_neg hf)).trans ?_
      exact ite_self _
  | _ =>
    refine (if_neg hE).trans (if_neg ?_)
    rcases htop with h | h | ⟨h | h, -⟩
    · cases h
    · exact h
    · cases h
    · cases h

/-- With all ones in the exponent field a format holds an infinity or a NaN, or, if it has no infinities, one more binade (R73). -/
theorem fpDecode_top (F : FpFmt) (tcm : Bool) (w : Nat) (hF : F ≠ .e2m1) (hE : fpExpOf F w = 2 ^ (fpParams F).2.1 - 1)
    (hnan : (fpDecode F tcm w).isNaN = false) :
    (fpDecode F tcm w = .inf (fpSignOf F w) ∧ fpFracOf F w = 0 ∧ fpHasInf F tcm = true) ∨
      (F = .e4m3 ∨ F = .e5m2) ∧ tcm = false ∧ fpFracOf F w ≠ 2 ^ (fpParams F).1 - 1 := by
  have h0 : fpExpOf F w ≠ 0 := by rw [hE]; cases F <;> decide
  unfold fpExpOf at hE h0
  unfold fpFracOf
  cases F with
  | e2m1 => exact absurd rfl hF
  | e4m3 | e5m2 =>
    unfold fpDecode at hnan ⊢
    dsimp only [fpParams] at *
    rw [if_neg h0, if_pos hE] at hnan
    rw [if_neg h0, if_pos hE]
    split at hnan
    · cases hnan
    next hf =>
    rw [if_neg hf]
    cases tcm with
    | false => exact .inr ⟨by simp, rfl, hf⟩
    | true =>
      rw [if_pos rfl] at hnan
      rw [if_pos rfl]
      split at hnan
      · next hz => exact .inl ⟨if_pos hz, hz, rfl⟩
      · cases hnan
  | _ =>
    left
    unfold fpDecode at hnan ⊢
    dsimp only [fpParams] at *
    rw [if_neg h0, if_pos hE] at hnan
    rw [if_neg h0, if_pos hE]
    split at hnan
    · next hz => exact ⟨if_pos hz, hz, rfl⟩
    · cases hnan

/-- The number that a word holds, unless it is E2M1's 0b1000 (R75). -/
theorem fpDecode_holds (F : FpFmt) (tcm : Bool) (w : Nat) (hw : w < 2 ^ fpWidthOf F) (hnan : (fpDecode F tcm w).isNaN = false)
    (h8 : F = .e2m1 → w ≠ 8) : FpHolds F tcm w (fpDecode F tcm w) := by
  have hfields := fpFields F w hw
  have hfr := fpFracOf_lt F w
  by_cases hE : fpExpOf F w = 0
  · have hsign : F = .e2m1 → fpFracOf F w = 0 → fpSignOf F w = false := fun hF hf => by
      cases hs : fpSignOf F w
      · rfl
      · rw [hE, hf, hs] at hfields
        subst hF
        exact absurd hfields (h8 rfl)
    rw [fpDecode_sub F tcm w hE fun ⟨hF, hs, hf⟩ => by simp [hsign hF hf] at hs]
    exact .sub _ _ hfr hsign (by rw [hE, Nat.zero_mul, Nat.zero_add] at hfields; exact hfields)
  have hlt := fpExpOf_lt F w
  by_cases hlast : F = .e2m1 ∨ fpExpOf F w ≠ 2 ^ (fpParams F).2.1 - 1
  · rw [fpDecode_norm F tcm w hE (hlast.imp_right .inl)]
    refine .norm _ _ _ hfr (by omega) ?_ ?_ hfields
    all_goals
      generalize fpExpOf F w = E at *
      generalize fpFracOf F w = fr at *
      cases F <;> cases tcm <;> simp [fpMax, fpParams] at * <;> omega
  obtain ⟨hF, htop⟩ := not_or.mp hlast
  rw [not_not] at htop
  rcases fpDecode_top F tcm w hF htop hnan with ⟨e, hf, hinf⟩ | ⟨hF8, ht, hf⟩
  · rw [e]
    exact .inf _ hinf (by rw [htop, hf, Nat.add_zero] at hfields; exact hfields)
  · rw [fpDecode_norm F tcm w hE (.inr (.inr ⟨hF8, ht, hf⟩))]
    subst ht
    refine .norm _ _ _ hfr (by omega) ?_ (fun _ => ?_) hfields
    · rw [htop]
      rcases hF8 with rfl | rfl <;> decide
    · rcases hF8 with rfl | rfl <;> simp [fpMax, fpParams] at hf hfr ⊢ <;> omega

/-- Subnormal and normal numbers lie within the range of their format. -/
theorem fpMax_fits (F : FpFmt) (tcm : Bool) (m : Nat) (e : Int) (hm : m < 2 ^ ((fpParams F).1 + 1)) (hle : e ≤ (fpMax F tcm).2)
    (htop : e = (fpMax F tcm).2 → m ≤ (fpMax F tcm).1) : m ≤ (fpMax F tcm).1 * 2 ^ ((fpMax F tcm).2 - e).toNat := by
  have hmax : 2 ^ ((fpParams F).1 + 1) ≤ (fpMax F tcm).1 * 2 + 1 := by cases F <;> cases tcm <;> decide
  by_cases he : e = (fpMax F tcm).2
  · rw [he]
    simpa using htop he
  · obtain ⟨k, hk⟩ : ∃ k, ((fpMax F tcm).2 - e).toNat = k + 1 := ⟨((fpMax F tcm).2 - e).toNat - 1, by omega⟩
    have hpos := Nat.two_pow_pos k
    calc m ≤ (fpMax F tcm).1 * 2 := by omega
      _ ≤ (fpMax F tcm).1 * 2 ^ (k + 1) := Nat.mul_le_mul_left _ (by omega)
      _ = _ := by rw [hk]

/-- Settles O10: a number that a format holds lies on the format's grid, where `fpRound_grid` keeps it and the encoder gives its word. -/
theorem roundingKeepsRepresentableNumbers : Obligations.RoundingKeepsRepresentableNumbers := by
  unfold Obligations.RoundingKeepsRepresentableNumbers
  intro F tcm m w hw hnan h8
  have h := fpDecode_holds F tcm w hw hnan h8
  generalize fpDecode F tcm w = v at h
  cases h with
  | inf s hinf hw =>
    rw [hw]
    exact if_pos hinf
  | sub s fr hfr hz hw =>
    rw [hw, ← fpEncode_subnormal F s fr (1 - ((fpParams F).2.2 : Int) - (fpParams F).1) hfr hz]
    by_cases h0 : fr = 0
    · subst h0
      rw [fpEncode_subnormal F s 0 _ hfr hz, ← fpEncode_subnormal F s 0 0 hfr hz]
      exact fpRound_zero F tcm m s _
    · have hlen := bitLen_le fr _ hfr
      refine fpRound_grid F tcm m s fr _ h0 ?_ ?_ (fpMax_fits F tcm fr _ ?_ ?_ fun h => ?_)
      · unfold fpGrid
        rw [if_pos (by omega)]
      · cases F <;> cases tcm <;> decide
      · rw [Nat.pow_succ]; omega
      · cases F <;> cases tcm <;> decide
      · cases F <;> cases tcm <;> exact absurd h (by decide)
  | norm s fr E hfr hE hle htop hw =>
    have hlt : 2 ^ (fpParams F).1 + fr < 2 ^ ((fpParams F).1 + 1) := by rw [Nat.pow_succ]; omega
    rw [hw, ← fpEncode_normal F s fr E hfr hE]
    refine fpRound_grid F tcm m s _ _ (by have := Nat.two_pow_pos (fpParams F).1; omega) ?_ hle (fpMax_fits F tcm _ _ hlt hle htop)
    rw [bitLen_eq _ _ (Nat.le_add_right _ _) hlt]
    unfold fpGrid
    rw [if_neg (by omega)]
    omega

end Sys2Proof.Machine

/-! ### Scalar floating-point arithmetic (O7) -/

namespace Sys2Proof.Machine

/-- Instruction i rounds v once into format f, or traps on an enabled flag (R91, R95, R197). -/
def FpRounds (s : State) (i : Instr) (m : Option RMode) (f : BitVec 2) (d : GReg) (v : FpVal × Flags) : Prop :=
  let r := fpRound (fpCodeFmt f) s.th.tcm (scalarRnd s m) v.1
  let fl := v.2 ||| r.2
  (flagTraps s.th.fflags fl = true → exec i s = .next (s.trapWith 0x14 0 (fl.zeroExtend 64) 0 0 0)) ∧
  (flagTraps s.th.fflags fl = false → ∃ t, exec i s = .next t ∧ (d ≠ 0 → t.gr d = BitVec.ofNat 64 r.1) ∧
    (∀ q, q ≠ d → t.gr q = s.gr q) ∧ t.th.fflags = (s.th.fflags ||| fl.zeroExtend 64) ∧
    t.th.srseq = (if modeOf s m = .rsr then s.th.srseq + 1 else s.th.srseq) ∧ t.th.pc = (s.th.next i.len).pc)

/-- SRSEQ is all that a stochastic rounding advances (R95). -/
theorem bumpSr_th (m : Option RMode) (s : State) :
    (bumpSr m s).th = { s.th with srseq := if modeOf s m = .rsr then s.th.srseq + 1 else s.th.srseq } := by
  unfold bumpSr
  split
  · exact State.mapTh_th _ _
  · rfl
/-- The thread after a rounded result. -/
theorem fpWritten_th (m : Option RMode) (d : GReg) (w : Word) (fl : Flags) (s : State) :
    ((bumpSr m (s.orFlags s.foc s.tid fl)).setG d w).th =
      ({ s.th with fflags := s.th.fflags ||| fl.zeroExtend 64,
                   srseq := if modeOf s m = .rsr then s.th.srseq + 1 else s.th.srseq } : Thread).setG d w := by
  have hmode : modeOf (s.orFlags s.foc s.tid fl) m = modeOf s m := by
    unfold modeOf
    rw [State.orFlags_th]
  rw [State.setG_th, bumpSr_th, hmode, State.orFlags_th]

theorem fpWrite_traps (m : Option RMode) (d : GReg) (w : Word) (fl : Flags) (n : Nat) (s : State) (h : flagTraps s.th.fflags fl = true) :
    fpWrite m d w fl n s = .next (s.trapWith 0x14 0 (fl.zeroExtend 64) 0 0 0) := if_pos h
theorem fpWrite_writes (m : Option RMode) (d : GReg) (w : Word) (fl : Flags) (n : Nat) (s : State) (h : flagTraps s.th.fflags fl = false) :
    fpWrite m d w fl n s = .next (((bumpSr m (s.orFlags s.foc s.tid fl)).setG d w).retire n) := if_neg (by rw [h]; decide)

/-- An instruction that rounds its exact result does what R197 says. -/
theorem fpRounds_of_exec {s : State} {i : Instr} {m : Option RMode} {f : BitVec 2} {d : GReg} {v : FpVal × Flags}
    (h : exec i s = fpResult m f d v i.len s) : FpRounds s i m f d v := by
  unfold FpRounds
  dsimp only
  rw [h]
  unfold fpResult
  dsimp only
  generalize fpRound (fpCodeFmt f) s.th.tcm (scalarRnd s m) v.1 = r
  refine ⟨fpWrite_traps m d _ _ _ s, fun hf => ⟨_, fpWrite_writes m d _ _ _ s hf, fun hd => ?_, fun q hq => ?_, ?_, ?_, ?_⟩⟩
  · rw [State.retire_gr, State.setG_gr_same _ _ _ hd]
  · rw [State.retire_gr, State.gr_th, fpWritten_th, Thread.gr_setG_other _ _ _ _ hq]
    exact Thread.gr_congr _ _ rfl q
  · rw [State.retire_th, fpWritten_th]
    simp
  · rw [State.retire_th, fpWritten_th]
    simp
  · rw [State.retire_th, fpWritten_th, Thread.advance_pc]
    exact Thread.next_pc_congr _ _ _ (by simp) (by simp)

/-- An X form of scalar arithmetic has the words of its operand. -/
theorem encFpX_length (k : BitVec 6) (x : FpX) (f : BitVec 2) (d a : GReg) (l : RegLit) (c : GReg) :
    (encFpX k x f d a l c).length = regLitWords l := by cases l <;> rfl

/-- The X form of an arithmetic operation of two operands, past its guard. -/
theorem exec_fpAluXForm_on {op : FpOp} {x : FpX} {f : BitVec 2} {d a : GReg} {l : RegLit} {s : State} (hg : guardHolds x.guard s.th = true) :
    exec (.fpAluXForm op x f d a l) s =
      fpu op x.mode f d (s.gr a) (if op.isUnary then 0 else regLitVal s l) (Instr.fpAluXForm op x f d a l).len s := by
  have hlen : (Instr.fpAluXForm op x f d a l).len = regLitWords l := encFpX_length _ _ _ _ _ _ _
  rw [hlen, exec, execFpAluXForm, guarded_on _ _ hg]
/-- The FMA family, past its guard. -/
theorem fpuFma_on {p c : Bool} {x : FpX} {f : BitVec 2} {d a : GReg} {l : RegLit} {e : GReg} {s : State} (hg : guardHolds x.guard s.th = true) :
    fpuFma p c x f d a l e s = fpResult x.mode f d (fpFmaV (modeOf s x.mode == .rdn) (if p then (fpRead s f (s.gr a)).neg else fpRead s f (s.gr a))
      (fpRead s f (regLitVal s l)) (if c then (fpRead s f (s.gr e)).neg else fpRead s f (s.gr e))) (regLitWords l) s := by
  unfold fpuFma
  dsimp only
  rw [guarded_on _ _ hg]

/-- Settles O7: each operation hands its exact result to `fpResult`, which rounds once or traps. -/
theorem fpArithmeticRoundsOnceOrTraps : Obligations.FpArithmeticRoundsOnceOrTraps := by
  unfold Obligations.FpArithmeticRoundsOnceOrTraps
  intro s f d a b c x l F val y rounds rdn u v
  have hy : y = regLitVal s l := by cases l <;> rfl
  have plain {i : Instr} {m : Option RMode} {w : FpVal × Flags} (h : exec i s = fpResult m f d w i.len s) : rounds i m w := fpRounds_of_exec h
  refine ⟨plain rfl, plain rfl, plain rfl, plain rfl, plain rfl, fun hg => ?_⟩
  have family {p c' : Bool} {i : Instr} (hx : exec i s = fpuFma p c' x f d a l c s) (hl : i.len = regLitWords l) :=
    plain (i := i) (hx.trans ((fpuFma_on hg).trans (by rw [hl])))
  have alu {op : FpOp} {w : FpVal × Flags} (h : ∀ n, fpu op x.mode f d (s.gr a) (if op.isUnary then 0 else regLitVal s l) n s =
      fpResult x.mode f d w n s) := plain (i := .fpAluXForm op x f d a l) ((exec_fpAluXForm_on hg).trans (h _))
  have hlen (k : BitVec 6) : (encFpX k x f d a l c).length = regLitWords l := encFpX_length _ _ _ _ _ _ _
  rw [hy]
  exact ⟨family (p := false) (c' := false) rfl (hlen _), family (p := false) (c' := true) rfl (hlen _), family (p := true) (c' := false) rfl (hlen _),
    alu fun _ => rfl, alu fun _ => rfl, alu fun _ => rfl, alu fun _ => rfl, alu fun _ => rfl⟩

end Sys2Proof.Machine

/-! ### Conversions (O9) -/

namespace Sys2Proof.Machine

/-- What a rounded result of a scalar instruction leads to (R91, R95). -/
theorem fpWrite_eq (m : Option RMode) (d : GReg) (w : Word) (fl : Flags) (n : Nat) (s : State) : fpWrite m d w fl n s =
    .next (if flagTraps s.th.fflags fl then s.trapWith 0x14 0 (fl.zeroExtend 64) 0 0 0
      else ((bumpSr m (s.orFlags s.foc s.tid fl)).setG d w).retire n) := by
  unfold fpWrite
  rw [raising_eq]
  exact (apply_ite Host.Outcome.next _ _ _).symm

/-- The value that FCVT reads under a format code (R200). -/
def fcvtSource (s : State) (v : FpCode) (w : Word) : FpVal := match codeFmt v with
  | some F => fpDecode F s.th.tcm w.toNat
  | none => intVal (codeInt v w)

theorem fcvt_float {u v : FpCode} {F : FpFmt} (h : codeFmt u = some F) (m : Option RMode) (d : GReg) (w : Word) (n : Nat) (s : State) :
    fcvt m u v d w n s = fpWrite m d (BitVec.ofNat 64 (fpRound F s.th.tcm (scalarRnd s m) (fcvtSource s v w)).1)
      (sigFlag (fcvtSource s v w).isSig ||| (fpRound F s.th.tcm (scalarRnd s m) (fcvtSource s v w)).2) n s := by
  unfold fcvt
  rw [h]
  rfl
theorem fcvt_int {u v : FpCode} (h : codeFmt u = none) (m : Option RMode) (d : GReg) (w : Word) (n : Nat) (s : State) :
    fcvt m u v d w n s = fpWrite m d (BitVec.ofInt 64 (fpToInt (codeRange u).1 (codeRange u).2 (scalarRnd s m) (fcvtSource s v w)).1)
      (fpToInt (codeRange u).1 (codeRange u).2 (scalarRnd s m) (fcvtSource s v w)).2 n s := by
  unfold fcvt
  rw [h]
  rfl
theorem fround_eq {v : FpCode} {F : FpFmt} (h : codeFmt v = some F) (m : Option RMode) (d : GReg) (w : Word) (n : Nat) (s : State) :
    fround m v d w n s = fpWrite m d
      (BitVec.ofNat 64 (fpRound F s.th.tcm rneMode (fpIntegral (scalarRnd s m) (fcvtSource s v w)).1).1)
      (fpIntegral (scalarRnd s m) (fcvtSource s v w)).2 n s := by
  unfold fround fcvtSource
  rw [h]
  rfl

/-- The ranges of the integer codes (R89). -/
theorem codeRange_eq (u : FpCode) :
    codeRange u = (if u = .i32 then -2 ^ 31 else if u = .i64 then -2 ^ 63 else 0,
      if u = .i32 then 2 ^ 31 - 1 else if u = .i64 then 2 ^ 63 - 1 else if u = .u32 then 2 ^ 32 - 1 else 2 ^ 64 - 1) := by
  cases u <;> rfl

/-- Past its guard the X form converts or rounds as the R forms do. -/
theorem exec_fpConvertXForm_on {u v : FpCode} {rnd : Bool} {x : FpX} {d a : GReg} {s : State} (hg : guardHolds x.guard s.th = true) :
    exec (.fpConvertXForm u v rnd x d a) s = if rnd then fround x.mode v d (s.gr a) 3 s else fcvt x.mode u v d (s.gr a) 3 s := by
  rw [exec, execFpConvertXForm, guarded_on _ _ hg]

/-- Settles O9: `fcvt` and `fround` hand the rounded or saturated value to `fpWrite`. -/
theorem conversionsRoundAndSaturate : Obligations.ConversionsRoundAndSaturate := by
  unfold Obligations.ConversionsRoundAndSaturate
  intro s u v rnd x d a src done converts integral
  have hsrc : src = fcvtSource s v (s.gr a) := rfl
  have writes {i : Instr} {m : Option RMode} {w : Word} {fl : Flags} (h : exec i s = fpWrite m d w fl i.len s) : done i m w fl :=
    h.trans (fpWrite_eq _ _ _ _ _ _)
  have convert {i : Instr} {m : Option RMode} (h : exec i s = fcvt m u v d (s.gr a) i.len s) : converts i m := by
    show match codeFmt u with
      | some F => _
      | none => _
    split
    · next F hu => exact writes (h.trans (fcvt_float hu _ _ _ _ _))
    · next hu =>
      have hint := fcvt_int (v := v) hu m d (s.gr a) i.len s
      rw [codeRange_eq] at hint
      exact writes (h.trans hint)
  have round {i : Instr} {m : Option RMode} (h : exec i s = fround m v d (s.gr a) i.len s) : integral i m :=
    fun F hv => writes (h.trans (fround_eq hv _ _ _ _ _))
  refine ⟨convert rfl, round rfl, fun hg => ⟨fun hr => convert ?_, fun hr => round ?_⟩⟩
  · rw [exec_fpConvertXForm_on hg, hr]; rfl
  · rw [exec_fpConvertXForm_on hg, hr]; rfl

end Sys2Proof.Machine

/-! ### Selection, comparison and signs of scalar floating point (O8) -/

namespace Sys2Proof.Machine

/-! The scalar formats (R195) and what their words hold. -/

/-- The four formats of R195, in which all ones in the exponent field is an infinity or a NaN. -/
def fpIeee : FpFmt → Bool
  | .fp64 | .fp32 | .fp16 | .bf16 => true
  | _ => false
theorem fpCodeFmt_ieee (f : BitVec 2) : fpIeee (fpCodeFmt f) = true := by
  unfold fpCodeFmt
  (repeat' split) <;> rfl

theorem fpDecode_ieee_top {F : FpFmt} (hF : fpIeee F = true) (tcm : Bool) (w : Nat) (hE : fpExpOf F w = 2 ^ (fpParams F).2.1 - 1) :
    fpDecode F tcm w = if fpFracOf F w = 0 then .inf (fpSignOf F w) else .nan (fpFracOf F w < 2 ^ ((fpParams F).1 - 1)) := by
  have h0 : fpExpOf F w ≠ 0 := by rw [hE]; cases F <;> decide
  unfold fpExpOf at hE h0
  unfold fpFracOf fpSignOf
  cases F with
  | fp64 | fp32 | fp16 | bf16 => exact (if_neg h0).trans (if_pos hE)
  | _ => cases hF

/-- A word of a scalar format by its exponent field: zero or subnormal, normal, an infinity, or a NaN. -/
theorem fpDecode_ieee {F : FpFmt} (hF : fpIeee F = true) (tcm : Bool) (w : Nat) :
    fpExpOf F w = 0 ∧ fpDecode F tcm w = .fin (fpSignOf F w) (fpFracOf F w) (1 - ((fpParams F).2.2 : Int) - (fpParams F).1) false ∨
    (0 < fpExpOf F w ∧ fpExpOf F w + 1 < 2 ^ (fpParams F).2.1) ∧
      fpDecode F tcm w = .fin (fpSignOf F w) (2 ^ (fpParams F).1 + fpFracOf F w) ((fpExpOf F w : Int) - (fpParams F).2.2 - (fpParams F).1) false ∨
    (0 < fpExpOf F w ∧ fpExpOf F w + 1 = 2 ^ (fpParams F).2.1) ∧
      (fpDecode F tcm w = .inf (fpSignOf F w) ∨ ∃ sig, fpDecode F tcm w = .nan sig) := by
  have hlt := fpExpOf_lt F w
  have hwide : 1 < 2 ^ (fpParams F).2.1 := by cases F <;> decide
  by_cases h0 : fpExpOf F w = 0
  · exact .inl ⟨h0, fpDecode_sub F tcm w h0 fun ⟨h, _⟩ => by subst h; cases hF⟩
  by_cases ht : fpExpOf F w = 2 ^ (fpParams F).2.1 - 1
  · refine .inr (.inr ⟨⟨by omega, by omega⟩, ?_⟩)
    rw [fpDecode_ieee_top hF tcm w ht]
    split
    · exact .inl rfl
    · exact .inr ⟨_, rfl⟩
  · exact .inr (.inl ⟨⟨by omega, by omega⟩, fpDecode_norm F tcm w h0 (.inr (.inl ht))⟩)

/-- The sign of a number is its word's sign bit. -/
theorem fpDecode_sign {F : FpFmt} (hF : fpIeee F = true) (tcm : Bool) (w : Nat) (hn : (fpDecode F tcm w).isNaN = false) :
    (fpDecode F tcm w).sign = fpSignOf F w := by
  rcases fpDecode_ieee hF tcm w with ⟨-, e⟩ | ⟨-, e⟩ | ⟨-, e | ⟨sig, e⟩⟩
  · rw [e]; rfl
  · rw [e]; rfl
  · rw [e]; rfl
  · rw [e] at hn; cases hn

/-- What FCLASS answers, in the words of R197: signs, exponents and fractions. -/
theorem fpClassBit_ieee {F : FpFmt} (hF : fpIeee F = true) (tcm : Bool) (w : Nat) :
    let u := fpDecode F tcm w
    let n := fpClassBit F w u
    let minus := w / 2 ^ ((fpParams F).1 + (fpParams F).2.1) % 2 = 1
    let finite := fpExpOf F w + 1 < 2 ^ (fpParams F).2.1
    n < 10 ∧ (n = 8 ∨ n = 9 ↔ u.isNaN = true) ∧ (n = 8 ↔ u.isSig = true) ∧ (n = 0 ↔ u = .inf true) ∧ (n = 7 ↔ u = .inf false) ∧
      (n = 1 ↔ minus ∧ 0 < fpExpOf F w ∧ finite) ∧ (n = 6 ↔ ¬ minus ∧ 0 < fpExpOf F w ∧ finite) ∧
      (n = 2 ↔ minus ∧ fpExpOf F w = 0 ∧ fpFracOf F w ≠ 0) ∧ (n = 5 ↔ ¬ minus ∧ fpExpOf F w = 0 ∧ fpFracOf F w ≠ 0) ∧
      (n = 3 ↔ minus ∧ fpExpOf F w = 0 ∧ fpFracOf F w = 0) ∧ (n = 4 ↔ ¬ minus ∧ fpExpOf F w = 0 ∧ fpFracOf F w = 0) := by
  intro u n minus finite
  have hminus : minus ↔ fpSignOf F w = true := beq_iff_eq.symm
  rcases fpDecode_ieee hF tcm w with ⟨hE, e⟩ | ⟨⟨hE, hfin⟩, e⟩ | ⟨⟨hE, htop⟩, e | ⟨sig, e⟩⟩
  · have hn : n = if fpFracOf F w = 0 then (if fpSignOf F w then 3 else 4) else (if fpSignOf F w then 2 else 5) := by
      show fpClassBit F w (fpDecode F tcm w) = _
      rw [e]
      exact congrArg (ite _ _) (if_pos hE)
    rw [hn, show u = _ from e]
    by_cases hf : fpFracOf F w = 0 <;> cases hs : fpSignOf F w <;> simp [hminus, finite, hf, hs, hE, FpVal.isNaN, FpVal.isSig]
  · have hn : n = if fpSignOf F w then 1 else 6 := by
      show fpClassBit F w (fpDecode F tcm w) = _
      rw [e]
      exact (if_neg (by have := Nat.two_pow_pos (fpParams F).1; omega)).trans (if_neg hE.ne')
    rw [hn, show u = _ from e]
    cases hs : fpSignOf F w <;> simp [hminus, finite, hs, hE, hE.ne', hfin, FpVal.isNaN, FpVal.isSig]
  · have hn : n = if fpSignOf F w then 0 else 7 := by
      show fpClassBit F w (fpDecode F tcm w) = _
      rw [e]
      rfl
    rw [hn, show u = _ from e]
    cases hs : fpSignOf F w <;> simp [hminus, finite, hs, hE.ne', htop, FpVal.isNaN, FpVal.isSig]
  · have hn : n = if sig then 8 else 9 := by
      show fpClassBit F w (fpDecode F tcm w) = _
      rw [e]
      rfl
    rw [hn, show u = _ from e]
    cases sig <;> simp [hminus, finite, hE.ne', htop, FpVal.isNaN, FpVal.isSig]

/-! A word's low bits (R187), and its sign apart. -/

theorem fpSignBit_true (F : FpFmt) : fpSignBit F true = 2 ^ (fpWidthOf F - 1) := rfl
theorem fpWidthOf_pow (F : FpFmt) : 2 ^ fpWidthOf F = 2 * 2 ^ (fpWidthOf F - 1) := by
  unfold fpWidthOf
  rw [Nat.add_sub_cancel, Nat.pow_succ, Nat.mul_comm]
theorem fpLow_lt (f : BitVec 2) (w : Word) : fpLow f w < 2 * 2 ^ (fpWidthOf (fpCodeFmt f) - 1) := by
  rw [← fpWidthOf_pow]
  exact Nat.mod_lt _ (Nat.two_pow_pos _)
theorem fpLow_sign (f : BitVec 2) (w : Word) :
    fpSignOf (fpCodeFmt f) w.toNat = decide (fpLow f w / 2 ^ (fpWidthOf (fpCodeFmt f) - 1) = 1) := by
  unfold fpSignOf fpLow
  rw [fpWidthOf_pow, Nat.mul_comm 2, Nat.mod_mul_right_div_self]
  rfl

/-! What the operations of R198 lead to. -/

/-- A scalar instruction that may raise NV and else retires with state k (R91). -/
def FpRaises (s : State) (i : Instr) (nv : Bool) (k : State → State) : Prop :=
  let fl : Flags := if nv then 0x10 else 0
  exec i s = .next (if flagTraps s.th.fflags fl then s.trapWith 0x14 0 (fl.zeroExtend 64) 0 0 0
    else (k (s.orFlags s.foc s.tid fl)).retire i.len)

theorem fpRaises_of_exec {s : State} {i : Instr} {nv : Bool} {k : State → State}
    (h : exec i s = raising (sigFlag nv) s fun s => .next ((k s).retire i.len)) : FpRaises s i nv k := by
  rw [raising_eq] at h
  exact h.trans (apply_ite Host.Outcome.next _ _ _).symm

/-- The order of FMIN and FMAX: by value, and −0 below +0 (R198). -/
def fpLess (u v : FpVal) : Bool := fpLtV u v || (fpEqV u v && u.sign && !v.sign)
theorem fpMinMaxPick_eq (isMax : Bool) (u v : FpVal) : fpMinMaxPick isMax u v =
    if u.isNaN then (if v.isNaN then 2 else 1) else if v.isNaN then 0
      else if isMax then (if fpLess u v then 1 else 0) else (if fpLess u v then 0 else 1) := rfl
/-- The operand that FMIN and FMAX pick (R198). -/
theorem fpMinMax_word (isMax : Bool) (u v : FpVal) (a b c : Nat) :
    (if fpMinMaxPick isMax u v = 0 then a else if fpMinMaxPick isMax u v = 1 then b else c) =
      if u.isNaN && v.isNaN then c else if u.isNaN then b else if v.isNaN then a
        else if cond isMax (!fpLess u v) (fpLess u v) then a else b := by
  rw [fpMinMaxPick_eq]
  generalize fpLess u v = less
  cases u.isNaN <;> cases v.isNaN <;> cases isMax <;> cases less <;> rfl

section
variable {s : State} {i : Instr} {m : Option RMode} {f : BitVec 2} {d : GReg} {a b : Word}

theorem fpu_minMax {isMax : Bool} (h : exec i s = fpu (if isMax then .fmax else .fmin) m f d a b i.len s) :
    FpRaises s i ((fpRead s f a).isSig || (fpRead s f b).isSig) fun t => t.setG d (BitVec.ofNat 64
      (if (fpRead s f a).isNaN && (fpRead s f b).isNaN then fpNaN (fpCodeFmt f) else if (fpRead s f a).isNaN then fpLow f b
        else if (fpRead s f b).isNaN then fpLow f a
        else if cond isMax (!fpLess (fpRead s f a) (fpRead s f b)) (fpLess (fpRead s f a) (fpRead s f b)) then fpLow f a else fpLow f b)) := by
  refine fpRaises_of_exec ?_
  rw [h, ← fpMinMax_word]
  cases isMax <;> rfl
theorem fpu_signed {op : FpOp} {w : Nat}
    (hop : ∀ n, fpu op m f d a b n s = .next ((s.setG d (BitVec.ofNat 64 (if (fpRead s f a).isNaN then fpNaN (fpCodeFmt f) else w))).retire n))
    {v : Nat} (hw : (fpRead s f a).isNaN = false → w = v) (h : exec i s = fpu op m f d a b i.len s) :
    exec i s = .next ((s.setG d (BitVec.ofNat 64 (if (fpRead s f a).isNaN then fpNaN (fpCodeFmt f) else v))).retire i.len) := by
  rw [h, hop]
  cases hn : (fpRead s f a).isNaN
  · rw [hw hn]
  · rfl

theorem fpu_compares {op : FpOp} {p : PReg} {nv c : Bool}
    (hop : ∀ n, fpu op m f d a b n s = raising (sigFlag nv) s fun t => .next ((t.setP (d.setWidth 3) c).retire n)) (hd : d.setWidth 3 = p)
    (h : exec i s = fpu op m f d a b i.len s) : FpRaises s i nv fun t => t.setP p c :=
  fpRaises_of_exec (h.trans (hd ▸ hop _))

end

/-- FNEG flips the sign bit, and keeps the rest (R198). -/
theorem fpNeg_word {s : State} {f : BitVec 2} {a : Word} (hn : (fpRead s f a).isNaN = false) :
    (if (fpRead s f a).sign then fpLow f a % fpSignBit (fpCodeFmt f) true
      else fpLow f a % fpSignBit (fpCodeFmt f) true + fpSignBit (fpCodeFmt f) true) =
      (fpLow f a + 2 ^ (fpWidthOf (fpCodeFmt f) - 1)) % (2 * 2 ^ (fpWidthOf (fpCodeFmt f) - 1)) := by
  have hlt := fpLow_lt f a
  have hsign : (fpRead s f a).sign = _ := (fpDecode_sign (fpCodeFmt_ieee f) _ _ hn).trans (fpLow_sign f a)
  rw [hsign, fpSignBit_true]
  have htop := Nat.two_pow_pos (fpWidthOf (fpCodeFmt f) - 1)
  generalize fpLow f a = A at *
  generalize 2 ^ (fpWidthOf (fpCodeFmt f) - 1) = top at *
  by_cases h : A < top
  · rw [Nat.div_eq_of_lt h, Nat.mod_eq_of_lt h, Nat.mod_eq_of_lt (by omega)]
    rfl
  · have hdiv : A / top = 1 := by rw [Nat.div_eq_iff htop]; omega
    rw [hdiv, Nat.mod_eq_sub_mod (by omega), Nat.mod_eq_of_lt (by omega), Nat.mod_eq_sub_mod (by omega), Nat.mod_eq_of_lt (by omega)]
    simp
    omega
/-- FSGNJ takes the second operand's sign bit (R198). -/
theorem fpSgnj_word (f : BitVec 2) (a b : Word) :
    fpLow f a % fpSignBit (fpCodeFmt f) true + (if fpLow f b / fpSignBit (fpCodeFmt f) true = 1 then fpSignBit (fpCodeFmt f) true else 0) =
      fpLow f a % 2 ^ (fpWidthOf (fpCodeFmt f) - 1) + fpLow f b / 2 ^ (fpWidthOf (fpCodeFmt f) - 1) * 2 ^ (fpWidthOf (fpCodeFmt f) - 1) := by
  rw [fpSignBit_true]
  have hb : fpLow f b / 2 ^ (fpWidthOf (fpCodeFmt f) - 1) < 2 := Nat.div_lt_of_lt_mul (by rw [Nat.mul_comm]; exact fpLow_lt f b)
  generalize fpLow f b / 2 ^ (fpWidthOf (fpCodeFmt f) - 1) = q at hb
  obtain rfl | rfl : q = 0 ∨ q = 1 := by omega
  · simp
  · simp

/-- Settles O8: the R and the X form of each operation hand their operands to `fpu`, whose picks, words, answers and classes are as said. -/
theorem fpSelectionAndSignOperations : Obligations.FpSelectionAndSignOperations := by
  unfold Obligations.FpSelectionAndSignOperations
  intro s f d a b p x l F A B Y u val low top quiet raises less picks answers neg abs signed sig nan classes
  have hY : Y = regLitVal s l := by cases l <;> rfl
  have pick (isMax : Bool) {i : Instr} (m : Option RMode) (w : Word) (h : exec i s = fpu (if isMax then .fmax else .fmin) m f d A w i.len s) :
      picks i w (cond isMax (!less w) (less w)) := fpu_minMax h
  have negates {i : Instr} (m : Option RMode) (w : Word) (h : exec i s = fpu .fneg m f d A w i.len s) : quiet i neg :=
    fpu_signed (fun _ => rfl) fpNeg_word h
  have absolute {i : Instr} (m : Option RMode) (w : Word) (h : exec i s = fpu .fabs m f d A w i.len s) : quiet i abs :=
    fpu_signed (fun _ => rfl) (fun _ => rfl) h
  have copies {i : Instr} (m : Option RMode) (w : Word) (h : exec i s = fpu .fsgnj m f d A w i.len s) : quiet i (signed w) :=
    fpu_signed (fun _ => rfl) (fun _ => fpSgnj_word f A w) h
  have classify {i : Instr} (m : Option RMode) (w : Word) (h : exec i s = fpu .fclass m f d A w i.len s) : classes i := by
    obtain ⟨hlt, hspec⟩ := fpClassBit_ieee (fpCodeFmt_ieee f) s.th.tcm A.toNat
    exact ⟨_, hlt, h, hspec⟩
  have hp : (p.setWidth 5).setWidth 3 = p := by simp
  have hX {op : FpOp} (hg : guardHolds x.guard s.th = true) : exec (.fpAluXForm op x f d a l) s =
      fpu op x.mode f d A (if op.isUnary then 0 else regLitVal s l) (Instr.fpAluXForm op x f d a l).len s := exec_fpAluXForm_on hg
  refine ⟨pick false none B rfl, pick true none B rfl, negates none 0 rfl, absolute none 0 rfl, copies none B rfl, ?_, ?_, ?_, ?_,
    classify none 0 rfl, fun hg => ?_⟩
  · exact fpu_compares (op := .feq) (m := none) (fun _ => rfl) hp rfl
  · exact fpu_compares (op := .flt) (m := none) (fun _ => rfl) hp rfl
  · exact fpu_compares (op := .fle) (m := none) (fun _ => rfl) hp rfl
  · exact fpu_compares (op := .funord) (m := none) (fun _ => rfl) hp rfl
  · rw [hY]
    refine ⟨pick false _ _ (hX hg), pick true _ _ (hX hg), negates _ _ (hX hg), absolute _ _ (hX hg), copies _ _ (hX hg), ?_, ?_, ?_, ?_,
      classify _ _ (hX hg)⟩
    · exact fpu_compares (op := .feq) (fun _ => rfl) rfl (hX hg)
    · exact fpu_compares (op := .flt) (fun _ => rfl) rfl (hX hg)
    · exact fpu_compares (op := .fle) (fun _ => rfl) rfl (hX hg)
    · exact fpu_compares (op := .funord) (fun _ => rfl) rfl (hX hg)

end Sys2Proof.Machine

/-! ### Vector lanes (O33) -/

namespace Sys2Proof.Machine

/-! Elements of a line (R67, R80). -/

/-- Element j of a line, of w bits. -/
def elemAt (w : Nat) (l : Line) (j : Nat) : Nat := l.toNat / 2 ^ (w * j) % 2 ^ w

theorem elemAt_lt (w : Nat) (l : Line) (j : Nat) : elemAt w l j < 2 ^ w := Nat.mod_lt _ (Nat.two_pow_pos _)
theorem joinNat_lt (w : Nat) (xs : List Nat) : joinNat w xs < 2 ^ (w * xs.length) := by
  induction xs with
  | nil => exact Nat.one_pos
  | cons x xs ih =>
    have hx := Nat.mod_lt x (Nat.two_pow_pos w)
    have hle : 2 ^ w * (joinNat w xs + 1) ≤ 2 ^ w * 2 ^ (w * xs.length) := Nat.mul_le_mul_left _ ih
    rw [joinNat, List.length_cons, Nat.mul_succ, Nat.add_comm _ w, Nat.pow_add]
    rw [Nat.mul_succ] at hle
    omega
theorem joinNat_elem (w : Nat) (xs : List Nat) (j : Nat) : joinNat w xs / 2 ^ (w * j) % 2 ^ w = xs.getD j 0 % 2 ^ w := by
  induction xs generalizing j with
  | nil => simp [joinNat]
  | cons x xs ih =>
    rw [joinNat]
    cases j with
    | zero => simp
    | succ j =>
      rw [Nat.mul_succ, Nat.add_comm _ w, Nat.pow_add, ← Nat.div_div_eq_div_mul, Nat.add_mul_div_left _ _ (Nat.two_pow_pos w),
        Nat.div_eq_of_lt (Nat.mod_lt x (Nat.two_pow_pos w)), Nat.zero_add, ih]
      rfl
/-- The elements joined into a line read back. -/
theorem elemAt_joinLine (w : Nat) (xs : List Nat) (j : Nat) (h : w * xs.length ≤ 512) : elemAt w (joinLine w xs) j = xs.getD j 0 % 2 ^ w := by
  have hlt := Nat.lt_of_lt_of_le (joinNat_lt w xs) (Nat.pow_le_pow_right Nat.two_pos h)
  rw [elemAt, joinLine, BitVec.toNat_ofNat, Nat.mod_eq_of_lt hlt, joinNat_elem]

theorem splitLine_length (l : Line) (w n : Nat) : (splitLine l w n).length = n := by simp [splitLine]
theorem splitLine_getElem (l : Line) (w n j : Nat) (h : j < (splitLine l w n).length) : (splitLine l w n)[j] = elemAt w l j := by
  simp [splitLine, elemAt, Nat.shiftRight_eq_div_pow]

/-! The integer formats (R68). -/

theorem Fmt.width_int {F : Fmt} (hF : F.isInt = true) : F.width * F.count = 512 ∧ F.count ≤ 64 ∧ F.width ∣ 2 ^ F.width ∧ 0 < F.width := by
  cases F with
  | int8 | uint8 | int16 | int32 => decide
  | _ => cases hF

/-- An integer format's least and greatest value, and the value of an element (R68). -/
def intLow (F : Fmt) : Int := if F = .uint8 then 0 else -2 ^ (F.width - 1)
def intHigh (F : Fmt) : Int := if F = .uint8 then 255 else 2 ^ (F.width - 1) - 1
def intValue (F : Fmt) (u : Nat) : Int := if F = .uint8 ∨ u < 2 ^ (F.width - 1) then u else (u : Int) - 2 ^ F.width

theorem Fmt.range_int {F : Fmt} (hF : F.isInt = true) : F.range = (intLow F, intHigh F) := by
  cases F with
  | int8 | uint8 | int16 | int32 => decide
  | _ => cases hF
theorem intElem_eq {F : Fmt} (hF : F.isInt = true) (u : Nat) : intElem F u = intValue F u := by
  unfold intElem intValue
  cases F with
  | int8 | uint8 | int16 | int32 => simp
  | _ => cases hF
theorem intValue_range {F : Fmt} (hF : F.isInt = true) (u : Nat) (hu : u < 2 ^ F.width) : intLow F ≤ intValue F u ∧ intValue F u ≤ intHigh F := by
  unfold intLow intHigh intValue
  cases F with
  | int8 | uint8 | int16 | int32 =>
    simp [Fmt.width, Fmt.count] at hu ⊢
    omega
  | _ => cases hF
/-- A shift counts its second pattern's low bits, whatever its sign. -/
theorem intValue_emod {F : Fmt} (hF : F.isInt = true) (u : Nat) : (intValue F u % (F.width : Int)).toNat = u % F.width := by
  obtain ⟨-, -, hdvd, -⟩ := Fmt.width_int hF
  have hmod : intValue F u % (F.width : Int) = (u : Int) % (F.width : Int) := by
    unfold intValue
    split
    · rfl
    · obtain ⟨k, hk⟩ := hdvd
      have hcast : (2 : Int) ^ F.width = F.width * k := by exact_mod_cast hk
      rw [hcast, Int.sub_mul_emod_self_left]
  rw [hmod]
  omega

/-! What the checks of R254 find for integer sources. -/

theorem checkDesc_plainTag {F : Fmt} (hF : F.isInt = true) (c imode : Bool) (w : Word) : checkDesc (plainTag F c) w imode = .ok F := by
  cases F with
  | int8 | uint8 | int16 | int32 => cases c <;> cases imode <;> rfl
  | _ => cases hF
theorem dFormat_plainTag {F : Fmt} (hF : F.isInt = true) (c : Bool) : dFormat (plainTag F c) = F := by
  cases F with
  | int8 | uint8 | int16 | int32 => cases c <;> decide
  | _ => cases hF

theorem Fmt.numeric_of_int {F : Fmt} (hF : F.isInt = true) : F.isNumeric = true ∧ F ≠ .e2m1 := by
  cases F with
  | int8 | uint8 | int16 | int32 => decide
  | _ => cases hF
theorem vecSources_one {F : Fmt} (hF : F.isInt = true) (t : Thread) (imode : Bool) (a : VReg) (ha : ∃ c, t.vt a = plainTag F c) :
    vecSources t imode false none [a] = .ok (F, [F]) := by
  obtain ⟨c, ha⟩ := ha
  have hfmt := Fmt.numeric_of_int hF
  simp [vecSources, ha, checkDesc_plainTag hF, need, hF, hfmt, bind, Except.bind, pure, Except.pure]
theorem vecSources_two {F : Fmt} (hF : F.isInt = true) (t : Thread) (imode : Bool) (a b : VReg) (ha : ∃ c, t.vt a = plainTag F c)
    (hb : ∃ c, t.vt b = plainTag F c) : vecSources t imode false none [a, b] = .ok (F, [F, F]) := by
  obtain ⟨c, ha⟩ := ha
  obtain ⟨c', hb⟩ := hb
  have hfmt := Fmt.numeric_of_int hF
  simp [vecSources, ha, hb, checkDesc_plainTag hF, need, hF, hfmt, bind, Except.bind, pure, Except.pure]

/-! Lanes under a mask (R247). -/

/-- What lane i of register d holds after a masked write of `new` there. -/
def laneAfter (t : Thread) (F : Fmt) (x : VMod) (d : VReg) (i : Nat) (new : Int) : Int :=
  if (t.mr x.e).getLsbD i then new % 2 ^ F.width else if x.zero then 0 else (elemAt F.width (t.vr d) i : Int)

theorem splitAs_getElem (F : Fmt) (l : Line) (i : Nat) (h : i < (splitAs F l).length) : (splitAs F l)[i] = elemAt F.width l i :=
  splitLine_getElem _ _ _ _ h
theorem splitAs_length (F : Fmt) (l : Line) : (splitAs F l).length = F.count := splitLine_length _ _ _

theorem vWrite_lanes {F : Fmt} (hF : F.isInt = true) (t : Thread) (d : VReg) (x : VMod) (xs : List Nat) (tag : Desc) (hlen : xs.length = F.count)
    (i : Nat) (hi : i < F.count) : ∃ l, vWrite t d F (t.mr x.e) x.zero xs tag = .v d l tag ∧
      (elemAt F.width l i : Int) = laneAfter t F x d i (xs[i] : Nat) := by
  obtain ⟨hw, h64, -, -⟩ := Fmt.width_int hF
  have hon : laneOn (t.mr x.e) F.count i = (t.mr x.e).getLsbD i := by unfold laneOn; rw [if_pos h64]
  refine ⟨_, rfl, ?_⟩
  rw [elemAt_joinLine _ _ _ (by simp [splitAs_length, hlen, hw])]
  rw [List.getD_eq_getElem _ _ (by simp [splitAs_length, hlen, hi])]
  simp only [List.getElem_map, List.getElem_zip, List.getElem_range, hon, splitAs_getElem]
  unfold laneAfter
  split
  · push_cast
    rfl
  · split
    · simp
    · rw [Nat.mod_eq_of_lt (elemAt_lt _ _ _)]

/-- An integer operation between two registers of format F, lane by lane (R255). -/
theorem runInt_lanes {F : Fmt} (hF : F.isInt = true) {t : Thread} {a b : VReg} (ha : ∃ c, t.vt a = plainTag F c) (hb : ∃ c, t.vt b = plainTag F c)
    (q : QOp) (o : IntVOp) {x : VMod} (hx : x.rfmt = none) (d : VReg) {i : Nat} (hi : i < F.count) :
    ∃ l, runInt t q o x d a (.v b) = .ok (0, [.v d l (plainTag F q.tcm)]) ∧ (elemAt F.width l i : Int) = laneAfter t F x d i
      (intOp o F.width (intLow F) (intHigh F) (intValue F (elemAt F.width (t.vr a) i)) (elemAt F.width (t.vr a) i)
        (intValue F (elemAt F.width (t.vr b) i)) (elemAt F.width (t.vr b) i)) := by
  have hfa : dFormat (t.vt a) = F := by obtain ⟨c, e⟩ := ha; rw [e, dFormat_plainTag hF]
  have hfb : dFormat (t.vt b) = F := by obtain ⟨c, e⟩ := hb; rw [e, dFormat_plainTag hF]
  have hsrc : ∃ fs, vecSources t true false x.rfmt (a :: if o = .abs then [] else VOpd.regs (.v b)) = .ok (F, fs) := by
    rw [hx]
    split
    · exact ⟨_, vecSources_one hF t true a ha⟩
    · exact ⟨_, vecSources_two hF t true a b ha hb⟩
  obtain ⟨fs, hsrc⟩ := hsrc
  have hlen : (((intElems F (splitAs F (t.vr a))).zip (intElems F (splitAs F (t.vr b)))).map fun ((x, px), (y, py)) =>
      (intOp o F.width (intLow F) (intHigh F) x px y py % (2 ^ F.width : Nat)).toNat).length = F.count := by
    simp [intElems, splitAs_length]
  obtain ⟨l, hl, hlane⟩ := vWrite_lanes hF t d x _ (plainTag F q.tcm) hlen i hi
  refine ⟨l, ?_, hlane.trans ?_⟩
  · unfold runInt
    rw [hsrc]
    simp only [bind, Except.bind, pure, Except.pure, VOpd.tag, VOpd.bits, hfa, hfb, Fmt.range_int hF]
    rw [hl]
  · have hpos : (0 : Int) < (2 ^ F.width : Nat) := by exact_mod_cast Nat.two_pow_pos _
    simp only [List.getElem_map, List.getElem_zip, intElems, splitAs_getElem, intElem_eq hF]
    rw [Int.toNat_of_nonneg (Int.emod_nonneg _ hpos.ne')]
    unfold laneAfter
    push_cast
    rw [Int.emod_emod_of_dvd _ (dvd_refl _)]

/-- What lies in the format's range stays as it is under saturation. -/
theorem saturate_of_mem {F : Fmt} {v : Int} (h : intLow F ≤ v ∧ v ≤ intHigh F) : max (intLow F) (min (intHigh F) v) = v := by omega

/-- The elements that VREV puts into the lanes, as `runPerm` finds them. -/
def revElems (F : Fmt) (l : Line) : List Nat := (List.range F.count).map fun (j : Nat) =>
  if 0 ≤ (F.count - 1 - j : Int) ∧ (F.count - 1 - j : Int) < F.count then (splitAs F l).getD (F.count - 1 - j : Int).toNat 0 else 0
theorem revElems_length (F : Fmt) (l : Line) : (revElems F l).length = F.count := by simp [revElems]
theorem revElems_getElem (F : Fmt) (l : Line) (i : Nat) (h : i < (revElems F l).length) :
    (revElems F l)[i] = elemAt F.width l (F.count - 1 - i) := by
  have hi : i < F.count := by rwa [revElems_length] at h
  have hget : ((F.count : Int) - 1 - i).toNat = F.count - 1 - i := by omega
  simp only [revElems, List.getElem_map, List.getElem_range]
  rw [if_pos (by omega), hget, List.getD_eq_getElem _ _ (by rw [splitAs_length]; omega), splitAs_getElem]

/-- VREV (R262): lane i takes the element as far from the end. -/
theorem runPerm_rev {F : Fmt} (hF : F.isInt = true) {t : Thread} {a : VReg} {c : Bool} (ha : t.vt a = plainTag F c) (x : VMod) (d b : VReg)
    {i : Nat} (hi : i < F.count) : ∃ l, runPerm t .rev x d a b 0 = .ok (0, [.v d l (plainTag F c)]) ∧
      (elemAt F.width l i : Int) = laneAfter t F x d i (elemAt F.width (t.vr a) (F.count - 1 - i) : Nat) := by
  have hsrc := vecSources_one hF t false a ⟨c, ha⟩
  obtain ⟨l, hl, hlane⟩ := vWrite_lanes hF t d x _ (plainTag F c) (revElems_length F (t.vr a)) i hi
  refine ⟨l, ?_, hlane.trans (by rw [revElems_getElem])⟩
  unfold runPerm
  rw [show (a :: if PermVOp.rev = .perm then [b] else []) = [a] from rfl, hsrc]
  simp only [bind, Except.bind, pure, Except.pure, ha]
  exact congrArg (fun e => Except.ok (0, [e])) hl

/-- VBCAST fills every lane (R275). -/
theorem runVec_bcast {F : Fmt} (hF : F.isInt = true) (s : State) (q : QOp) (d : VReg) (v : Word) {i : Nat} (hi : i < F.count) :
    ∃ l, runVec s q (.bcast d v F) = .ok (0, [.v d l (plainTag F q.tcm)]) ∧ elemAt F.width l i = v.toNat % 2 ^ F.width := by
  have hnode : F ≠ .node := by rintro rfl; cases hF
  refine ⟨joinLine F.width (List.replicate F.count v.toNat), ?_, ?_⟩
  · simp [runVec, hnode, vWriteAll]
  · rw [elemAt_joinLine _ _ _ (by simp [(Fmt.width_int hF).1]), List.getD_eq_getElem _ _ (by simpa using hi), List.getElem_replicate]

/-- Settles O33: `vWrite` writes under the mask, and each operation's lanes are those of `intOp` on the elements' values. -/
theorem vectorElementsFollowTheirMasks : Obligations.VectorElementsFollowTheirMasks := by
  unfold Obligations.VectorElementsFollowTheirMasks
  intro s q x d a b F i ca cb m n k v t w e val lo hi sat X Y on lane gives
  refine ⟨fun hF hi ha hb hx => ?_, rfl, ⟨?_, ?_, ?_, ?_, ?_⟩, rfl⟩
  · have hX : X < 2 ^ w := elemAt_lt _ _ _
    have hY : Y < 2 ^ w := elemAt_lt _ _ _
    have hk : (val Y % (w : Int)).toNat = Y % w := intValue_emod hF Y
    have hvX : lo ≤ val X ∧ val X ≤ _ := intValue_range hF X hX
    have hvY : lo ≤ val Y ∧ val Y ≤ _ := intValue_range hF Y hY
    have op {o : IntVOp} {r : Int} (h : intOp o w lo (intHigh F) (val X) X (val Y) Y = r) : gives o r := by
      obtain ⟨l, hl, hlane⟩ := runInt_lanes hF ⟨ca, ha⟩ ⟨cb, hb⟩ q o hx d hi
      exact ⟨l, hl, h ▸ hlane⟩
    refine ⟨op rfl, op rfl, op rfl, op rfl, op rfl, op ?_, op ?_, op ?_, op rfl, op rfl, op rfl, op ?_, op ?_, op ?_, op rfl, ?_, ?_⟩
    · simp [intOp]
    · exact saturate_of_mem (F := F) ⟨le_min hvX.1 hvY.1, (min_le_left _ _).trans hvX.2⟩
    · exact saturate_of_mem (F := F) ⟨hvX.1.trans (le_max_left _ _), max_le hvX.2 hvY.2⟩
    · simp only [intOp, hk]
    · simp only [intOp, hk]
    · simp only [intOp, hk]
      push_cast
      rfl
    · exact runPerm_rev hF ha x d b hi
    · exact runVec_bcast hF s q d v hi
  · exact ⟨_, rfl, fun j _ => BitVec.getLsbD_and⟩
  · exact ⟨_, rfl, fun j _ => BitVec.getLsbD_or⟩
  · exact ⟨_, rfl, fun j _ => BitVec.getLsbD_xor⟩
  · exact ⟨_, rfl, fun j hj => by simp [maskOp, hj, t]⟩
  · exact ⟨_, rfl, fun j hj => by simp [maskOp, hj, t]⟩

end Sys2Proof.Machine

/-! ### The inbound port (O40) -/

namespace Sys2Proof.Machine

/-! What the port leaves, and what it answers. -/

/-- Memory, the write queue and the threads of the focus tile stand. -/
def State.portKept (s t : State) : Prop := t.mem = s.mem ∧ t.tile.wq = s.tile.wq ∧ t.tile.threads = s.tile.threads
/-- Operation o has joined the entry of the line of address k. -/
def State.portQueued (s : State) (k : Nat) (o : WOp) (t : State) : Prop :=
  t.mem = s.mem ∧ t.tile.wq = wqMerge s.tile.wq (k / 64) o ∧ t.tile.threads = s.tile.threads
/-- An answer to `who` is all that the mesh has besides `net`. -/
def answersIn (net : List Flight) (who : Who) (v : AnsVal) (fl : Flags) (t : State) : Prop :=
  ∃ z : Flight, t.net = net ++ [z] ∧ z.dest = .tile who.src ∧ z.vc = 9 ∧ z.msg = .ans ⟨who, v, fl⟩

/-- An answer to a tile only enters the mesh: its sender has no name to be learnt. -/
theorem State.answerTile_eq (s : State) (c : Coord) (who : Who) (v : AnsVal) (fl : Flags) (hw : who.agent = none) :
    ∃ z n, s.answerTile c who v fl = { s with net := s.net ++ [z], nextSeq := n } ∧ z.dest = .tile who.src ∧ z.vc = 9 ∧
      z.msg = .ans ⟨who, v, fl⟩ := by
  unfold State.answerTile State.answer State.emitUnit State.send
  rw [hw]
  dsimp only
  split
  · exact ⟨_, _, rfl, rfl, rfl, rfl⟩
  · exact ⟨_, _, if_pos (.inl rfl), rfl, rfl, rfl⟩

/-- An answer leaves the tile and memory as they are. -/
theorem State.answerTile_answers (s : State) (c : Coord) (who : Who) (v : AnsVal) (fl : Flags) (hw : who.agent = none) :
    (s.answerTile c who v fl).mem = s.mem ∧ (s.answerTile c who v fl).tile = s.tile ∧ answersIn s.net who v fl (s.answerTile c who v fl) := by
  obtain ⟨z, n, e, hz⟩ := s.answerTile_eq c who v fl hw
  rw [e]
  exact ⟨rfl, rfl, z, rfl, hz⟩

/-- A report of a foreign message leaves the mesh, memory and the write queue. -/
theorem State.foreignReport_leaves (s : State) (src : Coord) (w0 w1 : Word) :
    (s.foreignReport s.foc src true w0 w1).mem = s.mem ∧ (s.foreignReport s.foc src true w0 w1).net = s.net ∧
      (s.foreignReport s.foc src true w0 w1).tile.wq = s.tile.wq := by
  unfold State.foreignReport
  rw [State.mapTileAt_foc]
  refine ⟨rfl, rfl, ?_⟩
  show ((s.tile.pushReport _ _).pushReport _ _).wq = _
  obtain ⟨l, n, p, e⟩ := s.tile.pushReport_eq (some ((s.tileAt src).trapGallery))
    (s.tile.recordOf s.wtime s.foc 0 1 0 ⟨Cause.hallViolation, 0, 0, w0, w1, 0, 0⟩)
  rw [e]
  obtain ⟨l', n', p', e'⟩ := Tile.pushReport_eq { s.tile with reports := l, lost := n, r := { s.tile.r with perf := p } } none
    (s.tile.recordOf s.wtime s.foc 0 1 0 ⟨Cause.hallViolation, 0, 0, w0, w1, 0, 0⟩)
  exact (congrArg Tile.wq e').trans rfl

/-- A request that is refused for another cause than its hall is only answered (R117). -/
theorem State.refuseReq_answers (s : State) (r : Req) (cause : BitVec 8) (hw : r.who.agent = none) (hc : cause ≠ Cause.hallViolation) :
    (s.refuseReq r cause).mem = s.mem ∧ (s.refuseReq r cause).tile = s.tile ∧ answersIn s.net r.who (.refuse cause) 0 (s.refuseReq r cause) := by
  have h : s.refuseReq r cause = s.answerTile s.foc r.who (.refuse cause) 0 := if_neg hc
  rw [h]
  exact s.answerTile_answers s.foc r.who _ 0 hw
/-- A foreign request is reported too (R382). -/
theorem State.refuseReq_foreign (s : State) (r : Req) (hw : r.who.agent = none) :
    (s.refuseReq r Cause.hallViolation).mem = s.mem ∧ (s.refuseReq r Cause.hallViolation).tile.wq = s.tile.wq ∧
      answersIn s.net r.who (.refuse Cause.hallViolation) 0 (s.refuseReq r Cause.hallViolation) := by
  obtain ⟨z, n, e, hz⟩ := s.answerTile_eq s.foc r.who (.refuse Cause.hallViolation) 0 hw
  have h : s.refuseReq r Cause.hallViolation =
      ({ s with net := s.net ++ [z], nextSeq := n } : State).foreignReport s.foc r.who.src true 0 0 := by
    unfold State.refuseReq
    rw [e]
    exact if_pos rfl
  obtain ⟨hm, hn, hq⟩ := ({ s with net := s.net ++ [z], nextSeq := n } : State).foreignReport_leaves r.who.src 0 0
  rw [h]
  exact ⟨hm, hq, z, hn, hz⟩

/-- A held-off message leaves everything but the tile's performance counters (event 0x09). -/
theorem State.heldOff_waits (s : State) : s.portKept (s.mapTile (·.count 0x09 1)) ∧ (s.mapTile (·.count 0x09 1)).net = s.net := by
  have h : (s.mapTile (·.count 0x09 1)).tile.wq = s.tile.wq := by
    rw [State.mapTile_tile, Tile.count_eq]
  exact ⟨⟨rfl, h, by rw [State.mapTile_tile, Tile.count_threads]⟩, rfl⟩

/-! ### WRITE_QUEUE_ACCEPT, by what the head is -/

/-- The head of the port is a request of a tile's, which belongs to no copy. -/
structure State.AskedBy (s : State) (f : Flight) (r : Req) : Prop where
  head : s.portHead = some f
  msg : f.msg = .req r
  tile : r.who.agent = none
  lone : s.copyOf r.who = none

/-- The write queue has room for the line of address k, and no local operation comes before the head (R474). -/
def State.portRoom (s : State) (k : Nat) (f : Flight) : Bool := s.tile.wqFree k && !s.localFirst f.stamp

/-- The head has left the mesh. -/
def State.headTaken (s : State) (f : Flight) : State := { s with net := s.net.erase f }
/-- Operation o of the head has entered the queue. -/
def State.headQueued (s : State) (f : Flight) (o : WOp) : State :=
  (s.headTaken f).mapTile fun t => { t with wq := wqMerge t.wq (o.addr / 64) o }

section
variable {s : State} {f : Flight} {r : Req}

theorem State.windowed_lone (h : s.copyOf r.who = none) : s.windowed r.who s.tile = s.tile := by
  unfold State.windowed
  rw [h]
  rfl
theorem State.reached_lone (h : s.copyOf r.who = none) : (s.headTaken f).reached r.who = s.headTaken f := by
  have h' : (s.headTaken f).copyOf r.who = none := h
  unfold State.reached
  rw [h']

theorem State.AskedBy.reqForeign (h : s.AskedBy f r) : s.reqForeign r = s.tile.foreign r.hall r.sys := by
  unfold State.reqForeign
  rw [h.tile]
  rfl

theorem accept_foreign (h : s.AskedBy f r) (hf : s.tile.foreign r.hall r.sys = true) (hw : r.kind.writes = true) :
    execWriteQueueAccept s = .next ((s.headTaken f).refuseReq r Cause.hallViolation) := by
  unfold execWriteQueueAccept
  rw [h.head]
  dsimp only
  rw [h.msg]
  dsimp only
  rw [if_neg (by simp [hw]), if_pos (h.reqForeign.trans hf)]
  rfl
theorem accept_refused (h : s.AskedBy f r) (hf : s.tile.foreign r.hall r.sys = false) (hw : r.kind.writes = true) (hq : s.tile.queueOp r = none) :
    execWriteQueueAccept s = .next ((s.headTaken f).refuseReq r Cause.sramBound) := by
  unfold execWriteQueueAccept
  rw [h.head]
  dsimp only
  rw [h.msg]
  dsimp only
  rw [if_neg (by simp [hw]), if_neg (by simp [h.reqForeign, hf]), State.windowed_lone h.lone, hq]
  rfl
theorem accept_heldOff (h : s.AskedBy f r) (hf : s.tile.foreign r.hall r.sys = false) (hw : r.kind.writes = true) {o : WOp}
    (hq : s.tile.queueOp r = some o) (hr : s.portRoom o.addr f = false) : execWriteQueueAccept s = .next (s.mapTile (·.count 0x09 1)) := by
  unfold State.portRoom at hr
  unfold execWriteQueueAccept
  rw [h.head]
  dsimp only
  rw [h.msg]
  dsimp only
  rw [if_neg (by simp [hw]), if_neg (by simp [h.reqForeign, hf]), State.windowed_lone h.lone, hq]
  dsimp only
  rw [hr]
  rfl

/-- What follows a head that has entered the queue as operation o: a store, or an atomic that returns nothing, is acknowledged. -/
def State.headAccepted (s : State) (f : Flight) (r : Req) (o : WOp) : State := match o with
  | .store _ _ _ | .line _ _ _ => (s.headQueued f o).answerTile s.foc r.who .ack 0
  | .amo op a n x y false _ _ => (s.headQueued f o).answerTile s.foc r.who .ack (match (s.seen s.foc a).amoAt (s.pa a) op n x y with
    | some (_, _, fl) => fl
    | none => 0)
  | _ => s.headQueued f o

theorem accept_queued (h : s.AskedBy f r) (hf : s.tile.foreign r.hall r.sys = false) (hw : r.kind.writes = true) {o : WOp}
    (hq : s.tile.queueOp r = some o) (hr : s.portRoom o.addr f = true) : execWriteQueueAccept s = .next (s.headAccepted f r o) := by
  have hreach : ({ s with net := s.net.erase f } : State).reached r.who = { s with net := s.net.erase f } := State.reached_lone h.lone
  unfold State.portRoom at hr
  unfold execWriteQueueAccept
  rw [h.head]
  dsimp only
  rw [h.msg]
  dsimp only
  rw [if_neg (by simp [hw]), if_neg (by simp [h.reqForeign, hf]), State.windowed_lone h.lone, hq]
  dsimp only
  rw [if_pos hr, hreach]
  rfl

/-- The head is a decrement that is the tile's (R47). -/
structure State.CountedBy (s : State) (f : Flight) (addr : Word) (d : Nat) : Prop where
  head : s.portHead = some f
  msg : f.msg = .decr addr d
  named : f.misnamed s.tile = false
  own : s.tile.foreign f.hall f.sys = false

variable {addr : Word} {d : Nat}

theorem accept_decrement (h : s.CountedBy f addr d) : execWriteQueueAccept s = .next (if s.portRoom addr.toNat f then
    s.headQueued f (.decr addr d f.hall f.sys) else s.mapTile (·.count 0x09 1)) := by
  have hown : (({ s with net := s.net.erase f } : State).tile.foreign f.hall f.sys && !({ s with net := s.net.erase f } : State).tile.peers f.hall f.sys)
      = false := Bool.and_eq_false_iff.mpr (.inl h.own)
  unfold execWriteQueueAccept
  rw [h.head]
  dsimp only
  rw [h.msg]
  dsimp only
  rw [if_neg (by simp [h.named])]
  unfold State.takeDecr
  rw [if_neg (by rw [hown]; decide)]
  unfold State.portRoom State.localFirst
  split
  · next hr =>
    split at hr
    · next hr' => cases hr; exact congrArg _ (if_pos hr').symm
    · cases hr
  · next hr =>
    split at hr
    · cases hr
    · next hr' => exact congrArg _ (if_neg hr').symm

end

/-- What joins the queue leaves memory and the threads. -/
theorem State.headQueued_queued (s : State) (f : Flight) (o : WOp) : s.portQueued o.addr o (s.headQueued f o) := ⟨rfl, rfl, rfl⟩
theorem State.portQueued_answered {s u : State} {k : Nat} {o : WOp} (h : s.portQueued k o u) (c : Coord) (who : Who) (v : AnsVal) (fl : Flags)
    (hw : who.agent = none) : s.portQueued k o (u.answerTile c who v fl) ∧ answersIn u.net who v fl (u.answerTile c who v fl) := by
  obtain ⟨hm, ht, ha⟩ := u.answerTile_answers c who v fl hw
  obtain ⟨gm, gq, gt⟩ := h
  exact ⟨⟨hm.trans gm, ht ▸ gq, ht ▸ gt⟩, ha⟩

/-! ### REMOTE_READ -/

/-- A line that no entry holds is read from the array (R153). -/
theorem State.seen_of_free (s : State) (a : Nat) (h : s.tile.wqHolds a = false) : s.seen s.foc a = s := by
  have hfind : s.tile.wq.find? (·.line == a / 64) = none := by
    rw [List.find?_eq_none]
    intro e he hl
    have : s.tile.wqHolds a = true := List.any_eq_true.mpr ⟨e, he, hl⟩
    simp [h] at this
  unfold State.seen
  rw [State.tileAt_foc, hfind]

/-- What a word that is not damaged gives an atomic (R219). -/
theorem State.amoAt_sound (s : State) (k : Nat) (op : AmoOp) (n : Nat) (x y : Word) (h : s.damaged k n = false) :
    s.amoAt k op n x y = some (s.load k n, amoApply op n (s.load k n) x y) := by
  unfold State.amoAt
  rw [if_neg (by simp [h])]
theorem State.markSeen_leaves (s : State) (c : Coord) (a n : Nat) : ∃ de, s.markSeen c a n = { s with desc := de } := by
  unfold State.markSeen
  split
  · exact s.poison_eq _
  · exact ⟨_, rfl⟩

section
variable {s : State} {f : Flight} {r : Req} {n : Nat}

theorem remoteRead_refused (h : s.AskedBy f r) (hf : s.tile.foreign r.hall r.sys = false) (hk : r.kind = .load n)
    (ha : s.tile.remoteRead (offLocal r.off) n = none) : execRemoteRead s = .next ((s.headTaken f).refuseReq r Cause.sramBound) := by
  unfold execRemoteRead
  rw [h.head]
  dsimp only
  rw [h.msg]
  dsimp only
  rw [hk]
  dsimp only
  rw [if_neg (by simp [h.reqForeign, hf]), ha]
  rfl
/-- A read that the port serves: a refusal where the line is damaged, else the bytes as the home has them. -/
theorem remoteRead_served (h : s.AskedBy f r) (hf : s.tile.foreign r.hall r.sys = false) (hk : r.kind = .load n) {b : Nat}
    (ha : s.tile.remoteRead (offLocal r.off) n = some b) : execRemoteRead s = .next (if (s.seen s.foc b).damaged (s.pa b) n then
      ((s.headTaken f).markSeen s.foc b n).refuseReq r Cause.ecc
    else (s.headTaken f).answerTile s.foc r.who (.value ((s.seen s.foc b).load (s.pa b) n)) 0) := by
  unfold execRemoteRead
  rw [h.head]
  dsimp only
  rw [h.msg]
  dsimp only
  rw [hk]
  dsimp only
  rw [if_neg (by simp [h.reqForeign, hf]), ha]
  exact (apply_ite Host.Outcome.next _ _ _).symm

end

/-! ### WRITE_QUEUE_WRITE_BACK -/

/-- The oldest entry has been taken from the queue. -/
def State.wqTo (s : State) (rest : List WEntry) : State := s.mapTile fun t => { t with wq := rest }

theorem writeBack_reads {s : State} {e : WEntry} {rest : List WEntry} (h : s.tile.wq = e :: rest) (hr : e.wasRead = false) :
    execWriteQueueWriteBack s = .next (s.wqTo ({ e with wasRead := true } :: rest)) := by
  unfold execWriteQueueWriteBack
  rw [h]
  exact if_neg (by simp [hr])
theorem writeBack_writes {s : State} {e : WEntry} {rest : List WEntry} {o : WOp} (h : s.tile.wq = e :: rest) (hr : e.wasRead = true) (ho : e.ops = [o]) :
    execWriteQueueWriteBack s = .next ((s.wqTo rest).applyW s.foc o) := by
  unfold execWriteQueueWriteBack
  rw [h]
  refine (if_pos hr).trans ?_
  rw [ho]
  rfl
/-- A store of the focus tile leaves the queue, the threads and the mesh. -/
theorem State.tileStore_foc_leaves (s : State) (a n : Nat) (v : Word) : (s.tileStore s.foc a n v).tile.wq = s.tile.wq ∧
    (s.tileStore s.foc a n v).mem = Memory.writeN s.mem (s.pa a) n v.toNat ∧ (s.tileStore s.foc a n v).net = s.net ∧
    (s.tileStore s.foc a n v).tile.threads = s.tile.threads := by
  obtain ⟨de, ba, hs, ms, e⟩ := s.tileStore_foc_eq a n v
  rw [e]
  exact ⟨rfl, rfl, rfl, rfl⟩
theorem State.pa_eq (s : State) (a : Nat) : s.pa a = tileBase s.foc + a := rfl
/-- An atomic stores the new value; one that returns the old value answers with it and its flags (R219). The definition is unfolded as a
function and its address made a variable first: the kernel must not evaluate the read at an address it knows. -/
theorem State.applyAmo_of_amoAt {s : State} {op : AmoOp} {a n : Nat} {x y m v : Word} {fl : Flags}
    (h : s.amoAt (s.pa a) op n x y = some (m, v, fl)) (ret : Bool) (who : Who) : s.applyAmo s.foc op a n x y ret who false =
      if ret then (s.tileStore s.foc a n v).answerTile s.foc who (.value m) fl else s.tileStore s.foc a n v := by
  rw [s.pa_eq] at h
  generalize hA : @State.applyAmo = apply
  delta State.applyAmo at hA
  subst hA
  beta_reduce
  generalize tileBase s.foc + a = k at h ⊢
  extract_lets +onlyGivenNames k'
  have hk : s.amoAt k' op n x y = some (m, v, fl) := h
  rw [hk]
  rfl

/-- A remote store enters the write queue where the tile takes one at its address (R117). -/
theorem Tile.queueOp_store {t : Tile} {r : Req} {n : Nat} {v : Word} (hk : r.kind = .store n v) :
    t.queueOp r = if t.remoteStoreOk (offLocal r.off) n then some (.store (offLocal r.off) n v) else none := by
  unfold Tile.queueOp
  rw [hk]
theorem Tile.queueOp_amo {t : Tile} {r : Req} {op : AmoOp} {n : Nat} {x y : Word} {ret : Bool} (hk : r.kind = .amo op n x y ret) :
    t.queueOp r = if t.remoteStoreOk (offLocal r.off) n then some (.amo op (offLocal r.off) n x y ret r.who false) else none := by
  unfold Tile.queueOp
  rw [hk]

/-- Settles O40: the port takes, refuses or holds off its head, serves reads from the home's bytes, and writes back its oldest entry. -/
theorem theInboundPortServesRequests : Obligations.TheInboundPortServesRequests := by
  unfold Obligations.TheInboundPortServesRequests
  intro s f r e rest addr d n v x y op who a queued kept answered waits room stores asks counts
  have asked (h : asks) : s.AskedBy f r := ⟨h.1, h.2.1, h.2.2.1, h.2.2.2⟩
  have counted (h : counts) : s.CountedBy f addr d := ⟨h.1, h.2.1, h.2.2.1, h.2.2.2⟩
  have hok : s.tile.remoteStoreOk a n = true ↔ stores := by
    simp only [Tile.remoteStoreOk, Bool.and_eq_true, decide_eq_true_eq, Bool.not_eq_true', beq_iff_eq, stores]
    tauto
  have held : waits (s.mapTile (·.count 0x09 1)) := s.heldOff_waits
  refine ⟨fun h hf hk hs hr => ?_, fun h hf hk hs hr => ?_, fun h hf hk hs => ?_, fun h hf hk hs hr => ?_, fun h hf hk hs hr hw hd => ?_,
    fun h hf hw => ?_, fun h hr => ?_, fun h hr => ?_, fun h hf hk => ⟨fun ha => ?_, fun b ha => ⟨fun hd => ?_, fun hd => ?_, s.seen_of_free b⟩⟩,
    fun hq => ⟨fun hr => writeBack_reads hq hr, fun hr => ⟨fun k ho hb => ?_, fun k ret ho hw hd => ?_, fun h y' ho => ?_⟩⟩⟩
  · -- a store that is accepted
    have hq := (Tile.queueOp_store hk).trans (if_pos (hok.mpr hs))
    obtain ⟨hqueued, hans⟩ := State.portQueued_answered (s.headQueued_queued f (.store a n v)) s.foc r.who .ack 0 h.2.2.1
    exact ⟨_, accept_queued (asked h) hf (by rw [hk]; rfl) hq hr, hqueued, hans⟩
  · -- one that is held off
    have hq := (Tile.queueOp_store hk).trans (if_pos (hok.mpr hs))
    exact ⟨_, accept_heldOff (asked h) hf (by rw [hk]; rfl) hq hr, held⟩
  · -- one that R117 forbids
    have hq := (Tile.queueOp_store hk).trans (if_neg fun h => hs (hok.mp h))
    obtain ⟨hm, ht, hans⟩ := (s.headTaken f).refuseReq_answers r Cause.sramBound h.2.2.1 (by decide)
    exact ⟨_, accept_refused (asked h) hf (by rw [hk]; rfl) hq, ⟨hm, by rw [ht]; rfl, by rw [ht]; rfl⟩, hans⟩
  · -- an atomic that returns its old value
    have hq := (Tile.queueOp_amo hk).trans (if_pos (hok.mpr hs))
    exact ⟨_, accept_queued (asked h) hf (by rw [hk]; rfl) hq hr, s.headQueued_queued f _, rfl⟩
  · -- one that returns nothing
    have hq : s.tile.queueOp r = some (.amo op a n x y false r.who false) := (Tile.queueOp_amo hk).trans (if_pos (hok.mpr hs))
    have hnext := accept_queued (asked h) hf (by rw [hk]; rfl) hq hr
    unfold State.headAccepted at hnext
    dsimp only at hnext
    rw [s.seen_of_free a hw, s.amoAt_sound _ op n x y hd] at hnext
    obtain ⟨hqueued, hans⟩ := State.portQueued_answered (s.headQueued_queued f (.amo op a n x y false r.who false)) s.foc r.who .ack
      (amoApply op n (s.load (s.pa a) n) x y).2 h.2.2.1
    exact ⟨_, hnext, hqueued, hans⟩
  · -- a foreign request
    obtain ⟨hm, hq, hans⟩ := (s.headTaken f).refuseReq_foreign r h.2.2.1
    exact ⟨_, accept_foreign (asked h) hf hw, hm, hq, hans⟩
  · exact (accept_decrement (counted h)).trans (congrArg _ (if_pos hr))
  · refine ⟨_, (accept_decrement (counted h)).trans (congrArg _ (if_neg ?_)), held⟩
    exact Bool.eq_false_iff.mp hr
  · -- a read that is refused
    obtain ⟨hm, ht, hans⟩ := (s.headTaken f).refuseReq_answers r Cause.sramBound h.2.2.1 (by decide)
    exact ⟨_, remoteRead_refused (asked h) hf hk ha, ⟨hm, by rw [ht]; rfl, by rw [ht]; rfl⟩, hans⟩
  · -- one of sound bytes
    obtain ⟨hm, ht, hans⟩ := (s.headTaken f).answerTile_answers s.foc r.who (.value ((s.seen s.foc b).load (s.pa b) n)) 0 h.2.2.1
    refine ⟨_, (remoteRead_served (asked h) hf hk ha).trans (congrArg _ (if_neg (by simp [hd]))), ⟨hm, by rw [ht]; rfl, by rw [ht]; rfl⟩, hans⟩
  · -- one of a damaged line
    have hnext := (remoteRead_served (asked h) hf hk ha).trans (congrArg _ (if_pos hd))
    obtain ⟨de, hmark⟩ := (s.headTaken f).markSeen_leaves s.foc b n
    rw [hmark] at hnext
    obtain ⟨hm, ht, hans⟩ := ({ s.headTaken f with desc := de } : State).refuseReq_answers r Cause.ecc h.2.2.1 (by decide)
    exact ⟨_, hnext, ⟨hm, by rw [ht]; rfl, by rw [ht]; rfl⟩, hans⟩
  · -- a store is written back
    exact ⟨_, writeBack_writes hq hr ho, (s.wqTo rest).tileStore_foc_leaves k n v⟩
  · -- an atomic
    have hnext := writeBack_writes hq hr ho
    have hd' : (s.wqTo rest).damaged ((s.wqTo rest).pa k) n = false := hd
    have hamo' : (s.wqTo rest).applyW s.foc (.amo op k n x y ret who false) = _ :=
      State.applyAmo_of_amoAt ((s.wqTo rest).amoAt_sound _ op n x y hd') ret who
    rw [hamo'] at hnext
    intro m
    obtain ⟨hqueue, hmem, hnet, -⟩ := (s.wqTo rest).tileStore_foc_leaves k n (amoApply op n m x y).1
    cases ret with
    | false => exact ⟨_, hnext, hqueue, hmem, fun _ => hnet, fun h => by cases h⟩
    | true =>
      obtain ⟨gm, gt, z, gz, gdest, -, gmsg⟩ := ((s.wqTo rest).tileStore s.foc k n (amoApply op n m x y).1).answerTile_answers s.foc who (.value m)
        (amoApply op n m x y).2 hw
      refine ⟨_, hnext, (congrArg Tile.wq gt).trans hqueue, gm.trans hmem, fun h => by (cases h), fun _ => ⟨z, gz.trans ?_, gdest, gmsg⟩⟩
      exact congrArg (· ++ [z]) hnet
  · -- a decrement
    exact writeBack_writes hq hr ho

end Sys2Proof.Machine

/-! ### A packet that wraps around the pool's end (O17) -/

namespace Sys2Proof.Machine

/-- A tile whose handler has a packet in the pool's last cell and its first one (R44). -/
def wrappedPacket : State := State.reset.mapTh fun h => { h with work := .packet 255 2 }

theorem wrappedPacket_loads : wrappedPacket.loadAddr 0x22000 8 = some 0x20000 := by decide

/-- Refutes O17: the cells of a packet that begins in the pool's last cell continue above the pool's end, where its handler's loads are
served from the first cell (R44); the clause that takes every load from 0x22000 on to be out of range (R103) does not allow for it. -/
theorem not_localAccessChecksTrapInOrder : ¬ Obligations.LocalAccessChecksTrapInOrder := by
  unfold Obligations.LocalAccessChecksTrapInOrder
  intro h
  obtain ⟨-, -, hranges⟩ := h wrappedPacket .none 3 4 5 0 (.off 0)
  obtain ⟨-, -, hout, -⟩ := hranges 0x22000
  have hnone : wrappedPacket.loadAddr 0x22000 8 = none := hout (.inr (Nat.le_refl _))
  rw [wrappedPacket_loads] at hnone
  cases hnone

end Sys2Proof.Machine

/-! ### Device requests (O19) -/

namespace Sys2Proof.Machine

/-! The checks of a device address, in their order (R116, R402). -/

theorem Tile.listed_iff (t : Tile) (sp : BitVec 16) : t.listed sp = true ↔
    1 ≤ sp.toNat ∧ sp.toNat ≤ 0x7FFF ∧ t.pr.spaces.toNat % 2 ^ 15 ≤ sp.toNat ∧ sp.toNat ≤ t.pr.spaces.toNat % 2 ^ 15 + 7 ∧
      t.pr.spaces.getLsbD (16 + (sp.toNat - t.pr.spaces.toNat % 2 ^ 15)) = true := by
  have hbase : (t.pr.spaces.extractLsb' 0 15).toNat = t.pr.spaces.toNat % 2 ^ 15 := by simp
  unfold Tile.listed
  rw [hbase]
  simp only [Bool.and_eq_true, decide_eq_true_eq]
  constructor
  · rintro ⟨⟨h1, h2, h3, h4⟩, hb⟩; exact ⟨h1, h2, h3, by omega, hb⟩
  · rintro ⟨h1, h2, h3, h4, hb⟩; exact ⟨⟨h1, h2, h3, by omega⟩, hb⟩

section
variable {t : Tile} {tgt2 : Bool} {sp : BitVec 16} {off : Int} {n : Nat}

/-- A translated target's space must be one that SPACES lists. -/
theorem deviceFault_unlisted (h : t.listed sp = false) : deviceFault t true sp off n n = some 0x08 := by
  unfold deviceFault
  by_cases h0 : sp = 0 <;> simp [h0, h] <;> rfl

theorem deviceFault_wraps (hs : sp = 0 ∧ tgt2 = false ∨ sp ≠ 0 ∧ t.listed sp = true) (ho : off < 0 ∨ (2 : Int) ^ 64 < off + n) :
    deviceFault t tgt2 sp off n n = some 0x09 := by
  have hspace : (if sp = 0 then tgt2 else !t.listed sp) = false := by
    rcases hs with ⟨h0, h⟩ | ⟨h0, h⟩
    · rw [if_pos h0, h]
    · rw [if_neg h0, h]; rfl
  unfold deviceFault
  rw [hspace, if_neg Bool.false_ne_true, if_pos (by omega)]
  rfl

/-- An offset of space 0 that does not wrap, past its space and its offset checks. -/
theorem deviceFault_global (h0 : 0 ≤ off) (h1 : off + n ≤ (2 : Int) ^ 64) (hn : 0 < n) : deviceFault t false 0 off n n =
    if 2 ^ 42 ≤ off.toNat then some 0x08
    else if off.toNat % n ≠ 0 then some 0x03
    else if inOneRange (off.toNat % 2 ^ 20) n then none else some 0x04 := by
  unfold deviceFault
  rw [if_neg (by simp), if_neg (by omega), if_neg (by simp)]
  have hn0 : n ≠ 0 := Nat.pos_iff_ne_zero.mp hn
  have hrange : ∀ b : Bool, (if n ≠ 0 ∧ (!b) = true then some Cause.sramBound else none) = if b then none else some 0x04 := by
    rintro (_ | _)
    · exact if_pos ⟨hn0, rfl⟩
    · exact if_neg fun h => Bool.false_ne_true h.2
  dsimp only
  rw [hrange]
  rfl

/-- An address of the wafer's 2^42 bytes is one of space 0's offsets. -/
theorem deviceFault_wafer (h0 : 0 ≤ off) (h1 : off < 2 ^ 42) (hn : 0 < n) (hn8 : n ≤ 8) : deviceFault t false 0 off n n =
    if off.toNat % n ≠ 0 then some 0x03 else if inOneRange (off.toNat % 2 ^ 20) n then none else some 0x04 := by
  rw [deviceFault_global h0 (by omega) hn, if_neg (by omega)]

/-- A checked offset of space 0 lies on the wafer. -/
theorem deviceFault_none_global (h : deviceFault t false 0 off n n = none) (hn : 0 < n) : 0 ≤ off ∧ off < 2 ^ 42 := by
  by_cases hw : off < 0 ∨ (2 : Int) ^ 64 < off + n
  · rw [deviceFault_wraps (.inl ⟨rfl, rfl⟩) hw] at h; cases h
  · rw [deviceFault_global (by omega) (by omega) hn] at h
    by_cases hb : 2 ^ 42 ≤ off.toNat
    · rw [if_pos hb] at h; cases h
    · omega

/-- The local addresses between the ranges of R103 lie in none. -/
theorem inOneRange_gap {l : Nat} (h : 0x14000 ≤ l ∧ l < 0x20000 ∨ 0x22000 ≤ l ∧ l < 0x30000 ∨ 0x34000 ≤ l) (hn : 0 < n) :
    inOneRange l n = false := decide_eq_false (by omega)
end

theorem szBytes_bounds (sz : BitVec 3) : 0 < szBytes sz ∧ szBytes sz ≤ 8 := by revert sz; decide

theorem spaceVal_eq (s : State) (sp : SpaceSel) : spaceVal s sp = match sp with | .imm i => i | .reg e => (s.gr e).setWidth 16 := by
  cases sp with
  | imm i => rfl
  | reg e => exact (BitVec.setWidth_eq_extractLsb' (by decide)).symm
theorem devOff_eq (s : State) (a : GReg) (o : DevOff) :
    devOff s a o = (s.gr a).toNat + (match o with | .imm i => i.toInt | .lit v => v.toInt) := by cases o <;> rfl
theorem encDev_length (kind : BitVec 3) (g : Target) (x : DevArgs) : (encDev kind g x).length = devOffWords x.off := by
  unfold encDev encDevice
  cases x.off <;> rfl

/-! A request as it leaves (R217). -/

/-- A checked access waits while `count` of its kind are out or the port holds a message of the thread; else its request, of kind `kind`
and remembered as `pk`, leaves, its thread is `after`, and the thread goes on. -/
def State.requests (s : State) (count : Nat) (kind : ReqKind) (pk : PendKind) (sp : BitVec 16) (off : Word) (after : Thread → Thread)
    (n : Nat) : Out :=
  whenReady (decide (count < 16) && s.portFree) s fun s => .next (((s.request kind pk sp off).mapTh after).retire n)

theorem State.request_th (s : State) (kind : ReqKind) (pk : PendKind) (sp : BitVec 16) (off : Word) : (s.request kind pk sp off).th =
    { s.th with pends := s.th.pends ++ [⟨s.nextId, pk, sp, off, s.th.pc12, false, false, false⟩] } :=
  (State.push_th _ _).trans (State.mapTh_th _ _)
theorem State.keeps_request (s : State) (kind : ReqKind) (pk : PendKind) (sp : BitVec 16) (off : Word) : s.keeps (s.request kind pk sp off) :=
  State.keeps_trans (t := ({ s with nextId := s.nextId + 1 } : State).mapTh _) (State.keeps_mapTh { s with nextId := s.nextId + 1 } _ rfl)
    (State.keeps_push _ _) rfl
theorem State.request_tid (s : State) (kind : ReqKind) (pk : PendKind) (sp : BitVec 16) (off : Word) : (s.request kind pk sp off).tid = s.tid := by
  rw [State.request_eq]
theorem State.request_inj (s : State) (kind : ReqKind) (pk : PendKind) (sp : BitVec 16) (off : Word) : (s.request kind pk sp off).tile.inj =
    s.tile.inj ++ [⟨some s.tid, reqVc sp, .dest (reqDest sp off), .req ⟨⟨s.foc, s.tid, s.nextId, none⟩, kind, sp, off, s.tile.hid, s.tile.sys, none⟩,
      .no⟩] := by rw [State.request_eq]

/-- A thread that has counted its request. -/
structure Thread.Counts (after : Thread → Thread) : Prop where
  regs : ∀ h, (after h).regs = h.regs
  pc : ∀ h, (after h).pc = h.pc
  loop : ∀ h, (after h).loop = h.loop
  pends : ∀ h, (after h).pends = h.pends

theorem Thread.counts_addLoad (d : GReg) : Thread.Counts (·.addLoad d) := ⟨fun _ => rfl, fun _ => rfl, fun _ => rfl, fun _ => rfl⟩
theorem Thread.counts_addStore : Thread.Counts (·.addStore) := ⟨fun _ => rfl, fun _ => rfl, fun _ => rfl, fun _ => rfl⟩

theorem State.requests_waits {s : State} {count n : Nat} {kind : ReqKind} {pk : PendKind} {sp : BitVec 16} {off : Word}
    {after : Thread → Thread} (h : 16 ≤ count ∨ s.portFree = false) : s.requests count kind pk sp off after n = .next s.stall := by
  refine whenReady_off _ ?_
  rcases h with h | h
  · rw [decide_eq_false (by omega)]; rfl
  · rw [h, Bool.and_false]

theorem State.requests_leaves {s : State} {count n : Nat} {kind : ReqKind} {pk : PendKind} {sp : BitVec 16} {off : Word}
    {after : Thread → Thread} (hc : Thread.Counts after) (h : count < 16) (hp : s.portFree = true) :
    ∃ t, s.requests count kind pk sp off after n = .next t ∧ s.passes t n ∧ t.tile.inj = (s.request kind pk sp off).tile.inj ∧
      t.th.outc = (after (s.request kind pk sp off).th).outc ∧ t.th.pending = (after (s.request kind pk sp off).th).pending ∧
      t.th.pends = (s.request kind pk sp off).th.pends := by
  have hth : ((s.request kind pk sp off).mapTh after).th = after (s.request kind pk sp off).th := State.mapTh_th _ _
  refine ⟨_, whenReady_on _ (by simp [h, hp]), State.passes_retire _ _ _ ?_ (State.request_tid s kind pk sp off) ?_ ?_, State.retire_inj _ _, ?_, ?_, ?_⟩
  · exact State.keeps_trans (State.keeps_request s kind pk sp off) (State.keeps_mapTh _ _ (hc.regs _)) (State.request_tid s kind pk sp off)
  · rw [hth, hc.pc, State.request_th]
  · rw [hth, hc.loop, State.request_th]
  · rw [State.retire_th, hth]; exact Thread.advance_outc _ _
  · rw [State.retire_th, hth]; exact Thread.advance_pending _ _
  · rw [State.retire_th, hth]; exact (Thread.advance_pends _ _).trans (hc.pends _)

/-- Where a checked request goes: the tile at its offset's coordinate, or its granule's entry port. -/
theorem reqDest_eq {t : Tile} {sp : BitVec 16} {off : Int} {n : Nat} (h : deviceFault t (sp != 0) sp off n n = none) (hn : 0 < n) :
    reqDest sp (BitVec.ofInt 64 off) = if sp = 0 then .tile ⟨off.toNat / 2 ^ 31, off.toNat / 2 ^ 20 % 2 ^ 11⟩
      else .port (entryPort sp (BitVec.ofInt 64 off)) := by
  unfold reqDest
  split
  · next h0 =>
    subst h0
    obtain ⟨hlow, hhigh⟩ := deviceFault_none_global (t := t) h hn
    have hw : (BitVec.ofInt 64 off).toNat = off.toNat := by rw [BitVec.toNat_ofInt]; omega
    unfold offCoord
    rw [BitVec.extractLsb'_toNat, BitVec.extractLsb'_toNat, hw, Nat.shiftRight_eq_div_pow, Nat.shiftRight_eq_div_pow,
      Nat.mod_eq_of_lt (a := off.toNat / 2 ^ 31) (by omega)]
  · rfl

/-! The four instructions past their guards. -/
section
variable {x : DevArgs} {s : State} {tgt2 : Bool}

theorem remoteLoad_on (sp : State → BitVec 16) (hg : guardHolds x.guard s.th = true) : remoteLoad x tgt2 sp s =
    deviceAccess s tgt2 (sp s) (devOff s x.a x.off) (szBytes x.sz) fun off =>
      s.requests s.th.outc.loads (.load (szBytes x.sz)) (.load x.d x.sz) (sp s) off (·.addLoad x.d) (devOffWords x.off) := by
  unfold remoteLoad
  dsimp only
  rw [guarded_on _ _ hg]
  simp only [State.requests, whenReady]
theorem remoteStore_on (sp : State → BitVec 16) (hg : guardHolds x.guard s.th = true) : remoteStore x tgt2 sp s =
    deviceAccess s tgt2 (sp s) (devOff s x.a x.off) (szBytes x.sz) fun off =>
      s.requests s.th.outc.stores (.store (szBytes x.sz) (s.gr x.d)) .store (sp s) off (·.addStore) (devOffWords x.off) := by
  unfold remoteStore
  dsimp only
  rw [guarded_on _ _ hg]
  simp only [State.requests, whenReady]

/-- A failing check traps a load and a store alike. -/
theorem remote_traps (sp : State → BitVec 16) {c : BitVec 8} (hg : guardHolds x.guard s.th = true)
    (h : deviceFault s.tile tgt2 (sp s) (devOff s x.a x.off) (szBytes x.sz) (szBytes x.sz) = some c) :
    remoteLoad x tgt2 sp s = .next (s.trapWith c (BitVec.ofInt 64 (devOff s x.a x.off)) 0 0 0 0) ∧
      remoteStore x tgt2 sp s = .next (s.trapWith c (BitVec.ofInt 64 (devOff s x.a x.off)) 0 0 0 0) := by
  rw [remoteLoad_on sp hg, remoteStore_on sp hg]
  exact ⟨deviceAccess_fault _ _ _ _ _ _ _ h, deviceAccess_fault _ _ _ _ _ _ _ h⟩
end

/-- A checked LDG, LDX (`load`), STG or STX of n bytes at offset off of a space waits, or leaves as its request (R217). -/
def State.deviceLeaves (s : State) (x : DevArgs) (off : Int) (n : Nat) (i : Instr) (space : BitVec 16) (load : Bool) : Prop :=
  deviceFault s.tile (space != 0) space off n n = none →
  (16 ≤ (if load then s.th.outc.loads else s.th.outc.stores) ∨ s.portFree = false → exec i s = .next s.stall) ∧
  ((if load then s.th.outc.loads else s.th.outc.stores) < 16 → s.portFree = true → ∃ t, exec i s = .next t ∧ s.passes t i.len ∧
    t.tile.inj = s.tile.inj ++ [⟨some s.tid, if space = 0 then 8 else 10,
      .dest (if space = 0 then .tile ⟨off.toNat / 2 ^ 31, off.toNat / 2 ^ 20 % 2 ^ 11⟩ else .port (entryPort space (BitVec.ofInt 64 off))),
      .req ⟨⟨s.foc, s.tid, s.nextId, none⟩, if load then .load n else .store n (s.gr x.d), space, BitVec.ofInt 64 off, s.tile.hid, s.tile.sys, none⟩,
      .no⟩] ∧
    t.th.outc = (if load then { s.th.outc with loads := s.th.outc.loads + 1 } else { s.th.outc with stores := s.th.outc.stores + 1 }) ∧
    (load = true → x.d ≠ 0 → t.th.pending.getLsbD x.d.toNat = true) ∧
    t.th.pends = s.th.pends ++ [⟨s.nextId, if load then .load x.d x.sz else .store, space, BitVec.ofInt 64 off, s.th.pc12, false, false, false⟩])

/-- A load marks its destination pending. -/
theorem Thread.addLoad_pending (t : Thread) (d : GReg) (hd : d ≠ 0) : (t.addLoad d).pending.getLsbD d.toNat = true := by
  have h : d.toNat < 32 := d.isLt
  show (if d = 0 then t.pending else t.pending ||| ((1 : BitVec 32) <<< d.toNat)).getLsbD d.toNat = true
  rw [if_neg hd]
  simp [h]

section
variable {s : State} {x : DevArgs} {i : Instr} {space : BitVec 16}

/-- What LDG, LDX, STG and STX have in common once their address is checked. -/
theorem State.deviceLeaves_of_requests {load : Bool} {after : Thread → Thread} (hlen : i.len = devOffWords x.off) (hc : Thread.Counts after)
    (ho : ∀ h : Thread, (after h).outc = if load then { h.outc with loads := h.outc.loads + 1 } else { h.outc with stores := h.outc.stores + 1 })
    (hd : load = true → x.d ≠ 0 → ∀ h : Thread, (after h).pending.getLsbD x.d.toNat = true)
    (hx : exec i s = deviceAccess s (space != 0) space (devOff s x.a x.off) (szBytes x.sz) fun off =>
      s.requests (if load then s.th.outc.loads else s.th.outc.stores) (if load then .load (szBytes x.sz) else .store (szBytes x.sz) (s.gr x.d))
        (if load then .load x.d x.sz else .store) space off after (devOffWords x.off)) :
    s.deviceLeaves x (devOff s x.a x.off) (szBytes x.sz) i space load := by
  intro hok
  rw [deviceAccess_ok _ _ _ _ _ _ hok] at hx
  refine ⟨fun h => hx.trans (State.requests_waits h), fun h hp => ?_⟩
  obtain ⟨t, ht, hpass, hinj, houtc, hpend, hpends⟩ := State.requests_leaves hc h hp
  refine ⟨t, hx.trans ht, hlen ▸ hpass, ?_, ?_, fun hl hne => ?_, ?_⟩
  · rw [hinj, State.request_inj, reqDest_eq hok (szBytes_bounds x.sz).1]; rfl
  · rw [houtc, ho, State.request_th]
  · rw [hpend]; exact hd hl hne _
  · rw [hpends, State.request_th]

theorem State.deviceLeaves_load (hlen : i.len = devOffWords x.off)
    (hx : exec i s = deviceAccess s (space != 0) space (devOff s x.a x.off) (szBytes x.sz) fun off =>
      s.requests s.th.outc.loads (.load (szBytes x.sz)) (.load x.d x.sz) space off (·.addLoad x.d) (devOffWords x.off)) :
    s.deviceLeaves x (devOff s x.a x.off) (szBytes x.sz) i space true :=
  State.deviceLeaves_of_requests hlen (Thread.counts_addLoad x.d) (fun _ => rfl) (fun _ hd h => Thread.addLoad_pending h x.d hd) hx
theorem State.deviceLeaves_store (hlen : i.len = devOffWords x.off)
    (hx : exec i s = deviceAccess s (space != 0) space (devOff s x.a x.off) (szBytes x.sz) fun off =>
      s.requests s.th.outc.stores (.store (szBytes x.sz) (s.gr x.d)) .store space off (·.addStore) (devOffWords x.off)) :
    s.deviceLeaves x (devOff s x.a x.off) (szBytes x.sz) i space false :=
  State.deviceLeaves_of_requests hlen Thread.counts_addStore (fun _ => rfl) (fun h => absurd h Bool.false_ne_true) hx
end

/-- Settles O19: the checks by `deviceFault` in their order, and what leaves by `State.requests`. -/
theorem deviceRequestsAreCheckedAndLeave : Obligations.DeviceRequestsAreCheckedAndLeave := by
  unfold Obligations.DeviceRequestsAreCheckedAndLeave
  constructor
  · intro s x sp n off space base known traps l hg
    have hoff : devOff s x.a x.off = off := devOff_eq s x.a x.off
    have hsp : spaceVal s sp = space := spaceVal_eq s sp
    have hn : 0 < n := (szBytes_bounds x.sz).1
    have hn8 : n ≤ 8 := (szBytes_bounds x.sz).2
    have hknown : s.tile.listed space = true ↔ known := Tile.listed_iff s.tile space
    have hx : ∀ c, deviceFault s.tile true space off n n = some c → traps (.ldx x sp) c ∧ traps (.stx x sp) c := by
      intro c h
      rw [← hoff, ← hsp] at h
      have := remote_traps (fun s => spaceVal s sp) hg h
      rwa [hoff] at this
    have hgl : ∀ c, deviceFault s.tile false 0 off n n = some c → traps (.ldg x) c ∧ traps (.stg x) c := by
      intro c h
      rw [← hoff] at h
      have := remote_traps (fun _ => 0) hg h
      rwa [hoff] at this
    refine ⟨fun hu => ?_, fun hk ho => ?_, fun ho => ?_, fun h42 h64 => ?_, fun h0 h42 hm => ?_, fun h0 h42 hm hl => ?_⟩
    · exact hx _ (deviceFault_unlisted (Bool.eq_false_iff.mpr fun h => hu (hknown.mp h)))
    · refine hx _ (deviceFault_wraps (.inr ⟨?_, hknown.mpr hk⟩) ho)
      rintro h0
      have : 1 ≤ space.toNat := hk.1
      rw [h0] at this
      exact absurd this (by decide)
    · exact hgl _ (deviceFault_wraps (.inl ⟨rfl, rfl⟩) ho)
    · refine hgl _ ?_
      rw [deviceFault_global (by omega) h64 hn, if_pos (by omega)]
    · refine hgl _ ?_
      rw [deviceFault_wafer h0 h42 hn hn8, if_pos hm]
    · refine hgl _ ?_
      rw [deviceFault_wafer h0 h42 hn hn8, if_neg (not_not.mpr hm), inOneRange_gap hl hn]
      rfl
  · intro s x sp n off w space leaves hg
    have hoff : devOff s x.a x.off = off := devOff_eq s x.a x.off
    have hsp : spaceVal s sp = space := spaceVal_eq s sp
    show s.deviceLeaves x off n (.ldg x) 0 true ∧ s.deviceLeaves x off n (.stg x) 0 false ∧
      (space ≠ 0 → s.deviceLeaves x off n (.ldx x sp) space true ∧ s.deviceLeaves x off n (.stx x sp) space false)
    rw [← hoff, ← hsp]
    refine ⟨State.deviceLeaves_load (encDev_length _ _ _) (remoteLoad_on (tgt2 := false) (fun _ => 0) hg),
      State.deviceLeaves_store (encDev_length _ _ _) (remoteStore_on (tgt2 := false) (fun _ => 0) hg), fun hne => ?_⟩
    have htgt : (spaceVal s sp != 0) = true := bne_iff_ne.mpr hne
    exact ⟨State.deviceLeaves_load (encDev_length _ _ _) (by rw [htgt]; exact remoteLoad_on (fun s => spaceVal s sp) hg),
      State.deviceLeaves_store (encDev_length _ _ _) (by rw [htgt]; exact remoteStore_on (fun s => spaceVal s sp) hg)⟩

end Sys2Proof.Machine

/-! ### A head flit that is not where its message stands (O44) -/

namespace Sys2Proof.Machine

/-- A message of one flit on channel 0, for the tile at ⟨3, 0⟩. -/
def strayFlight (pos : Coord) (trail : List Hop) : Flight :=
  ⟨.decr 0 1, 0, pos, .tile ⟨3, 0⟩, ⟨0, 0⟩, 0, none, 0, true, 0, trail, 0, 0⟩

/-- The head of the message stands at ⟨1, 0⟩, and its flit in the crossing buffer before input 0 of ⟨2, 0⟩. -/
def misplaced : Flight := strayFlight ⟨1, 0⟩ [⟨⟨2, 0⟩, 8, 1⟩]
/-- Input 0 of ⟨1, 0⟩ is full. -/
def misplacedHead : State := { State.reset with net := [strayFlight ⟨1, 0⟩ [⟨⟨1, 0⟩, 0, 4⟩], misplaced] }

theorem misplacedHead_flitsIn (x : Coord) (dir : Nat) (v : BitVec 4) : misplacedHead.flitsIn x dir v =
    if v = 0 then (if x = ⟨1, 0⟩ ∧ dir = 0 then 4 else 0) + (if x = ⟨2, 0⟩ ∧ dir = 8 then 1 else 0) else 0 := by
  have hop : ∀ (c : Coord) (d n : Nat), ((([⟨c, d, n⟩] : List Hop).filter fun h => h.c == x && h.dir == dir).map (·.n)).sum =
      if x = c ∧ dir = d then n else 0 := by
    intro c d n
    by_cases h : x = c ∧ dir = d
    · obtain ⟨rfl, rfl⟩ := h; simp
    · rw [if_neg h, List.filter_cons_of_neg (by simpa using fun hc hd => h ⟨hc.symm, hd.symm⟩)]; rfl
  by_cases hv : v = 0
  · subst hv
    rw [if_pos rfl, ← hop ⟨1, 0⟩ 0 4, ← hop ⟨2, 0⟩ 8 1]
    rfl
  · have hnone : misplacedHead.net.filter (·.vc == v) = [] := by
      rw [List.filter_eq_nil_iff]
      intro f hf
      have hvc : f.vc = 0 := by
        rcases List.mem_pair.mp hf with rfl | rfl <;> rfl
      simpa [hvc] using fun h => hv h.symm
    rw [if_neg hv]
    unfold State.flitsIn
    rw [hnone]
    rfl

theorem misplacedHead_within (x : Coord) (dir : Nat) (v : BitVec 4) : misplacedHead.flitsIn x dir v ≤ 4 := by
  rw [misplacedHead_flitsIn]
  split
  · by_cases h : x = ⟨1, 0⟩ ∧ dir = 0
    · obtain ⟨rfl, rfl⟩ := h; decide
    · rw [if_neg h]; split <;> decide
  · exact Nat.zero_le 4

theorem misplacedHead_takes : exec (.routerForward 1) misplacedHead = .next (misplacedHead.moveFlit 1 misplaced (.take 0)) := by
  have hmove : (misplacedHead.movesOf 1 misplaced).find? (misplacedHead.granted 1 misplaced) = some (.take 0) := by decide
  show execRouterForward 1 misplacedHead = _
  unfold execRouterForward
  show (match (misplacedHead.movesOf 1 misplaced).find? (misplacedHead.granted 1 misplaced) with
    | none => Host.Outcome.next misplacedHead
    | some m => .next (misplacedHead.moveFlit 1 misplaced m)) = _
  rw [hmove]

theorem misplacedHead_overfull : (misplacedHead.moveFlit 1 misplaced (.take 0)).flitsIn ⟨1, 0⟩ 0 0 = 5 := by decide

/-- Refutes O44: the statement takes every state that keeps four flits to an input, and in one whose head flit is in another place than its
message (`misplacedHead`) ROUTER_FORWARD moves it out of a crossing buffer by the room of the input behind that buffer (R443), but into the
input where the message stands, which gets a fifth. -/
theorem not_messagesEnterAndCrossTheMesh : ¬ Obligations.MessagesEnterAndCrossTheMesh := by
  unfold Obligations.MessagesEnterAndCrossTheMesh
  intro h
  have hlimit := h misplacedHead default [] default default misplaced 1 0 0 0 0 0 default
  obtain ⟨-, -, -, -, -, -, -, -, -, -, hlimit, -⟩ := hlimit
  have hsunk : ∀ g, misplacedHead.net[1]? = some g → misplacedHead.sunk g = false := by
    rintro g ⟨⟩
    decide
  have hfive := hlimit misplacedHead_within hsunk _ misplacedHead_takes ⟨1, 0⟩ 0 0
  rw [misplacedHead_overfull] at hfive
  exact absurd hfive (by decide)

end Sys2Proof.Machine

/-! ### Waits and fences (O21) -/

namespace Sys2Proof.Machine

/-- The low bytes of a word as a remainder. -/
theorem lowBytes_eq_mod {n : Nat} (w : Word) (h : n ≤ 8) : lowBytes n w = BitVec.ofNat 64 (w.toNat % 2 ^ (8 * n)) := by
  have hle : 2 ^ (8 * n) ≤ 2 ^ 64 := Nat.pow_le_pow_right (by decide) (by omega)
  unfold lowBytes
  split
  · refine BitVec.eq_of_toNat_eq ?_
    have hpos : 0 < 2 ^ (8 * n) := Nat.two_pow_pos _
    have hlt := Nat.mod_lt w.toNat hpos
    rw [BitVec.toNat_and, BitVec.toNat_ofNat, BitVec.toNat_ofNat, Nat.mod_eq_of_lt (a := 2 ^ (8 * n) - 1) (by omega),
      Nat.and_two_pow_sub_one_eq_mod, Nat.mod_eq_of_lt (b := 2 ^ 64) (by omega)]
  · obtain rfl : n = 8 := by omega
    rw [Nat.mod_eq_of_lt w.isLt, BitVec.ofNat_toNat, BitVec.setWidth_eq]

/-! WAITV (R221, R222). -/

/-- The space and the translated mark of a target beyond the thread's own bank (R214). -/
def targetSpace (s : State) : Target → BitVec 16
  | .ext e => spaceVal s e
  | _ => 0
def targetFar : Target → Bool
  | .ext _ => true
  | _ => false

/-- Bytes of the word, and what a WAITV asks of its home. -/
def waitvBytes (x : AmoArgs) : Nat := if x.w then 8 else 4
def State.waitvKind (s : State) (x : AmoArgs) (c : GReg) : ReqKind :=
  .waitv (waitvBytes x) (lowBytes (waitvBytes x) (s.gr x.b)) (if c = 0 then none else some (s.gr c))
/-- The focus thread enters WAITV for request `id` (R222). -/
def State.intoWaitv (s : State) (id n : Nat) : State := s.cycle.mapTh (·.enterWaitv id n)

/-- The thread stays at its PC in WAITV, and keeps its registers. -/
structure State.WaitsFor (s t : State) (id n : Nat) : Prop where
  keeps : s.keeps t
  pc : t.th.pc = s.th.pc
  state : t.th.state = .waitv
  wait : t.th.wait = .waitv id n

theorem State.intoWaitv_waits {s u : State} (hk : s.keeps u) (hi : u.tid = s.tid) (hp : u.th.pc = s.th.pc) (id n : Nat) :
    s.WaitsFor (u.intoWaitv id n) id n := by
  have hth : (u.intoWaitv id n).th = u.cycle.th.enterWaitv id n := State.mapTh_th _ _
  have hkept : u.keeps (u.intoWaitv id n) := State.keeps_trans u.keeps_cycle (State.keeps_mapTh _ _ rfl) rfl
  refine ⟨State.keeps_trans hk hkept hi, ?_, ?_, ?_⟩
  · rw [hth, State.cycle_th]; exact hp
  · rw [hth]; rfl
  · rw [hth]; rfl
theorem State.intoWaitv_inj (s : State) (id n : Nat) : (s.intoWaitv id n).tile.inj = s.tile.inj := by
  show s.cycle.tile.inj = _
  rw [State.cycle_tile]
theorem State.intoWaitv_arms (s : State) (id n : Nat) : (s.intoWaitv id n).tile.arms = s.tile.arms := by
  show s.cycle.tile.arms = _
  rw [State.cycle_tile]

section
variable {s : State} {x : AmoArgs} {c : GReg}

theorem execWaitv_beyond (hg : guardHolds x.guard s.th = true) (ht : x.tgt ≠ .loc) : execWaitv x c s =
    deviceAccess s (targetFar x.tgt) (targetSpace s x.tgt) (devOff s x.a x.off) (waitvBytes x) fun off => whenReady s.portFree s fun s' =>
      .next ((s'.request (s'.waitvKind x c) (.waitv x.d) (targetSpace s x.tgt) off).intoWaitv s'.nextId (devOffWords x.off)) := by
  unfold execWaitv
  dsimp only
  rw [guarded_on _ _ hg]
  split
  · next h => rw [h]; rfl
  · next h => rw [h]; rfl
  · next h => exact absurd h ht

/-- The request and the memory of it that a WAITV at the tile's own word leaves (R222). -/
def State.armsHere (s : State) (x : AmoArgs) (c : GReg) (a b : Nat) : State :=
  (({ s with nextId := s.nextId + 1 } : State).mapTile fun t => { t with arms := t.arms ++
    [⟨⟨s.foc, s.tid, s.nextId, none⟩, s.waitvKind x c, 0, BitVec.ofNat 64 (if a < 0x10000 then a else b), s.tile.hid, s.tile.sys, none⟩] }).mapTh
    fun t => { t with pends := t.pends ++ [⟨s.nextId, .waitv x.d, 0, BitVec.ofNat 64 a, s.th.pc12, false, false, true⟩] }

theorem execWaitv_local {b : Nat} (hg : guardHolds x.guard s.th = true) (ht : x.tgt = .loc) (h0 : 0 ≤ devOff s x.a x.off)
    (h1 : devOff s x.a x.off ≤ 0xFFFFF) (ha : (devOff s x.a x.off).toNat % waitvBytes x = 0)
    (hb : s.loadAddr (devOff s x.a x.off).toNat (waitvBytes x) = some b) : execWaitv x c s =
      .next ((s.armsHere x c (devOff s x.a x.off).toNat b).intoWaitv s.nextId (devOffWords x.off)) := by
  unfold execWaitv
  dsimp only
  rw [guarded_on _ _ hg]
  split
  · next h => rw [ht] at h; cases h
  · next h => rw [ht] at h; cases h
  · have hserved : (s.loadAddr (devOff s x.a x.off).toNat (if x.w then 8 else 4)).getD (devOff s x.a x.off).toNat = b := by
      rw [show (if x.w then 8 else 4) = waitvBytes x from rfl, hb]; rfl
    refine (localAddr_ok _ _ _ _ _ h0 h1 ha ?_).trans ?_
    · show (s.loadAddr (devOff s x.a x.off).toNat (waitvBytes x)).isSome = true
      rw [hb]; rfl
    · rw [hserved]; rfl

theorem State.armsHere_keeps (a b : Nat) : s.keeps (s.armsHere x c a b) :=
  State.keeps_trans (t := ({ s with nextId := s.nextId + 1 } : State).mapTile _) (State.keeps_mapTile { s with nextId := s.nextId + 1 } _ rfl)
    (State.keeps_mapTh _ _ rfl) rfl
theorem State.armsHere_pc (a b : Nat) : (s.armsHere x c a b).th.pc = s.th.pc := by
  unfold State.armsHere
  rw [State.mapTh_th]
  rfl

end

/-! WAITC, FENCE and LOOPF (R149 to R151, R237). -/

/-- An instruction of one word that waits for a condition and then does nothing else. -/
theorem State.holds_until (s : State) (i : Instr) (c : Bool) (h : exec i s = whenReady c s fun s => .next (s.retire 1)) :
    (c = true → ∃ u : State, exec i s = .next u ∧ s.passes u 1) ∧ (c = false → exec i s = .next s.stall) := by
  refine ⟨fun hc => ⟨s.retire 1, h.trans (whenReady_on _ hc), ?_⟩, fun hc => h.trans (whenReady_off _ hc)⟩
  exact State.passes_retire s s 1 s.keeps_refl rfl rfl rfl

/-- A side log holds an entry of the tile, or a replay has one still to perform (R150). -/
theorem State.logHeld_iff (s : State) : s.logHeld = true ↔
    (∃ x ∈ s.ports, ∃ r ∈ x.2.log, r.who.src = s.foc ∧ r.who.agent = none) ∨
    ∃ x ∈ s.ports, ∃ y ∈ x.2.replays, ∃ r ∈ y.sent, r.who.src = s.foc ∧ r.who.agent = none ∧ s.underway (·.who == r.who) = true := by
  unfold State.logHeld
  simp only [List.any_eq_true, Bool.or_eq_true, Bool.and_eq_true, beq_iff_eq, Option.isNone_iff_eq_none, and_assoc]
  constructor
  · rintro ⟨x, hx, h | h⟩
    · exact .inl ⟨x, hx, h⟩
    · exact .inr ⟨x, hx, h⟩
  · rintro (⟨x, hx, h⟩ | ⟨x, hx, h⟩)
    · exact ⟨x, hx, .inl h⟩
    · exact ⟨x, hx, .inr h⟩

/-- A fence of the scope covers accesses of the space at the offset (R57, R149). -/
def State.fenceReaches (s : State) (scope : Nat) (space : BitVec 16) (off : Word) : Bool :=
  if space = 0 then s.inScope scope (offCoord off) else decide (scope = 5)
theorem State.fenceWaits_eq (s : State) (scope : Nat) (p : Pend) : s.fenceWaits scope p =
    ((match p.kind with | .copy _ _ _ | .waitv _ => false | _ => true) && (p.loc || s.fenceReaches scope p.space p.off)) := by
  have h : (if p.loc then true else if p.space = 0 then s.inScope scope (offCoord p.off) else scope == 5) =
      (p.loc || s.fenceReaches scope p.space p.off) := by cases p.loc <;> rfl
  unfold State.fenceWaits
  cases p.kind with
  | copy op line n => rfl
  | waitv d => rfl
  | load d sz => exact h
  | store => exact h
  | amo d ret => exact h
  | leaf d k => exact h

/-- A fence of the scope does not wait for a queued operation: a copy to a tile out of its scope. -/
def State.fenceLeaves (s : State) (scope : Nat) : EOp → Bool
  | .cop (.copy c) => !s.fenceCopy scope c.kind
  | _ => false
/-- An access of the tile is in a side log (R150). -/
def State.sideLogged (s : State) : Prop := (∃ i, ∃ p ∈ (s.tile.th i).pends, p.logged = true) ∨ s.logHeld = true

theorem State.fenceReady_iff (s : State) (scope : Nat) : s.fenceReady scope = true ↔
    (∀ p ∈ s.th.pends, (!p.logged && s.fenceWaits scope p) = false) ∧
    (∀ k ∈ s.tile.copies, k.tid = s.tid → s.fenceCopy scope k.kind = false) ∧
    (∀ q ∈ s.tile.ops, q.tid = s.tid → s.fenceLeaves scope q.op = true) ∧ (scope = 5 → ¬ s.sideLogged) := by
  have hop : ∀ q : QOp, (match q.op with | .cop (.copy c) => s.fenceCopy scope c.kind | _ => true) = !s.fenceLeaves scope q.op := by
    intro q
    unfold State.fenceLeaves
    split <;> simp
  have hlog : (((List.finRange 4).any fun i => (s.tile.th i).pends.any (·.logged)) || s.logHeld) = false ↔ ¬ s.sideLogged := by
    simp [State.sideLogged, List.any_eq_true, List.mem_finRange]
  have hops : (∀ q ∈ s.tile.ops, ¬ (q.tid = s.tid ∧ (match q.op with | .cop (.copy c) => s.fenceCopy scope c.kind | _ => true) = true)) ↔
      ∀ q ∈ s.tile.ops, q.tid = s.tid → s.fenceLeaves scope q.op = true := by
    simp [hop]
  unfold State.fenceReady
  simp only [Bool.and_eq_true, Bool.not_eq_true', Bool.and_eq_false_imp, List.any_eq_false, Bool.or_eq_true, bne_iff_ne, beq_iff_eq, ne_eq]
  rw [hlog, ← hops]
  constructor
  · rintro ⟨⟨⟨hp, hq⟩, hc⟩, hs⟩
    exact ⟨fun p hm hl => Bool.eq_false_iff.mpr fun h => hp p hm ⟨hl, h⟩, fun k hk ht => Bool.eq_false_iff.mpr fun h => hc k hk ⟨ht, h⟩, hq, fun h5 => hs.resolve_left (not_not.mpr h5)⟩
  · rintro ⟨hp, hc, hq, hs⟩
    exact ⟨⟨⟨fun p hm h => Bool.eq_false_iff.mp (hp p hm h.1) h.2, hq⟩, fun k hk h => Bool.eq_false_iff.mp (hc k hk h.1) h.2⟩,
      not_or_of_imp hs⟩

/-- Settles O21: a WAITV past its checks enters WAITV with its request on the way, and the other waits go on when their condition holds. -/
theorem waitsHoldTheThread : Obligations.WaitsHoldTheThread := by
  unfold Obligations.WaitsHoldTheThread
  constructor
  · intro s x c k n off w kind waits space far req hg
    have hoff : devOff s x.a x.off = off := devOff_eq s x.a x.off
    have hn : devOffWords x.off = n := by cases hx : x.off <;> simp [n, hx] <;> rfl
    have hk : waitvBytes x = k := rfl
    have hkind : s.waitvKind x c = kind := by
      have h8 : waitvBytes x ≤ 8 := by unfold waitvBytes; split <;> decide
      unfold State.waitvKind
      rw [lowBytes_eq_mod _ h8]
      rfl
    have hspace : targetSpace s x.tgt = space := by
      cases ht : x.tgt with
      | loc => simp [space, ht, targetSpace]
      | glob => simp [space, ht, targetSpace]
      | ext e => cases e <;> simp [space, ht, targetSpace, spaceVal_eq]
    have hfar : targetFar x.tgt = far := by cases ht : x.tgt <;> simp [far, ht, targetFar]
    refine ⟨fun ht hok hp => ?_, fun ht hok hp => ?_, fun e ht he => ?_, fun b ht h0 h1 ha hb => ?_⟩
    · have hx := execWaitv_beyond (c := c) hg ht
      rw [hoff, hn, hspace, hfar, hk, deviceAccess_ok _ _ _ _ _ _ hok, whenReady_on _ hp, hkind] at hx
      obtain ⟨hkeeps, hpc, hst, hwait⟩ := State.intoWaitv_waits (State.keeps_request s kind (.waitv x.d) space w)
        (State.request_tid _ _ _ _ _) (by rw [State.request_th]) s.nextId n
      refine ⟨_, hx, ⟨hkeeps, hpc, hst, hwait, ?_⟩, ?_⟩
      · show (s.request _ _ _ _).nextId = _
        rw [State.request_eq]
      · rw [State.intoWaitv_inj, State.request_inj]
        rfl
    · have hx := execWaitv_beyond (c := c) hg ht
      rw [hoff, hspace, hfar, hk, deviceAccess_ok _ _ _ _ _ _ hok, whenReady_off _ hp] at hx
      exact hx
    · have hx := execWaitv_beyond (c := c) hg ht
      rw [hoff, hspace, hfar, hk, deviceAccess_fault _ _ _ _ _ _ _ he] at hx
      exact hx
    · have hx := execWaitv_local (c := c) hg ht (hoff ▸ h0) (hoff ▸ h1) (hoff ▸ ha) (hoff ▸ hb)
      rw [hoff, hn] at hx
      obtain ⟨hkeeps, hpc, hst, hwait⟩ := State.intoWaitv_waits (State.armsHere_keeps (c := c) off.toNat b) rfl
        (State.armsHere_pc (c := c) off.toNat b) s.nextId n
      refine ⟨_, hx, ⟨hkeeps, hpc, hst, hwait, rfl⟩, ?_⟩
      have hzero : space = 0 := by rw [← hspace, ht]; rfl
      have hlow : off.toNat < 0x10000 ↔ off < 0x10000 := by omega
      rw [State.intoWaitv_arms]
      show s.tile.arms ++ [⟨_, s.waitvKind x c, 0, BitVec.ofNat 64 (if off.toNat < 0x10000 then off.toNat else b), _, _, _⟩] =
        s.tile.arms ++ [⟨_, kind, space, BitVec.ofNat 64 (if off < 0x10000 then off.toNat else b), _, _, _⟩]
      rw [hkind, hzero]
      simp only [hlow]
      rfl
  · intro s l st c t scope o low loops reaches covers copies leaves logs fenced hscope
    have hcov : ∀ p, covers p = (!p.logged && s.fenceWaits scope.toNat p) := by
      intro p
      rw [State.fenceWaits_eq, ← Bool.and_assoc]
      rfl
    have hcopies : ∀ k, copies k = s.fenceCopy scope.toNat k := by intro k; cases k <;> rfl
    have hleaves : ∀ o, leaves o = s.fenceLeaves scope.toNat o := by
      intro o
      cases o with
      | cop y =>
        cases y with
        | copy k => exact congrArg (!·) (hcopies k.kind)
        | _ => rfl
      | _ => rfl
    have hloops : ∀ p, loops p = s.loopBack p := fun _ => rfl
    have hlogs : s.sideLogged ↔ logs := or_congr_right s.logHeld_iff
    have h5 : scope = 5 ↔ scope.toNat = 5 := ⟨fun h => h ▸ rfl, fun h => BitVec.eq_of_toNat_eq h⟩
    have hfence : s.fenceReady scope.toNat = true ↔ fenced := by
      rw [State.fenceReady_iff, hlogs, ← h5]
      simp only [← hcov, ← hcopies, ← hleaves]
      exact Iff.rfl
    obtain ⟨hw, hw'⟩ := s.holds_until (.waitc l st c t) _ rfl
    obtain ⟨hl, hl'⟩ := s.holds_until .loopf _ rfl
    obtain ⟨hf, hf'⟩ := s.holds_until (.fence scope) _ rfl
    refine ⟨fun h => hw (decide_eq_true h), fun h => hw' (decide_eq_false h), fun h => hl ?_, fun h => hl' ?_, fun h => hf (hfence.mpr h),
      fun h => hf' (Bool.eq_false_iff.mpr fun e => h (hfence.mp e))⟩
    · simpa [← hloops] using h
    · simpa [← hloops] using h

end Sys2Proof.Machine

/-! ### Messages as they enter the mesh (O41, O42, O49) -/

namespace Sys2Proof.Machine

/-- A message as it stands where it enters the mesh (R118, R125). -/
def State.flightOf (s : State) (msg : Msg) (vc : BitVec 4) (src : Coord) (dest : Dest) (srcName : BitVec 32) (name : Option (BitVec 32))
    (hall : BitVec 6) (sys : Bool) : Flight :=
  let self := s.destSite dest == src
  ⟨msg, vc, src, dest, src, srcName, name, hall, sys, 0, if self then [] else [⟨src, 4, 0⟩], if self then 0 else msg.flits, s.nextSeq⟩
/-- Message f has entered the mesh. -/
def State.mailed (s : State) (f : Flight) : State := { s with net := s.net ++ [f], nextSeq := s.nextSeq + 1 }

/-- A router that learns a name changes its tile's name table only (R129). -/
theorem State.learnAt_eq (s : State) (c : Coord) (f : Flight) : ∃ ns ts,
    s.learnAt c f = { s with tile := { s.tile with names := ns }, tiles := ts } := by
  unfold State.learnAt
  split
  · exact ⟨_, _, rfl⟩
  · unfold State.mapTileAt State.setTileAt State.tileAt
    split
    · exact ⟨_, _, rfl⟩
    · exact ⟨_, _, rfl⟩

section
variable (s : State) (msg : Msg) (vc : BitVec 4) (src : Coord) (dest : Dest) (srcName : BitVec 32) (name : Option (BitVec 32))
  (hall : BitVec 6) (sys : Bool)

/-- The message enters, and the router where it enters a link learns its sender (R129). -/
theorem State.send_cases : s.send msg vc src dest srcName name hall sys = s.mailed (s.flightOf msg vc src dest srcName name hall sys) ∨
    s.send msg vc src dest srcName name hall sys =
      (s.mailed (s.flightOf msg vc src dest srcName name hall sys)).learnAt src (s.flightOf msg vc src dest srcName name hall sys) :=
  ite_eq_or_eq _ _ _

theorem State.send_eq : ∃ ns ts, s.send msg vc src dest srcName name hall sys =
    { s.mailed (s.flightOf msg vc src dest srcName name hall sys) with tile := { s.tile with names := ns }, tiles := ts } := by
  rcases s.send_cases msg vc src dest srcName name hall sys with h | h
  · exact ⟨_, _, h⟩
  · obtain ⟨ns, ts, e⟩ := State.learnAt_eq _ src _
    exact ⟨ns, ts, h.trans e⟩
/-- A sender without a name, or a gallery, teaches no router anything. -/
theorem State.send_untaught (h : srcName = 0 ∨ isGallery src = true) : s.send msg vc src dest srcName name hall sys =
    s.mailed (s.flightOf msg vc src dest srcName name hall sys) := by
  rcases s.send_cases msg vc src dest srcName name hall sys with e | e
  · exact e
  · exact e.trans (if_pos h)
end

end Sys2Proof.Machine

/-! ### Records and reports leave a tile (O42) -/

namespace Sys2Proof.Machine

/-- Word 0 of a record (R386). -/
def recordHead (lost : BitVec 9) (sys : Bool) (hid : BitVec 6) (entry : BitVec 16) (pc : BitVec 12) (kind tid : BitVec 2) (cause : BitVec 8) : Word :=
  lost ++ BitVec.ofBool sys ++ hid ++ entry ++ (0 : BitVec 4) ++ pc ++ (0 : BitVec 4) ++ kind ++ tid ++ cause

/-- The bits of f l above the low n are those of l, and the low n do not rest on it. -/
def onTop {w : Nat} (n : Nat) (f : BitVec 9 → BitVec w) : Prop :=
  ∀ l k i, (f l).getLsbD i = if i < n then (f k).getLsbD i else l.getLsbD (i - n)
theorem onTop.append {w n m : Nat} {f : BitVec 9 → BitVec w} (h : onTop n f) (y : BitVec m) : onTop (n + m) fun l => f l ++ y := by
  intro l k i
  rw [BitVec.getLsbD_append, BitVec.getLsbD_append]
  by_cases hi : i < m
  · rw [if_pos hi, if_pos (by omega), if_pos hi]
  · rw [if_neg hi, if_neg hi, h l k (i - m), show i - m - n = i - (n + m) by omega]
    exact if_congr (by omega) rfl rfl
theorem recordHead_onTop (sys : Bool) (hid : BitVec 6) (entry : BitVec 16) (pc : BitVec 12) (kind tid : BitVec 2) (cause : BitVec 8) :
    onTop 55 fun l => recordHead l sys hid entry pc kind tid cause :=
  have h : onTop 0 id := fun l _ i => by simp
  ((((((((h.append (BitVec.ofBool sys)).append hid).append entry).append (0 : BitVec 4)).append pc).append (0 : BitVec 4)).append kind).append
    tid).append cause
/-- LOST stands above the other fields. -/
theorem recordHead_lost (l k : BitVec 9) (sys : Bool) (hid : BitVec 6) (entry : BitVec 16) (pc : BitVec 12) (kind tid : BitVec 2)
    (cause : BitVec 8) : (l ++ (recordHead k sys hid entry pc kind tid cause).extractLsb' 0 55 : Word) =
      recordHead l sys hid entry pc kind tid cause := by
  refine BitVec.eq_of_getLsbD_eq fun i _ => ?_
  rw [recordHead_onTop sys hid entry pc kind tid cause l k i, BitVec.getLsbD_append, BitVec.getLsbD_extractLsb', Nat.zero_add]
  by_cases h : i < 55
  · simp [h]
  · simp [h]

theorem lostWord_eq (n : Nat) (w : Word) :
    ((w &&& 0x007FFFFFFFFFFFFF) ||| BitVec.ofNat 64 (n * 2 ^ 55) : Word) = (BitVec.ofNat 9 n ++ w.extractLsb' 0 55 : Word) := by
  have hmask : ∀ i < 64, (0x007FFFFFFFFFFFFF : Word).getLsbD i = decide (i < 55) := by decide
  refine BitVec.eq_of_getLsbD_eq fun i hi => ?_
  rw [BitVec.getLsbD_or, BitVec.getLsbD_and, hmask i hi, BitVec.getLsbD_ofNat, Nat.testBit_mul_two_pow, BitVec.getLsbD_append,
    BitVec.getLsbD_extractLsb', BitVec.getLsbD_ofNat, Nat.zero_add]
  by_cases h : i < 55
  · simp [h]
  · have h9 : i - 55 < 9 ∧ 55 ≤ i := by omega
    simp [h, hi, h9]

/-- A record's words with the losses since the last one in them (R386). -/
def withLost (n : Nat) : List Word → List Word
  | w :: l => (BitVec.ofNat 9 (min n 511) ++ w.extractLsb' 0 55) :: l
  | [] => []

/-- A record enters the mesh as a named packet for the trap receiver of gallery g, and the count of losses starts again. -/
theorem State.sendRecord_eq (s : State) (g : Nat) (ws : List Word) : ∃ z ns ts, s.sendRecord g ws =
      { s.mailed z with tile := { s.tile with lost := 0, names := ns }, tiles := ts } ∧ z.dest = .gallery g ∧ z.vc = 14 ∧
    z.name = some (trapName g) ∧ ∃ q, z.msg = .record ⟨withLost s.tile.lost ws, q⟩ := by
  have key : ∀ xs, ∃ z ns ts, (s.mapTile fun t => { t with lost := 0 }).send (.record ⟨xs, some (recordQueue xs)⟩) 14 s.foc (.gallery g)
        (s.tile.r.name.setWidth 32) (some (trapName g)) (if s.tile.sys then 0 else s.tile.hid) s.tile.sys =
        { s.mailed z with tile := { s.tile with lost := 0, names := ns }, tiles := ts } ∧ z.dest = .gallery g ∧ z.vc = 14 ∧
      z.name = some (trapName g) ∧ ∃ q, z.msg = .record ⟨xs, q⟩ := by
    intro xs
    obtain ⟨ns, ts, e⟩ := (s.mapTile fun t => { t with lost := 0 }).send_eq (.record ⟨xs, some (recordQueue xs)⟩) 14 s.foc (.gallery g)
      (s.tile.r.name.setWidth 32) (some (trapName g)) (if s.tile.sys then 0 else s.tile.hid) s.tile.sys
    exact ⟨_, ns, ts, e, rfl, rfl, rfl, _, rfl⟩
  cases ws with
  | nil => exact key []
  | cons w l =>
    unfold State.sendRecord
    dsimp only
    rw [lostWord_eq]
    exact key _

/-- Some thread's record may go. -/
def Tile.recordWaits (t : Tile) : Bool := (List.finRange 4).any fun i => (t.th i).record.any (t.th i).recordReady
theorem Tile.recordWaits_eq_false (t : Tile) :
    t.recordWaits = false ↔ ∀ i : Tid, ∀ x, (t.th i).record = some x → (t.th i).recordReady x = false := by
  have hany (i : Tid) : (t.th i).record.any (t.th i).recordReady = false ↔ ∀ x, (t.th i).record = some x → (t.th i).recordReady x = false := by
    cases (t.th i).record <;> simp
  simp [Tile.recordWaits, List.any_eq_false, ← hany]
/-- A halt notice goes at once, a record once the thread's stores and atomics are performed. -/
theorem Thread.recordReady_of {t : Thread} {r : RecordOut} (hd : r.deferred = false)
    (h : r.kind ≠ 0 ∨ (t.outc.stores = 0 ∧ ∀ p ∈ t.pends, (∀ d b, p.kind ≠ .amo d b) ∨ p.held = true)) : t.recordReady r = true := by
  unfold Thread.recordReady
  by_cases hk : r.kind = 0
  · obtain ⟨hst, hp⟩ := h.resolve_left fun e => e hk
    rw [if_pos hk, hd, if_neg Bool.false_ne_true, hst, beq_self_eq_true, Bool.true_and, Bool.not_eq_true', List.any_eq_false]
    intro p hmem
    split
    case h_1 d b hamo => simpa using (hp p hmem).resolve_left fun e => e d b hamo
    case h_2 => simp
  · rw [if_neg hk]

theorem execTrapRecord_sends {s : State} {r : RecordOut} (hr : s.th.record = some r) (hd : r.deferred = false)
    (hready : s.th.recordReady r = true) (hfree : s.inputFree s.foc 14 = true) : execTrapRecord s =
      .next ((s.mapTh fun t => { t with record := none }).sendRecord s.tile.trapGallery
        (s.tile.recordOf s.wtime s.foc (s.th.entry.setWidth 16) r.kind s.tid.val r.info)) := by
  unfold execTrapRecord
  dsimp only
  rw [hr]
  dsimp only
  rw [hready, hfree, hd]
  rfl
theorem execTrapRecord_waits {s : State} {r : RecordOut} (hr : s.th.record = some r) (hready : s.th.recordReady r = false) :
    execTrapRecord s = .next s := by
  unfold execTrapRecord
  dsimp only
  rw [hr]
  dsimp only
  rw [hready]
  rfl

theorem execReportInjection_eq {s : State} {g : Option Nat} {ws : List Word} {rest : List (Option Nat × List Word)}
    (h : s.tile.reports = (g, ws) :: rest) : execReportInjection s = if s.tile.recordWaits || !s.inputFree s.foc 14 then .next s
      else .next ((s.mapTile fun t => { t with reports := rest }).sendRecord (g.getD s.tile.trapGallery) ws) := by
  have hready : ((List.finRange 4).any fun i => match (s.tile.th i).record with
      | some r => (s.tile.th i).recordReady r
      | none => false) = s.tile.recordWaits := by
    unfold Tile.recordWaits
    congr 1
    funext i
    cases (s.tile.th i).record <;> rfl
  unfold execReportInjection
  dsimp only
  rw [h]
  exact if_congr (iff_of_eq (congrArg (fun b => (b || !s.inputFree s.foc 14) = true) hready)) rfl rfl

/-- A thread whose record is gone keeps its other fields. -/
theorem State.withoutRecord_th (s : State) : (s.mapTh fun t => { t with record := none }).th = { s.th with record := none } :=
  State.mapTh_th s fun t => { t with record := none }

/-- Settles O42: a record that is ready, or a report when none is, is sent by `State.sendRecord` once VC14 takes it. -/
theorem recordsAndReportsAreSent : Obligations.RecordsAndReportsAreSent := by
  unfold Obligations.RecordsAndReportsAreSent
  intro s r g ws rest sent lost takes head place quiet
  have hquiet : s.tile.recordWaits = false ↔ quiet := s.tile.recordWaits_eq_false
  refine ⟨fun hr hd hready htakes => ?_, fun hr hd hk hst => ?_, fun hrep hq htakes => ?_, fun hrep hno => ?_⟩
  · obtain ⟨z, ns, ts, e, hdest, hvc, hname, q, hmsg⟩ := (s.mapTh fun t => { t with record := none }).sendRecord_eq s.tile.trapGallery
        (s.tile.recordOf s.wtime s.foc (s.th.entry.setWidth 16) r.kind s.tid.val r.info)
    have hth : ({ (s.mapTh fun t => { t with record := none }).mailed z with
        tile := { (s.mapTh fun t => { t with record := none }).tile with lost := 0, names := ns }, tiles := ts } : State).th =
        { s.th with record := none } := s.withoutRecord_th
    refine ⟨_, (execTrapRecord_sends hr hd (Thread.recordReady_of hd hready) htakes).trans (congrArg _ e), ?_, ?_, ?_, rfl, rfl,
      z, q, rfl, hdest, hvc, hname, hmsg.trans ?_⟩
    · rw [hth]
    · rw [hth]
    · rw [hth]
    · have hw := recordHead_lost lost 0 s.tile.sys s.tile.hid (s.th.entry.setWidth 16) r.info.pc r.kind (BitVec.ofNat 2 s.tid.val) r.info.cause
      exact congrArg (fun w => Msg.record ⟨w :: [r.info.faddr, r.info.op0, r.info.op1, r.info.op2, r.info.op3, place, s.wtime + s.tile.lag], q⟩) hw
  · refine execTrapRecord_waits hr ?_
    unfold Thread.recordReady
    simp [hk, hd, hst]
  · obtain ⟨z, ns, ts, e, hdest, hvc, hname, q, hmsg⟩ :=
      (s.mapTile fun t => { t with reports := rest }).sendRecord_eq (g.getD s.tile.trapGallery) ws
    have hgo : ¬ (s.tile.recordWaits || !s.inputFree s.foc 14) = true := by
      rw [hquiet.2 hq, show s.inputFree s.foc 14 = true from htakes]
      exact Bool.false_ne_true
    refine ⟨_, ((execReportInjection_eq hrep).trans (if_neg hgo)).trans (congrArg _ e), rfl, rfl, rfl, rfl, ?_⟩
    rintro w l rfl
    exact ⟨z, q, rfl, hdest, hvc, hname, hmsg⟩
  · refine (execReportInjection_eq hrep).trans (if_pos ?_)
    rw [Bool.or_eq_true, Bool.not_eq_true']
    exact hno.imp (fun h => Bool.not_eq_false _ |>.mp fun e => h (hquiet.1 e)) Bool.eq_false_iff.2

end Sys2Proof.Machine

/-! ### An answer reaches a running thread (O41) -/

namespace Sys2Proof.Machine

theorem State.updTh_eq {s : State} {i : Tid} {f : Thread → Thread} (h : (f (s.tile.th i)).state ≠ .saved) :
    s.updTh s.foc i f = s.mapTile (·.mapTh i f) := by
  unfold State.updTh
  dsimp only
  rw [State.mapTileAt_foc]
  refine if_neg ?_
  have ht : (s.mapTile (·.mapTh i f)).tileAt s.foc = s.tile.mapTh i f := State.tileAt_foc (s.mapTile (·.mapTh i f))
  rw [ht, Tile.mapTh_th, if_pos rfl]
  exact h
theorem Thread.settle_of_run {t : Thread} (h : t.state = .run) : t.settle = t := by
  unfold Thread.settle
  rw [h]
  exact if_neg fun e => absurd e.1 (by decide)

/-- An answer to a request of a running thread of the focus tile, but for a copy's, changes the thread and checkpoints of its operations. -/
theorem State.completeAns_run {s : State} {a : Ans} {p : Pend} {h : Thread} (hsrc : a.who.src = s.foc) (hfl : a.flags = 0)
    (hp : (s.tile.th a.who.tid).pends.find? (·.id == a.who.id) = some p) (hkind : ∀ b c e, p.kind ≠ .copy b c e)
    (hrun : (s.tile.th a.who.tid).state = .run) (hans : (s.tile.th a.who.tid).answered p a.val = h) (hh : h.state = .run) :
    ∃ ops, s.completeAns a = { s with tile := { s.tile.setTh a.who.tid h with ops := ops } } := by
  have hset : ((s.tile.th a.who.tid).answered p a.val).settle = h := by rw [hans, Thread.settle_of_run hh]
  have hupd : s.updTh a.who.src a.who.tid (fun t => (t.answered p a.val).settle) = { s with tile := s.tile.setTh a.who.tid h } := by
    rw [hsrc, State.updTh_eq (by rw [hset, hh]; decide)]
    exact congrArg (fun h => { s with tile := s.tile.setTh a.who.tid h }) hset
  have hat : s.tileAt a.who.src = s.tile := by rw [hsrc, State.tileAt_foc]
  unfold State.completeAns
  dsimp only
  split
  case h_1 hn => exact absurd (hat ▸ hn) (by rw [hp]; nofun)
  case h_2 q hq =>
    cases Option.some.inj (hp.symm.trans (hat ▸ hq))
    rw [if_pos hfl]
    split
    case h_1 op l n hk => exact absurd hk (hkind op l n)
    case h_2 d hk =>
      rw [if_neg (by rw [hat, hrun]; exact Bool.false_ne_true)]
      exact ⟨_, hupd⟩
    case h_3 =>
      rw [hupd]
      unfold State.intoCheckpoints
      split
      · exact ⟨_, State.mapTileAt_of_foc _ _ _ hsrc⟩
      · exact ⟨_, rfl⟩

/-- The earliest answer at the tile's port is for pend p of a running thread of the tile. -/
structure State.AnswerIn (s : State) (f : Flight) (a : Ans) (p : Pend) : Prop where
  first : s.net.find? (fun f => f.atTile s.foc && (match f.msg with | .ans _ => true | _ => false)) = some f
  msg : f.msg = .ans a
  src : a.who.src = s.foc
  flags : a.flags = 0
  pend : (s.tile.th a.who.tid).pends.find? (·.id == a.who.id) = some p
  run : (s.tile.th a.who.tid).state = .run
/-- What holds besides `g` once the answer f to thread i has arrived. -/
def State.answerLeaves (s : State) (f : Flight) (i : Tid) (g : State → Prop) : Prop := ∃ t : State, exec .answerArrival s = .next t ∧
  t.net = s.net.erase f ∧ t.mem = s.mem ∧ (∀ j, j ≠ i → t.tile.th j = s.tile.th j) ∧ g t

/-- It leaves the mesh and reaches its thread. -/
theorem State.AnswerIn.leaves {s : State} {f : Flight} {a : Ans} {p : Pend} (hin : s.AnswerIn f a p) {v : AnsVal} {h : Thread}
    {g : State → Prop} (hv : a.val = v) (hkind : ∀ b c e, p.kind ≠ .copy b c e) (hans : (s.tile.th a.who.tid).answered p v = h)
    (hh : h.state = .run) (hg : ∀ t : State, t.tile.th a.who.tid = h → g t) : s.answerLeaves f a.who.tid g := by
  obtain ⟨ops, e⟩ := State.completeAns_run (s := { s with net := s.net.erase f }) hin.src hin.flags hin.pend hkind hin.run
    ((congrArg _ hv).trans hans) hh
  refine ⟨({ s with net := s.net.erase f } : State).completeAns a, ?_, by rw [e], by rw [e], fun j hj => ?_, hg _ ?_⟩
  · show execAnswerArrival s = _
    unfold execAnswerArrival
    split
    case h_1 k hk =>
      cases Option.some.inj (hk.symm.trans hin.first)
      rw [hin.msg]
    case h_2 hn => exact absurd (hn.symm.trans hin.first) nofun
  · rw [e]
    exact (Tile.setTh_th s.tile _ j _).trans (if_neg (Ne.symm hj))
  · rw [e]
    exact (Tile.setTh_th s.tile _ _ _).trans (if_pos rfl)

/-- A value for a load is extended into its register, and the load is outstanding no more (R217). -/
theorem Thread.answered_load (t : Thread) {p : Pend} {d : GReg} {sz : BitVec 3} (hk : p.kind = .load d sz) (w : Word) :
    t.answered p (.value w) = ((t.dropPend p.id).lowerLoads.clearPending d).setG d (extend sz w) := by
  unfold Thread.answered
  rw [hk]
theorem Thread.answered_store (t : Thread) {p : Pend} (hk : p.kind = .store) : t.answered p .ack = (t.dropPend p.id).lowerStores := by
  unfold Thread.answered
  rw [hk]
theorem Thread.answered_held (t : Thread) (p : Pend) : t.answered p .held = t.mapPend p.id fun q => { q with held := true } := by
  unfold Thread.answered
  cases p.kind <;> rfl
theorem Thread.answered_refused (t : Thread) {p : Pend} (hk : p.kind = .store) (cause : BitVec 8) :
    t.answered p (.refuse cause) = (t.dropPend p.id).lowerStores.defer cause p 0 := by
  unfold Thread.answered Thread.refused
  rw [hk]
/-- The first refusal is described (R215). -/
theorem Thread.defer_first {t : Thread} (hd : t.deferred = none) (hr : t.record = none) (cause : BitVec 8) (p : Pend) (x : Word) :
    t.defer cause p x =
      { t with deferred := some ⟨cause, 0, p.off, p.space.zeroExtend 64, p.ipc.zeroExtend 64, 1, x⟩, further := 0 } := by
  unfold Thread.defer Thread.deferredUnsent
  rw [hd, hr]
  rfl
/-- Later ones are counted. -/
theorem Thread.defer_further {t : Thread} (hd : t.deferred.isSome = true) (cause : BitVec 8) (p : Pend) (x : Word) :
    t.defer cause p x = { t with further := min 255 (t.further + 1) } := by
  unfold Thread.defer
  rw [hd]
  rfl

/-- Every mark of a held request is set. -/
theorem Thread.mapPend_held (t : Thread) (id : Nat) (q : Pend) (hq : q ∈ (t.mapPend id fun q => { q with held := true }).pends)
    (hid : q.id = id) : q.held = true := by
  obtain ⟨o, -, rfl⟩ := List.mem_map.1 hq
  by_cases ho : o.id = id
  · rw [if_pos ho]
  · rw [if_neg ho] at hid
    exact absurd hid ho
theorem Thread.clearPending_getLsbD (t : Thread) (d : GReg) : (t.clearPending d).pending.getLsbD d.toNat = false := by
  have hd := d.isLt
  simp [Thread.clearPending, hd]

section
variable {s : State} {f : Flight} {a : Ans} {p : Pend} (hin : s.AnswerIn f a p)
include hin

/-- R217: the value of a load. -/
theorem State.AnswerIn.load {d : GReg} {sz : BitVec 3} {w : Word} (hv : a.val = .value w) (hk : p.kind = .load d sz) :
    s.answerLeaves f a.who.tid fun t =>
      (t.tile.th a.who.tid).pends = (s.tile.th a.who.tid).pends.filter (·.id != p.id) ∧
      (t.tile.th a.who.tid).outc = { (s.tile.th a.who.tid).outc with loads := (s.tile.th a.who.tid).outc.loads - 1 } ∧
      (d ≠ 0 → (t.tile.th a.who.tid).gr d = extend sz w) ∧ (∀ q, q ≠ d → (t.tile.th a.who.tid).gr q = (s.tile.th a.who.tid).gr q) ∧
      (t.tile.th a.who.tid).pending.getLsbD d.toNat = false ∧ (t.tile.th a.who.tid).pc = (s.tile.th a.who.tid).pc := by
  refine hin.leaves hv (fun _ _ _ => by rw [hk]; nofun) (Thread.answered_load _ hk w) ((Thread.setG_state _ _ _).trans hin.run) fun t ht => ?_
  rw [ht]
  refine ⟨Thread.setG_pends _ _ _, Thread.setG_outc _ _ _, Thread.gr_setG_same _ _ _, fun q hq => Thread.gr_setG_other _ _ _ _ hq, ?_,
    Thread.setG_pc _ _ _⟩
  rw [Thread.setG_pending]
  exact Thread.clearPending_getLsbD _ _
/-- The acknowledgement of a store. -/
theorem State.AnswerIn.ack (hv : a.val = .ack) (hk : p.kind = .store) : s.answerLeaves f a.who.tid fun t => t.tile.th a.who.tid =
    { s.tile.th a.who.tid with pends := (s.tile.th a.who.tid).pends.filter (·.id != p.id)
                               outc := { (s.tile.th a.who.tid).outc with stores := (s.tile.th a.who.tid).outc.stores - 1 } } :=
  hin.leaves hv (fun _ _ _ => by rw [hk]; nofun) (Thread.answered_store _ hk) hin.run fun _ ht => ht
/-- The request is held at its port. -/
theorem State.AnswerIn.held (hv : a.val = .held) (hk : ∀ b c e, p.kind ≠ .copy b c e) : s.answerLeaves f a.who.tid fun t =>
    (t.tile.th a.who.tid).g = (s.tile.th a.who.tid).g ∧ ∀ q ∈ (t.tile.th a.who.tid).pends, q.id = p.id → q.held = true := by
  refine hin.leaves hv hk (Thread.answered_held _ p) hin.run fun t ht => ?_
  rw [ht]
  exact ⟨rfl, Thread.mapPend_held _ p.id⟩
/-- R215: a store is refused. -/
theorem State.AnswerIn.refused {cause : BitVec 8} (hv : a.val = .refuse cause) (hk : p.kind = .store)
    (hr : (s.tile.th a.who.tid).record = none) : s.answerLeaves f a.who.tid fun t =>
      (t.tile.th a.who.tid).g = (s.tile.th a.who.tid).g ∧ (t.tile.th a.who.tid).pends = (s.tile.th a.who.tid).pends.filter (·.id != p.id) ∧
      (t.tile.th a.who.tid).outc = { (s.tile.th a.who.tid).outc with stores := (s.tile.th a.who.tid).outc.stores - 1 } ∧
      ((s.tile.th a.who.tid).deferred = none → (t.tile.th a.who.tid).deferred = some ⟨cause, 0, p.off, p.space.zeroExtend 64,
        p.ipc.zeroExtend 64, 1, 0⟩ ∧ (t.tile.th a.who.tid).further = 0) ∧
      ((s.tile.th a.who.tid).deferred.isSome = true → (t.tile.th a.who.tid).deferred = (s.tile.th a.who.tid).deferred ∧
        (t.tile.th a.who.tid).further = min 255 ((s.tile.th a.who.tid).further + 1)) := by
  have hkind : ∀ b c e, p.kind ≠ .copy b c e := fun _ _ _ => by rw [hk]; nofun
  have hans := (s.tile.th a.who.tid).answered_refused hk cause
  cases hd : (s.tile.th a.who.tid).deferred with
  | none =>
    refine hin.leaves hv hkind (hans.trans (Thread.defer_first (t := ((s.tile.th a.who.tid).dropPend p.id).lowerStores) hd hr cause p 0)) hin.run fun t ht => ?_
    rw [ht]
    exact ⟨rfl, rfl, rfl, fun _ => ⟨rfl, rfl⟩, nofun⟩
  | some i =>
    have hs : (s.tile.th a.who.tid).deferred.isSome = true := by rw [hd]; rfl
    refine hin.leaves hv hkind (hans.trans (Thread.defer_further (t := ((s.tile.th a.who.tid).dropPend p.id).lowerStores) hs cause p 0)) hin.run fun t ht => ?_
    rw [ht]
    exact ⟨rfl, rfl, rfl, nofun, fun _ => ⟨hd, rfl⟩⟩
end

/-! ### Monitors of WAITV (O41) -/

/-- An answer to a tile is all that enters the mesh. -/
theorem State.answer_mailed (s : State) (site : Coord) (vc : BitVec 4) {who : Who} (v : AnsVal) (fl : Flags) (hw : who.agent = none) :
    s.answer site vc who v fl = s.mailed (s.flightOf (.ans ⟨who, v, fl⟩) vc site (.tile who.src) 0 none 0 true) := by
  unfold State.answer
  rw [hw]
  exact s.send_untaught _ _ _ _ _ _ _ _ (.inl rfl)
theorem State.port_setPort (s : State) (p : Nat) (x : Port) : (s.setPort p x).port p = x := (unitGet_unitSet _ _ p p x).trans (if_pos rfl)

/-- The word is undamaged and holds what its WAITV expects, with a monitor free (R222). -/
theorem State.armAt_ok {s : State} {k n : Nat} {expect : Word} {room : Bool} (addr : Nat) (tmo : Option Word) (who : Who)
    (hd : s.damaged k n = false) (hw : BitVec.ofNat 64 (Memory.readN s.mem k n) = expect) (hr : room = true) :
    s.armAt k addr n expect tmo who room = .ok ⟨addr, n, who, tmo.map fun w => (s.wtime + s.tile.lag).toNat + w.toNat, none⟩ := by
  unfold State.armAt
  rw [if_neg (by rw [hd]; exact Bool.false_ne_true), if_neg (fun h => h.elim (absurd hw) (by rw [hr]; exact Bool.false_ne_true))]
/-- The focus tile with the local requests to arm changed. -/
def State.withArms (s : State) (l : List Req) : State := { s with tile := { s.tile with arms := l } }
theorem State.withArms_stillWaits (s : State) (l : List Req) (w : Who) : (s.withArms l).stillWaits w = s.stillWaits w := by
  unfold State.stillWaits State.tileAt State.withArms
  dsimp only
  split <;> rfl
theorem State.withArms_armAt (s : State) (l : List Req) (k addr n : Nat) (expect : Word) (tmo : Option Word) (who : Who) (room : Bool) :
    (s.withArms l).armAt ((s.withArms l).pa k) addr n expect tmo who room = s.armAt (s.pa k) addr n expect tmo who room := rfl

/-- A WAITV that waits at its own tile, and no entry of the write queue for its word. -/
theorem armTile_local {s : State} {r : Req} {rest : List Req} {n : Nat} {x : Word} {tmo : Option Word} (ha : s.tile.arms = r :: rest)
    (hk : r.kind = .waitv n x tmo) (hq : s.tile.wqHolds (s.tile.wordAt r.off.toNat) = false) :
    (s.stillWaits r.who = false → armTile s = .next { s with tile := { s.tile with arms := rest } }) ∧
    (s.stillWaits r.who = true → s.damaged (s.pa (s.tile.wordAt r.off.toNat)) n = false →
      BitVec.ofNat 64 (Memory.readN s.mem (s.pa (s.tile.wordAt r.off.toNat)) n) = x → s.tile.monitors.length < 16 →
      armTile s = .next { s with tile := { s.tile with
        arms := rest
        monitors := s.tile.monitors ++ [⟨r.off.toNat, n, r.who, tmo.map fun w => (s.wtime + s.tile.lag).toNat + w.toNat, none⟩] } }) := by
  have htaken : s.mapTile (fun t => { t with arms := rest }) = s.withArms rest := rfl
  unfold armTile
  rw [ha]
  dsimp only
  rw [if_neg (by rw [hq]; exact Bool.false_ne_true), hk, htaken]
  dsimp only
  rw [State.withArms_stillWaits, State.withArms_armAt]
  refine ⟨fun hs => ?_, fun hs hd hw hroom => ?_⟩
  · rw [hs]
    rfl
  · rw [hs, State.armAt_ok r.off.toNat tmo r.who hd hw (decide_eq_true hroom)]
    rfl

/-- A WAITV arms at its edge port. -/
theorem armPort_arms {s : State} {p n : Nat} {r : Req} {x : Word} {tmo : Option Word} (ha : (s.port p).firstArm = some r)
    (hk : r.kind = .waitv n x tmo) (hs : s.stillWaits r.who = true) (hd : s.damaged r.pa n = false)
    (hw : BitVec.ofNat 64 (Memory.readN s.mem r.pa n) = x) (hroom : (s.port p).monitors.length < 1024) :
    ∃ t : State, armPort p s = .next t ∧ t.net = s.net ∧ t.mem = s.mem ∧ t.tile = s.tile ∧
      (t.port p).monitors = (s.port p).monitors ++ [⟨r.pa, n, r.who, tmo.map fun w => s.wtime.toNat + w.toNat, none⟩] ∧
      (t.port p).devOps = (s.port p).devOps.erase r := by
  have hport := s.port_setPort p { s.port p with devOps := (s.port p).devOps.erase r }
  refine ⟨((s.setPort p { s.port p with devOps := (s.port p).devOps.erase r }).setPort p
    { s.port p with devOps := (s.port p).devOps.erase r
                    monitors := (s.port p).monitors ++ [⟨r.pa, n, r.who, tmo.map fun w => s.wtime.toNat + w.toNat, none⟩] }),
    ?_, rfl, rfl, rfl, ?_, ?_⟩
  · unfold armPort
    dsimp only
    rw [ha]
    dsimp only
    unfold State.armEdge
    rw [hk]
    dsimp only
    rw [show (s.setPort p { s.port p with devOps := (s.port p).devOps.erase r }).stillWaits r.who = true from hs, hport,
      State.armAt_ok (s := s.setPort p { s.port p with devOps := (s.port p).devOps.erase r }) r.pa tmo r.who hd hw (decide_eq_true hroom)]
    rfl
  · rw [State.port_setPort]
  · rw [State.port_setPort]

/-- An answer to m's waiter with word v is all that enters the mesh. -/
def State.tellsWaiter (s : State) (m : Monitor) (v : Word) (t : State) : Prop :=
  ∃ z : Flight, t.net = s.net ++ [z] ∧ z.dest = .tile m.who.src ∧ z.msg = .ans ⟨m.who, .value v, 0⟩

theorem State.endMonitor_tells (s : State) {m : Monitor} (v : Word) (ha : m.who.agent = none) (hf : m.who.src ≠ s.foc) :
    (s.endMonitor s.foc m v).tile.monitors = s.tile.monitors.erase m ∧ (s.endMonitor s.foc m v).mem = s.mem ∧
      s.tellsWaiter m v (s.endMonitor s.foc m v) := by
  obtain ⟨z, k, e, hdest, -, hmsg⟩ := (s.mapTile fun t => { t with monitors := t.monitors.erase m }).answerTile_eq s.foc m.who (.value v) 0 ha
  unfold State.endMonitor State.reply
  dsimp only
  rw [State.mapTileAt_foc, if_neg (by simpa using hf), e]
  exact ⟨rfl, rfl, z, rfl, hdest, hmsg⟩
theorem State.endPortMonitor_tells (s : State) (p : Nat) {m : Monitor} (v : Word) (ha : m.who.agent = none) :
    ((s.endPortMonitor p m v).port p).monitors = (s.port p).monitors.erase m ∧ (s.endPortMonitor p m v).mem = s.mem ∧
      s.tellsWaiter m v (s.endPortMonitor p m v) := by
  have e := (s.setPort p { s.port p with monitors := (s.port p).monitors.erase m }).answer_mailed (s.portEntry p) 11 (.value v) 0 ha
  have hend : s.endPortMonitor p m v = _ := e
  rw [hend]
  exact ⟨congrArg Port.monitors (s.port_setPort p { s.port p with monitors := (s.port p).monitors.erase m }), rfl, _, rfl, rfl, rfl⟩

/-- The wait's deadline has been reached while no write has fired its monitor. -/
def Monitor.due (m : Monitor) (now : Nat) : Bool := m.hit.isNone && m.deadline.any fun d => decide (d ≤ now)
theorem Monitor.expired_eq (m : Monitor) (now : Word) : m.expired now = m.due now.toNat := by
  unfold Monitor.expired Monitor.due
  cases m.deadline with
  | none => exact (Bool.and_false _).symm
  | some d => rfl

section
variable {s : State} {m : Monitor} (ha : m.who.agent = none)
include ha

theorem wakeTile_tells {w : Word} (hf : m.who.src ≠ s.foc)
    (h : s.tile.monitors.findSome? (fun m => m.hit.map fun v => (m, v)) = some (m, w)) :
    ∃ t : State, wakeTile s = .next t ∧ t.tile.monitors = s.tile.monitors.erase m ∧ t.mem = s.mem ∧ s.tellsWaiter m w t := by
  refine ⟨_, ?_, s.endMonitor_tells w ha hf⟩
  unfold wakeTile
  rw [h]
theorem timeoutTile_tells (hf : m.who.src ≠ s.foc)
    (h : s.tile.monitors.find? (fun m => m.due (s.wtime + s.tile.lag).toNat && !s.tile.wqHolds (s.tile.wordAt m.addr)) = some m) :
    ∃ t : State, timeoutTile s = .next t ∧ t.tile.monitors = s.tile.monitors.erase m ∧ t.mem = s.mem ∧
      s.tellsWaiter m (BitVec.ofNat 64 (Memory.readN s.mem (s.pa (s.tile.wordAt m.addr)) m.n)) t := by
  refine ⟨_, ?_, s.endMonitor_tells _ ha hf⟩
  unfold timeoutTile
  simp only [Monitor.expired_eq, h]
  rfl
theorem wakePort_tells {p : Nat} {w : Word} (h : (s.port p).monitors.findSome? (fun m => m.hit.map fun v => (m, v)) = some (m, w)) :
    ∃ t : State, execWaitvWake (some p) s = .next t ∧ (t.port p).monitors = (s.port p).monitors.erase m ∧ t.mem = s.mem ∧
      s.tellsWaiter m w t := by
  refine ⟨_, ?_, s.endPortMonitor_tells p w ha⟩
  unfold execWaitvWake
  dsimp only
  rw [h]
theorem timeoutPort_tells {p : Nat} (h : (s.port p).monitors.find? (fun m => m.due s.wtime.toNat) = some m) :
    ∃ t : State, execWaitvTimeout (some p) s = .next t ∧ (t.port p).monitors = (s.port p).monitors.erase m ∧ t.mem = s.mem ∧
      s.tellsWaiter m (BitVec.ofNat 64 (Memory.readN s.mem m.addr m.n)) t := by
  refine ⟨_, ?_, s.endPortMonitor_tells p _ ha⟩
  unfold execWaitvTimeout
  simp only [Monitor.expired_eq, h]
  rfl
end

/-- R215: a running thread with no engine operation under way traps for its deferred fault. -/
theorem execDeferredFault_traps {s : State} {i : TrapInfo} (hd : s.th.deferred = some i) (hr : s.th.state = .run) (hw : s.th.wait = .none)
    (hh : s.tile.holding s.tid = false) : ∃ t : State, execDeferredFault s = .next t ∧ t.th.state = .stop ∧ t.th.deferred = none ∧
      t.th.pc = s.th.pc ∧ t.th.g = s.th.g ∧ t.mem = s.mem ∧ t.th.record = some ⟨0, { i with pc := s.th.pc12 }, true⟩ ∧
      ∀ j, j ≠ s.tid → t.tile.th j = s.tile.th j := by
  have hpast : s.th.pastWait = s.th := by
    unfold Thread.pastWait
    rw [hw]
  have hth (h : Thread) : ((s.setTh h).dropMonitors s.foc s.tid).th = h := s.setTh_th h
  have hexec : ∃ ps, execDeferredFault s = .next ((s.setTh { ({ s.th with deferred := none, pends := ps } : Thread).trap
      { i with pc := s.th.pc12 } with record := some ⟨0, { i with pc := s.th.pc12 }, true⟩ }).dropMonitors s.foc s.tid) := by
    unfold execDeferredFault
    dsimp only
    rw [hd, hr, hh, hpast]
    exact ⟨_, rfl⟩
  obtain ⟨ps, e⟩ := hexec
  refine ⟨_, e, ?_⟩
  rw [hth]
  exact ⟨rfl, rfl, rfl, rfl, rfl, rfl, fun j hj => s.setTh_other _ j hj⟩

/-- Settles O41: each answer by what `Thread.answered` makes of its thread, each monitor by its home. -/
theorem answersEndOutstandingRequests : Obligations.AnswersEndOutstandingRequests := by
  unfold Obligations.AnswersEndOutstandingRequests
  intro s f a p d sz w x cause r rest n port tmo m i h gone arrives tells
  have hdue (now : Nat) (m : Monitor) : m.due now = (m.hit.isNone && (match m.deadline with
      | some d => decide (d ≤ now)
      | none => false)) := by
    unfold Monitor.due
    cases m.deadline <;> rfl
  refine ⟨fun hf hmsg hsrc hfl hp hrun => ?_, armTile_local, armPort_arms, fun ha hf => ⟨wakeTile_tells ha hf, fun hm => ?_⟩,
    fun ha => ⟨wakePort_tells ha, fun hm => ?_⟩, execDeferredFault_traps⟩
  · have hin : s.AnswerIn f a p := ⟨hf, hmsg, hsrc, hfl, hp, hrun⟩
    exact ⟨hin.load, hin.ack, fun hv hnc _ => hin.held hv hnc, hin.refused⟩
  · refine timeoutTile_tells ha hf ?_
    simp only [hdue]
    exact hm
  · refine timeoutPort_tells ha ?_
    simp only [hdue]
    exact hm

end Sys2Proof.Machine

/-! ### What a port answers and reports (O49) -/

namespace Sys2Proof.Machine

/-- An answer to a tile's request is all that enters the mesh. -/
theorem portAnswer_mailed (s : State) (p : Nat) {r : Req} (v : AnsVal) (fl : Flags) (hr : r.who.agent = none) : portAnswer s p r v fl =
    s.mailed (s.flightOf (.ans ⟨r.who, v, fl⟩) 11 (s.portEntry p) (.tile r.who.src) 0 none 0 true) :=
  s.answer_mailed _ _ _ _ hr
theorem State.portReport_mailed (s : State) (p gal : Nat) (ws : List Word) : s.portReport p gal ws =
    s.mailed (s.flightOf (.record ⟨ws, some (recordQueue ws)⟩) 14 (s.portEntry p) (.gallery gal) 0 (some (trapName gal)) 0 true) :=
  s.send_untaught _ _ _ _ _ _ _ _ (.inl rfl)
theorem State.emitUnit_mailed (s : State) (site : Coord) (vc : BitVec 4) (d : Dest) (m : Msg) (hall : BitVec 6) (sys : Bool) :
    s.emitUnit site vc d m hall sys = s.mailed (s.flightOf m vc site d 0 none hall sys) :=
  s.send_untaught _ _ _ _ _ _ _ _ (.inl rfl)

/-- The message answers r with a, on the answers' channel of the ports. -/
def Req.answeredBy (r : Req) (z : Flight) (a : AnsVal) : Prop := z.vc = 11 ∧ z.dest = .tile r.who.src ∧ z.msg = .ans ⟨r.who, a, 0⟩
/-- The message is a port's report of a fault at an offset, with its stage code (R412). -/
def reports (y : Flight) (cause : BitVec 8) (at_ : Word) (op : Nat) : Prop := y.vc = 14 ∧ ∃ ws g, y.msg = .record ⟨ws, g⟩ ∧
  (ws.headD 0).extractLsb' 0 8 = cause ∧ ws.getD 1 0 = at_ ∧ (ws.getD 3 0).toNat % 8 = op

theorem portAnswer_answers (s : State) (p : Nat) {r : Req} (v : AnsVal) (hr : r.who.agent = none) :
    ∃ z, portAnswer s p r v 0 = s.mailed z ∧ r.answeredBy z v :=
  ⟨_, portAnswer_mailed s p v 0 hr, rfl, rfl, rfl⟩

/-- CAUSE stands in the low byte of a record (R386). -/
theorem recordWords_cause (sys : Bool) (hid : BitVec 6) (entry : BitVec 16) (kind : BitVec 2) (tid : Nat) (i : TrapInfo) (coord time : Word) :
    ((recordWords sys hid entry kind tid i coord time).headD 0).extractLsb' 0 8 = i.cause :=
  BitVec.extractLsb'_append_eq_right
/-- The stage code is the low three bits of operand 1. -/
theorem stageCode_low (code wr port more : Nat) (hwr : wr % 8 = 0) :
    (BitVec.ofNat 64 (code + wr + 256 * port + 65536 * more) : Word).toNat % 8 = code % 8 := by
  rw [BitVec.toNat_ofNat]
  omega

theorem State.reportFault_reports (s : State) (p : Nat) (w : Waiting) :
    ∃ y, s.reportFault p w = s.mailed y ∧ reports y w.req.kind.faultCause w.req.off (w.code % 8) := by
  refine ⟨_, s.portReport_mailed p _ _, rfl, _, _, rfl, recordWords_cause _ _ _ _ _ _ _ _, rfl, stageCode_low _ _ _ _ ?_⟩
  split <;> rfl

/-- A damaged line of a walk changes descriptors only. -/
theorem State.markWalk_eq (s : State) (code ipa : Nat) : ∃ de, s.markWalk code ipa = { s with desc := de } := by
  unfold State.markWalk
  split
  · exact s.markBad_eq _ _
  · exact ⟨_, rfl⟩

/-- R408: a fault that refuses its request. -/
theorem State.refuseFault_eq (s : State) (p : Nat) {r : Req} (code ipa : Nat) (hr : r.who.agent = none) : ∃ de z y,
    s.refuseFault p r code ipa = (({ s with desc := de } : State).mailed z).mailed y ∧ r.answeredBy z (.refuse r.kind.faultCause) ∧
      reports y r.kind.faultCause r.off (code % 8) := by
  obtain ⟨de, hmark⟩ := s.markWalk_eq code ipa
  obtain ⟨z, hz, hans⟩ := portAnswer_answers { s with desc := de } p (.refuse r.kind.faultCause) hr
  obtain ⟨y, hy, hrep⟩ := State.reportFault_reports (({ s with desc := de } : State).mailed z) p ⟨r, code, ipa, s.wtime⟩
  refine ⟨de, z, y, ?_, hans, hrep⟩
  unfold State.refuseFault
  rw [hmark, hz, hy]

/-- Where a port keeps a request that waits. -/
def Port.kept (x : Port) (r : Req) : Port := if r.kind.inLog then { x with log := x.log ++ [r] } else { x with held := x.held ++ [r] }
theorem Port.kept_log {r : Req} (x : Port) (h : r.kind.inLog = true) : (x.kept r).log = x.log ++ [r] := by
  unfold Port.kept
  rw [if_pos h]
theorem Port.kept_held {r : Req} (x : Port) (h : r.kind.inLog = false) : (x.kept r).held = x.held ++ [r] := by
  unfold Port.kept
  rw [if_neg (by rw [h]; exact Bool.false_ne_true)]
/-- R411: a request held or logged. -/
theorem State.holdOrLog_eq (s : State) (p : Nat) {r : Req} (hr : r.who.agent = none) : ∃ z,
    s.holdOrLog p r = (s.setPort p ((s.port p).kept r)).mailed z ∧ r.answeredBy z (if r.kind.logs then .logged else .held) :=
  portAnswer_answers (s.setPort p ((s.port p).kept r)) p _ hr
/-- R411, R412: the first fault of a granule is held or logged, and reported. -/
theorem State.faulted_eq (s : State) (p : Nat) {r : Req} {code : Nat} (ipa : Nat) (hr : r.who.agent = none) (hc : refusedAtOnce code = false) :
    ∃ z y w, s.faulted p r code ipa = (((s.setPort p ((s.port p).kept r)).mailed z).setPort p { (s.port p).kept r with
      reported := (s.port p).reported ++ [w] }).mailed y ∧
      r.answeredBy z (if r.kind.logs then .logged else .held) ∧ reports y r.kind.faultCause r.off (code % 8) := by
  obtain ⟨z, hz, hans⟩ := s.holdOrLog_eq p hr
  have hport : ((s.setPort p ((s.port p).kept r)).mailed z).port p = (s.port p).kept r := s.port_setPort p _
  have hrep : ((s.port p).kept r).reported = (s.port p).reported := by
    unfold Port.kept
    split <;> rfl
  obtain ⟨y, hy, hy'⟩ := State.reportFault_reports (((s.setPort p ((s.port p).kept r)).mailed z).setPort p { (s.port p).kept r with
    reported := (s.port p).reported ++ [⟨r, code, ipa, s.wtime⟩] }) p ⟨r, code, ipa, s.wtime⟩
  refine ⟨z, y, ⟨r, code, ipa, s.wtime⟩, ?_, hans, hy'⟩
  unfold State.faulted
  rw [if_neg (by rw [hc]; exact Bool.false_ne_true), hz]
  dsimp only
  rw [hport, hrep]
  exact hy

end Sys2Proof.Machine

/-! ### Walks and forwarded requests at an edge port (O49) -/

namespace Sys2Proof.Machine

theorem servingPort_edge {pa q : Nat} (h : serves pa = .edge q) : servingPort pa = some q := by
  unfold servingPort
  rw [h]
theorem Req.posted_edge {r : Req} {q : Nat} (h : serves r.pa = .edge q) : r.posted = false := by
  unfold Req.posted
  rw [h]

/-- R217: a read at its port. -/
theorem State.perform_load {s : State} (p : Nat) {r : Req} {n : Nat} (hk : r.kind = .load n) (hd : s.damaged r.pa n = false) :
    s.perform p r = portAnswer s p r (.value (s.load r.pa n)) 0 := by
  unfold State.perform
  dsimp only
  rw [hk]
  exact if_neg (by rw [hd]; exact Bool.false_ne_true)
/-- Monitors of port p may have fired, and nothing else differs. -/
def State.firedAt (s : State) (p : Nat) (u : State) : Prop := u = s ∨ ∃ ms, u = s.setPort p { s.port p with monitors := ms }
theorem State.notifyPort_fires (s : State) (p a n : Nat) : s.firedAt p (s.notifyPort p a n) := by
  unfold State.notifyPort
  dsimp only
  split
  · exact .inl rfl
  · exact .inr ⟨_, rfl⟩
theorem State.storeChecked_good {s : State} {k n : Nat} (v : Word) (h : s.isBad k n = false) : s.storeChecked k n v = s.store k n v := by
  unfold State.storeChecked
  exact if_neg (by rw [h]; exact Bool.false_ne_true)
theorem State.perform_store {s : State} (p : Nat) {r : Req} {n : Nat} {v : Word} (hk : r.kind = .store n v) (hb : s.isBad r.pa n = false) :
    s.perform p r = portAnswer ((s.store r.pa n v).notifyPort p r.pa n) p r (drainOr r.drain .ack) 0 := by
  unfold State.perform
  dsimp only
  rw [hk]
  dsimp only
  rw [State.storeChecked_good v hb]

/-- Edge memory performs what is no WAITV at once. -/
theorem State.servePort_edge {s : State} {p q : Nat} {r : Req} (h : serves r.pa = .edge q) (hk : ∀ n e t, r.kind ≠ .waitv n e t) :
    s.servePort p r = s.perform p r := by
  unfold State.servePort
  dsimp only
  rw [Req.posted_edge h, if_neg Bool.false_ne_true, h]
  cases hr : r.kind with
  | waitv n e t => exact absurd hr (hk n e t)
  | _ => rfl
theorem State.serveOrForward_here {s : State} {p pa : Nat} (r : Req) (drain : Bool) (h : serves pa = .edge p) (hk : ∀ n e t, r.kind ≠ .waitv n e t) :
    s.serveOrForward p r pa drain = s.perform p { r with fwd := some (pa, drain) } := by
  unfold State.serveOrForward
  dsimp only
  rw [servingPort_edge h]
  exact (if_pos rfl).trans (State.servePort_edge h hk)
theorem State.serveOrForward_forward (s : State) {p q pa : Nat} (r : Req) (h : servingPort pa = some q) (hne : q ≠ p) :
    s.serveOrForward p r pa false = s.emitUnit (s.portEntry p) 10 (.port q) (.req { r with fwd := some (pa, false) }) r.hall r.sys := by
  unfold State.serveOrForward
  dsimp only
  rw [h]
  exact if_neg hne

/-- A read that this port serves is answered with the word. -/
theorem State.serveOrForward_load {s : State} {p pa n : Nat} {r : Req} (drain : Bool) (h : serves pa = .edge p) (hr : r.who.agent = none)
    (hk : r.kind = .load n) (hd : s.damaged pa n = false) :
    ∃ z, s.serveOrForward p r pa drain = s.mailed z ∧ r.answeredBy z (.value (s.load pa n)) := by
  rw [State.serveOrForward_here r drain h (by rw [hk]; nofun)]
  rw [State.perform_load (r := { r with fwd := some (pa, drain) }) p hk hd]
  exact portAnswer_answers s p (r := { r with fwd := some (pa, drain) }) _ hr
/-- A write that it serves is in memory, fires monitors and is answered. -/
theorem State.serveOrForward_store {s : State} {p pa n : Nat} {r : Req} {v : Word} (drain : Bool) (h : serves pa = .edge p)
    (hr : r.who.agent = none) (hk : r.kind = .store n v) (hb : s.isBad pa n = false) : ∃ u z,
    s.serveOrForward p r pa drain = u.mailed z ∧ (s.store pa n v).firedAt p u ∧ r.answeredBy z (drainOr drain .ack) := by
  rw [State.serveOrForward_here r drain h (by rw [hk]; nofun)]
  rw [State.perform_store (r := { r with fwd := some (pa, drain) }) p hk hb]
  obtain ⟨z, hz, hans⟩ := portAnswer_answers ((s.store pa n v).notifyPort p pa n) p (r := { r with fwd := some (pa, drain) })
    (drainOr drain .ack) hr
  exact ⟨_, z, hz, State.notifyPort_fires _ _ _ _, hans⟩
theorem State.firedAt.mem {s u : State} {p : Nat} (h : s.firedAt p u) : u.mem = s.mem := by
  obtain rfl | ⟨ms, rfl⟩ := h <;> rfl
theorem State.firedAt.net {s u : State} {p : Nat} (h : s.firedAt p u) : u.net = s.net := by
  obtain rfl | ⟨ms, rfl⟩ := h <;> rfl
/-- Nothing else differs at the port. -/
theorem State.firedAt.port {s u : State} {p : Nat} (h : s.firedAt p u) : ∃ ms, u.port p = { s.port p with monitors := ms } := by
  obtain rfl | ⟨ms, rfl⟩ := h
  · exact ⟨_, rfl⟩
  · exact ⟨ms, s.port_setPort p _⟩

/-! ### The request that a port deals with next -/

/-- R411: the request joins those of its granule. -/
theorem State.walkOf_wait {s : State} {p : Nat} {r : Req} (h : (s.port p).waitsOn r.space r.gran = true) : s.walkOf p r = .wait := by
  unfold State.walkOf
  exact if_pos h
theorem State.walkOf_go {s : State} {p : Nat} {r : Req} {t : Trans} (h : (s.port p).waitsOn r.space r.gran = false)
    (ht : s.translate (s.port p) r.space r.off.toNat r.kind.need = .ok t) (hs : (servingPort t.pa).isSome = true) : s.walkOf p r = .go t := by
  unfold State.walkOf
  dsimp only
  rw [if_neg (by rw [h]; exact Bool.false_ne_true), ht]
  exact if_pos hs
theorem State.walkOf_fault {s : State} {p : Nat} {r : Req} {code ipa : Nat} (h : (s.port p).waitsOn r.space r.gran = false)
    (ht : s.translate (s.port p) r.space r.off.toNat r.kind.need = .error (code, ipa)) : s.walkOf p r = .fault code ipa := by
  unfold State.walkOf
  dsimp only
  rw [if_neg (by rw [h]; exact Bool.false_ne_true), ht]

/-- What a port makes of request r, which flight f brought, by the outcome of its walk. -/
def State.dealtWith (s : State) (p : Nat) (f : Flight) (r : Req) : WalkTo → State
  | .wait => ({ s with net := s.net.erase f } : State).holdOrLog p r
  | .fault code ipa => ({ s with net := s.net.erase f } : State).faulted p r code ipa
  | .go t => (({ s with net := s.net.erase f } : State).setPort p ((s.port p).fill t.entries)).serveOrForward p r t.pa false

/-- Edge port p deals with a tile's request r next. -/
structure State.WalksNext (s : State) (p : Nat) (f : Flight) (r : Req) : Prop where
  edge : p < 96
  replay : s.replayDone p = none
  arm : (s.port p).firstArm = none
  walk : s.nextWalk p = some (f, r)
  tile : r.who.agent = none

theorem execTranslationWalk_next {s : State} {p : Nat} {f : Flight} {r : Req} (h : s.WalksNext p f r) :
    execTranslationWalk p s = .next (s.dealtWith p f r (s.walkOf p r)) := by
  unfold execTranslationWalk walkEdge
  rw [if_pos h.edge, h.replay]
  dsimp only
  rw [h.arm, h.walk]
  dsimp only
  cases s.walkOf p r <;> rfl

section
variable {s : State} {p : Nat} {f : Flight} {r : Req} (hnext : s.WalksNext p f r)

include hnext in
/-- R157, R411: a request of a granule that waits. -/
theorem State.WalksNext.joins (hw : (s.port p).waitsOn r.space r.gran = true) : ∃ (u : State) (z : Flight),
    execTranslationWalk p s = .next u ∧ u.mem = s.mem ∧ u.port p = (s.port p).kept r ∧ u.net = s.net.erase f ++ [z] ∧
      r.answeredBy z (if r.kind.logs then .logged else .held) := by
  obtain ⟨z, hz, hans⟩ := ({ s with net := s.net.erase f } : State).holdOrLog_eq p hnext.tile
  refine ⟨_, z, execTranslationWalk_next hnext, ?_⟩
  rw [State.walkOf_wait hw]
  show (State.holdOrLog _ _ _).mem = _ ∧ (State.holdOrLog _ _ _).port p = _ ∧ (State.holdOrLog _ _ _).net = _ ∧ _
  rw [hz]
  exact ⟨rfl, s.port_setPort p _, rfl, hans⟩

variable (hw : (s.port p).waitsOn r.space r.gran = false)
include hnext hw

/-- The port serves or forwards it. -/
theorem State.WalksNext.goes {t : Trans} (ht : s.translate (s.port p) r.space r.off.toNat r.kind.need = .ok t)
    (hs : (servingPort t.pa).isSome = true) : execTranslationWalk p s =
      .next ((({ s with net := s.net.erase f } : State).setPort p ((s.port p).fill t.entries)).serveOrForward p r t.pa false) := by
  rw [execTranslationWalk_next hnext, State.walkOf_go hw ht hs]
  rfl
/-- It is refused and reported. -/
theorem State.WalksNext.refused {code ipa : Nat} (ht : s.translate (s.port p) r.space r.off.toNat r.kind.need = .error (code, ipa))
    (hc : refusedAtOnce code = true) : ∃ (u : State) (z y : Flight), execTranslationWalk p s = .next u ∧ u.mem = s.mem ∧ u.ports = s.ports ∧
      u.net = s.net.erase f ++ [z, y] ∧ r.answeredBy z (.refuse r.kind.faultCause) ∧ reports y r.kind.faultCause r.off (code % 8) := by
  obtain ⟨de, z, y, hz, hans, hrep⟩ := ({ s with net := s.net.erase f } : State).refuseFault_eq p code ipa hnext.tile
  refine ⟨_, z, y, execTranslationWalk_next hnext, ?_⟩
  rw [State.walkOf_fault hw ht]
  have hdeal : s.dealtWith p f r (.fault code ipa) = _ := (if_pos hc).trans hz
  rw [hdeal]
  exact ⟨rfl, rfl, List.append_assoc _ _ _, hans, hrep⟩
/-- It is held or logged, and reported. -/
theorem State.WalksNext.stays {code ipa : Nat} (ht : s.translate (s.port p) r.space r.off.toNat r.kind.need = .error (code, ipa))
    (hc : refusedAtOnce code = false) : ∃ (u : State) (z y : Flight), execTranslationWalk p s = .next u ∧ u.mem = s.mem ∧
      (u.port p).log = ((s.port p).kept r).log ∧ (u.port p).held = ((s.port p).kept r).held ∧ u.net = s.net.erase f ++ [z, y] ∧
      r.answeredBy z (if r.kind.logs then .logged else .held) ∧ reports y r.kind.faultCause r.off (code % 8) := by
  obtain ⟨z, y, w, hz, hans, hrep⟩ := ({ s with net := s.net.erase f } : State).faulted_eq p ipa hnext.tile hc
  refine ⟨_, z, y, execTranslationWalk_next hnext, ?_⟩
  rw [State.walkOf_fault hw ht]
  have hdeal : s.dealtWith p f r (.fault code ipa) = _ := hz
  rw [hdeal]
  have hport (a : State) (b : Port) (y : Flight) : ((a.setPort p b).mailed y).port p = b := a.port_setPort p b
  rw [hport]
  exact ⟨rfl, rfl, rfl, List.append_assoc _ _ _, hans, hrep⟩
end

/-- A read that another port translated. -/
theorem execForwardedRequest_load {s : State} {p j n : Nat} {f : Flight} {r : Req}
    (hposted : (s.port p).devOps.find? (fun r => r.posted && s.commitTurn r) = none) (hnext : s.nextForwarded p = some (f, r))
    (hr : r.who.agent = none) (hfwd : r.fwd = some (j, false)) (hj : serves j = .edge p) (hk : r.kind = .load n) (hd : s.damaged j n = false) :
    ∃ u : State, execForwardedRequest p s = .next u ∧ u.mem = s.mem ∧ ∃ z : Flight, u.net = s.net.erase f ++ [z] ∧
      r.answeredBy z (.value (s.load j n)) := by
  have hpa : r.pa = j := by
    unfold Req.pa
    rw [hfwd]
    rfl
  obtain ⟨z, hz, hans⟩ := portAnswer_answers { s with net := s.net.erase f } p (.value (s.load r.pa n)) hr
  have hserve : ({ s with net := s.net.erase f } : State).servePort p r = _ :=
    ((State.servePort_edge (hpa ▸ hj) (by rw [hk]; nofun)).trans (State.perform_load p hk (hpa ▸ hd))).trans hz
  have hexec : execForwardedRequest p s = .next (({ s with net := s.net.erase f } : State).servePort p r) := by
    unfold execForwardedRequest
    dsimp only
    rw [hposted, hnext]
  rw [← hpa]
  exact ⟨_, hexec.trans (congrArg _ hserve), rfl, z, rfl, hans⟩

/-- R412: the report of a granule that still waits is sent again. -/
theorem execFaultReportRepeat_reports {s : State} {p : Nat} {w : Waiting}
    (hw : (s.port p).reported.find? (fun w => decide (65536 ≤ (s.wtime - w.tick).toNat)) = some w) : ∃ (u : State) (y : Flight),
      execFaultReportRepeat p s = .next u ∧ u.mem = s.mem ∧ u.net = s.net ++ [y] ∧ reports y w.req.kind.faultCause w.req.off (w.code % 8) ∧
      (u.port p).reported = (s.port p).reported.map fun y => if y = w then { y with tick := s.wtime } else y := by
  obtain ⟨y, hy, hrep⟩ := State.reportFault_reports (s.setPort p { s.port p with
    reported := (s.port p).reported.map fun y => if y = w then { y with tick := s.wtime } else y }) p w
  have hexec : execFaultReportRepeat p s = .next ((s.setPort p { s.port p with
      reported := (s.port p).reported.map fun y => if y = w then { y with tick := s.wtime } else y }).reportFault p w) := by
    unfold execFaultReportRepeat
    dsimp only
    rw [hw]
  exact ⟨_, y, hexec.trans (congrArg _ hy), rfl, rfl, hrep, congrArg Port.reported (s.port_setPort p _)⟩

end Sys2Proof.Machine

/-! ### What a translation rests on (O49) -/

namespace Sys2Proof.Machine

/-- The states have the same tables and damage. -/
structure State.SameTables (s u : State) : Prop where
  mem : u.mem = s.mem
  desc : u.desc = s.desc
  bad : u.bad = s.bad
/-- The ports have the same translations. -/
structure Port.SameMap (x y : Port) : Prop where
  spt : y.sptbase = x.sptbase
  tt : y.ttbase = x.ttbase
  tlb : y.tlb = x.tlb

section
variable {s u : State} (h : s.SameTables u)
include h

theorem State.SameTables.load (k n : Nat) : u.load k n = s.load k n := by
  unfold State.load
  rw [h.mem]
theorem State.SameTables.badBucket (k : Nat) : u.badBucket k = s.badBucket k := by
  unfold State.badBucket State.damaged State.descAt State.isBad
  rw [h.desc, h.bad]
theorem State.SameTables.bucketHit (k key z a : Nat) : u.bucketHit k key z a = s.bucketHit k key z a := by
  unfold State.bucketHit
  simp only [h.load]
theorem State.SameTables.probe (at_ : BucketAt) (key z a logB : Nat) (used : List TlbEntry) (l : List Nat) :
    probe u at_ key z a logB used l = probe s at_ key z a logB used l := by
  induction l generalizing used with
  | nil => rfl
  | cons i l ih =>
    unfold Machine.probe
    cases at_ (bucketIndex key z a logB i) with
    | error e => rfl
    | ok b =>
      dsimp only
      rw [h.badBucket, h.bucketHit, ih]
theorem State.SameTables.lookupSizes (at_ : BucketAt) (key a logB : Nat) (sizes : BitVec 3) (used : List TlbEntry) (l : List Nat) :
    lookupSizes u at_ key a logB sizes used l = lookupSizes s at_ key a logB sizes used l := by
  induction l generalizing used with
  | nil => rfl
  | cons z l ih =>
    unfold Machine.lookupSizes
    simp only [h.probe, ih]

variable {x y : Port} (hx : x.SameMap y)
include hx

theorem State.SameTables.tenant (k : Nat) : u.tenant y k = s.tenant x k := by
  unfold State.tenant
  simp only [h.load, hx.tt]
theorem State.SameTables.stage2 (te : TenantEntry) (ipa : Nat) : u.stage2 y te ipa = s.stage2 x te ipa := by
  unfold State.stage2
  simp only [h.lookupSizes, hx.tlb]
theorem State.SameTables.bucketAt (te : TenantEntry) : u.bucketAt y te = s.bucketAt x te := by
  funext i
  unfold State.bucketAt
  simp only [h.stage2 hx]
theorem State.SameTables.walk (sp : BitVec 16) (off : Nat) : u.walk y sp off = s.walk x sp off := by
  unfold State.walk
  simp only [h.load, h.lookupSizes, h.tenant hx, h.bucketAt hx, h.stage2 hx, hx.tlb, hx.spt]
/-- A translation rests on the tables, the damage and the port's TLB and bases alone (R407, R410). -/
theorem State.SameTables.translate (sp : BitVec 16) (off : Nat) (n : Need) : u.translate y sp off n = s.translate x sp off n := by
  unfold State.translate
  rw [h.walk hx]
end

/-! ### Requests under way (O49) -/

theorem unitSet_unitSet {α β : Type} [DecidableEq α] (l : List (α × β)) (k : α) (v w : β) : unitSet (unitSet l k v) k w = unitSet l k w := by
  induction l with
  | nil => simp [unitSet]
  | cons x l ih =>
    unfold unitSet
    by_cases h : x.1 = k
    · simp [h, unitSet]
    · simp [h, unitSet, ih]
theorem State.setPort_setPort (s : State) (p : Nat) (x y : Port) : (s.setPort p x).setPort p y = s.setPort p y :=
  congrArg (fun l => { s with ports := l }) (unitSet_unitSet s.ports p x y)
/-- A value that tests as the one that it replaces. -/
theorem unitSet_any {α β : Type} [DecidableEq α] (g : β → Bool) (d : β) (hd : g d = false) (l : List (α × β)) (k : α) (v : β)
    (hv : g v = g (unitGet d l k)) : ((unitSet l k v).any fun x => g x.2) = l.any fun x => g x.2 := by
  induction l with
  | nil => simpa [unitSet, unitGet, hd] using hv
  | cons x l ih =>
    unfold unitSet
    unfold unitGet at hv
    by_cases h : x.1 = k
    · simp_all
    · simp_all
theorem State.setPort_underway {s : State} {p : Nat} {x : Port} (h : x.devOps = (s.port p).devOps) (g : Req → Bool) :
    (s.setPort p x).underway g = s.underway g := by
  have hports := unitSet_any (fun y : Port => y.devOps.any g) Port.reset rfl s.ports p x (congrArg (List.any · g) h)
  unfold State.underway
  exact congrArg _ hports
theorem State.mailed_underway {s : State} {z : Flight} (h : ∀ r, z.msg ≠ .req r) (g : Req → Bool) :
    (s.mailed z).underway g = s.underway g := by
  unfold State.underway State.mailed
  dsimp only
  rw [List.any_append]
  cases hz : z.msg with
  | req r => exact absurd hz (h r)
  | _ => simp [hz]

end Sys2Proof.Machine

/-! ### RETRY and DENY (O49) -/

namespace Sys2Proof.Machine

/-- The message that tells a command's agent of its status, with no value. -/
theorem State.cmdAnswer_mailed (s : State) (c : MgmtCmd) (st : BitVec 8) : s.cmdAnswer c st 0 = (s.expectAnswer c).mailed
    ((s.expectAnswer c).flightOf (.cmdAnswer c.agent st c.seq 0) 14 s.foc (.gallery (c.agent / 16)) 0 none 0 true) :=
  State.emitUnit_mailed _ _ _ _ _ _ _
theorem State.cmdAnswer_told (s : State) (c : MgmtCmd) (st : BitVec 8) : (s.cmdAnswer c st 0).told c st := State.answerFrom_told _ _ _ _

/-- R413: no port stands here. -/
theorem execRetry_nowhere {s : State} {c : MgmtCmd} (h : s.portHere = none) : execRetry c s = .next (s.cmdAnswer c 2 0) := by
  unfold execRetry
  rw [h]
theorem execDeny_nowhere {s : State} {c : MgmtCmd} (h : s.portHere = none) : execDeny c s = .next (s.cmdAnswer c 2 0) := by
  unfold execDeny
  rw [h]
theorem granuleOf_reserved {v : Word} (h : v.extractLsb' 15 4 ≠ 0) : granuleOf v = none := if_neg h
/-- The value names no granule. -/
theorem execRetry_reserved {s : State} {c : MgmtCmd} {p : Nat} (h : s.portHere = some p) (hv : c.value.extractLsb' 15 4 ≠ 0) :
    execRetry c s = .next (s.cmdAnswer c 1 0) := by
  unfold execRetry
  rw [h, granuleOf_reserved hv]
theorem execDeny_reserved {s : State} {c : MgmtCmd} {p : Nat} (h : s.portHere = some p) (hv : c.value.extractLsb' 15 4 ≠ 0) :
    execDeny c s = .next (s.cmdAnswer c 1 0) := by
  unfold execDeny
  rw [h, granuleOf_reserved hv]

/-- The command names the granule of r, which waits at port p, with no RETRY or DENY of it in progress and r not under way. -/
structure State.Settles (s : State) (c : MgmtCmd) (p : Nat) (r : Req) (sp : BitVec 16) (g : Nat) : Prop where
  here : s.portHere = some p
  gran : granuleOf c.value = some (sp, g)
  idle : (s.port p).replaying sp g = false
  same : r.same sp g = true
  tile : r.who.agent = none
  done : s.underway (fun y => y.who == r.who) = false

/-- The granule's requests leave the port. -/
def Port.without (x : Port) (sp : BitVec 16) (g : Nat) : Port :=
  { x with log := x.log.filter fun r => !r.same sp g, held := x.held.filter fun r => !r.same sp g }
/-- What RETRY makes of a waiting request: where it goes, unless it faults. -/
def State.walkedTo (s : State) (x : Port) (r : Req) : Option (Req × Nat) :=
  match s.translate x r.space r.off.toNat r.kind.need with
  | .ok t => if (servingPort t.pa).isSome then some (r, t.pa) else none
  | .error _ => none
theorem State.walkedTo_ok {s : State} {x : Port} {r : Req} {t : Trans} (h : s.translate x r.space r.off.toNat r.kind.need = .ok t)
    (hs : (servingPort t.pa).isSome = true) : s.walkedTo x r = some (r, t.pa) := by
  unfold State.walkedTo
  rw [h]
  exact if_pos hs
theorem State.walkedTo_error {s : State} {x : Port} {r : Req} {e : Nat × Nat} (h : s.translate x r.space r.off.toNat r.kind.need = .error e) :
    s.walkedTo x r = none := by
  unfold State.walkedTo
  rw [h]

section
variable {s : State} {c : MgmtCmd} {p : Nat} {r : Req} {sp : BitVec 16} {g : Nat} (hset : s.Settles c p r sp g)
include hset

theorem State.Settles.retry {log held : List Req} {ls hs : List (Req × Nat)} (hlog : (s.port p).log.filter (·.same sp g) = log)
    (hheld : (s.port p).held.filter (·.same sp g) = held) (hls : log.mapM (s.walkedTo (s.port p)) = some ls)
    (hhs : held.mapM (s.walkedTo (s.port p)) = some hs) : execRetry c s =
      .next ((ls.foldl (fun (s : State) (x : Req × Nat) => s.serveOrForward p x.1 x.2 true)
        ((s.expectAnswer c).setPort p ((s.port p).without sp g))).beginReplay p ⟨sp, g, c, log, held⟩) := by
  unfold execRetry
  rw [hset.here, hset.gran]
  dsimp only
  rw [if_neg (by rw [hset.idle]; exact Bool.false_ne_true)]
  unfold State.takeGranule
  dsimp only
  have hport : (s.expectAnswer c).port p = s.port p := rfl
  rw [hport, hlog, hheld]
  split
  next l1 l2 h1 h2 =>
    cases Option.some.inj (h1.symm.trans hls)
    rfl
  next hn => exact (hn ls hs hls hhs).elim

/-- A walk that faults for a held request leaves it held. -/
theorem State.Settles.retry_faults {e : Nat × Nat} (hlog : (s.port p).log = []) (hheld : (s.port p).held = [r])
    (ht : s.translate (s.port p) r.space r.off.toNat r.kind.need = .error e) :
    ∃ de, execRetry c s = .next (({ s with desc := de } : State).cmdAnswer c 0 0) := by
  obtain ⟨code, ipa⟩ := e
  obtain ⟨de, hde⟩ := s.markWalk_eq code ipa
  have hnone : [r].mapM (s.walkedTo (s.port p)) = none := by simp [State.walkedTo_error ht]
  refine ⟨de, ?_⟩
  unfold execRetry
  rw [hset.here, hset.gran]
  dsimp only
  rw [if_neg (by rw [hset.idle]; exact Bool.false_ne_true)]
  unfold State.takeGranule
  dsimp only
  have hport : (s.expectAnswer c).port p = s.port p := rfl
  have hmine : [r].filter (·.same sp g) = [r] := by simp [hset.same]
  rw [hport, hlog, hheld, hmine]
  split
  next l1 l2 h1 h2 => exact absurd (h2.symm.trans hnone) nofun
  next =>
    simp only [List.filter_nil, List.nil_append, List.foldl_cons, List.foldl_nil, ht, hde]
end

/-- The port waits for the same requests, with the same translations. -/
structure Port.Keeps (x y : Port) : Prop where
  log : y.log = x.log
  held : y.held = x.held
  map : x.SameMap y
/-- What the end of a replay makes of a held request (R414). -/
def State.servedAgain (p : Nat) (s : State) (r : Req) : State :=
  match s.walkOf p r with
  | .go t => s.serveHeld p r t.pa
  | .fault code ipa => s.faulted p r code ipa
  | .wait => s.holdOrLog p r
/-- A replay of which nothing is under way ends at once: its held requests are served, and the command is answered. -/
theorem State.beginReplay_ends {s : State} {p : Nat} {y : Replay} (hu : (s.underway fun r => y.sent.any (·.who == r.who)) = false) :
    ∃ x, (s.port p).Keeps x ∧ s.beginReplay p y =
      (y.held.foldl (State.servedAgain p) (s.setPort p x)).answerFrom
        ((y.held.foldl (State.servedAgain p) (s.setPort p x)).portEntry p) y.cmd 0 0 := by
  have hunder : (s.setPort p { s.port p with replays := (s.port p).replays ++ [y] }).replayUnder y = false :=
    (State.setPort_underway (by rfl) _).trans hu
  unfold State.beginReplay
  dsimp only
  rw [if_neg (Bool.eq_false_iff.1 hunder)]
  unfold State.endReplay
  dsimp only
  rw [State.port_setPort, State.setPort_setPort]
  refine ⟨_, ?_, rfl⟩
  exact ⟨rfl, rfl, ⟨rfl, rfl, rfl⟩⟩

/-- What DENY makes of a held request (R413). -/
def State.walkedAgain (p : Nat) (s : State) (r : Req) : State :=
  match s.walkOf p r with
  | .go t => s.serveHeld p r t.pa
  | .fault code ipa => s.refuseFault p r code ipa
  | .wait => s.holdOrLog p r
/-- The answer to r is in the mesh. -/
def Req.answeredIn (r : Req) (u : State) (a : AnsVal) : Prop := ∃ z ∈ u.net, z.msg = .ans ⟨r.who, a, 0⟩

theorem State.underway_false (s : State) : s.underway (fun _ => false) = false := by
  unfold State.underway
  have hnet : ∀ x ∈ s.net, ¬ (match x.msg with
      | .req r => r.fwd.isSome && false
      | _ => false) = true := by
    intro x _
    cases x.msg <;> simp
  rw [Bool.or_eq_false_iff]
  exact ⟨List.any_eq_false.2 hnet, by simp⟩
theorem State.firedAt.underway {s u : State} {p : Nat} (h : s.firedAt p u) (g : Req → Bool) : u.underway g = s.underway g := by
  obtain rfl | ⟨ms, rfl⟩ := h
  · rfl
  · exact State.setPort_underway (by rfl) g
theorem State.answerFrom_mailed (s : State) (site : Coord) (c : MgmtCmd) (st : BitVec 8) (v : Word) : s.answerFrom site c st v =
    s.mailed (s.flightOf (.cmdAnswer c.agent st c.seq v) 14 site (.gallery (c.agent / 16)) 0 none 0 true) :=
  State.emitUnit_mailed _ _ _ _ _ _ _

/-- State u has the tables of s, and its port p keeps the translations and no request that waits. -/
structure State.Emptied (s u : State) (p : Nat) : Prop where
  tables : s.SameTables u
  map : (s.port p).SameMap (u.port p)
  log : (u.port p).log = []
  held : (u.port p).held = []

section
variable {s u : State} {p : Nat} (h : s.Emptied u p)
include h

theorem State.Emptied.waitsOn (sp : BitVec 16) (g : Nat) : (u.port p).waitsOn sp g = false := by
  unfold Port.waitsOn
  rw [h.log, h.held]
  rfl
theorem State.Emptied.walkOf_go {r : Req} {t : Trans} (ht : s.translate (s.port p) r.space r.off.toNat r.kind.need = .ok t)
    (hs : (servingPort t.pa).isSome = true) : u.walkOf p r = .go t :=
  State.walkOf_go (h.waitsOn _ _) ((h.tables.translate h.map _ _ _).trans ht) hs
theorem State.Emptied.walkOf_fault {r : Req} {code ipa : Nat}
    (ht : s.translate (s.port p) r.space r.off.toNat r.kind.need = .error (code, ipa)) : u.walkOf p r = .fault code ipa :=
  State.walkOf_fault (h.waitsOn _ _) ((h.tables.translate h.map _ _ _).trans ht)
end

section
variable {s : State} {c : MgmtCmd} {p : Nat} {r : Req} {sp : BitVec 16} {g : Nat} (hset : s.Settles c p r sp g)
include hset

theorem State.Settles.filter_same : [r].filter (·.same sp g) = [r] := by simp [hset.same]
theorem State.Settles.filter_other : ([r].filter fun r => !r.same sp g) = [] := by simp [hset.same]
/-- Nothing of r is under way while the port holds other requests and answers are on their way. -/
theorem State.Settles.sent_done : (s.underway fun y => [r].any (·.who == y.who)) = false := by
  have h : (fun y : Req => [r].any (·.who == y.who)) = fun y => y.who == r.who := by
    funext y
    simp [Bool.beq_comm]
  rw [h]
  exact hset.done
/-- The port without the granule's one request. -/
theorem State.Settles.emptied {x : Port} (hx : ((s.port p).without sp g).Keeps x)
    (hone : (s.port p).log = [] ∧ (s.port p).held = [r] ∨ (s.port p).log = [r] ∧ (s.port p).held = []) :
    s.Emptied ((s.expectAnswer c).setPort p x) p := by
  have hport : ((s.expectAnswer c).setPort p x).port p = x := State.port_setPort _ _ _
  have hlog : x.log = (s.port p).log.filter fun r => !r.same sp g := hx.log
  have hheld : x.held = (s.port p).held.filter fun r => !r.same sp g := hx.held
  refine ⟨⟨rfl, rfl, rfl⟩, ?_, ?_, ?_⟩
  · rw [hport]
    exact ⟨hx.map.spt, hx.map.tt, hx.map.tlb⟩
  · rw [hport, hlog]
    obtain ⟨hl, -⟩ | ⟨hl, -⟩ := hone
    · rw [hl, List.filter_nil]
    · rw [hl, hset.filter_other]
  · rw [hport, hheld]
    obtain ⟨-, hh⟩ | ⟨-, hh⟩ := hone
    · rw [hh, hset.filter_other]
    · rw [hh, List.filter_nil]

/-- R414: RETRY serves a held read. -/
theorem State.Settles.retry_load {n : Nat} {t : Trans} (hlog : (s.port p).log = []) (hheld : (s.port p).held = [r]) (hk : r.kind = .load n)
    (ht : s.translate (s.port p) r.space r.off.toNat ⟨true, false⟩ = .ok t) (hs : serves t.pa = .edge p) (hd : s.damaged t.pa n = false) :
    ∃ u : State, execRetry c s = .next u ∧ u.told c 0 ∧ (u.port p).held = [] ∧ u.mem = s.mem ∧ r.answeredIn u (.value (s.load t.pa n)) := by
  have hneed : r.kind.need = ⟨true, false⟩ := by rw [hk]; rfl
  have hserving : (servingPort t.pa).isSome = true := by rw [servingPort_edge hs]; rfl
  have hgo : [r].mapM (s.walkedTo (s.port p)) = some [(r, t.pa)] := by simp [State.walkedTo_ok (hneed ▸ ht) hserving]
  have hexec := hset.retry (log := []) (by rw [hlog, List.filter_nil]) (by rw [hheld]; exact hset.filter_same) rfl hgo
  obtain ⟨x, hx, hend⟩ := State.beginReplay_ends (s := (s.expectAnswer c).setPort p ((s.port p).without sp g)) (p := p)
    (y := ⟨sp, g, c, [], [r]⟩) (State.underway_false _)
  rw [State.port_setPort] at hx
  rw [State.setPort_setPort] at hend
  have hemp := hset.emptied hx (.inl ⟨hlog, hheld⟩)
  obtain ⟨z, hz, hans⟩ := State.serveOrForward_load (s := (s.expectAnswer c).setPort p x) false hs hset.tile hk hd
  have hagain : State.servedAgain p ((s.expectAnswer c).setPort p x) r = ((s.expectAnswer c).setPort p x).mailed z := by
    unfold State.servedAgain State.serveHeld
    rw [hemp.walkOf_go (hneed ▸ ht) hserving, hk]
    exact hz
  have hfold : [r].foldl (State.servedAgain p) ((s.expectAnswer c).setPort p x) = ((s.expectAnswer c).setPort p x).mailed z := hagain
  rw [hfold, State.answerFrom_mailed] at hend
  refine ⟨_, hexec.trans (congrArg _ hend), ⟨_, List.mem_append_right _ (List.mem_singleton.2 rfl), rfl, rfl⟩, hemp.held, rfl, z, ?_, hans.2.2⟩
  exact List.mem_append_left _ (List.mem_append_right _ (List.mem_singleton.2 rfl))

/-- R414: RETRY replays a logged store. -/
theorem State.Settles.retry_store {n : Nat} {v : Word} {t : Trans} (hlog : (s.port p).log = [r]) (hheld : (s.port p).held = [])
    (hk : r.kind = .store n v) (ht : s.translate (s.port p) r.space r.off.toNat ⟨false, true⟩ = .ok t) (hs : serves t.pa = .edge p)
    (hb : s.isBad t.pa n = false) : ∃ u : State, execRetry c s = .next u ∧ u.told c 0 ∧ (u.port p).log = [] ∧
      u.mem = Memory.writeN s.mem t.pa n v.toNat ∧ r.answeredIn u (.drained none) := by
  have hneed : r.kind.need = ⟨false, true⟩ := by rw [hk]; rfl
  have hserving : (servingPort t.pa).isSome = true := by rw [servingPort_edge hs]; rfl
  have hgo : [r].mapM (s.walkedTo (s.port p)) = some [(r, t.pa)] := by simp [State.walkedTo_ok (hneed ▸ ht) hserving]
  have hexec := hset.retry (held := []) (by rw [hlog]; exact hset.filter_same) (by rw [hheld, List.filter_nil]) hgo rfl
  have hemp := hset.emptied (x := (s.port p).without sp g) ⟨rfl, rfl, ⟨rfl, rfl, rfl⟩⟩ (.inr ⟨hlog, hheld⟩)
  obtain ⟨w, z, hz, hfire, hans⟩ := State.serveOrForward_store (s := (s.expectAnswer c).setPort p ((s.port p).without sp g)) true hs
    hset.tile hk hb
  have hdone : ((w.mailed z).underway fun y => [r].any (·.who == y.who)) = false := by
    rw [State.mailed_underway (fun q => by rw [hans.2.2]; nofun), hfire.underway]
    exact (State.setPort_underway (by rfl) _).trans hset.sent_done
  obtain ⟨x, hx, hend⟩ := State.beginReplay_ends (p := p) (y := ⟨sp, g, c, [r], []⟩) hdone
  obtain ⟨ms, hport⟩ := hfire.port
  have hxlog : x.log = [] := hx.log.trans ((congrArg Port.log hport).trans hemp.log)
  have hfold : [(r, t.pa)].foldl (fun (s : State) (x : Req × Nat) => s.serveOrForward p x.1 x.2 true)
    ((s.expectAnswer c).setPort p ((s.port p).without sp g)) = w.mailed z := hz
  rw [hfold] at hexec
  rw [State.answerFrom_mailed] at hend
  refine ⟨_, hexec.trans (congrArg _ hend), ⟨_, List.mem_append_right _ (List.mem_singleton.2 rfl), rfl, rfl⟩,
    (congrArg Port.log (State.port_setPort (w.mailed z) p x)).trans hxlog, hfire.mem, z, ?_, hans.2.2⟩
  exact List.mem_append_left _ (List.mem_append_right _ (List.mem_singleton.2 rfl))
/-- R413: the log is discarded, and what was held is walked again. -/
theorem State.Settles.deny {log held : List Req} (hlog : (s.port p).log.filter (·.same sp g) = log)
    (hheld : (s.port p).held.filter (·.same sp g) = held) : execDeny c s =
      .next (((log.filter (fun r => !r.kind.logs) ++ held).foldl (State.walkedAgain p)
        ((log.filter (·.kind.logs)).foldl (fun s r => portAnswer s p r (.drained (some Cause.pageStore)) 0)
          ((s.expectAnswer c).setPort p (((s.port p).without sp g).unreported sp g)))).beginReplay p
            ⟨sp, g, c, log.filter (fun r => !r.kind.logs) ++ held, []⟩) := by
  unfold execDeny
  rw [hset.here, hset.gran]
  dsimp only
  rw [if_neg (by rw [hset.idle]; exact Bool.false_ne_true)]
  unfold State.takeGranule
  dsimp only
  have hport : (s.expectAnswer c).port p = s.port p := rfl
  rw [State.port_setPort, State.setPort_setPort, hport, hlog, hheld]
  rfl
/-- DENY refuses a held request that still faults. -/
theorem State.Settles.deny_held {code ipa : Nat} (hlog : (s.port p).log = []) (hheld : (s.port p).held = [r])
    (ht : s.translate (s.port p) r.space r.off.toNat r.kind.need = .error (code, ipa)) : ∃ u : State, execDeny c s = .next u ∧ u.told c 0 ∧
      (u.port p).held = [] ∧ u.mem = s.mem ∧ r.answeredIn u (.refuse r.kind.faultCause) := by
  have hexec : execDeny c s = .next (([r].foldl (State.walkedAgain p) ((s.expectAnswer c).setPort p
      (((s.port p).without sp g).unreported sp g))).beginReplay p ⟨sp, g, c, [r], []⟩) :=
    hset.deny (log := []) (held := [r]) (by rw [hlog, List.filter_nil]) (by rw [hheld]; exact hset.filter_same)
  have hemp := hset.emptied (x := ((s.port p).without sp g).unreported sp g) ⟨rfl, rfl, ⟨rfl, rfl, rfl⟩⟩ (.inl ⟨hlog, hheld⟩)
  obtain ⟨de, z, y, hz, hans, -, ws, q, hmsg, -⟩ :=
    ((s.expectAnswer c).setPort p (((s.port p).without sp g).unreported sp g)).refuseFault_eq p code ipa hset.tile
  generalize hw : ({ (s.expectAnswer c).setPort p (((s.port p).without sp g).unreported sp g) with desc := de } : State) = w at hz
  have hagain : State.walkedAgain p ((s.expectAnswer c).setPort p (((s.port p).without sp g).unreported sp g)) r = (w.mailed z).mailed y := by
    unfold State.walkedAgain
    rw [hemp.walkOf_fault ht]
    exact hz
  have hdone : (((w.mailed z).mailed y).underway fun y => [r].any (·.who == y.who)) = false := by
    rw [State.mailed_underway (fun q => by rw [hmsg]; nofun), State.mailed_underway (fun q => by rw [hans.2.2]; nofun), ← hw]
    exact (State.setPort_underway (by rfl) _).trans hset.sent_done
  obtain ⟨x, hx, hend⟩ := State.beginReplay_ends (p := p) (y := ⟨sp, g, c, [r], []⟩) hdone
  rw [State.answerFrom_mailed] at hend
  have hfold : [r].foldl (State.walkedAgain p) ((s.expectAnswer c).setPort p (((s.port p).without sp g).unreported sp g)) =
    (w.mailed z).mailed y := hagain
  rw [hfold] at hexec
  have hw' : ((s.expectAnswer c).setPort p (((s.port p).without sp g).unreported sp g)).port p = w.port p := (congrArg (State.port · p) hw :)
  have hxheld : x.held = [] := hx.held.trans ((congrArg Port.held hw').symm.trans hemp.held)
  refine ⟨_, hexec.trans (congrArg _ hend),
    ⟨_, List.mem_append_right _ (List.mem_singleton.2 rfl), rfl, rfl⟩,
    (congrArg Port.held (State.port_setPort ((w.mailed z).mailed y) p x)).trans hxheld, (congrArg State.mem hw).symm, z, ?_, hans.2.2⟩
  exact List.mem_append_left _ (List.mem_append_left _ (List.mem_append_right _ (List.mem_singleton.2 rfl)))
/-- It refuses a logged store. -/
theorem State.Settles.deny_log {n : Nat} {v : Word} (hlog : (s.port p).log = [r]) (hheld : (s.port p).held = [])
    (hk : r.kind = .store n v) : ∃ u : State, execDeny c s = .next u ∧ u.told c 0 ∧
      (u.port p).log = [] ∧ u.mem = s.mem ∧ r.answeredIn u (.drained (some Cause.pageStore)) := by
  have hexec := hset.deny (log := [r]) (held := []) (by rw [hlog]; exact hset.filter_same) (by rw [hheld, List.filter_nil])
  have hlogs : r.kind.logs = true := by rw [hk]; rfl
  have hlogged : [r].filter (·.kind.logs) = [r] := by simp [hlogs]
  have hothers : [r].filter (fun r => !r.kind.logs) = [] := by simp [hlogs]
  rw [hlogged, hothers] at hexec
  have hemp := hset.emptied (x := ((s.port p).without sp g).unreported sp g) ⟨rfl, rfl, ⟨rfl, rfl, rfl⟩⟩ (.inr ⟨hlog, hheld⟩)
  obtain ⟨z, hz, hans⟩ := portAnswer_answers ((s.expectAnswer c).setPort p (((s.port p).without sp g).unreported sp g)) p
    (.drained (some Cause.pageStore)) hset.tile
  obtain ⟨x, hx, hend⟩ := State.beginReplay_ends (p := p) (y := ⟨sp, g, c, [], []⟩)
    (((s.expectAnswer c).setPort p (((s.port p).without sp g).unreported sp g)).mailed z).underway_false
  rw [State.answerFrom_mailed] at hend
  have hfold : [r].foldl (fun s r => portAnswer s p r (.drained (some Cause.pageStore)) 0)
    ((s.expectAnswer c).setPort p (((s.port p).without sp g).unreported sp g)) = _ := hz
  rw [hfold] at hexec
  refine ⟨_, hexec.trans (congrArg _ hend), ⟨_, List.mem_append_right _ (List.mem_singleton.2 rfl), rfl, rfl⟩,
    (congrArg Port.log (State.port_setPort _ p x)).trans (hx.log.trans hemp.log), rfl, z, ?_, hans.2.2⟩
  exact List.mem_append_left _ (List.mem_append_right _ (List.mem_singleton.2 rfl))
end

end Sys2Proof.Machine

/-! ### Shoot-downs (O49) -/

namespace Sys2Proof.Machine

theorem gallerySite_isGallery (f : Nat) : isGallery (gallerySite f) = true := by
  unfold isGallery gallerySite
  refine decide_eq_true ?_
  dsimp only
  omega
/-- A gallery's messages to receivers of a shoot-down: no router learns from a gallery. -/
theorem State.sendShoots_eq (l : List Nat) (s : State) (agent : Nat) (v : Word) : ∃ zs n,
    l.foldl (fun (s : State) r => s.send (.shoot agent v) 15 (gallerySite (agent / 16)) (shootDest r) (serviceName (agent / 16)) none 0 true) s =
      { s with net := s.net ++ zs, nextSeq := n } ∧ zs.length = l.length ∧ ∀ z ∈ zs, z.vc = 15 ∧ z.msg = .shoot agent v := by
  induction l generalizing s with
  | nil => exact ⟨[], s.nextSeq, by rw [List.append_nil]; rfl, rfl, nofun⟩
  | cons r l ih =>
    have hsend := s.send_untaught (.shoot agent v) 15 (gallerySite (agent / 16)) (shootDest r) (serviceName (agent / 16)) none 0 true
      (.inr (gallerySite_isGallery _))
    obtain ⟨zs, n, e, hlen, hall⟩ := ih (s.mailed (s.flightOf (.shoot agent v) 15 (gallerySite (agent / 16)) (shootDest r)
      (serviceName (agent / 16)) none 0 true))
    refine ⟨s.flightOf (.shoot agent v) 15 (gallerySite (agent / 16)) (shootDest r) (serviceName (agent / 16)) none 0 true :: zs, n, ?_, ?_, ?_⟩
    · rw [List.foldl_cons, hsend, e]
      show ({ s with net := (s.net ++ [_]) ++ zs, nextSeq := n } : State) = _
      rw [List.append_assoc]
      rfl
    · rw [List.length_cons, List.length_cons, hlen]
    · intro z hz
      obtain rfl | hz := List.mem_cons.1 hz
      · exact ⟨rfl, rfl⟩
      · exact hall z hz

theorem State.cmdPort_setCmdPort (s : State) (agent : Nat) (x : CmdPort) : (s.setCmdPort agent x).cmdPort agent = x := by
  have hg := unitGet_unitSet Gallery.reset s.galleries (agent / 16) (agent / 16)
    { s.gallery (agent / 16) with cmd := unitSet (s.gallery (agent / 16)).cmd (agent % 16) x }
  rw [if_pos rfl] at hg
  have hc := unitGet_unitSet CmdPort.reset (s.gallery (agent / 16)).cmd (agent % 16) (agent % 16) x
  rw [if_pos rfl] at hc
  exact (congrArg (fun g : Gallery => unitGet CmdPort.reset g.cmd (agent % 16)) hg).trans hc

theorem shootReceivers_length {k : Nat} (h : k < 180) : ((List.range 180).filter (· != k)).length = 179 := by
  rw [← List.nodup_range.erase_eq_filter k, List.length_erase_of_mem (List.mem_range.2 h), List.length_range]

/-- A command port that waits for the receivers of the shoot-down of v, since tick `now`. -/
def CmdPort.shooting (x : CmdPort) (v now : Word) : CmdPort :=
  { x with mdest := 0xFFFFFFFF, mw1 := v, shoots := List.range 180, shootSeq := x.mw0.extractLsb' 32 32, shootVal := v
           waiting := some (now, x.mw0.extractLsb' 32 32) }
/-- R415: a shoot-down is sent to every receiver but its own gallery. -/
theorem execShoot_sends {s : State} {agent : Nat} (v : Word) (hw : (s.cmdPort agent).waiting = none) (ha : agent < 1280) :
    ∃ (u : State) (zs : List Flight), execShoot agent v s = .next u ∧ u.mem = s.mem ∧ u.net = s.net ++ zs ∧ zs.length = 179 ∧
      (∀ z ∈ zs, z.vc = 15 ∧ z.msg = .shoot agent v) ∧ u.cmdPort agent = (s.cmdPort agent).shooting v s.wtime := by
  obtain ⟨zs, n, e, hlen, hall⟩ := State.sendShoots_eq ((List.range 180).filter (· != 100 + agent / 16))
    (s.setCmdPort agent ((s.cmdPort agent).shooting v s.wtime)) agent v
  have hexec : execShoot agent v s = .next (((List.range 180).filter (· != 100 + agent / 16)).foldl (fun (s : State) r =>
      s.send (.shoot agent v) 15 (gallerySite (agent / 16)) (shootDest r) (serviceName (agent / 16)) none 0 true)
        (s.setCmdPort agent ((s.cmdPort agent).shooting v s.wtime))) := by
    unfold execShoot
    dsimp only
    rw [hw]
    rfl
  rw [e] at hexec
  exact ⟨_, zs, hexec, rfl, rfl, hlen.trans (shootReceivers_length (by omega)), hall, State.cmdPort_setCmdPort _ _ _⟩

/-- R416: what a receiver invalidates. -/
theorem State.invalidate_eq (s : State) (r : Nat) (v : Word) : ∃ ps gs, s.invalidate r v = { s with ports := ps, galleries := gs } := by
  unfold State.invalidate
  dsimp only
  split
  · exact ⟨_, _, rfl⟩
  · exact ⟨_, _, rfl⟩
/-- A port drops the entries of its TLB that the value names. -/
theorem State.invalidate_port (s : State) {r : Nat} (v : Word) (h : r < 100) : (s.invalidate r v).mem = s.mem ∧
    (s.invalidate r v).net = s.net ∧ ((s.invalidate r v).port r).tlb = (s.port r).tlb.filter fun e => !shootHits v e := by
  unfold State.invalidate
  rw [if_pos h]
  exact ⟨rfl, rfl, congrArg Port.tlb (s.port_setPort r _)⟩

section
variable {s : State} {agent j : Nat} {f : Flight} (hj : j ∈ (s.cmdPort agent).shoots) (hown : j ≠ 100 + agent / 16)
  (hf : s.net.find? (fun f => f.msg == .shoot agent (s.cmdPort agent).shootVal && f.dest == shootDest j && s.arrived f) = some f)
include hj hf

/-- R416: the receiver invalidates, and waits while what it translated so is under way. -/
theorem execShootAcknowledgement_waits (hw : (s.invalidate j (s.cmdPort agent).shootVal).shootWaits j (s.cmdPort agent).shootVal = true) :
    execShootAcknowledgement agent j s = .next (s.invalidate j (s.cmdPort agent).shootVal) := by
  unfold execShootAcknowledgement
  dsimp only
  rw [hf, if_neg (by simp [hj]), if_pos hw]
include hown in
/-- Then it acknowledges. -/
theorem execShootAcknowledgement_sends
    (hw : (s.invalidate j (s.cmdPort agent).shootVal).shootWaits j (s.cmdPort agent).shootVal = false) :
    ∃ (u : State) (z : Flight), execShootAcknowledgement agent j s = .next u ∧ u.mem = s.mem ∧ u.net = s.net.erase f ++ [z] ∧ z.vc = 14 ∧
      z.dest = .gallery (agent / 16) ∧ z.msg = .shootAck agent j ∧ u.ports = (s.invalidate j (s.cmdPort agent).shootVal).ports := by
  obtain ⟨ps, gs, e⟩ := s.invalidate_eq j (s.cmdPort agent).shootVal
  have hexec : execShootAcknowledgement agent j s = .next (({ s.invalidate j (s.cmdPort agent).shootVal with
      net := (s.invalidate j (s.cmdPort agent).shootVal).net.erase f } : State).emitUnit
        (if j < 100 then s.portEntry j else gallerySite (j - 100)) 14 (.gallery (agent / 16)) (.shootAck agent j) 0 true) := by
    unfold execShootAcknowledgement
    dsimp only
    rw [hf, if_neg (by simp [hj]), if_neg (by rw [hw]; exact Bool.false_ne_true), if_neg (by simpa using hown)]
  rw [State.emitUnit_mailed] at hexec
  exact ⟨_, _, hexec, by rw [e]; rfl, by rw [e]; rfl, rfl, rfl, rfl, rfl⟩
end

/-- R415: an acknowledgement reaches the command port; the last one completes the command. -/
theorem execCommandAnswer_acked {s : State} {agent j : Nat} {f : Flight}
    (hf : firstOf (s.net.filter fun f => s.arrived f && f.msg.answers agent) = some f) (hmsg : f.msg = .shootAck agent j) : ∃ u : State,
      execCommandAnswer agent s = .next u ∧ u.mem = s.mem ∧ u.net = s.net.erase f ∧
      (u.cmdPort agent).shoots = (s.cmdPort agent).shoots.filter (· != j) ∧
      ((s.cmdPort agent).shoots = [j] → (u.cmdPort agent).status = 0 ∧ (u.cmdPort agent).seq = (s.cmdPort agent).shootSeq ∧
        (u.cmdPort agent).waiting = none) ∧
      ((s.cmdPort agent).shoots.filter (· != j) ≠ [] → (u.cmdPort agent).waiting = (s.cmdPort agent).waiting) := by
  have hexec : execCommandAnswer agent s = .next (({ s with net := s.net.erase f } : State).shootAcked agent j) := by
    unfold execCommandAnswer
    rw [hf]
    dsimp only
    rw [hmsg]
  have hport : (({ s with net := s.net.erase f } : State).shootAcked agent j).cmdPort agent = _ := State.cmdPort_setCmdPort _ _ _
  refine ⟨_, hexec, rfl, rfl, ?_⟩
  rw [hport]
  have hsame : ({ s with net := s.net.erase f } : State).cmdPort agent = s.cmdPort agent := rfl
  refine ⟨rfl, fun hone => ?_, fun hmore => if_neg ?_⟩
  · rw [hsame, hone]
    simp
  · rw [hsame]
    simp [hmore]

end Sys2Proof.Machine

/-! ### Devices below a root port (O49) -/

namespace Sys2Proof.Machine

/-- An aligned word of a power of two is stored at once (R83). -/
theorem State.storeBytes_word (s : State) {k n : Nat} {v : Nat} (hn : n = 1 ∨ n = 2 ∨ n = 4 ∨ n = 8) (ha : k % n = 0) :
    (s.storeBytes k n v n).mem = Memory.writeN s.mem k n (v % 2 ^ (8 * n)) := by
  have hword : min n (8 - k % 8) = n := by obtain rfl | rfl | rfl | rfl := hn <;> omega
  have hlt : v % 2 ^ (8 * n) < 2 ^ 64 := by
    refine lt_of_lt_of_le (Nat.mod_lt _ (by positivity)) (Nat.pow_le_pow_right (by decide) (by omega))
  have hrest (u : State) (k w fuel : Nat) : u.storeBytes k 0 w fuel = u := by cases fuel <;> rfl
  obtain ⟨m, rfl⟩ : ∃ m, n = m + 1 := ⟨n - 1, by omega⟩
  unfold State.storeBytes
  rw [if_neg (by omega)]
  dsimp only
  rw [hword, Nat.sub_self, hrest, State.storeChecked_mem, BitVec.toNat_ofNat, Nat.mod_eq_of_lt hlt]

/-- The device entry of a request (R418). -/
def State.deviceEntry (s : State) (c : Nat) (r : DevReq) : Word := s.load ((s.port (96 + c)).dtbase.toNat + 8 * r.rid.toNat) 8
def State.deviceSpace (s : State) (c : Nat) (r : DevReq) : BitVec 16 := ((s.deviceEntry c r).extractLsb' 0 15).zeroExtend 16

theorem State.port_returnTo (s : State) (c : Nat) (rid : BitVec 16) (v : Option Nat) :
    ((s.returnTo c rid v).port (96 + c)).returned = (s.port (96 + c)).returned ++ [(rid, v)] :=
  congrArg Port.returned (s.port_setPort (96 + c) _)

/-- R418: a request with a PASID or an address that claims to be translated is refused with no report. -/
theorem execDeviceRequest_unrouted {s : State} {c : Nat} {r : DevReq} (h : r.pasid = true ∨ r.translated = true) (hw : r.write = none) :
    ∃ u : State, execDeviceRequest c r s = .next u ∧ u.mem = s.mem ∧
      (u.port (96 + c)).returned = (s.port (96 + c)).returned ++ [(r.rid, none)] ∧ u.net = s.net := by
  have hwalk : s.deviceWalk c r = .error none := if_pos (by rw [Bool.or_eq_true]; exact h)
  have hexec : execDeviceRequest c r s = .next (s.returnTo c r.rid none) := by
    unfold execDeviceRequest State.refuseDevice
    dsimp only
    rw [hwalk]
    dsimp only
    rw [hw]
    rfl
  exact ⟨_, hexec, rfl, s.port_returnTo _ _ _, rfl⟩

section
variable {s : State} {c : Nat} {r : DevReq} (hpasid : r.pasid = false) (htr : r.translated = false)
include hpasid htr

theorem State.deviceWalk_invalid (hv : (s.deviceEntry c r).getLsbD 63 = false) :
    s.deviceWalk c r = .error (some (0, 0, s.deviceSpace c r)) := by
  unfold State.deviceWalk
  dsimp only
  rw [hpasid, htr]
  exact (if_neg Bool.false_ne_true).trans (if_pos (congrArg (! ·) hv))
/-- A device without a valid entry is refused and reported. -/
theorem execDeviceRequest_invalid (hv : (s.deviceEntry c r).getLsbD 63 = false) (hw : r.write = none) :
    ∃ (u : State) (y : Flight), execDeviceRequest c r s = .next u ∧ u.mem = s.mem ∧
      (u.port (96 + c)).returned = (s.port (96 + c)).returned ++ [(r.rid, none)] ∧ u.net = s.net ++ [y] ∧ reports y 0x06 r.addr 0 := by
  have hexec : ∃ ws, execDeviceRequest c r s = .next ((s.returnTo c r.rid none).portReport (96 + c) (cornerField c) ws) ∧
      (ws.headD 0).extractLsb' 0 8 = 0x06 ∧ ws.getD 1 0 = r.addr ∧ (ws.getD 3 0).toNat % 8 = 0 := by
    unfold execDeviceRequest State.refuseDevice
    dsimp only
    rw [State.deviceWalk_invalid hpasid htr hv]
    dsimp only
    rw [hw]
    exact ⟨_, rfl, recordWords_cause _ _ _ _ _ _ _ _, rfl, stageCode_low 0 0 (96 + c) 0 rfl⟩
  obtain ⟨ws, hexec, hcause, haddr, hcode⟩ := hexec
  rw [State.portReport_mailed] at hexec
  exact ⟨_, _, hexec, rfl, s.port_returnTo _ _ _, rfl, rfl, _, _, rfl, hcause, haddr, hcode⟩

variable {t : Trans} {p : Nat} (hv : (s.deviceEntry c r).getLsbD 63 = true)
  (ht : s.translate (s.port (96 + c)) (s.deviceSpace c r) r.addr.toNat ⟨r.write.isNone, r.write.isSome⟩ = .ok t) (hs : serves t.pa = .edge p)
  (hwr : r.write.isSome = true → (s.deviceEntry c r).getLsbD 62 = true)
include hv ht hs hwr

theorem State.deviceWalk_edge : s.deviceWalk c r = .ok (s.deviceSpace c r, t) := by
  have hwrites : ¬ (r.write.isSome && !(s.deviceEntry c r).getLsbD 62) = true := by
    rw [Bool.and_eq_true, Bool.not_eq_true']
    rintro ⟨hw, hn⟩
    exact absurd ((hwr hw).symm.trans hn) nofun
  unfold State.deviceEntry at hv hwrites
  unfold State.deviceSpace State.deviceEntry at ht
  unfold State.deviceWalk
  dsimp only
  rw [hpasid, htr, Bool.or_false, if_neg Bool.false_ne_true, hv, Bool.not_true, if_neg Bool.false_ne_true, ht]
  dsimp only
  rw [if_neg hwrites, hs]
  rfl
/-- It waits behind earlier requests, or a granule that waits. -/
theorem execDeviceRequest_waits (hwait : s.deviceWaits (s.port (96 + c)).below r (s.deviceSpace c r) t = true) :
    ∃ u : State, execDeviceRequest c r s = .next u ∧ u.mem = s.mem ∧ u.net = s.net ∧
      (u.port (96 + c)).below = (s.port (96 + c)).below ++ [r] := by
  have hexec : execDeviceRequest c r s = .next (s.setPort (96 + c) { s.port (96 + c) with below := (s.port (96 + c)).below ++ [r] }) := by
    unfold execDeviceRequest
    dsimp only
    rw [State.deviceWalk_edge hpasid htr hv ht hs hwr]
    exact if_pos hwait
  exact ⟨_, hexec, rfl, rfl, congrArg Port.below (s.port_setPort _ _)⟩

variable (hgo : s.deviceWaits (s.port (96 + c)).below r (s.deviceSpace c r) t = false)
include hgo

theorem execDeviceRequest_goes : execDeviceRequest c r s = .next (s.deviceDo c r t) := by
  unfold execDeviceRequest
  dsimp only
  rw [State.deviceWalk_edge hpasid htr hv ht hs hwr]
  exact if_neg (by rw [hgo]; exact Bool.false_ne_true)
/-- A read of edge memory. -/
theorem execDeviceRequest_reads (hw : r.write = none) (hd : s.damagedBytes t.pa r.bytes = false) : ∃ u : State,
    execDeviceRequest c r s = .next u ∧ u.mem = s.mem ∧
      (u.port (96 + c)).returned = (s.port (96 + c)).returned ++ [(r.rid, some (Memory.readN s.mem t.pa r.bytes))] := by
  have hexec := execDeviceRequest_goes hpasid htr hv ht hs hwr hgo
  have hdo : s.deviceDo c r t = (s.setPort (96 + c) ((s.port (96 + c)).fill t.entries)).returnTo c r.rid
      (some (Memory.readN s.mem t.pa r.bytes)) := by
    unfold State.deviceDo
    dsimp only
    rw [hs, hw]
    exact if_neg (by rw [hd]; exact Bool.false_ne_true)
  rw [hdo] at hexec
  refine ⟨_, hexec, rfl, (State.port_returnTo _ _ _ _).trans ?_⟩
  rw [State.port_setPort]
  rfl
/-- A write to edge memory. -/
theorem execDeviceRequest_writes {d : Nat} (hw : r.write = some d) (hb : r.bytes = 1 ∨ r.bytes = 2 ∨ r.bytes = 4 ∨ r.bytes = 8)
    (ha : t.pa % r.bytes = 0) : ∃ u : State, execDeviceRequest c r s = .next u ∧
      u.mem = Memory.writeN s.mem t.pa r.bytes (d % 2 ^ (8 * r.bytes)) := by
  have hdo : s.deviceDo c r t = ((s.setPort (96 + c) ((s.port (96 + c)).fill t.entries)).storeBytes t.pa r.bytes d r.bytes).notifyPort p t.pa
      r.bytes := by
    unfold State.deviceDo
    dsimp only
    rw [hs, hw]
  refine ⟨_, execDeviceRequest_goes hpasid htr hv ht hs hwr hgo, ?_⟩
  rw [hdo, (State.notifyPort_fires _ _ _ _).mem, State.storeBytes_word _ hb ha]
  rfl
end

/-- R163: a device completes the oldest read of a tile. -/
theorem execDeviceCompletion_load {s : State} {c n : Nat} {r : Req} {rest : List Req} (l : Option Line)
    (hops : (s.port (96 + c)).devOps = r :: rest) (hr : r.who.agent = none) (hs : serves r.pa = .pcie c)
    (hk : r.kind = .load n) (hpush : (s.port (96 + c)).pushes = false) :
    ∃ (u : State) (z : Flight), execDeviceCompletion c l s = .next u ∧ (u.port (96 + c)).devOps = rest ∧ u.mem = s.mem ∧
      u.net = s.net ++ [z] ∧ z.dest = .tile r.who.src ∧ z.msg = .ans ⟨r.who, r.completed l, 0⟩ := by
  have hposted : r.posted = false := by
    unfold Req.posted
    rw [hs, hk]
  have hold : (s.port (96 + c)).oldestOp = some r := by
    unfold Port.oldestOp
    rw [hops, List.find?_cons_of_pos (by rw [hposted]; rfl)]
  have hrest : (s.port (96 + c)).devOps.erase r = rest := by rw [hops, List.erase_cons_head]
  have hexec : execDeviceCompletion c l s =
      .next (portAnswer (s.setPort (96 + c) { s.port (96 + c) with devOps := rest }) (96 + c) r (r.completed l) 0) := by
    unfold execDeviceCompletion
    dsimp only
    rw [hold]
    dsimp only
    rw [hs, hk, hrest]
    exact if_neg (by rw [hpush]; exact Bool.false_ne_true)
  obtain ⟨z, hz, -, hdest, hmsg⟩ := portAnswer_answers (s.setPort (96 + c) { s.port (96 + c) with devOps := rest }) (96 + c) (r.completed l) hr
  rw [hz] at hexec
  exact ⟨_, z, hexec, congrArg Port.devOps (s.port_setPort _ _), rfl, rfl, hdest, hmsg⟩
theorem Req.completed_value {r : Req} {n : Nat} (hk : r.kind = .load n) (y : Line) :
    r.completed (some y) = .value (lowBytes n (y.setWidth 64)) := by
  unfold Req.completed
  rw [hk]
/-- Without a value it is an Unsupported Request. -/
theorem Req.completed_none {r : Req} {n : Nat} (hk : r.kind = .load n) (hdrain : r.drain = false) : r.completed none = .refuse 0x06 := by
  unfold Req.completed
  rw [hk, hdrain]
  rfl

end Sys2Proof.Machine

/-! ### Bridge traffic (O49) -/

namespace Sys2Proof.Machine

theorem State.ue_setUe (s : State) (p : Nat) (x : UePort) : (s.setUe p x).ue p = x := (unitGet_unitSet _ _ p p x).trans (if_pos rfl)
/-- Name of index j at Ultra Ethernet port p (R465). -/
def bridgeName (p j : Nat) : BitVec 32 := BitVec.ofNat 32 (0xF0000000 + 32 * j + p)
theorem bridgeIndex_name {p j : Nat} (hp : p < 32) (hj : j < 4096) : bridgeIndex (bridgeName p j) = some j := by
  have hnat : (bridgeName p j).toNat = 0xF0000000 + 32 * j + p := by
    unfold bridgeName
    rw [BitVec.toNat_ofNat]
    omega
  unfold bridgeIndex
  rw [hnat]
  have hindex : (0xF0000000 + 32 * j + p - 0xF0000000) / 32 = j := by omega
  rw [hindex]
  exact if_pos ⟨by omega, hj⟩

/-- Discards leave the Ultra Ethernet ports. -/
theorem State.setTileAt_ues (s : State) (c : Coord) (t : Tile) : (s.setTileAt c t).ues = s.ues := by
  unfold State.setTileAt
  split <;> rfl
theorem State.discardReport_ues (s : State) (f : Flight) (c : BitVec 8) (w : Word) : (s.discardReport f c w).ues = s.ues := by
  unfold State.discardReport
  dsimp only
  split
  · rfl
  · exact State.setTileAt_ues _ _ _
theorem State.answer_ues (s : State) (c : Coord) (vc : BitVec 4) (who : Who) (v : AnsVal) (fl : Flags) : (s.answer c vc who v fl).ues = s.ues := by
  unfold State.answer
  split
  · rfl
  · rw [State.emitUnit_mailed]
    rfl
theorem State.discard_ues (s : State) (f : Flight) (c : BitVec 8) : (s.discard f c).ues = s.ues := by
  unfold State.discard
  dsimp only
  split
  · exact (State.answer_ues _ _ _ _ _ _).trans (State.discardReport_ues _ _ _ _)
  · rw [State.emitUnit_mailed]
    exact State.discardReport_ues _ _ _ _
  · exact State.discardReport_ues _ _ _ _

section
variable {s : State} {p j : Nat} {f : Flight} (hp : p < 32) (hj : j < 4096)
  (hf : firstOf (s.net.filter fun f => f.dest == .ue p && s.arrived f) = some f) (hname : f.name = some (bridgeName p j))
include hp hj hf hname

/-- R465: a message that its hall and its table entry let through is handed to the transport. -/
theorem execBridgeOutbound_sends (hv : ((s.ue p).entry j).1.getLsbD 63 = true) (hsys : f.sys = false)
    (hb : (s.hallOf f.hall.toNat).bridge = true) (hh : ((s.ue p).entry j).1.extractLsb' 57 6 = f.hall) :
    ∃ u : State, execBridgeOutbound p s = .next u ∧ u.net = s.net.erase f ∧ u.mem = s.mem ∧ (u.ue p).sent = (s.ue p).sent ++
      [(((s.ue p).entry j).2.extractLsb' 0 32, (((s.ue p).entry j).1.extractLsb' 45 12).toNat, ((s.ue p).entry j).2.extractLsb' 32 32, f.msg)] := by
  have hexec : execBridgeOutbound p s = .next (({ s with net := s.net.erase f } : State).setUe p { s.ue p with
      sent := (s.ue p).sent ++ [(((s.ue p).entry j).2.extractLsb' 0 32, (((s.ue p).entry j).1.extractLsb' 45 12).toNat,
        ((s.ue p).entry j).2.extractLsb' 32 32, f.msg)] }) := by
    unfold execBridgeOutbound
    rw [hf]
    dsimp only
    rw [hsys, hb, hname, Option.bind_some, bridgeIndex_name hp hj]
    simp [hv, hh]
  exact ⟨_, hexec, rfl, rfl, congrArg UePort.sent (State.ue_setUe _ _ _)⟩
/-- Any other is discarded. -/
theorem execBridgeOutbound_discards (h : ((s.ue p).entry j).1.getLsbD 63 = false ∨ f.sys = true ∨ (s.hallOf f.hall.toNat).bridge = false ∨
      ((s.ue p).entry j).1.extractLsb' 57 6 ≠ f.hall) :
    ∃ u : State, execBridgeOutbound p s = .next u ∧ u.mem = s.mem ∧ (u.ue p).sent = (s.ue p).sent := by
  have hexec : ∃ cause, execBridgeOutbound p s = .next (({ s with net := s.net.erase f } : State).discard f cause) := by
    unfold execBridgeOutbound
    rw [hf]
    dsimp only
    rw [hname, Option.bind_some, bridgeIndex_name hp hj]
    dsimp only
    split
    · exact ⟨_, rfl⟩
    next hsend =>
      split
      · exact ⟨_, rfl⟩
      next hvalid =>
        split
        · exact ⟨_, rfl⟩
        next hhall =>
          simp only [Bool.or_eq_true, not_or, Bool.not_eq_true, Bool.not_eq_true', Bool.not_eq_false, bne_iff_ne, ne_eq, not_not] at hsend hvalid hhall
          simp_all
  obtain ⟨cause, hexec⟩ := hexec
  refine ⟨_, hexec, State.discard_mem _ _ _, ?_⟩
  have hues := State.discard_ues { s with net := s.net.erase f } f cause
  unfold State.ue
  rw [hues]
end

/-- The low half of word 1 of a stamped packet is the sender's name. -/
theorem stampedName (w : Word) (n : BitVec 32) : ((w &&& (0xFFFFFFFF00000000 : Word)) ||| n.zeroExtend 64).extractLsb' 0 32 = n := by
  have hmask : ∀ i < 32, (0xFFFFFFFF00000000 : Word).getLsbD i = false := by decide
  refine BitVec.eq_of_getLsbD_eq fun i hi => ?_
  rw [BitVec.getLsbD_extractLsb', BitVec.getLsbD_or, BitVec.getLsbD_and, Nat.zero_add, hmask i hi]
  have h64 : i < 64 := by omega
  simp [hi, h64]

section
variable {s : State} {p j : Nat}

/-- R465: what comes by a valid entry is stamped and sent to the bearer of its name. -/
theorem execBridgeInbound_sends {k : Inbound} {c : Coord} (hj : j < 4096) (hv : ((s.ue p).entry j).1.getLsbD 63 = true)
    (hb : s.bearer (((s.ue p).entry j).1.extractLsb' 57 6) (stampInbound k (((s.ue p).entry j).1.extractLsb' 57 6) (bridgeName p j)).1 = some c) :
    ∃ (u : State) (z : Flight), execBridgeInbound p j (((s.ue p).entry j).2.extractLsb' 0 32) k s = .next u ∧ u.mem = s.mem ∧
      u.net = s.net ++ [z] ∧ z.dest = .tile c ∧ z.vc = (stampInbound k (((s.ue p).entry j).1.extractLsb' 57 6) (bridgeName p j)).2.1 ∧
      z.msg = (stampInbound k (((s.ue p).entry j).1.extractLsb' 57 6) (bridgeName p j)).2.2 ∧ z.hall = ((s.ue p).entry j).1.extractLsb' 57 6 ∧
      z.sys = false := by
  have hin : ¬ (!((s.ue p).entry j).1.getLsbD 63 || ((s.ue p).entry j).2.extractLsb' 0 32 != ((s.ue p).entry j).2.extractLsb' 0 32 ||
      decide (4096 ≤ j)) = true := by
    simp [hv, hj]
  have hexec : execBridgeInbound p j (((s.ue p).entry j).2.extractLsb' 0 32) k s =
      .next (s.send (stampInbound k (((s.ue p).entry j).1.extractLsb' 57 6) (bridgeName p j)).2.2
        (stampInbound k (((s.ue p).entry j).1.extractLsb' 57 6) (bridgeName p j)).2.1 (s.liveSite (ueSites p)) (.tile c) (bridgeName p j)
        (some (stampInbound k (((s.ue p).entry j).1.extractLsb' 57 6) (bridgeName p j)).1) (((s.ue p).entry j).1.extractLsb' 57 6) false) := by
    unfold execBridgeInbound
    unfold bridgeName at hb ⊢
    dsimp only
    rw [if_neg hin, hb]
  obtain ⟨ns, ts, e⟩ := s.send_eq (stampInbound k (((s.ue p).entry j).1.extractLsb' 57 6) (bridgeName p j)).2.2
        (stampInbound k (((s.ue p).entry j).1.extractLsb' 57 6) (bridgeName p j)).2.1 (s.liveSite (ueSites p)) (.tile c) (bridgeName p j)
        (some (stampInbound k (((s.ue p).entry j).1.extractLsb' 57 6) (bridgeName p j)).1) (((s.ue p).entry j).1.extractLsb' 57 6) false
  rw [e] at hexec
  exact ⟨_, _, hexec, rfl, rfl, rfl, rfl, rfl, rfl, rfl⟩
/-- What comes by an entry that is not valid is discarded and counted. -/
theorem execBridgeInbound_discards {ep : BitVec 32} {k : Inbound} (hv : ((s.ue p).entry j).1.getLsbD 63 = false) : ∃ u : State,
    execBridgeInbound p j ep k s = .next u ∧ u.net = s.net ∧ u.mem = s.mem ∧ (u.ue p).discarded = (s.ue p).discarded + 1 := by
  have hexec : execBridgeInbound p j ep k s = .next (s.setUe p { s.ue p with discarded := (s.ue p).discarded + 1 }) := by
    unfold execBridgeInbound
    dsimp only
    exact if_pos (by rw [hv]; rfl)
  exact ⟨_, hexec, rfl, rfl, congrArg UePort.discarded (s.ue_setUe p _)⟩
end

end Sys2Proof.Machine

/-! ### Edge ports (O49) -/

namespace Sys2Proof.Machine

/-- Settles O49: each walk by what it comes to (`State.WalksNext`), RETRY and DENY by `State.Settles`, and shoot-downs, devices and bridges
by the messages that they send. -/
theorem edgePortsTranslateAndServe : Obligations.EdgePortsTranslateAndServe := by
  unfold Obligations.EdgePortsTranslateAndServe
  intro s p q c j agent n f r t code ipa w cmd dr v k l rest m d x gran waits next answer answers report reports' load root
  have hnext (h : next) : s.WalksNext p f r := ⟨h.1, h.2.1, h.2.2.1, h.2.2.2.1, h.2.2.2.2⟩
  refine ⟨fun hn hw ht => ⟨fun hs hk hd => ?_, fun hs hk hb => ?_, fun hs hq => ?_⟩, fun hn hw ht => ⟨fun hc => ?_, fun hc => ?_⟩,
    fun hn hw => ?_, execForwardedRequest_load, execFaultReportRepeat_reports, ?_, ?_, ?_, ?_⟩
  · obtain ⟨z, hz, hans⟩ := State.serveOrForward_load (s := ({ s with net := s.net.erase f } : State).setPort p (x.fill t.entries)) false hs
      hn.2.2.2.2 hk hd
    exact ⟨_, ((hnext hn).goes hw ht (by rw [servingPort_edge hs]; rfl)).trans (congrArg _ hz), rfl, z, rfl, hans⟩
  · obtain ⟨u, z, hz, hfire, hans⟩ := State.serveOrForward_store (s := ({ s with net := s.net.erase f } : State).setPort p (x.fill t.entries)) false
      hs hn.2.2.2.2 hk hb
    exact ⟨_, ((hnext hn).goes hw ht (by rw [servingPort_edge hs]; rfl)).trans (congrArg _ hz), hfire.mem, z,
      congrArg (· ++ [z]) hfire.net, hans⟩
  · have hgo := (hnext hn).goes hw ht (by rw [hs]; rfl)
    rw [State.serveOrForward_forward _ r hs hq, State.emitUnit_mailed] at hgo
    exact ⟨_, _, hgo, rfl, rfl, rfl, rfl, rfl⟩
  · have hcode : code % 8 = code := by omega
    have hnow : refusedAtOnce code = true := by obtain rfl | rfl | rfl := hc <;> rfl
    obtain ⟨u, z, y, e, hmem, hports, hnet, hans, hrep⟩ := (hnext hn).refused hw ht hnow
    have hport : u.port p = x := congrArg (unitGet Port.reset · p) hports
    exact ⟨u, e, hmem, congrArg Port.held hport, congrArg Port.log hport, z, y, hnet, hans, hcode ▸ hrep⟩
  · have hcode : code % 8 = code := by omega
    have hlater : refusedAtOnce code = false := by obtain rfl | rfl | rfl := hc <;> rfl
    obtain ⟨u, z, y, e, hmem, hlog, hheld, hnet, hans, hrep⟩ := (hnext hn).stays hw ht hlater
    rw [hcode] at hrep
    refine ⟨fun hk => ?_, fun hk => ?_, fun op a b hk => ?_⟩
    · rw [hk] at hans hrep
      exact ⟨u, e, hmem, hheld.trans (x.kept_held (by rw [hk]; rfl)), z, y, hnet, hans, hrep⟩
    · rw [hk] at hans hrep
      exact ⟨u, e, hmem, hlog.trans (x.kept_log (by rw [hk]; rfl)), z, y, hnet, hans, hrep⟩
    · rw [hk] at hans hrep
      exact ⟨u, e, hmem, hlog.trans (x.kept_log (by rw [hk]; rfl)), z, y, hnet, hans, hrep⟩
  · obtain ⟨u, z, e, hmem, hport, hnet, hans⟩ := (hnext hn).joins hw
    refine ⟨fun hk => ?_, fun hk => ?_⟩
    · rw [hk] at hans
      exact ⟨u, e, hmem, (congrArg Port.held hport).trans (x.kept_held (by rw [hk]; rfl)), z, hnet, hans⟩
    · rw [hk] at hans
      exact ⟨u, e, hmem, (congrArg Port.log hport).trans (x.kept_log (by rw [hk]; rfl)), z, hnet, hans⟩
  · intro g sp mine told here answered
    have hset (h : here) : s.Settles cmd p r sp g := by
      obtain ⟨hp, hv, hidle, hmine, hr, hdone⟩ := h
      exact ⟨hp, if_pos hv, hidle, hmine, hr, hdone⟩
    refine ⟨fun hp => ⟨⟨_, execRetry_nowhere hp, State.cmdAnswer_told _ _ _⟩, _, execDeny_nowhere hp, State.cmdAnswer_told _ _ _⟩,
      fun hp hv => ⟨⟨_, execRetry_reserved hp hv, State.cmdAnswer_told _ _ _⟩, _, execDeny_reserved hp hv, State.cmdAnswer_told _ _ _⟩,
      fun hh hheld hlog hk => ⟨(hset hh).retry_load hlog hheld hk, fun ht => ⟨?_, ?_⟩⟩, fun hh hheld hlog hk =>
        ⟨(hset hh).retry_store hlog hheld hk, (hset hh).deny_log hlog hheld hk⟩⟩
    · obtain ⟨de, e⟩ := (hset hh).retry_faults hlog hheld (by rw [hk]; exact ht)
      refine ⟨_, e, State.cmdAnswer_told _ _ _, ?_⟩
      rw [State.cmdAnswer_mailed]
      exact ⟨hheld, rfl⟩
    · have hdeny := (hset hh).deny_held hlog hheld (by rw [hk]; exact ht)
      rw [hk] at hdeny
      exact hdeny
  · exact ⟨execShoot_sends v, s.invalidate_port _, fun hj hown hf => ⟨execShootAcknowledgement_waits hj hf, execShootAcknowledgement_sends hj hown hf⟩,
      execCommandAnswer_acked⟩
  · refine ⟨execDeviceRequest_unrouted, execDeviceRequest_invalid, fun hpasid htr hv ht hs hwr =>
      ⟨execDeviceRequest_waits hpasid htr hv ht hs hwr, fun hgo hw hd => execDeviceRequest_reads hpasid htr hv ht hs hwr hgo hw hd,
        fun hgo hw hb ha => execDeviceRequest_writes hpasid htr hv ht hs hwr hgo hw hb ha⟩, fun hops hr hs hdrain hk hpush => ?_⟩
    obtain ⟨u, z, e, hdev, hmem, hnet, hdest, hmsg⟩ := execDeviceCompletion_load l hops hr hs hk hpush
    refine ⟨u, z, e, hdev, hmem, hnet, hdest, hmsg.trans ?_⟩
    cases l with
    | none => rw [Req.completed_none hk hdrain]
    | some y => rw [Req.completed_value hk]
  · refine ⟨fun hp hj hf hname hmsg => ⟨hmsg ▸ execBridgeOutbound_sends hp hj hf hname, execBridgeOutbound_discards hp hj hf hname⟩,
      fun hj hv hb => ?_, fun hj hv nm vc a hb => ?_, fun hv => ?_⟩
    · obtain ⟨u, z, e, hmem, hnet, hdest, -, hmsg, -⟩ := execBridgeInbound_sends (k := .packet k) hj hv hb
      exact ⟨u, z, _, e, hmem, hnet, hdest, hmsg, rfl, stewardWord_hall _ _, stampedName _ _, rfl⟩
    · obtain ⟨u, z, e, hmem, hnet, hsent⟩ := execBridgeInbound_sends (k := .decr nm vc a d) hj hv hb
      exact ⟨u, z, e, hmem, hnet, hsent⟩
    · exact execBridgeInbound_discards (p := p) (j := j) (k := .packet k) hv

end Sys2Proof.Machine

/-! ### Packed fields (O56)

Where the encoder joins fields into an immediate or a function code, each field reads back from its place. -/

namespace Sys2Proof

section Fields
variable {m n0 n1 n2 n3 n4 s n : Nat} {x : BitVec m} {f0 : BitVec n0} {f1 : BitVec n1} {f2 : BitVec n2} {f3 : BitVec n3} {f4 : BitVec n4}

/-- The field above one, two, three and four others, with more above it. -/
theorem field_above_one (h : s = n0) : (x ++ f1 ++ f0).extractLsb' s n1 = f1 := by
  rw [BitVec.extractLsb'_append_eq_of_le (by omega), h, Nat.sub_self, BitVec.extractLsb'_append_eq_right]
theorem field_above_two (h : s = n1 + n0) : (x ++ f2 ++ f1 ++ f0).extractLsb' s n2 = f2 := by
  rw [BitVec.extractLsb'_append_eq_of_le (by omega), field_above_one (by omega)]
theorem field_above_three (h : s = n2 + n1 + n0) : (x ++ f3 ++ f2 ++ f1 ++ f0).extractLsb' s n3 = f3 := by
  rw [BitVec.extractLsb'_append_eq_of_le (by omega), field_above_two (by omega)]
theorem field_above_four (h : s = n3 + n2 + n1 + n0) : (x ++ f4 ++ f3 ++ f2 ++ f1 ++ f0).extractLsb' s n4 = f4 := by
  rw [BitVec.extractLsb'_append_eq_of_le (by omega), field_above_three (by omega)]

/-- The topmost field, above one, two and more others. -/
theorem top_above_one (h : s = n0) : (x ++ f0).extractLsb' s m = x := by subst h; exact BitVec.extractLsb'_append_eq_left
theorem top_above_two (h : s = n1 + n0) : (x ++ f1 ++ f0).extractLsb' s m = x := by
  rw [BitVec.extractLsb'_append_eq_of_le (by omega), top_above_one (by omega)]
theorem top_above_three (h : s = n2 + n1 + n0) : (x ++ f2 ++ f1 ++ f0).extractLsb' s m = x := by
  rw [BitVec.extractLsb'_append_eq_of_le (by omega), top_above_two (by omega)]
theorem top_above_four (h : s = n3 + n2 + n1 + n0) : (x ++ f3 ++ f2 ++ f1 ++ f0).extractLsb' s m = x := by
  rw [BitVec.extractLsb'_append_eq_of_le (by omega), top_above_three (by omega)]
theorem top_above_five (h : s = n4 + n3 + n2 + n1 + n0) : (x ++ f4 ++ f3 ++ f2 ++ f1 ++ f0).extractLsb' s m = x := by
  rw [BitVec.extractLsb'_append_eq_of_le (by omega), top_above_four (by omega)]

theorem extract_beyond (h : m ≤ s) : x.extractLsb' s n = 0#n := by
  ext k hk
  simp [show m ≤ s + k by omega]

end Fields

/-! Wider than the field it holds. -/
section
variable {w n k : Nat} {v : BitVec w}
@[simp] theorem low_setWidth (h : w ≤ n) : (v.setWidth n).extractLsb' 0 w = v := by
  rw [BitVec.extractLsb'_setWidth_of_le (by omega), BitVec.extractLsb'_eq_self]
@[simp] theorem above_setWidth {s : Nat} (h : w ≤ s) (hn : s + k ≤ n) : (v.setWidth n).extractLsb' s k = 0#k := by
  rw [BitVec.extractLsb'_setWidth_of_le (by omega), extract_beyond h]
end

@[simp] theorem bit1_eq_one (b : Bool) : (bit1 b == 1#1) = b := by cases b <;> rfl

/-! Function codes, each a row of fields, the highest first. -/

/-- Scalar floating point, and WAITV (R197, R222). -/
@[simp] theorem fpFn_fields (c : BitVec 6) (m : BitVec 1) (f : BitVec 2) :
    (c ++ m ++ f).extractLsb' 0 2 = f ∧ (c ++ m ++ f).extractLsb' 2 1 = m ∧ (c ++ m ++ f).extractLsb' 3 6 = c :=
  ⟨BitVec.extractLsb'_append_eq_right, field_above_one rfl, top_above_two rfl⟩
/-- Conversions (R199). -/
@[simp] theorem cvtFn_fields (r : BitVec 1) (u : BitVec 4) (v : BitVec 4) :
    (r ++ u ++ v).extractLsb' 0 4 = v ∧ (r ++ u ++ v).extractLsb' 4 4 = u ∧ (r ++ u ++ v).extractLsb' 8 1 = r :=
  ⟨BitVec.extractLsb'_append_eq_right, field_above_one rfl, top_above_two rfl⟩
/-- Codes of three bits (R170, R238). -/
@[simp] theorem lowFn_fields (p : BitVec 6) (z : BitVec 3) :
    (p ++ z).extractLsb' 0 3 = z ∧ (p ++ z).extractLsb' 3 6 = p :=
  ⟨BitVec.extractLsb'_append_eq_right, top_above_one rfl⟩
/-- Accesses to devices (R214). -/
@[simp] theorem devFn_fields (k : BitVec 3) (p : BitVec 3) (z : BitVec 3) :
    (k ++ p ++ z).extractLsb' 0 3 = z ∧ (k ++ p ++ z).extractLsb' 3 3 = p ∧ (k ++ p ++ z).extractLsb' 6 3 = k :=
  ⟨BitVec.extractLsb'_append_eq_right, field_above_one rfl, top_above_two rfl⟩
/-- Atomics (R218). -/
@[simp] theorem amoFn_fields (o : BitVec 5) (p : BitVec 1) (w : BitVec 1) (t : BitVec 2) :
    (o ++ p ++ w ++ t).extractLsb' 0 2 = t ∧ (o ++ p ++ w ++ t).extractLsb' 2 1 = w ∧ (o ++ p ++ w ++ t).extractLsb' 3 1 = p ∧
    (o ++ p ++ w ++ t).extractLsb' 4 5 = o :=
  ⟨BitVec.extractLsb'_append_eq_right, field_above_one rfl, field_above_two rfl, top_above_three rfl⟩

/-! Immediates of 14 bits. -/

/-- Shifts (R193). -/
@[simp] theorem shiftImm_fields (p : BitVec 6) (k : BitVec 2) (n : BitVec 6) :
    (p ++ k ++ n).extractLsb' 0 6 = n ∧ (p ++ k ++ n).extractLsb' 6 2 = k ∧ (p ++ k ++ n).extractLsb' 8 6 = p :=
  ⟨BitVec.extractLsb'_append_eq_right, field_above_one rfl, top_above_two rfl⟩
/-- Compares (R194). -/
@[simp] theorem cmpImm_fields (c : BitVec 3) (v : BitVec 11) :
    (c ++ v).extractLsb' 0 11 = v ∧ (c ++ v).extractLsb' 11 3 = c :=
  ⟨BitVec.extractLsb'_append_eq_right, top_above_one rfl⟩
/-- Control registers (R212). -/
@[simp] theorem csrImm_fields (k : BitVec 2) (c : BitVec 12) :
    (k ++ c).extractLsb' 0 12 = c ∧ (k ++ c).extractLsb' 12 2 = k :=
  ⟨BitVec.extractLsb'_append_eq_right, top_above_one rfl⟩

/-! Words of the X forms. -/

/-- FWD (R227). -/
@[simp] theorem fwdWord_fields (p : BitVec 9) (b : BitVec 1) (u : BitVec 8) (z : BitVec 1) (v : BitVec 3) (e : BitVec 10) :
    (p ++ b ++ u ++ z ++ v ++ e).extractLsb' 0 10 = e ∧ (p ++ b ++ u ++ z ++ v ++ e).extractLsb' 10 3 = v ∧
    (p ++ b ++ u ++ z ++ v ++ e).extractLsb' 13 1 = z ∧ (p ++ b ++ u ++ z ++ v ++ e).extractLsb' 14 8 = u ∧
    (p ++ b ++ u ++ z ++ v ++ e).extractLsb' 22 1 = b ∧ (p ++ b ++ u ++ z ++ v ++ e).extractLsb' 23 9 = p :=
  ⟨BitVec.extractLsb'_append_eq_right, field_above_one rfl, field_above_two rfl, field_above_three rfl, field_above_four rfl,
    top_above_five rfl⟩
/-- POST (R228). -/
@[simp] theorem postWord_fields (p : BitVec 9) (b : BitVec 1) (u : BitVec 8) (v : BitVec 4) (z : BitVec 2) (a : BitVec 8) :
    (p ++ b ++ u ++ v ++ z ++ a).extractLsb' 0 8 = a ∧ (p ++ b ++ u ++ v ++ z ++ a).extractLsb' 8 2 = z ∧
    (p ++ b ++ u ++ v ++ z ++ a).extractLsb' 10 4 = v ∧ (p ++ b ++ u ++ v ++ z ++ a).extractLsb' 14 8 = u ∧
    (p ++ b ++ u ++ v ++ z ++ a).extractLsb' 22 1 = b ∧ (p ++ b ++ u ++ v ++ z ++ a).extractLsb' 23 9 = p :=
  ⟨BitVec.extractLsb'_append_eq_right, field_above_one rfl, field_above_two rfl, field_above_three rfl, field_above_four rfl,
    top_above_five rfl⟩
/-- ZERO and the static mode (R252). -/
@[simp] theorem vecMode_fields (p : BitVec 11) (z : BitVec 1) (r : BitVec 4) :
    (p ++ z ++ r).extractLsb' 0 4 = r ∧ (p ++ z ++ r).extractLsb' 4 1 = z ∧ (p ++ z ++ r).extractLsb' 5 11 = p :=
  ⟨BitVec.extractLsb'_append_eq_right, field_above_one rfl, top_above_two rfl⟩
/-- The result format (R252). -/
@[simp] theorem vecFmt_fields (p : BitVec 23) (o : BitVec 1) (f : BitVec 8) :
    (p ++ o ++ f).extractLsb' 0 8 = f ∧ (p ++ o ++ f).extractLsb' 8 1 = o ∧ (p ++ o ++ f).extractLsb' 9 23 = p :=
  ⟨BitVec.extractLsb'_append_eq_right, field_above_one rfl, top_above_two rfl⟩
/-- PART and the format (R258, R269). -/
@[simp] theorem partFmt_fields (p : BitVec 21) (t : BitVec 3) (f : BitVec 8) :
    (p ++ t ++ f).extractLsb' 0 8 = f ∧ (p ++ t ++ f).extractLsb' 8 3 = t ∧ (p ++ t ++ f).extractLsb' 11 21 = p :=
  ⟨BitVec.extractLsb'_append_eq_right, field_above_one rfl, top_above_two rfl⟩
/-- EXTRA and the format (R259). -/
@[simp] theorem qntFmt_fields (p : BitVec 20) (x : BitVec 1) (z : BitVec 3) (f : BitVec 8) :
    (p ++ x ++ z ++ f).extractLsb' 0 8 = f ∧ (p ++ x ++ z ++ f).extractLsb' 8 3 = z ∧ (p ++ x ++ z ++ f).extractLsb' 11 1 = x ∧
    (p ++ x ++ z ++ f).extractLsb' 12 20 = p :=
  ⟨BitVec.extractLsb'_append_eq_right, field_above_one rfl, field_above_two rfl, top_above_three rfl⟩
/-- Planes (R279). -/
@[simp] theorem planesWord_fields (i : BitVec 1) (q : BitVec 7) (n : BitVec 7) (p : BitVec 17) :
    (i ++ q ++ n ++ p).extractLsb' 0 17 = p ∧ (i ++ q ++ n ++ p).extractLsb' 17 7 = n ∧ (i ++ q ++ n ++ p).extractLsb' 24 7 = q ∧
    (i ++ q ++ n ++ p).extractLsb' 31 1 = i :=
  ⟨BitVec.extractLsb'_append_eq_right, field_above_one rfl, field_above_two rfl, top_above_three rfl⟩
/-- MPROG (R280). -/
@[simp] theorem progWord_fields (p : BitVec 27) (i : BitVec 3) (c : BitVec 2) :
    (p ++ i ++ c).extractLsb' 0 2 = c ∧ (p ++ i ++ c).extractLsb' 2 3 = i ∧ (p ++ i ++ c).extractLsb' 5 27 = p :=
  ⟨BitVec.extractLsb'_append_eq_right, field_above_one rfl, top_above_two rfl⟩
/-- The stride and the bit above it (R283). -/
@[simp] theorem strideWord_fields (p : BitVec 5) (b : BitVec 1) (s : BitVec 10) :
    (p ++ b ++ s).extractLsb' 0 10 = s ∧ (p ++ b ++ s).extractLsb' 10 1 = b ∧ (p ++ b ++ s).extractLsb' 11 5 = p :=
  ⟨BitVec.extractLsb'_append_eq_right, field_above_one rfl, top_above_two rfl⟩
/-- Rows (R283). -/
@[simp] theorem rowsWord_fields (h : BitVec 15) (r : BitVec 6) (n : BitVec 6) (p : BitVec 5) :
    (h ++ r ++ n ++ p).extractLsb' 0 5 = p ∧ (h ++ r ++ n ++ p).extractLsb' 5 6 = n ∧ (h ++ r ++ n ++ p).extractLsb' 11 6 = r ∧
    (h ++ r ++ n ++ p).extractLsb' 17 15 = h :=
  ⟨BitVec.extractLsb'_append_eq_right, field_above_one rfl, field_above_two rfl, top_above_three rfl⟩
/-- IMODE and planes above the rows (R283). -/
@[simp] theorem streamHigh_fields (i : BitVec 1) (q : BitVec 7) (n : BitVec 7) :
    (i ++ q ++ n).extractLsb' 0 7 = n ∧ (i ++ q ++ n).extractLsb' 7 7 = q ∧ (i ++ q ++ n).extractLsb' 14 1 = i :=
  ⟨BitVec.extractLsb'_append_eq_right, field_above_one rfl, top_above_two rfl⟩
/-- The tag above the rows (R321). -/
@[simp] theorem gradHigh_fields (p : BitVec 9) (t : BitVec 6) :
    (p ++ t).extractLsb' 0 6 = t ∧ (p ++ t).extractLsb' 6 9 = p :=
  ⟨BitVec.extractLsb'_append_eq_right, top_above_one rfl⟩
/-- SC and tag of the accumulators (R291). -/
@[simp] theorem accMode_fields (c : BitVec 8) (p : BitVec 2) (t : BitVec 6) :
    (c ++ p ++ t).extractLsb' 0 6 = t ∧ (c ++ p ++ t).extractLsb' 6 2 = p ∧ (c ++ p ++ t).extractLsb' 8 8 = c :=
  ⟨BitVec.extractLsb'_append_eq_right, field_above_one rfl, top_above_two rfl⟩
/-- Rows of the accumulators (R291). -/
@[simp] theorem accRows_fields (r : BitVec 6) (n : BitVec 6) (s : BitVec 6) (l : BitVec 14) :
    (r ++ n ++ s ++ l).extractLsb' 0 14 = l ∧ (r ++ n ++ s ++ l).extractLsb' 14 6 = s ∧ (r ++ n ++ s ++ l).extractLsb' 20 6 = n ∧
    (r ++ n ++ s ++ l).extractLsb' 26 6 = r :=
  ⟨BitVec.extractLsb'_append_eq_right, field_above_one rfl, field_above_two rfl, top_above_three rfl⟩
/-- Mode and format of ACST (R291). -/
@[simp] theorem accFmt_fields (i : BitVec 1) (r : BitVec 4) (p : BitVec 1) (f : BitVec 8) :
    (i ++ r ++ p ++ f).extractLsb' 0 8 = f ∧ (i ++ r ++ p ++ f).extractLsb' 8 1 = p ∧ (i ++ r ++ p ++ f).extractLsb' 9 4 = r ∧
    (i ++ r ++ p ++ f).extractLsb' 13 1 = i :=
  ⟨BitVec.extractLsb'_append_eq_right, field_above_one rfl, field_above_two rfl, top_above_three rfl⟩
/-- MGANG (R300). -/
@[simp] theorem gangWord_fields (i : BitVec 1) (q : BitVec 7) (n : BitVec 7) (r : BitVec 6) (p : BitVec 11) :
    (i ++ q ++ n ++ r ++ p).extractLsb' 0 11 = p ∧ (i ++ q ++ n ++ r ++ p).extractLsb' 11 6 = r ∧
    (i ++ q ++ n ++ r ++ p).extractLsb' 17 7 = n ∧ (i ++ q ++ n ++ r ++ p).extractLsb' 24 7 = q ∧
    (i ++ q ++ n ++ r ++ p).extractLsb' 31 1 = i :=
  ⟨BitVec.extractLsb'_append_eq_right, field_above_one rfl, field_above_two rfl, field_above_three rfl, top_above_four rfl⟩
/-- Knots (R316). -/
@[simp] theorem knotWord_fields (k : BitVec 4) (n : BitVec 4) (p : BitVec 24) :
    (k ++ n ++ p).extractLsb' 0 24 = p ∧ (k ++ n ++ p).extractLsb' 24 4 = n ∧ (k ++ n ++ p).extractLsb' 28 4 = k :=
  ⟨BitVec.extractLsb'_append_eq_right, field_above_one rfl, top_above_two rfl⟩
/-- Flags of the tree unit (R343, R344, R347). -/
@[simp] theorem treeFlags_fields (p : BitVec 14) (b : BitVec 1) (a : BitVec 1) :
    (p ++ b ++ a).extractLsb' 0 1 = a ∧ (p ++ b ++ a).extractLsb' 1 1 = b ∧ (p ++ b ++ a).extractLsb' 2 14 = p :=
  ⟨BitVec.extractLsb'_append_eq_right, field_above_one rfl, top_above_two rfl⟩
@[simp] theorem treeFlag_fields (p : BitVec 15) (a : BitVec 1) :
    (p ++ a).extractLsb' 0 1 = a ∧ (p ++ a).extractLsb' 1 15 = p :=
  ⟨BitVec.extractLsb'_append_eq_right, top_above_one rfl⟩

/-! Fields of a field, and zeros that cross one. -/
section
variable {s k m a b c : Nat}
@[simp] theorem rowsWord_above (h : BitVec 15) (r n : BitVec 6) (p : BitVec 5) (hs : 17 ≤ s) :
    (h ++ r ++ n ++ p).extractLsb' s k = h.extractLsb' (s - 17) k := by
  refine (BitVec.extractLsb'_append_eq_of_le (by omega)).trans ((BitVec.extractLsb'_append_eq_of_le (by omega)).trans ?_)
  exact (BitVec.extractLsb'_append_eq_of_le (by omega)).trans (congrArg (h.extractLsb' · k) (by omega))
@[simp] theorem accRows_below (r n t : BitVec 6) (l : BitVec 14) (hs : s + k ≤ 14) :
    (r ++ n ++ t ++ l).extractLsb' s k = l.extractLsb' s k := BitVec.extractLsb'_append_eq_of_add_le hs
theorem zeros_below (x : BitVec m) (h : k = a + b) : (x ++ 0#a ++ 0#b).extractLsb' 0 k = 0#k := by
  ext i hi
  simp only [BitVec.getElem_extractLsb', BitVec.getLsbD_append]
  simp; grind
end
@[simp] theorem accRows_zeros (r n : BitVec 6) : (r ++ n ++ 0#6 ++ 0#14).extractLsb' 0 20 = 0#20 := zeros_below (r ++ n) rfl
@[simp] theorem fillBits (f : BitVec 2) : (0#12 ++ f).extractLsb' 0 2 = f ∧ (0#12 ++ f).extractLsb' 2 12 = 0 :=
  ⟨BitVec.extractLsb'_append_eq_right, top_above_one rfl⟩
@[simp] theorem accRows_fill (r n : BitVec 6) {l : BitVec 14} (h : l.extractLsb' 2 12 = 0) : (r ++ n ++ 0#6 ++ l).extractLsb' 2 18 = 0#18
    := by
  ext k hk
  have hl : (l.extractLsb' 2 12).getLsbD k = false := by rw [h]; simp
  simp only [BitVec.getElem_extractLsb', BitVec.getLsbD_append]
  simp at hl ⊢
  grind
@[simp] theorem gradHigh_zeros (t : BitVec 6) : (0#9 ++ t).extractLsb' 6 1 = 0 ∧ (0#9 ++ t).extractLsb' 7 8 = 0 :=
  ⟨(BitVec.extractLsb'_append_eq_of_le (by decide)).trans rfl, (BitVec.extractLsb'_append_eq_of_le (by decide)).trans rfl⟩
@[simp] theorem accTag_fields (t : BitVec 6) :
    (0#10 ++ t).extractLsb' 0 6 = t ∧ (0#10 ++ t).extractLsb' 6 2 = 0 ∧ (0#10 ++ t).extractLsb' 8 8 = 0 := accMode_fields 0#8 0#2 t
@[simp] theorem knotWord_zeros (k n : BitVec 4) :
    (k ++ n ++ 0#24).extractLsb' 0 5 = 0 ∧ (k ++ n ++ 0#24).extractLsb' 23 1 = 0 :=
  ⟨BitVec.extractLsb'_append_eq_of_add_le (by decide), BitVec.extractLsb'_append_eq_of_add_le (by decide)⟩
@[simp] theorem vecFmt_on (f : BitVec 8) : (0#23 ++ 1#1 ++ f).extractLsb' 8 24 = 1#24 := top_above_one (x := 1#24) rfl

/-! The CTL word (R224), and the packed words that are named. -/
@[simp] theorem ctlOf_ctlBits (c : Ctl) : ctlOf (ctlBits c) = c := by
  have hentry : (ctlBits c).extractLsb' 0 10 = c.entry := BitVec.extractLsb'_append_eq_right
  have hvc : (ctlBits c).extractLsb' 10 4 = c.vc := field_above_one rfl
  have hlen : (ctlBits c).extractLsb' 14 4 = c.len := field_above_two rfl
  have hnsucc : (ctlBits c).extractLsb' 18 3 = c.nsucc := field_above_three rfl
  have hnarrow : (ctlBits c).extractLsb' 21 1 = bit1 c.narrow := field_above_four rfl
  have hnamed : (ctlBits c).extractLsb' 22 1 = bit1 c.named :=
    (BitVec.extractLsb'_append_eq_of_le (by decide)).trans (field_above_four rfl)
  simp [ctlOf, hentry, hvc, hlen, hnsucc, hnarrow, hnamed]
@[simp] theorem ctlBits_pad (c : Ctl) : (ctlBits c).extractLsb' 23 9 = 0 :=
  (BitVec.extractLsb'_append_eq_of_le (by decide)).trans (top_above_five rfl)

/-! ### Reading an encoding back, form by form (O56) -/

/-- The words decode to the instruction, whatever words follow them. -/
def Decodes (ws : List IWord) (i : Instr) : Prop := ∀ rest, readWords (ws ++ rest) = .ok i

/-- A well-formed instruction whose unused fields are zero is answered (R174 step 5). -/
theorem fin_eq_ok {r : Except DecodeErr Instr} {ok : Bool} {i j : Instr} (h : r = fin ok j) (hj : ok = true ∧ j = i) (hw : i.wf = true) :
    r = .ok i := by
  rw [h, hj.1, hj.2, fin, hw]; rfl

section Forms
variable {w : IWord} {v : Word} {maj : BitVec 6} {fn : BitVec 9} {gd : Guard} {d a b : BitVec 5} {m : BitVec 16} {sub : BitVec 2}
    {e c : BitVec 5}
  {i : BitVec 32} {imm : BitVec 14} {ok : Bool} {j k : Instr}

theorem decodes_word (hl : wL w = 0) (hm : majorOk (wMaj w) = true) (hp : permits (wMaj w) 0 = true) (hd : decodeShort w none = fin ok k)
    (hj : ok = true ∧ k = j) (hw : j.wf = true) : Decodes [w] j :=
  fun _ => (decode_short _ _ _ _ _ hl hm hp).trans (fin_eq_ok hd hj hw)
theorem decodes_rWord (hm : majorOk maj = true) (hp : permits maj 0 = true) (hd : decodeShort (rWord maj 0 fn d a b) none = fin ok k)
    (hj : ok = true ∧ k = j) (hw : j.wf = true) : Decodes [rWord maj 0 fn d a b] j :=
  decodes_word (by simp) (by simpa using hm) (by simpa using hp) hd hj hw
theorem decodes_iWord (hm : majorOk maj = true) (hp : permits maj 0 = true) (hd : decodeShort (iWord maj 0 d a imm) none = fin ok k)
    (hj : ok = true ∧ k = j) (hw : j.wf = true) : Decodes [iWord maj 0 d a imm] j :=
  decodes_word (by simp) (by simpa using hm) (by simpa using hp) hd hj hw
theorem decodes_literal (hl : wL w = 1) (hm : majorOk (wMaj w) = true) (hp : permits (wMaj w) 1 = true)
    (hd : decodeShort w (some v) = fin ok k) (hj : ok = true ∧ k = j) (hw : j.wf = true) : Decodes (w :: litWords v) j :=
  fun _ => (decode_literal _ _ _ _ _ hl hm hp).trans ((congrArg (decodeShort w) (congrArg some (literal_halves v))).trans
      (fin_eq_ok hd hj hw))
theorem decodes_xf (hm : majorOk maj = true) (hp : permits maj 2 = true)
    (hd : decodeX maj.toNat ⟨fn, b, a, d, m, gd, sub, e, c, i, none⟩ = fin ok k) (hj : ok = true ∧ k = j) (hw : j.wf = true) :
    Decodes (xf maj fn gd d a b m sub e c i) j := fun _ => by
  rw [← fin_eq_ok hd hj hw]
  refine (decode_long _ _ _ _ _ (by simp [xf]) (by simpa [xf] using hm) (by simpa [xf] using hp)).trans ?_
  exact congrArg₂ decodeX (by simp [xf]) (XF.of_xf _ _ _ _ _ _ _ _ _ _ _ _ _)
/-- The same where no field is left to the operands. -/
theorem decodes_xfFixed (hm : majorOk maj = true) (hp : permits maj 2 = true)
    (hd : decodeX maj.toNat ⟨fn, b, a, d, m, gd, sub, e, c, i, none⟩ = fin true j) (hw : j.wf = true) :
    Decodes (xf maj fn gd d a b m sub e c i) j := decodes_xf hm hp hd ⟨rfl, rfl⟩ hw
theorem decodes_xl (hm : majorOk maj = true) (hp : permits maj 3 = true)
    (hd : decodeX maj.toNat ⟨fn, b, a, d, m, gd, sub, e, c, i, some v⟩ = fin ok k) (hj : ok = true ∧ k = j) (hw : j.wf = true) :
    Decodes (xl maj fn gd d a b m sub e c i v) j := fun _ => by
  rw [← fin_eq_ok hd hj hw]
  refine (decode_long_literal _ _ _ _ _ (by simp [xl]) (by simpa [xl] using hm) (by simpa [xl] using hp)).trans ?_
  exact congrArg₂ decodeX (by simp [xl]) (XF.of_xl _ _ _ _ _ _ _ _ _ _ _ _)
end Forms

/-! The majors of the 32-bit forms: which sub-decoder reads a word (R173). -/
section Majors
variable {w : IWord} {l : Option Word} {m : BitVec 6}

theorem decodeShort_alu {op : AluOp} (h : wMaj w = 0x01) (ho : AluOp.ofFn (wFn w) = some op) :
    decodeShort w none = fin ((!op.isUnary || wB w == 0) && (!op.isCmp || is3 (wD w))) (aluInstr op (wD w) (wA w) (wB w)) := by
  unfold decodeShort; dsimp only; rw [h, ho]; rfl
theorem decodeShort_fp {op : FpOp} (h : wMaj w = 0x09) (ho : FpOp.ofCode ((wFn w).extractLsb' 3 6) = some op)
    (hz : (wFn w).extractLsb' 2 1 = 0) : decodeShort w none =
      fin ((!op.isUnary || wB w == 0) && (!op.isCmp || is3 (wD w))) (fpInstr op ((wFn w).extractLsb' 0 2) (wD w) (wA w) (wB w)) := by
  unfold decodeShort; dsimp only; rw [h, ho, hz]; rfl
theorem decodeShort_cvt {u v : FpCode} (h : wMaj w = 0x0A) (hc : decodeCvt (wFn w) = some (false, u, v)) :
    decodeShort w none = fin (wB w == 0) (.fcvt u v (wD w) (wA w)) := by
  unfold decodeShort; dsimp only; rw [h, hc]; rfl
theorem decodeShort_round {u v : FpCode} (h : wMaj w = 0x0A) (hc : decodeCvt (wFn w) = some (true, u, v)) :
    decodeShort w none = fin (wB w == 0 && u == v) (.fround v (wD w) (wA w)) := by
  unfold decodeShort; dsimp only; rw [h, hc]; rfl
theorem decodeShort_fence (h : wMaj w = 0x1C) (hl : wFn w ≠ 8) (hf : (wFn w).toNat < 6) :
    decodeShort w none = fin (wD w == 0 && wA w == 0 && wB w == 0) (.fence ((wFn w).extractLsb' 0 3)) := by
  unfold decodeShort; dsimp only; rw [h]; exact (if_neg hl).trans (if_pos hf)
theorem decodeShort_shift (h : wMaj w = 0x06) : decodeShort w none = decodeShiftImm (wD w) (wA w) (wImm14 w) := by
  unfold decodeShort; rw [h]; rfl
theorem decodeShort_cmp (h : wMaj w = 0x07) : decodeShort w none = decodeCmpImm (wD w) (wA w) (wImm14 w) := by
  unfold decodeShort; rw [h]; rfl
theorem decodeShort_jump (h : wMaj w = 0x0C) : decodeShort w none = decodeJump (wFn w) (wD w) (wA w) (wB w) := by
  unfold decodeShort; rw [h]; rfl
theorem decodeShort_pred (h : wMaj w = 0x0F) : decodeShort w none = decodePred (wFn w) (wD w) (wA w) (wB w) := by
  unfold decodeShort; rw [h]; rfl
theorem decodeShort_csr (h : wMaj w = 0x16) : decodeShort w none = decodeCsr (wD w) (wA w) (wImm14 w) := by
  unfold decodeShort; rw [h]; rfl
theorem decodeShort_tag (h : wMaj w = 0x1B) : decodeShort w l = decodeTag (wFn w) (wD w) (wA w) (wB w) l := by
  unfold decodeShort; rw [h]; rfl
theorem decodeShort_sys (h : wMaj w = 0x1D) : decodeShort w none = decodeSys (wFn w) (wD w) (wA w) (wB w) := by
  unfold decodeShort; rw [h]; rfl
theorem decodeShort_vec (h : wMaj w = m) (hm : m ∈ [0x20, 0x21, 0x22, 0x24, 0x25, 0x27, 0x28]) :
    decodeShort w none = decodeVecR m.toNat (wFn w) (wD w) (wA w) (wB w) := by
  unfold decodeShort
  rw [h]
  fin_cases hm <;> rfl
end Majors

/-! R and I forms by major. -/
section
variable {maj : BitVec 6} {fn : BitVec 9} {d a b : BitVec 5} {imm : BitVec 14} {f : BitVec 2} {v : Word} {ok : Bool} {j k : Instr}

theorem decodes_alu {op : AluOp} (hk : ((!op.isUnary || b == 0) && (!op.isCmp || is3 d)) = true ∧ aluInstr op d a b = j)
    (hw : j.wf = true) :
    Decodes (encAlu op d a b) j :=
  decodes_rWord rfl rfl (decodeShort_alu (op := op) (by simp) (by simp)) (by simpa using hk) hw
theorem decodes_fp {op : FpOp} (hk : ((!op.isUnary || b == 0) && (!op.isCmp || is3 d)) = true ∧ fpInstr op f d a b = j) (hw : j.wf = true) :
    Decodes (encFp op f d a b) j :=
  decodes_rWord rfl rfl (decodeShort_fp (op := op) (by simp) (by simp) (by simp)) (by simpa using hk) hw
@[simp] theorem decodeCvt_code (r : BitVec 1) (u v : FpCode) : decodeCvt (r ++ u.code ++ v.code) = some (r == 1, u, v) := by
  simp [decodeCvt]
theorem decodes_shift (hd : decodeShiftImm d a imm = fin ok k) (hk : ok = true ∧ k = j) (hw : j.wf = true) : Decodes
    [iWord 0x06 0 d a imm] j :=
  decodes_iWord rfl rfl ((decodeShort_shift (by simp)).trans (by simpa using hd)) hk hw
theorem decodes_cmp (hd : decodeCmpImm d a imm = fin ok k) (hk : ok = true ∧ k = j) (hw : j.wf = true) : Decodes [iWord 0x07 0 d a imm] j :=
  decodes_iWord rfl rfl ((decodeShort_cmp (by simp)).trans (by simpa using hd)) hk hw
theorem decodes_csr (hd : decodeCsr d a imm = fin ok k) (hk : ok = true ∧ k = j) (hw : j.wf = true) : Decodes [iWord 0x16 0 d a imm] j :=
  decodes_iWord rfl rfl ((decodeShort_csr (by simp)).trans (by simpa using hd)) hk hw
theorem decodes_jump (hd : decodeJump fn d a b = fin ok k) (hk : ok = true ∧ k = j) (hw : j.wf = true) : Decodes [rWord 0x0C 0 fn d a b] j
    :=
  decodes_rWord rfl rfl ((decodeShort_jump (by simp)).trans (by simpa using hd)) hk hw
theorem decodes_pred (hd : decodePred fn d a b = fin ok k) (hk : ok = true ∧ k = j) (hw : j.wf = true) : Decodes [rWord 0x0F 0 fn d a b] j
    :=
  decodes_rWord rfl rfl ((decodeShort_pred (by simp)).trans (by simpa using hd)) hk hw
theorem decodes_tag (hd : decodeTag fn d a 0 none = fin ok k) (hk : ok = true ∧ k = j) (hw : j.wf = true) : Decodes (encTag fn d a) j :=
  decodes_rWord rfl rfl ((decodeShort_tag (by simp)).trans (by simpa using hd)) hk hw
theorem decodes_tagLit (hd : decodeTag fn d 0 0 (some v) = fin ok k) (hk : ok = true ∧ k = j) (hw : j.wf = true) : Decodes
    (encTagLit fn d v) j :=
  decodes_literal (by simp) (by simp; rfl) (by simp; rfl) ((decodeShort_tag (by simp)).trans (by simpa using hd)) hk hw
theorem decodes_sys (hd : decodeSys fn d a b = fin ok k) (hk : ok = true ∧ k = j) (hw : j.wf = true) : Decodes [rWord 0x1D 0 fn d a b] j :=
  decodes_rWord rfl rfl ((decodeShort_sys (by simp)).trans (by simpa using hd)) hk hw
theorem decodes_vecR (hm : maj ∈ [0x20, 0x21, 0x22, 0x24, 0x25, 0x27, 0x28]) (hd : decodeVecR maj.toNat fn d a b = fin ok k)
    (hk : ok = true ∧ k = j) (hw : j.wf = true) : Decodes [rWord maj 0 fn d a b] j := by
  have hmaj : majorOk maj = true ∧ permits maj 0 = true := by fin_cases hm <;> exact ⟨rfl, rfl⟩
  exact decodes_rWord hmaj.1 hmaj.2 ((decodeShort_vec (by simp) hm).trans (by simpa using hd)) hk hw
end

section
variable {d a : BitVec 5} {i : BitVec 14} {maj : BitVec 6} {sz : BitVec 3} {off : BitVec 11} {v : Word} {ok : Bool} {j k : Instr}

theorem decodes_mWord (hm : majorOk maj = true) (hp : permits maj 0 = true) (hd : decodeShort (mWord maj sz d a off) none = fin ok k)
    (hj : ok = true ∧ k = j) (hw : j.wf = true) : Decodes [mWord maj sz d a off] j :=
  decodes_word (by simp) (by simpa using hm) (by simpa using hp) hd hj hw
theorem decodes_iLiteral (hm : majorOk maj = true) (hp : permits maj 1 = true) (hd : decodeShort (iWord maj 1 d a i) (some v) = fin ok k)
    (hj : ok = true ∧ k = j) (hw : j.wf = true) : Decodes (iWord maj 1 d a i :: litWords v) j :=
  decodes_literal (by simp) (by simpa using hm) (by simpa using hp) hd hj hw
theorem decodes_encSh {op : BitVec 2} {n : BitVec 6}
    (hj : (if op = 0 then .slli d a n else if op = 1 then .srli d a n else if op = 2 then .srai d a n else .rori d a n) = j)
    (hw : j.wf = true) : Decodes (encSh op d a n) j :=
  decodes_shift rfl (by simpa using hj) hw
end

/-! Control transfers (R202). -/
section
variable {p : BitVec 3} {neg hint : Bool} {off : BitVec 19} {t : BitVec 24} {l s c x : BitVec 4}

@[simp] theorem brWord_fields (off : BitVec 19) (h n : BitVec 1) (p : BitVec 3) (m : BitVec 6) (l : BitVec 2) :
    wL (off ++ h ++ n ++ p ++ m ++ l) = l ∧ wMaj (off ++ h ++ n ++ p ++ m ++ l) = m ∧
    (off ++ h ++ n ++ p ++ m ++ l).extractLsb' 8 3 = p ∧ (off ++ h ++ n ++ p ++ m ++ l).extractLsb' 11 1 = n ∧
    (off ++ h ++ n ++ p ++ m ++ l).extractLsb' 12 1 = h ∧ (off ++ h ++ n ++ p ++ m ++ l).extractLsb' 13 19 = off :=
  ⟨BitVec.extractLsb'_append_eq_right, field_above_one rfl, field_above_two rfl, field_above_three rfl, field_above_four rfl,
    top_above_five rfl⟩
@[simp] theorem jumpWord_fields (t : BitVec 24) (m : BitVec 6) (l : BitVec 2) :
    wL (t ++ m ++ l) = l ∧ wMaj (t ++ m ++ l) = m ∧ (t ++ m ++ l).extractLsb' 8 24 = t :=
  ⟨BitVec.extractLsb'_append_eq_right, field_above_one rfl, top_above_two rfl⟩
@[simp] theorem waitcWord_fields (z : BitVec 8) (x c s l : BitVec 4) (m : BitVec 6) (n : BitVec 2) :
    wL (z ++ x ++ c ++ s ++ l ++ m ++ n) = n ∧ wMaj (z ++ x ++ c ++ s ++ l ++ m ++ n) = m ∧
    (z ++ x ++ c ++ s ++ l ++ m ++ n).extractLsb' 8 4 = l ∧ (z ++ x ++ c ++ s ++ l ++ m ++ n).extractLsb' 12 4 = s ∧
    (z ++ x ++ c ++ s ++ l ++ m ++ n).extractLsb' 16 4 = c ∧ (z ++ x ++ c ++ s ++ l ++ m ++ n).extractLsb' 20 4 = x ∧
    (z ++ x ++ c ++ s ++ l ++ m ++ n).extractLsb' 24 8 = z :=
  ⟨BitVec.extractLsb'_append_eq_right, field_above_one rfl, field_above_two rfl, field_above_three rfl, field_above_four rfl,
    (BitVec.extractLsb'_append_eq_of_le (by decide)).trans (field_above_four rfl),
    (BitVec.extractLsb'_append_eq_of_le (by decide)).trans (top_above_five rfl)⟩

theorem decodes_br : Decodes (encode (.br p neg hint off)) (.br p neg hint off) := by
  obtain ⟨hl, hm, hp, hn, hh, ho⟩ := brWord_fields off (bit1 hint) (bit1 neg) p 0x0B#6 0#2
  exact decodes_word hl (by rw [hm]; rfl) (by rw [hm]; rfl) (by unfold decodeShort; rw [hm]; rfl) (by rw [hp, hn, hh, ho]; simp) rfl
theorem decodes_jmp : Decodes (encode (.jmp t)) (.jmp t) := by
  obtain ⟨hl, hm, ht⟩ := jumpWord_fields t 0x0E#6 0#2
  exact decodes_word hl (by rw [hm]; rfl) (by rw [hm]; rfl) (by unfold decodeShort; rw [hm]; rfl) (by rw [ht]; simp) rfl
theorem decodes_call : Decodes (encode (.call t)) (.call t) := by
  obtain ⟨hl, hm, ht⟩ := jumpWord_fields t 0x0D#6 0#2
  exact decodes_word hl (by rw [hm]; rfl) (by rw [hm]; rfl) (by unfold decodeShort; rw [hm]; rfl) (by rw [ht]; simp) rfl
theorem decodes_waitc : Decodes (encode (.waitc l s c x)) (.waitc l s c x) := by
  obtain ⟨hl, hm, h0, h1, h2, h3, hz⟩ := waitcWord_fields 0#8 x c s l 0x17#6 0#2
  exact decodes_word hl (by rw [hm]; rfl) (by rw [hm]; rfl) (by unfold decodeShort; rw [hm]; rfl) (by rw [h0, h1, h2, h3, hz]; simp) rfl
end

/-! Fences, and the count of a LOOP (R206, R238). -/
@[simp] theorem loopCount_halves (n : BitVec 10) : n.extractLsb' 5 5 ++ n.extractLsb' 0 5 = n := by
  ext k hk; simp; grind
theorem decodeShort_loopf {w : IWord} (h : wMaj w = 0x1C) (hf : wFn w = 8) :
    decodeShort w none = fin (wD w == 0 && wA w == 0 && wB w == 0) .loopf := by
  unfold decodeShort; dsimp only; rw [h]; exact if_pos hf
theorem fenceFn_lt (s : BitVec 3) (h : s.toNat < 6) : (0#6 ++ s : BitVec 9) ≠ 8 ∧ (0#6 ++ s : BitVec 9).toNat < 6 := by
  revert s; decide
theorem decodes_fence {s : BitVec 3} (hw : (Instr.fence s).wf = true) : Decodes (encode (.fence s)) (.fence s) := by
  obtain ⟨hl, hf⟩ := fenceFn_lt s (by simpa [Instr.wf] using hw)
  exact decodes_rWord rfl rfl (decodeShort_fence (by simp) (by simpa using hl) (by simpa using hf)) (by simp) hw

/-! ### X forms (O56)

An operand that is a register or a literal, and an offset or a base that is one, has its place in the form: the field and the literal. -/

def RegLit.field : RegLit → BitVec 5
  | .reg r => r
  | .lit _ => 0
def RegLit.literal : RegLit → Option Word
  | .reg _ => none
  | .lit v => some v
def DevOff.field : DevOff → BitVec 32
  | .imm i => i
  | .lit _ => 0
def DevOff.literal : DevOff → Option Word
  | .imm _ => none
  | .lit v => some v

section
variable {maj : BitVec 6} {fn : BitVec 9} {gd : Guard} {d a b c e : BitVec 5} {m : BitVec 16} {sub : BitVec 2} {i : BitVec 32}
  {ok : Bool} {j k : Instr} {lit : Option Word} {f : BitVec 2}

/-! Integer (R189). -/

theorem AluOp.fn_ne_sel (op : AluOp) : op.fn ≠ 0x40 := by cases op <;> decide
theorem decodeX_alu {y : XF} {op : AluOp} {s : Src2} (h : y.imm16 = 0 ∧ y.e = 0) (hs : src2Of y = some s) (hf : y.fn = op.fn) :
    decodeX 0x01 y = fin (y.c == 0) (.integerAluXForm op y.gd y.d y.a s) := by
  simp only [decodeX, if_pos h, hs, hf, if_neg op.fn_ne_sel, AluOp.ofFn_fn]
theorem decodes_aluX {op : AluOp} {s : Src2} (hw : (Instr.integerAluXForm op gd d a s).wf = true) :
    Decodes (encode (.integerAluXForm op gd d a s)) (.integerAluXForm op gd d a s) := by
  cases s with
  | reg b => exact decodes_xf rfl rfl (decodeX_alu ⟨rfl, rfl⟩ rfl rfl) (by simp) hw
  | imm i => exact decodes_xf rfl rfl (decodeX_alu ⟨rfl, rfl⟩ rfl rfl) (by simp) hw
theorem decodes_sel {s : Src2} {p : PReg} : Decodes (encode (.sel gd d a s p)) (.sel gd d a s p) := by
  cases s with
  | reg b => exact decodes_xf rfl rfl rfl (by simp) rfl
  | imm i => exact decodes_xf rfl rfl rfl (by simp) rfl

/-! Floating point (R196): the static mode, and operand b. -/

theorem fpXOf_mode {x : FpX} : fpXOf ⟨fn, b, a, d, (rmBits x.mode).setWidth 16, x.guard, 0, 0, c, 0, lit⟩ = some x := by
  simp [fpXOf]
theorem fpBOf_regLit {s : RegLit} : fpBOf ⟨fn, s.field, a, d, m, gd, sub, e, c, i, s.literal⟩ = some s := by
  cases s <;> rfl
theorem decodes_encFpX {code : BitVec 6} {x : FpX} {s : RegLit}
    (hd : decodeFpX ⟨code ++ 0#1 ++ f, s.field, a, d, (rmBits x.mode).setWidth 16,
    x.guard, 0, 0, c, 0, s.literal⟩ = fin ok k) (hj : ok = true ∧ k = j) (hw : j.wf = true) : Decodes (encFpX code x f d a s c) j := by
  cases s with
  | reg r => exact decodes_xf rfl rfl hd hj hw
  | lit v => exact decodes_xl rfl rfl hd hj hw

section
variable {y : XF} {x : FpX} {s : RegLit} (hz : y.fn.extractLsb' 2 1 = 0) (hx : fpXOf y = some x) (hb : fpBOf y = some s)
include hz hx hb
theorem decodeFpX_fma (hc : y.fn.extractLsb' 3 6 = 0x0A) : decodeFpX y = fin true (.fma x (y.fn.extractLsb' 0 2) y.d y.a s y.c) := by
  unfold decodeFpX; rw [hz, hx, hb, hc]; rfl
theorem decodeFpX_fms (hc : y.fn.extractLsb' 3 6 = 0x0B) : decodeFpX y = fin true (.fms x (y.fn.extractLsb' 0 2) y.d y.a s y.c) := by
  unfold decodeFpX; rw [hz, hx, hb, hc]; rfl
theorem decodeFpX_fnma (hc : y.fn.extractLsb' 3 6 = 0x0C) : decodeFpX y = fin true (.fnma x (y.fn.extractLsb' 0 2) y.d y.a s y.c) := by
  unfold decodeFpX; rw [hz, hx, hb, hc]; rfl
theorem decodeFpX_op {op : FpOp} (hc : y.fn.extractLsb' 3 6 = op.code) (hl : (op.isUnary && y.lit.isSome) = false) :
    decodeFpX y = fin (y.c == 0) (.fpAluXForm op x (y.fn.extractLsb' 0 2) y.d y.a s) := by
  unfold decodeFpX
  rw [hz, hx, hb, hc]
  calc _ = if op.isUnary && y.lit.isSome then .error .illegalLength
        else fin (y.c == 0) (.fpAluXForm op x (y.fn.extractLsb' 0 2) y.d y.a s) := by cases op <;> rfl
    _ = _ := by rw [hl]; rfl
end

/-- FMA, FMS and FNMA (R197). -/
theorem decodes_fused {code : BitVec 6} {x : FpX} {s : RegLit} {mk : BitVec 2 → BitVec 5 → BitVec 5 → BitVec 5 → Instr}
    (hd : ∀ y : XF, y.fn.extractLsb' 2 1 = 0 → fpXOf y = some x → fpBOf y = some s → y.fn.extractLsb' 3 6 = code →
      decodeFpX y = fin true (mk (y.fn.extractLsb' 0 2) y.d y.a y.c)) (hj : mk f d a c = j) (hw : j.wf = true) :
    Decodes (encFpX code x f d a s c) j := by
  obtain ⟨hf, hz, hc⟩ := fpFn_fields code 0#1 f
  exact decodes_encFpX (hd _ hz fpXOf_mode fpBOf_regLit hc) (by simpa using hj) hw
theorem decodes_fpAluX {op : FpOp} {x : FpX} {s : RegLit} (hw : (Instr.fpAluXForm op x f d a s).wf = true) :
    Decodes (encode (.fpAluXForm op x f d a s)) (.fpAluXForm op x f d a s) := by
  have hunary : (op.isUnary && s.literal.isSome) = false := by
    cases s with
    | reg r => simp [RegLit.literal]
    | lit v => simp_all [Instr.wf]
  exact decodes_encFpX (decodeFpX_op (by simp) fpXOf_mode fpBOf_regLit (by simp) hunary) (by simp) hw
theorem decodes_fpConvertX {u v : FpCode} {r : Bool} {x : FpX} (hw : (Instr.fpConvertXForm u v r x d a).wf = true) :
    Decodes (encode (.fpConvertXForm u v r x d a)) (.fpConvertXForm u v r x d a) := by
  refine decodes_xf rfl rfl (ok := true) (k := .fpConvertXForm u v (bit1 r == 1) x d a) ?_ (by simp) hw
  change (match decodeCvt _, fpXOf _ with | some (r, u, v), some fx => _ | none, _ => _ | _, none => _) = _
  rw [decodeCvt_code, fpXOf_mode]; rfl

/-! Local accesses (R210). -/

theorem decodes_ldX {sz : BitVec 3} {md : AddrMode} (hw : (Instr.ldXForm gd sz d a md).wf = true) :
    Decodes (encode (.ldXForm gd sz d a md)) (.ldXForm gd sz d a md) := by
  cases md <;> exact decodes_xf rfl rfl (by unfold decodeX; dsimp only; rw [(lowFn_fields 0#6 sz).2]; rfl) (by simp) hw
theorem decodes_stX {sz : BitVec 3} {md : AddrMode} (hw : (Instr.stXForm gd sz d a md).wf = true) :
    Decodes (encode (.stXForm gd sz d a md)) (.stXForm gd sz d a md) := by
  cases md <;> exact decodes_xf rfl rfl (by unfold decodeX; dsimp only; rw [(lowFn_fields 0#6 sz).2]; rfl) (by simp) hw
end

/-! Device operands (R214). -/

/-- The fields of a device operand: target, offset and registers. -/
def devXF (fn : BitVec 9) (gd : Guard) (t : Target) (off : DevOff) (d a b c : BitVec 5) : XF :=
  ⟨fn, b, a, d, (targetFields t).1, gd, (targetFields t).2.1, (targetFields t).2.2, c, off.field, off.literal⟩

section
variable {maj : BitVec 6} {fn : BitVec 9} {gd : Guard} {t : Target} {off : DevOff} {d a b c : BitVec 5} {ok : Bool} {j k : Instr}
    {s : SpaceSel}
  {x : DevArgs} {v : AmoArgs}

@[simp] theorem devOffOf_devXF : devOffOf (devXF fn gd t off d a b c) = some off := by cases off <;> rfl
@[simp] theorem targetOf_devXF : targetOf (devXF fn gd t off d a b c) (targetCode t) = some t := by
  rcases t with _ | _ | s
  · rfl
  · rfl
  · cases s <;> rfl
@[simp] theorem spaceOf_devXF : spaceOf (devXF fn gd (.ext s) off d a b c) = some s := by cases s <;> rfl
theorem decodes_encDevice (hm : majorOk maj = true) (hp : permits maj 2 = true ∧ permits maj 3 = true)
    (hd : decodeX maj.toNat (devXF fn gd t off d a b c) = fin ok k) (hj : ok = true ∧ k = j) (hw : j.wf = true) :
    Decodes (encDevice maj fn gd t off d a b c) j := by
  cases off with
  | imm i => exact decodes_xf hm hp.1 hd hj hw
  | lit v => exact decodes_xl hm hp.2 hd hj hw

/-- The function code of a device access that exists (R214, R216). -/
def DevFn (fn : BitVec 9) : Prop :=
  ¬ ((fn.extractLsb' 6 3).toNat ≥ 4 ∨ fn.extractLsb' 3 3 ≠ 0 ∨ (fn.extractLsb' 0 3 : BitVec 3) = 7 ∨
    (((fn.extractLsb' 6 3).toNat = 1 ∨ (fn.extractLsb' 6 3).toNat = 3) ∧ (fn.extractLsb' 0 3 : BitVec 3).toNat ≥ 4))
section
variable {kind : BitVec 3}
theorem devFn_of (hk : kind.toNat < 4) (h7 : x.sz ≠ 7) (h4 : kind.toNat = 1 ∨ kind.toNat = 3 → x.sz.toNat < 4) :
    DevFn (kind ++ 0#3 ++ x.sz) := by
  obtain ⟨hs, hz, hkind⟩ := devFn_fields kind 0#3 x.sz
  rw [DevFn, hs, hz, hkind]
  simp only [not_or, not_and]
  exact ⟨by omega, not_not_intro rfl, h7, fun h => by have := h4 h; omega⟩
theorem devFn_load (hk : kind.toNat = 0 ∨ kind.toNat = 2) (hs : (x.sz != 7) = true) : DevFn (kind ++ 0#3 ++ x.sz) :=
  devFn_of (by omega) (by simpa using hs) (by omega)
theorem devFn_store (hk : kind.toNat = 1 ∨ kind.toNat = 3) (hs : decide (x.sz.toNat < 4) = true) : DevFn (kind ++ 0#3 ++ x.sz) :=
  have hlt : x.sz.toNat < 4 := of_decide_eq_true hs
  devFn_of (by omega) (by bv_omega) (fun _ => hlt)
theorem decodeDev_of (h : DevFn (kind ++ 0#3 ++ x.sz)) :
    decodeDev (devXF (kind ++ 0#3 ++ x.sz) x.guard t x.off x.d x.a 0 0) =
      let y := devXF (kind ++ 0#3 ++ x.sz) x.guard t x.off x.d x.a 0 0
      match kind.toNat with
      | 0 => fin (y.sub == 0 && y.imm16 == 0 && y.e == 0) (.ldg x)
      | 1 => fin (y.sub == 0 && y.imm16 == 0 && y.e == 0) (.stg x)
      | 2 => match spaceOf y with | some s => fin true (.ldx x s) | none => .error .badField
      | _ => match spaceOf y with | some s => fin true (.stx x s) | none => .error .badField := by
  obtain ⟨hs, hz, hk⟩ := devFn_fields kind 0#3 x.sz
  have hsz : (devXF (kind ++ 0#3 ++ x.sz) x.guard t x.off x.d x.a 0 0).fn.extractLsb' 0 3 = x.sz := hs
  have hkind : (devXF (kind ++ 0#3 ++ x.sz) x.guard t x.off x.d x.a 0 0).fn.extractLsb' 6 3 = kind := hk
  exact (if_neg h).trans (by rw [devOffOf_devXF, hsz, hkind]; rfl)
theorem decodes_ldg (hw : (Instr.ldg x).wf = true) : Decodes (encode (.ldg x)) (.ldg x) :=
  decodes_encDevice rfl ⟨rfl, rfl⟩ (decodeDev_of (devFn_load (by decide) hw)) (by simp [devXF, targetFields]) hw
theorem decodes_stg (hw : (Instr.stg x).wf = true) : Decodes (encode (.stg x)) (.stg x) :=
  decodes_encDevice rfl ⟨rfl, rfl⟩ (decodeDev_of (devFn_store (by decide) hw)) (by simp [devXF, targetFields]) hw
theorem decodes_ldx (hw : (Instr.ldx x s).wf = true) : Decodes (encode (.ldx x s)) (.ldx x s) :=
  decodes_encDevice rfl ⟨rfl, rfl⟩ ((decodeDev_of (devFn_load (by decide) hw)).trans (by dsimp only; rw [spaceOf_devXF]; rfl)) (by simp) hw
theorem decodes_stx (hw : (Instr.stx x s).wf = true) : Decodes (encode (.stx x s)) (.stx x s) :=
  decodes_encDevice rfl ⟨rfl, rfl⟩ ((decodeDev_of (devFn_store (by decide) hw)).trans (by dsimp only; rw [spaceOf_devXF]; rfl)) (by simp) hw
end

/-! Atomics (R218, R222). -/

theorem targetCode_ne_three : targetCode t ≠ 3 := by rcases t with _ | _ | _ <;> simp [targetCode]
theorem amoArgsOf_devXF (ht : fn.extractLsb' 0 2 = targetCode v.tgt) (hv : fn.extractLsb' 2 1 = bit1 v.w) :
    amoArgsOf (devXF fn v.guard v.tgt v.off v.d v.a v.b c) = some v := by
  have htgt : targetOf (devXF fn v.guard v.tgt v.off v.d v.a v.b c) (fn.extractLsb' 0 2) = some v.tgt := by rw [ht, targetOf_devXF]
  have hwide : (fn.extractLsb' 2 1 == 1#1) = v.w := by rw [hv, bit1_eq_one]
  simp only [amoArgsOf, devOffOf_devXF]
  rw [show (devXF fn v.guard v.tgt v.off v.d v.a v.b c).fn = fn from rfl, htgt]
  simp [hwide, devXF]
theorem decodeAmo_of {y : XF} {op : AmoOp} (ho : y.fn.extractLsb' 4 5 = op.code) (hz : y.fn.extractLsb' 3 1 = 0)
    (ht : y.fn.extractLsb' 0 2 = targetCode t) (hv : amoArgsOf y = some v) :
    decodeAmo y = fin (op == .cas || y.c == 0) (amoInstr op v y.c) := by
  have hc : ¬ (y.fn.extractLsb' 3 1 = 1 ∨ y.fn.extractLsb' 0 2 = 3) := by
    rw [hz, ht]; exact not_or.mpr ⟨by decide, targetCode_ne_three⟩
  unfold decodeAmo
  rw [ho, AmoOp.ofCode_code]
  exact (if_neg hc).trans (by rw [hv])
theorem decodes_encAmo {op : AmoOp} (hj : (op == .cas || c == 0) = true ∧ amoInstr op v c = j) (hw : j.wf = true) :
    Decodes (encAmo op v c) j := by
  obtain ⟨ht, hv, hz, ho⟩ := amoFn_fields op.code 0#1 (bit1 v.w) (targetCode v.tgt)
  exact decodes_encDevice rfl ⟨rfl, rfl⟩ (decodeAmo_of ho hz ht (amoArgsOf_devXF ht hv)) hj hw
theorem decodes_waitv : Decodes (encode (.waitv v c)) (.waitv v c) := by
  obtain ⟨ht, hv, hz⟩ := fpFn_fields 0#6 (bit1 v.w) (targetCode v.tgt)
  have hc : ¬ ((0#6 ++ bit1 v.w ++ targetCode v.tgt).extractLsb' 3 6 ≠ 0 ∨ (0#6 ++ bit1 v.w ++ targetCode v.tgt).extractLsb' 0 2 = 3) := by
    rw [hz, ht]; exact not_or.mpr ⟨by decide, targetCode_ne_three⟩
  exact decodes_encDevice rfl ⟨rfl, rfl⟩ ((if_neg hc).trans (by rw [amoArgsOf_devXF ht hv]; rfl)) ⟨rfl, rfl⟩ rfl
end

/-! ### Vector forms (O56) -/

section
variable {maj : BitVec 6} {fn : BitVec 9} {gd : Guard} {d a b c e : BitVec 5} {m : BitVec 16} {sub : BitVec 2} {i : BitVec 32}
  {ok : Bool} {j k : Instr} {lit : Option Word} {v : VX} {y : XF}

@[simp] theorem vecFmt_none : (0 : BitVec 32).extractLsb' 9 23 = 0 ∧ (0 : BitVec 32).extractLsb' 8 1 = 0 := by decide
@[simp] theorem vecFmtOn_fields (f : BitVec 8) :
    (1#24 ++ f).extractLsb' 0 8 = f ∧ (1#24 ++ f).extractLsb' 8 1 = 1 ∧ (1#24 ++ f).extractLsb' 9 23 = 0 := vecFmt_fields 0#23 1#1 f
/-- Words 1 and 2 give back what the X form adds (R252). -/
theorem vxOf_fields : vxOf ⟨fn, b, a, d, vxImm16 v, v.guard, sub, ext5 v.e, ext5 v.c, vxImm32 v, lit⟩ = some v := by
  rcases v with ⟨g, z, rm, e, c, _ | f⟩ <;> simp [vxOf, vxImm16, vxImm32]
theorem vsrcOf_v {r : VReg} : vsrcOf ⟨fn, ext5 r, a, d, m, gd, 0, e, c, i, lit⟩ = some (.v r) := by simp [vsrcOf]
theorem decodeX_vec (hm : maj ∈ [0x20, 0x21, 0x22, 0x24]) : decodeX maj.toNat y = decodeVecX maj.toNat y := by
  fin_cases hm <;> rfl

theorem decodeVecX_two {p : Bool × Instr} {s : VSrc} (h1 : vec1Instr maj.toNat y.fn.toNat none 0 0 = none)
    (h2 : vec2Instr maj.toNat y.fn.toNat none 0 0 (.v 0) = some p) (hv : vxOf y = some v) (hs : vsrcOf y = some s)
    (h : vec2Instr maj.toNat y.fn.toNat (some v) y.d (lo4 y.a) s = some (ok, k)) :
    decodeVecX maj.toNat y = fin (ok && is4 y.a) k := by
  simp only [decodeVecX, h1, h2, hv, hs, h]
theorem decodeVecX_one (h1 : vec1Instr maj.toNat y.fn.toNat none 0 0 = some j) (hv : vxOf y = some v)
    (h : vec1Instr maj.toNat y.fn.toNat (some v) (lo4 y.d) (lo4 y.a) = some k) :
    decodeVecX maj.toNat y = fin (is4 y.d && is4 y.a && y.b == 0 && y.sub == 0) k := by
  simp only [decodeVecX, h1, hv, h]

/-- Two sources (R255, R256): the same instruction from the R form and from the X form. -/
theorem decodes_vec2 {okd : BitVec 5 → Bool} {mk : Option VX → BitVec 5 → VReg → VSrc → Instr} {x : Option VX} {va : VReg} {s : VSrc}
    (hm : maj ∈ [0x20, 0x21, 0x22]) (h1 : vec1Instr maj.toNat fn.toNat none 0 0 = none)
    (h2 : ∀ x d a s, vec2Instr maj.toNat fn.toNat x d a s = some (okd d, mk x d a s))
    (hr : ∀ d a b, decodeVecR maj.toNat fn d a b = fin (okd d && is4 a && is4 b) (mk none d (lo4 a) (.v (lo4 b))))
    (hj : okd d = true ∧ mk x d va s = j) (hs : srcOk x s = true) (hw : j.wf = true) : Decodes (encVec2 maj fn x d (ext5 va) s) j := by
  have hmaj : majorOk maj = true ∧ permits maj 2 = true := by fin_cases hm <;> exact ⟨rfl, rfl⟩
  have hx : maj ∈ [0x20, 0x21, 0x22, 0x24] := by fin_cases hm <;> decide
  have hr7 : maj ∈ [0x20, 0x21, 0x22, 0x24, 0x25, 0x27, 0x28] := by fin_cases hm <;> decide
  match x, s with
  | none, .v r => exact decodes_vecR hr7 (hr _ _ _) (by simpa using hj) hw
  | none, .g r => exact absurd hs (by simp [srcOk])
  | some v, .v r =>
    exact decodes_xf hmaj.1 hmaj.2 ((decodeX_vec hx).trans (decodeVecX_two h1 (h2 _ _ _ _) vxOf_fields vsrcOf_v (h2 _ _ _ _)))
      (by simpa using hj) hw
  | some v, .g r =>
    exact decodes_xf hmaj.1 hmaj.2 ((decodeX_vec hx).trans (decodeVecX_two h1 (h2 _ _ _ _) vxOf_fields rfl (h2 _ _ _ _)))
      (by simpa using hj) hw
/-- One source (R255, R256, R262). -/
theorem decodes_vec1 {mk : Option VX → VReg → VReg → Instr} {x : Option VX} {vd va : VReg} (hm : maj ∈ [0x20, 0x21, 0x22, 0x24])
    (h1 : ∀ x d a, vec1Instr maj.toNat fn.toNat x d a = some (mk x d a))
    (hr : ∀ d a b, decodeVecR maj.toNat fn d a b = fin (is4 d && is4 a && b == 0) (mk none (lo4 d) (lo4 a)))
    (hj : mk x vd va = j) (hw : j.wf = true) : Decodes (encVec1 maj fn x (ext5 vd) (ext5 va) 0) j := by
  have hmaj : majorOk maj = true ∧ permits maj 2 = true := by fin_cases hm <;> exact ⟨rfl, rfl⟩
  have hr7 : maj ∈ [0x20, 0x21, 0x22, 0x24, 0x25, 0x27, 0x28] := by fin_cases hm <;> decide
  match x with
  | none => exact decodes_vecR hr7 (hr _ _ _) (by simpa using hj) hw
  | some v =>
    exact decodes_xf hmaj.1 hmaj.2 ((decodeX_vec hm).trans (decodeVecX_one (h1 _ _ _) vxOf_fields (h1 _ _ _))) (by simpa using hj) hw

/-! Permutes, conversions, memory, random numbers and moments. -/

theorem decodeVecX_perm (hf : y.fn = 8) (hv : vxOf y = some v) : decodeVecX 0x24 y =
    fin (is4 y.d && is4 y.a && is4 y.b && y.sub == 0) (.vperm (some v) (lo4 y.d) (lo4 y.a) (lo4 y.b)) := by
  unfold decodeVecX; rw [hf, hv]; rfl
theorem decodeVecX_slup (hf : y.fn = 9) (hv : vxOf y = some v) : decodeVecX 0x24 y =
    fin (is4 y.d && is4 y.a && y.sub == 0) (.vslup (some v) (lo4 y.d) (lo4 y.a) y.b) := by
  unfold decodeVecX; rw [hf, hv]; rfl
theorem decodeVecX_sldn (hf : y.fn = 0xA) (hv : vxOf y = some v) : decodeVecX 0x24 y =
    fin (is4 y.d && is4 y.a && y.sub == 0) (.vsldn (some v) (lo4 y.d) (lo4 y.a) y.b) := by
  unfold decodeVecX; rw [hf, hv]; rfl
theorem decodes_vperm {x : Option VX} {vd va vb : VReg} (hw : (Instr.vperm x vd va vb).wf = true) :
    Decodes (encode (.vperm x vd va vb)) (.vperm x vd va vb) := by
  cases x with
  | none => exact decodes_vecR (by decide) rfl (by simp) hw
  | some v => exact decodes_xf rfl rfl ((decodeX_vec (by decide)).trans (decodeVecX_perm rfl vxOf_fields)) (by simp) hw
theorem decodes_vslup {x : Option VX} {vd va : VReg} (hw : (Instr.vslup x vd va b).wf = true) :
    Decodes (encode (.vslup x vd va b)) (.vslup x vd va b) := by
  cases x with
  | none => exact decodes_vecR (by decide) rfl (by simp) hw
  | some v => exact decodes_xf rfl rfl ((decodeX_vec (by decide)).trans (decodeVecX_slup rfl vxOf_fields)) (by simp) hw
theorem decodes_vsldn {x : Option VX} {vd va : VReg} (hw : (Instr.vsldn x vd va b).wf = true) :
    Decodes (encode (.vsldn x vd va b)) (.vsldn x vd va b) := by
  cases x with
  | none => exact decodes_vecR (by decide) rfl (by simp) hw
  | some v => exact decodes_xf rfl rfl ((decodeX_vec (by decide)).trans (decodeVecX_sldn rfl vxOf_fields)) (by simp) hw

section
variable {rm : Option RMode} {f : Fmt} {vd va ve : VReg} {s : RegLit} {x : Option Guard}

theorem decodes_vcvt {part : BitVec 3} (hw : (Instr.vcvt gd rm vd va part f).wf = true) :
    Decodes (encode (.vcvt gd rm vd va part f)) (.vcvt gd rm vd va part f) :=
  decodes_xf rfl rfl (by
    change decodeVecCvt _ = _
    unfold decodeVecCvt
    rw [low_setWidth (by decide), rmOf_rmBits, (partFmt_fields _ _ _).1, Fmt.ofCode_code]
    rfl) (by simp) hw
theorem decodes_vqnt {xv : Bool} (hw : (Instr.vqnt gd rm vd va xv f).wf = true) :
    Decodes (encode (.vqnt gd rm vd va xv f)) (.vqnt gd rm vd va xv f) :=
  decodes_xf rfl rfl (by
    change decodeVecCvt _ = _
    unfold decodeVecCvt
    rw [low_setWidth (by decide), rmOf_rmBits, (qntFmt_fields _ _ _ _).1, Fmt.ofCode_code]
    rfl) (by simp) hw
theorem decodes_vdqnt (hw : (Instr.vdqnt gd rm vd va f).wf = true) :
    Decodes (encode (.vdqnt gd rm vd va f)) (.vdqnt gd rm vd va f) :=
  decodes_xf rfl rfl (by
    change decodeVecCvt _ = _
    unfold decodeVecCvt
    rw [low_setWidth (by decide), rmOf_rmBits, low_setWidth (by decide), Fmt.ofCode_code]
    rfl) (by simp) hw
theorem decodes_vld {x : Option VMemX} (hw : (Instr.vld x vd a b).wf = true) :
    Decodes (encode (.vld x vd a b)) (.vld x vd a b) := by
  match x with
  | none => exact decodes_vecR (by decide) rfl (by simp) hw
  | some ⟨_, _, _, _, none⟩ | some ⟨_, _, _, _, some _⟩ => exact decodes_xf rfl rfl rfl (by simp [encDsc]) hw
theorem decodes_vst {x : Option VMemX} (hw : (Instr.vst x vd a b).wf = true) :
    Decodes (encode (.vst x vd a b)) (.vst x vd a b) := by
  match x with
  | none => exact decodes_vecR (by decide) rfl (by simp) hw
  | some ⟨_, _, _, _, none⟩ | some ⟨_, _, _, _, some _⟩ => exact decodes_xf rfl rfl rfl (by simp [encDsc]) hw

theorem decodes_encRng {m : BitVec 16} (hd : decodeVecRng ⟨fn, b, a, ext5 vd, m, gd, 0, e, s.field, i, s.literal⟩ = fin ok k)
    (hj : ok = true ∧ k = j) (hw : j.wf = true) : Decodes (encRng fn gd vd a b e s m i) j := by
  cases s with
  | reg r => exact decodes_xf rfl rfl hd hj hw
  | lit v => exact decodes_xl rfl rfl hd hj hw

section
variable (hc : y.c = s.field) (hl : y.lit = s.literal)
include hc hl
theorem decodeVecRng_uniform (hn : y.fn = 0) : decodeVecRng y =
    fin (y.imm16 == 0 && y.imm32 == 0 && y.e == 0 && y.sub == 0 && is4 y.d) (.vrng y.gd (lo4 y.d) y.a y.b s) := by
  unfold decodeVecRng
  cases s <;> rw [hn, hl, hc] <;> rfl
theorem decodeVecRng_round (hn : y.fn = 1) (hf : Fmt.ofCode (y.imm32.extractLsb' 0 8) = some f) : decodeVecRng y =
    fin (y.imm16.extractLsb' 6 10 == 0 && y.imm32.extractLsb' 11 21 == 0 && y.sub == 0 && is4 y.d && is4 y.e)
      (.vsrnd y.gd (lo4 y.d) (lo4 y.e) y.a y.b s (y.imm16.extractLsb' 0 6) (y.imm32.extractLsb' 8 3) f) := by
  unfold decodeVecRng
  cases s <;> rw [hn, hl, hc, hf] <;> rfl
theorem decodeVecRng_drop (hn : y.fn = 2) (hr : rmOf (y.imm16.extractLsb' 0 4) = some rm) : decodeVecRng y =
    fin (y.imm16.extractLsb' 4 12 == 0 && y.sub == 0 && is4 y.d && is4 y.e)
      (.vdrop y.gd rm (lo4 y.d) (lo4 y.e) y.a y.b s y.imm32) := by
  unfold decodeVecRng
  cases s <;> rw [hn, hl, hc, hr] <;> rfl
end
theorem decodes_vrng (hw : (Instr.vrng gd vd a b s).wf = true) : Decodes (encode (.vrng gd vd a b s)) (.vrng gd vd a b s) :=
  decodes_encRng (decodeVecRng_uniform rfl rfl rfl) (by simp) hw
theorem decodes_vsrnd {w : BitVec 6} {part : BitVec 3} (hw : (Instr.vsrnd gd vd ve a b s w part f).wf = true) :
    Decodes (encode (.vsrnd gd vd ve a b s w part f)) (.vsrnd gd vd ve a b s w part f) :=
  decodes_encRng (decodeVecRng_round (f := f) rfl rfl rfl (by simp)) (by simp) hw
theorem decodes_vdrop {p : BitVec 32} (hw : (Instr.vdrop gd rm vd ve a b s p).wf = true) :
    Decodes (encode (.vdrop gd rm vd ve a b s p)) (.vdrop gd rm vd ve a b s p) :=
  decodes_encRng (decodeVecRng_drop (rm := rm) rfl rfl rfl (by simp)) (by simp) hw

/-! Moves and extraction (R271, R275). -/

theorem idxWord_high (n : BitVec 7) : (n.setWidth 32).extractLsb' 7 25 = 0 := above_setWidth (by decide) (by decide)
theorem decodeX_opt : decodeX 0x27 y = decodeVecMove 0x27 y := rfl
theorem decodeX_move : decodeX 0x28 y = decodeVecMove 0x28 y := rfl
theorem decodes_vopt {x : Option (Guard × Option RMode)} : Decodes (encode (.vopt x a)) (.vopt x a) := by
  match x with
  | none => exact decodes_vecR (by decide) rfl (by simp) rfl
  | some (g, rm) =>
    exact decodes_xf rfl rfl (decodeX_opt.trans (by unfold decodeVecMove; rw [low_setWidth (by decide), rmOf_rmBits]; rfl)) (by simp) rfl
theorem vecFmt_high (f : BitVec 8) : (1#24 ++ f).extractLsb' 8 24 = 1 := top_above_one rfl
theorem decodes_vbcast : Decodes (encode (.vbcast gd vd a f)) (.vbcast gd vd a f) :=
  decodes_xf rfl rfl (decodeX_move.trans (by
    unfold decodeVecMove; rw [(vecFmt_fields _ _ _).1, Fmt.ofCode_code]; rfl)) (by simp [vecFmt_high]) rfl
theorem decodes_vext {n : VIdx} (hw : (Instr.vext x d va n).wf = true) : Decodes (encode (.vext x d va n)) (.vext x d va n) := by
  match x, n with
  | none, .reg b => exact decodes_vecR (by decide) rfl (by simp) hw
  | some g, .reg b => exact decodes_xf rfl rfl rfl (by simp) hw
  | some g, .imm n =>
    exact decodes_xf rfl rfl
      (decodeX_move.trans (by unfold decodeVecMove; rw [if_pos (⟨rfl, idxWord_high n⟩ : _ ∧ _)]; rfl)) (by simp) hw
  | none, .imm _ => exact absurd hw (by simp [Instr.wf, VIdx.ok])
theorem decodes_vins {n : VIdx} (hw : (Instr.vins x vd a n).wf = true) : Decodes (encode (.vins x vd a n)) (.vins x vd a n) := by
  match x, n with
  | none, .reg b => exact decodes_vecR (by decide) rfl (by simp) hw
  | some g, .reg b => exact decodes_xf rfl rfl rfl (by simp) hw
  | some g, .imm n =>
    exact decodes_xf rfl rfl
      (decodeX_move.trans (by unfold decodeVecMove; rw [if_pos (⟨rfl, idxWord_high n⟩ : _ ∧ _)]; rfl)) (by simp) hw
  | none, .imm _ => exact absurd hw (by simp [Instr.wf, VIdx.ok])
end
end

/-! The cell array (R291, R321). -/
section
variable {gd : Guard} {a b c : BitVec 5} {tag r0 nr1 : BitVec 6} {sc : BitVec 8} {im init : Bool} {rm : Option RMode} {f : Fmt}
    {x : StreamArgs}

theorem decodeX_acst {y : XF} (hn : y.fn = 2) (hr : rmOf (y.imm32.extractLsb' 9 4) = some rm)
    (hf : Fmt.ofCode (y.imm32.extractLsb' 0 8) = some f) :
    decodeX 0x33 y = fin (y.sub == 0 && y.b == 0 && y.c == 0 && y.d == 0 && y.e == 0 && y.imm16.extractLsb' 6 2 == 0 &&
      y.imm32.extractLsb' 14 6 == 0 && y.imm32.extractLsb' 8 1 == 0) (.acst y.gd (y.imm16.extractLsb' 0 6) y.a (y.imm32.extractLsb' 26 6)
      (y.imm32.extractLsb' 20 6) (y.imm16.extractLsb' 8 8) (y.imm32.extractLsb' 13 1 == 1) rm f) := by
  change decodeMat 0x33 y = _
  unfold decodeMat
  dsimp only
  rw [hn, hr, hf]
  rfl
theorem decodes_acst (hw : (Instr.acst gd tag a r0 nr1 sc im rm f).wf = true) :
    Decodes (encode (.acst gd tag a r0 nr1 sc im rm f)) (.acst gd tag a r0 nr1 sc im rm f) :=
  decodes_xf rfl rfl (decodeX_acst (rm := rm) (f := f) rfl (by simp) (by simp)) (by simp) hw
/-- MSGRAD streams from row 0 (R321). -/
theorem decodes_msgrad (hw : (Instr.msgrad x init tag b c).wf = true) :
    Decodes (encode (.msgrad x init tag b c)) (.msgrad x init tag b c) := by
  have hr : x.r0 = 0 := by simpa [Instr.wf] using hw
  exact decodes_xf rfl rfl rfl (by simp [← hr]) hw
end

/-- R174: every encoding reads back, whatever words follow it. -/
theorem decodes_encode (i : Instr) (hw : i.wf = true) (he : encode i ≠ []) : Decodes (encode i) i := by
  cases i with
  | add d a b | sub d a b | and d a b | or d a b | xor d a b | andn d a b | sll d a b | srl d a b | sra d a b | rol d a b | ror d a b
  | min d a b | max d a b | minu d a b | maxu d a b | mul d a b | mulh d a b | mulhu d a b | mulhsu d a b | div d a b | divu d a b
  | rem d a b | remu d a b | addsat d a b | subsat d a b => exact decodes_alu ⟨rfl, rfl⟩ hw
  | clz d a | ctz d a | popc d a | sextB d a | sextH d a | sextW d a | zextB d a | zextH d a | zextW d a => exact decodes_alu ⟨rfl, rfl⟩ hw
  | cmpEq d a b | cmpNe d a b | cmpLt d a b | cmpGe d a b | cmpLtu d a b | cmpGeu d a b | tst d a b =>
    exact decodes_alu (by simp [aluInstr, AluOp.isUnary]) hw
  | fadd f d a b | fsub f d a b | fmul f d a b | fdiv f d a b | fmin f d a b | fmax f d a b | fsgnj f d a b =>
    exact decodes_fp ⟨rfl, rfl⟩ hw
  | fsqrt f d a | fneg f d a | fabs f d a | fclass f d a => exact decodes_fp ⟨rfl, rfl⟩ hw
  | feq f d a b | flt f d a b | fle f d a b | funord f d a b => exact decodes_fp (by simp [fpInstr, FpOp.isUnary]) hw
  | addi d a i | andi d a i | ori d a i | xori d a i | li d i =>
    exact decodes_iWord rfl rfl (by unfold decodeShort; rw [wMaj_iWord]; rfl) (by simp) hw
  | alloc m | free m => exact decodes_iWord rfl rfl (by unfold decodeShort; rw [wMaj_iWord, wA_iWord]; rfl) (by simp) hw
  | addiLiteral d a v | andiLiteral d a v | oriLiteral d a v | xoriLiteral d a v | liLiteral d v =>
    exact decodes_iLiteral rfl rfl (by unfold decodeShort; rw [wMaj_iWord]; rfl) (by simp) hw
  | slli d a n | srli d a n | srai d a n | rori d a n => exact decodes_encSh rfl hw
  | cmpiEq d a k | cmpiNe d a k | cmpiLt d a k | cmpiGe d a k | cmpiLtu d a k | cmpiGeu d a k | cmpiTst d a k =>
    exact decodes_cmp (by unfold decodeCmpImm; rw [(cmpImm_fields _ _).2]; rfl) (by simp) hw
  | csrr d c | csrw d a c | csrs d a c | csrc d a c =>
    exact decodes_csr (by unfold decodeCsr; rw [(csrImm_fields _ _).2]; rfl) (by simp) hw
  | fcvt u v d a =>
    exact decodes_rWord rfl rfl (decodeShort_cvt (by simp) (by rw [wFn_rWord]; exact decodeCvt_code 0 u v)) (by simp) hw
  | fround v d a =>
    exact decodes_rWord rfl rfl (decodeShort_round (by simp) (by rw [wFn_rWord]; exact decodeCvt_code 1 v v)) (by simp) hw
  | br p neg hint off => exact decodes_br
  | jmp off => exact decodes_jmp
  | call off => exact decodes_call
  | waitc l s c t => exact decodes_waitc
  | jmpr a | callr a | ret | loop a n => exact decodes_jump rfl (by simp) hw
  | pand d a b | por d a b | pxor d a b | pandn d a b | pnot d a | ppack d | punpk a => exact decodes_pred rfl (by simp) hw
  | ld sz d a off | st sz d a off => exact decodes_mWord rfl rfl (by unfold decodeShort; rw [wMaj_mWord]; rfl) (by simp) hw
  | wtagAny a | wtagAll a | ftag d a | ftagC d a | tclr a => exact decodes_tag rfl (by simp) hw
  | wtagAnyLiteral m | wtagAllLiteral m | ftagLiteral d m | ftagCLiteral d m | tclrLiteral m => exact decodes_tagLit rfl (by simp) hw
  | fence s => exact decodes_fence hw
  | loopf => exact decodes_rWord rfl rfl (decodeShort_loopf (by simp) (by simp)) (by simp) hw
  | done | yield a | halt | brk | redpin d a | perf d a => exact decodes_sys rfl (by simp) hw
  | tsel d a b | tabort a b | troot a b =>
    exact decodes_rWord rfl rfl (by unfold decodeShort; dsimp only; rw [wMaj_rWord, wFn_rWord]; rfl) (by simp) hw
  | sel gd d a s c => exact decodes_sel
  | integerAluXForm op gd d a s => exact decodes_aluX hw
  | fma x f d a b c => exact decodes_fused (mk := fun f d a c => .fma x f d a b c) (fun _ => decodeFpX_fma) rfl hw
  | fms x f d a b c => exact decodes_fused (mk := fun f d a c => .fms x f d a b c) (fun _ => decodeFpX_fms) rfl hw
  | fnma x f d a b c => exact decodes_fused (mk := fun f d a c => .fnma x f d a b c) (fun _ => decodeFpX_fnma) rfl hw
  | fpAluXForm op x f d a b => exact decodes_fpAluX hw
  | fpConvertXForm u v r x d a => exact decodes_fpConvertX hw
  | ldXForm gd sz d a m => exact decodes_ldX hw
  | stXForm gd sz d a m => exact decodes_stX hw
  | ldg x => exact decodes_ldg hw
  | stg x => exact decodes_stg hw
  | ldx x s => exact decodes_ldx hw
  | stx x s => exact decodes_stx hw
  | amoAdd x | amoAnd x | amoOr x | amoXor x | amoSwap x | amoCas x c | amoMin x | amoMax x | amoMinu x | amoMaxu x | amoFadd x
  | amoFmin x | amoFmax x => exact decodes_encAmo ⟨rfl, rfl⟩ hw
  | waitv x c => exact decodes_waitv
  | sendi gd a b c e k =>
    cases e with
    | reg e => exact decodes_xf rfl rfl rfl (by simp) hw
    | lit v => exact decodes_xl rfl rfl rfl (by simp) hw
  | send gd a b c k | fwd gd a n vc e | post gd a b n vc m | cset gd d a b c i | cread gd d a i | publ gd w =>
    exact decodes_xf rfl rfl rfl (by simp) hw
  | doneXForm gd | yieldXForm gd a | brkXForm gd c => exact decodes_xfFixed rfl rfl rfl hw
  | trap gd a b c | scall gd d a b len e => exact decodes_xf rfl rfl rfl (by simp) hw
  | cpy gd t d a b ds => cases ds <;> exact decodes_xf rfl rfl rfl (by simp [encDsc]) hw
  | cpyxG gd t sp d a b ds => cases ds <;> exact decodes_xf rfl rfl rfl (by simp [encDsc]) hw
  | cpyxP gd t sp d a b ds => cases ds <;> exact decodes_xf rfl rfl rfl (by simp [encDsc]) hw
  | vadd x d a b | vsub x d a b | vadds x d a b | vsubs x d a b | vmul x d a b | vmulh x d a b | vmin x d a b | vmax x d a b
  | vand x d a b | vor x d a b | vxor x d a b | vsll x d a b | vsrl x d a b | vsra x d a b | vfadd x d a b | vfsub x d a b
  | vfmul x d a b | vfdiv x d a b | vfmin x d a b | vfmax x d a b | vcmpEq x d a b | vcmpNe x d a b | vcmpLt x d a b | vcmpLe x d a b
  | vfcmpEq x d a b | vfcmpLt x d a b | vfcmpLe x d a b | vfcmpUnord x d a b =>
    exact decodes_vec2 (by decide) rfl (fun _ _ _ _ => rfl) (fun _ _ _ => rfl) (by simp) (Bool.and_eq_true_iff.mp hw).2 hw
  | vfma x d a b | vfms x d a b | vfnma x d a b =>
    exact decodes_vec2 (by decide) rfl (fun _ _ _ _ => rfl) (fun _ _ _ => rfl) (by simp) hw hw
  | vabs x d a | vfsqrt x d a | vfneg x d a | vfabs x d a | vrsum x d a | vrmax x d a | vrmin x d a | vrev x d a =>
    exact decodes_vec1 (by decide) (fun _ _ _ => rfl) (fun _ _ _ => rfl) rfl hw
  | vperm x d a b => exact decodes_vperm hw
  | vslup x d a b => exact decodes_vslup hw
  | vsldn x d a b => exact decodes_vsldn hw
  | vcvt gd rm d a part f => exact decodes_vcvt hw
  | vqnt gd rm d a xv f => exact decodes_vqnt hw
  | vdqnt gd rm d a f => exact decodes_vdqnt hw
  | vld x d a b => exact decodes_vld hw
  | vst x d a b => exact decodes_vst hw
  | vrng gd d a b c => exact decodes_vrng hw
  | vsrnd gd d e a b c w part f => exact decodes_vsrnd hw
  | vdrop gd rm d e a b c p => exact decodes_vdrop hw
  | vopt x a => exact decodes_vopt
  | vext x d a i => exact decodes_vext hw
  | vins x d a i => exact decodes_vins hw
  | vbcast gd d a f => exact decodes_vbcast
  | vtag x d a | vsett x d a | vmov x d a | mand x d a b | mor x d a b | mxor x d a b | mandn x d a b | mnot x d a | mpop x d a
  | mset x d a | mget x d a =>
    cases x with
    | none => exact decodes_vecR (by decide) rfl (by simp) hw
    | some g => exact decodes_xf rfl rfl rfl (by simp) hw
  | mldb gd a p n | mldbS gd a c p n | mstb gd t a p n | mprog gd a c n | mknot gd a k n | mrefine gd k n =>
    exact decodes_xf rfl rfl rfl (by simp [planes]) hw
  | mmac x im p n | mmact x im p n | mrec x im p | mspl x | mspld x c => exact decodes_xf rfl rfl rfl (by simp) hw
  | msgrad x init t b c => exact decodes_msgrad hw
  | acz gd r n f | acld gd t a r n | acmv gd t r s n => exact decodes_xf rfl rfl rfl (by simp) hw
  | acst gd t a r n sc im rm f => exact decodes_acst hw
  | mgang gd acc im stride a b c p0 np1 r0 => exact decodes_xf rfl rfl rfl (by simp) hw
  | tnew gd k d a b c => cases k <;> exact decodes_xf rfl rfl rfl (by simp) hw
  | tfreeInit gd k a => cases k <;> exact decodes_xf rfl rfl rfl (by simp) hw
  | tselXForm gd d a b | tnewLink gd a b c | trootXForm gd a b | tfree gd a | tfreeKeep gd a | tleaf gd d a b c e =>
    exact decodes_xfFixed rfl rfl rfl hw
  | texp gd back flip a b c e | tback gd flip a b c | tabortXForm gd clr a b | tstat gd sel d a b =>
    exact decodes_xf rfl rfl rfl (by simp) hw
  | _ => exact absurd rfl he

end Sys2Proof

namespace Sys2Proof.Machine

/-- Settles O56, by cases on the instruction: each form's fields read back, and its sub-decoder answers it. -/
theorem decodeReadsBackEveryEncoding : Obligations.DecodeReadsBackEveryEncoding := by
  unfold Obligations.DecodeReadsBackEveryEncoding
  exact fun i rest hw he => decodes_encode i hw he rest

end Sys2Proof.Machine

/-! ### Guards (O6) -/

namespace Sys2Proof.Machine

/-! The words of the forms whose length depends on an operand. -/
section
variable {maj : BitVec 6} {fn : BitVec 9} {gd : Guard} {d a b c e : BitVec 5} {m : BitVec 16} {i : BitVec 32}

theorem encRng_length {vd : VReg} {l : RegLit} : (encRng fn gd vd a b e l m i).length = regLitWords l := by cases l <;> rfl
theorem encDevice_length {t : Target} {off : DevOff} : (encDevice maj fn gd t off d a b c).length = devOffWords off := by
  cases off <;> rfl
theorem encVec2_length {x : Option VX} {s : VSrc} : (encVec2 maj fn x d a s).length = vxWords x := by cases x <;> cases s <;> rfl
theorem encIdx_length {g : Guard} {n : VIdx} : (encIdx fn (some g) d a n).length = 3 := by cases n <;> rfl
end

theorem next_retire_len {i : Instr} {n : Nat} {s : State} (h : i.len = n) : (.next (s.retire n) : Out) = .next (s.retire i.len) := by
  rw [h]

/-- VEXT tests its guard before its tag, too (R275). -/
theorem execVext_guarded_off {g : Guard} {s : State} {d : GReg} {a : VReg} {n : VIdx} (hg : ¬ guardHolds g s.th = true) :
    execVext (some g) d a n s = .next (s.retire 3) := by
  have hpass : ¬ (guardHolds (guardOf (some g)) s.th && !s.vecBusy && narrowTag (s.th.vt a)) = true := by
    rw [guardOf, Bool.eq_false_of_not_eq_true hg]
    simp
  exact (if_neg hpass).trans (if_neg hg)

/-- Every form with a guard tests it before it does anything else. -/
theorem exec_failed_guard (i : Instr) (g : Guard) (s : State) (hi : i.guarding = some g) (hg : ¬ guardHolds g s.th = true) :
    exec i s = .next (s.retire i.len) := by
  cases i with
  | sel gd _ _ x _ | integerAluXForm _ gd _ _ x => cases hi; cases x <;> exact if_neg hg
  | ldXForm gd _ _ _ m | stXForm gd _ _ _ m => cases hi; cases m <;> exact if_neg hg
  | sendi gd _ _ _ e _ => cases hi; cases e <;> exact if_neg hg
  | send | fwd | post | cset | cread | cpy | cpyxG | cpyxP | publ | doneXForm | yieldXForm | brkXForm | trap | scall | vcvt | vqnt | vdqnt
  | vbcast | mldb | mldbS | mstb | mprog | acz | acld | acst | acmv | mgang | mknot | mrefine | tselXForm | tnew | tnewLink | texp
  | tback | tabortXForm | trootXForm | tfree | tfreeKeep | tfreeInit | tstat | tleaf | mmac | mmact | mrec | mspl | mspld | msgrad
  | fpConvertXForm => cases hi; exact if_neg hg
  | fma | fms | fnma | fpAluXForm => cases hi; exact (if_neg hg).trans (next_retire_len (encFpX_length _ _ _ _ _ _ _))
  | vrng | vsrnd | vdrop => cases hi; exact (if_neg hg).trans (next_retire_len encRng_length)
  | ldg | stg | ldx | stx | amoAdd | amoAnd | amoOr | amoXor | amoSwap | amoCas | amoMin | amoMax | amoMinu | amoMaxu | amoFadd | amoFmin
  | amoFmax | waitv => cases hi; exact (if_neg hg).trans (next_retire_len encDevice_length)
  | vadd x | vsub x | vadds x | vsubs x | vmul x | vmulh x | vmin x | vmax x | vand x | vor x | vxor x | vsll x | vsrl x | vsra x
  | vcmpEq x | vcmpNe x | vcmpLt x | vcmpLe x | vfadd x | vfsub x | vfmul x | vfdiv x | vfmin x | vfmax x | vfcmpEq x | vfcmpLt x
  | vfcmpLe x | vfcmpUnord x | vfma x | vfms x | vfnma x =>
    obtain ⟨v, rfl, rfl⟩ := Option.map_eq_some_iff.mp hi
    exact (if_neg hg).trans (next_retire_len encVec2_length)
  | vabs x | vfsqrt x | vfneg x | vfabs x | vrsum x | vrmax x | vrmin x | vperm x | vslup x | vsldn x | vrev x | vld x | vst x =>
    obtain ⟨v, rfl, rfl⟩ := Option.map_eq_some_iff.mp hi
    exact if_neg hg
  | vopt x =>
    obtain ⟨⟨gd, rm⟩, rfl, rfl⟩ := Option.map_eq_some_iff.mp hi
    exact if_neg hg
  | vtag | vsett | vmov | mand | mor | mxor | mandn | mnot | mpop | mset | mget => cases hi; exact if_neg hg
  | vext => cases hi; exact (execVext_guarded_off hg).trans (next_retire_len encIdx_length)
  | vins => cases hi; exact (if_neg hg).trans (next_retire_len encIdx_length)
  | _ => cases hi

/-- Settles O6, by cases on the instruction: the guard is tested before any effect. -/
theorem failedGuardOnlyAdvances : Obligations.FailedGuardOnlyAdvances := by
  unfold Obligations.FailedGuardOnlyAdvances
  exact fun i g s _ hi hg => exec_failed_guard i g s hi (by simp [hg])

end Sys2Proof.Machine

/-! ### Predicates (O11) -/

namespace Sys2Proof.Machine

/-- The packed predicates: p0 reads 1 (R201). -/
theorem ppack_lt (t : Thread) : t.ppack.toNat < 256 := by
  rw [Thread.ppack, BitVec.toNat_setWidth_of_le (by decide)]
  exact (t.p ||| 1).isLt
/-- Bit k of the predicates with p0 set (R176). -/
theorem predicates_getLsbD (p : BitVec 8) (k : PReg) : (p ||| 1).getLsbD k.toNat = (k == 0 || p.getLsbD k.toNat) := by
  have hzero : (k == 0#3) = decide (k.toNat = 0) := by revert k; decide
  simp [hzero, Bool.or_comm]
theorem ppack_getLsbD (t : Thread) (k : PReg) : t.ppack.getLsbD k.toNat = t.pr k := by
  have hk : k.toNat < 64 := by have := k.isLt; omega
  rw [Thread.ppack, BitVec.getLsbD_setWidth, predicates_getLsbD, decide_eq_true hk, Bool.true_and, Thread.pr]
theorem punpk_pr_zero (t : Thread) (w : Word) : (t.punpk w).pr 0 = true := rfl
theorem punpk_pr (t : Thread) (w : Word) (k : PReg) (h : k ≠ 0) : (t.punpk w).pr k = w.getLsbD k.toNat := by
  have hk : k.toNat < 8 := k.isLt
  have hzero : (k == 0) = false := beq_eq_false_iff_ne.mpr h
  simp only [Thread.pr, Thread.punpk, predicates_getLsbD, BitVec.getLsbD_setWidth, hzero, hk, decide_true, Bool.true_and, Bool.false_or]

/-- Settles O11: the results are the model's; PPACK and PUNPK are read off bit by bit. -/
theorem predicateOperationsCombineAndPack : Obligations.PredicateOperationsCombineAndPack := by
  unfold Obligations.PredicateOperationsCombineAndPack
  intro s d a b r gives
  refine ⟨rfl, rfl, rfl, rfl, rfl, ⟨s.th.ppack, rfl, ppack_lt _, fun k => ppack_getLsbD _ k⟩, _, rfl, ?_, fun k hk => ?_, fun q => ?_, ?_, ?_, ?_⟩
  · rw [State.retire_pr, State.pr_th, State.mapTh_th]; exact punpk_pr_zero _ _
  · rw [State.retire_pr, State.pr_th, State.mapTh_th]; exact punpk_pr _ _ k hk
  · rw [State.retire_gr, State.gr_th, State.mapTh_th]; rfl
  · simp
  · simp [Thread.punpk]
  · rw [State.retire_th, State.mapTh_th]; exact (Thread.advance_pc _ 1).trans (Thread.next_pc_congr _ _ 1 rfl rfl)

end Sys2Proof.Machine

/-! ### Local loads and stores (O15, O16) -/

namespace Sys2Proof.Machine

/-- Shifting up and down again extends the low m bits (R170). -/
theorem shift_zext (w : Word) (m : Nat) (hm : m ≤ 64) : (w <<< (64 - m)) >>> (64 - m) = (w.setWidth m).setWidth 64 := by
  ext k hk
  simp; grind
theorem shift_sext (w : Word) (m : Nat) (h0 : 0 < m) (hm : m ≤ 64) :
    (w <<< (64 - m)).sshiftRight (64 - m) = (w.setWidth m).signExtend 64 := by
  ext k hk
  simp [BitVec.getElem_sshiftRight, BitVec.getElem_signExtend]; grind
theorem szBytes_bits (sz : BitVec 3) : 0 < 8 * szBytes sz ∧ 8 * szBytes sz ≤ 64 := by revert sz; decide
/-- The value of a load (R170, R211): the bytes as a number, of two's complement where the size code says so. -/
theorem extend_ofNat (sz : BitVec 3) (x : Nat) (hx : x < 256 ^ szBytes sz) : extend sz (BitVec.ofNat 64 x) =
    if 4 ≤ sz.toNat then BitVec.ofInt 64 (BitVec.ofNat (8 * szBytes sz) x).toInt else BitVec.ofNat 64 x := by
  obtain ⟨h0, hm⟩ := szBytes_bits sz
  have hlow : (BitVec.ofNat 64 x).setWidth (8 * szBytes sz) = BitVec.ofNat (8 * szBytes sz) x := BitVec.setWidth_ofNat_of_le hm x
  have hlt : x < 2 ^ (8 * szBytes sz) := by rw [pow_mul]; exact hx
  simp only [extend, szSigned, decide_eq_true_eq, shift_zext _ _ hm, shift_sext _ _ h0 hm, hlow]
  rw [BitVec.setWidth_ofNat_of_le_of_lt hm hlt]
  rfl
theorem extend_load (s : State) (sz : BitVec 3) (b : Nat) : extend sz (s.load b (szBytes sz)) =
    if 4 ≤ sz.toNat then BitVec.ofInt 64 (BitVec.ofNat (8 * szBytes sz) (Memory.readN s.mem b (szBytes sz))).toInt
    else BitVec.ofNat 64 (Memory.readN s.mem b (szBytes sz)) := extend_ofNat _ _ (Memory.readN_lt _ _ _)

theorem loading_readable {s : State} {ea : Int} {n b : Nat} {k : Word → Out} (h : s.readable ea n b) :
    loading s ea n k = k (s.load (s.pa b) n) := by
  obtain ⟨h0, h1, ha, hb, hw, hq, hd⟩ := h
  exact loading_ok s ea n b k h0 h1 ha hb hw hq hd
theorem storing_writable {s : State} {ea : Int} {n : Nat} {v : Word} {k : State → Out} (h : s.writable ea n) :
    storing s ea n v k = k (s.tileStore s.foc ea.toNat n v) := by
  obtain ⟨h0, h1, ha, hb, hw, hq⟩ := h
  exact storing_ok s ea n v k h0 h1 ha hb hw hq
/-- A base with its increment is the exact sum, cut to 64 bits (R210). -/
theorem incremented_base (x : Word) (i : BitVec 32) : x + i.signExtend 64 = BitVec.ofInt 64 (x.toNat + i.toInt) := by
  rw [BitVec.ofInt_add, BitVec.ofInt_natCast, BitVec.ofNat_toNat, BitVec.setWidth_eq, BitVec.signExtend]

/-- Settles O15: a load that passes its checks delivers the bytes, extended. -/
theorem localLoadsDeliverTheirBytes : Obligations.LocalLoadsDeliverTheirBytes := by
  unfold Obligations.LocalLoadsDeliverTheirBytes
  intro s gd sz d a off m b n x w
  have hw : extend sz (s.load (s.pa b) (szBytes sz)) = w := extend_load s sz _
  refine ⟨fun h => ?_, fun hg => ?_⟩
  · rw [exec, execLd, ← hw]
    exact loading_readable h
  · have hrun {ea : Int} (he : xEa s a sz m = ea) (h : s.readable ea n b) :
        exec (.ldXForm gd sz d a m) s = .next ((xPost (s.setG d w) a m).retire 3) := by
      rw [exec, execLdXForm, guarded_on 3 _ hg, he, ← hw]
      exact loading_readable h
    cases m with
    | off i => exact hrun rfl
    | idx c => exact hrun rfl
    | post i =>
      intro hd h
      rw [hrun rfl h, xPost, State.setG_gr_other _ _ _ _ hd.symm, incremented_base]

/-- Byte k of a word (R3). -/
theorem byte_of_word (v : Word) (k : Nat) : BitVec.ofNat 8 (v.toNat / 256 ^ k) = v.extractLsb' (8 * k) 8 := by
  apply BitVec.eq_of_toNat_eq
  rw [BitVec.toNat_ofNat, BitVec.extractLsb'_toNat, Nat.shiftRight_eq_div_pow, pow_mul]
  rfl
section
variable {s : State} {a n : Nat} {v : Word}
theorem tileStore_byte (hm : Memory.wf s.mem = true) {k : Nat} (hk : k < n) :
    Memory.read (s.tileStore s.foc a n v).mem (s.pa a + k) = v.extractLsb' (8 * k) 8 := by
  rw [State.tileStore_mem, ← byte_of_word]
  exact Memory.read_writeN_inside _ _ _ _ _ hm hk
theorem tileStore_other (hm : Memory.wf s.mem = true) {k : Nat} (hk : k < s.pa a ∨ s.pa a + n ≤ k) :
    Memory.read (s.tileStore s.foc a n v).mem k = Memory.read s.mem k := by
  rw [State.tileStore_mem]
  exact Memory.read_writeN_other _ _ _ _ _ hm hk
end
section
variable {s : State} {a : GReg} {m : AddrMode}
theorem xPost_pr {q : PReg} : (xPost s a m).pr q = s.pr q := by cases m <;> simp [xPost]
theorem xPost_gr_other {q : GReg} (h : q ≠ a) : (xPost s a m).gr q = s.gr q := by cases m <;> simp [xPost, h]
theorem xPost_fflags : (xPost s a m).th.fflags = s.th.fflags := by cases m <;> simp [xPost]
theorem xPost_pc : (xPost s a m).th.pc = s.th.pc ∧ (xPost s a m).th.loop = s.th.loop := by cases m <;> simp [xPost]
end

/-- What a store of n bytes at ea leaves, after it has moved the base as its mode says (R210, R211). -/
theorem stored_retired {s : State} {ea n j : Nat} {v : Word} {a : GReg} {m : AddrMode} {base : Word} (hm : Memory.wf s.mem = true)
    (hbase : a ≠ 0 → (xPost (s.tileStore s.foc ea n v) a m).gr a = base) :
    let t := (xPost (s.tileStore s.foc ea n v) a m).retire j
    (∀ k, k < n → Memory.read t.mem (s.pa ea + k) = v.extractLsb' (8 * k) 8) ∧
      (∀ k, k < s.pa ea ∨ s.pa ea + n ≤ k → Memory.read t.mem k = Memory.read s.mem k) ∧ (a ≠ 0 → t.gr a = base) ∧
      (∀ q, q ≠ a → t.gr q = s.gr q) ∧ (∀ q, t.pr q = s.pr q) ∧ t.th.fflags = s.th.fflags ∧ t.th.pc = (s.th.next j).pc := by
  intro t
  have hth := State.tileStore_th s ea n v
  have hmem : t.mem = (s.tileStore s.foc ea n v).mem := by simp [t, xPost_mem]
  obtain ⟨hpc, hloop⟩ := xPost_pc (s := s.tileStore s.foc ea n v) (a := a) (m := m)
  refine ⟨fun k hk => ?_, fun k hk => ?_, fun h => ?_, fun q hq => ?_, fun q => ?_, ?_, ?_⟩
  · rw [hmem, tileStore_byte hm hk]
  · rw [hmem, tileStore_other hm hk]
  · rw [State.retire_gr, hbase h]
  · rw [State.retire_gr, xPost_gr_other hq, State.gr_th, State.gr_th, hth]
  · rw [State.retire_pr, xPost_pr, State.pr_th, State.pr_th, hth]
  · rw [State.retire_th]; simp [xPost_fflags, hth]
  · rw [← hth]; exact (State.retire_next _ _ j hpc hloop).1

/-- Settles O16: a store that passes its checks writes its bytes, and its base moves by the increment. -/
theorem localStoresWriteExactlyTheirBytes : Obligations.LocalStoresWriteExactlyTheirBytes := by
  unfold Obligations.LocalStoresWriteExactlyTheirBytes
  intro s gd sz d a off m hsz hm n stores
  have hn : szBytes sz = n := by rw [szBytes, Nat.mod_eq_of_lt hsz]
  have hgr {b : Nat} : (s.tileStore s.foc b n (s.gr d)).gr a = s.gr a := by rw [State.gr_th, State.tileStore_th, ← State.gr_th]
  refine ⟨fun h => ⟨_, ?_, stored_retired (m := .off 0) hm fun _ => hgr⟩, fun hg => ?_⟩
  · rw [exec, execSt, mEa, hn]
    exact storing_writable h
  · have hrun {ea : Int} (he : xEa s a sz m = ea) (h : s.writable ea n) :
        exec (.stXForm gd sz d a m) s = .next ((xPost (s.tileStore s.foc ea.toNat n (s.gr d)) a m).retire 3) := by
      rw [exec, execStXForm, guarded_on 3 _ hg, he, hn]
      exact storing_writable h
    cases m with
    | off i => exact fun h => ⟨_, hrun rfl h, stored_retired hm fun _ => hgr⟩
    | idx c => exact fun h => ⟨_, hrun (by rw [xEa, hn]) h, stored_retired hm fun _ => hgr⟩
    | post i =>
      refine fun h => ⟨_, hrun rfl h, stored_retired hm fun ha => ?_⟩
      rw [xPost, State.setG_gr_same _ _ _ ha, hgr, incremented_base]

end Sys2Proof.Machine

/-! ### Branches and jumps (O12) -/

namespace Sys2Proof.Machine

/-- A trap changes no register, no memory and no other thread (R32). -/
theorem keeps_trapWith (s : State) (c : BitVec 8) (a b0 b1 b2 b3 : Word) : s.keeps (s.trapWith c a b0 b1 b2 b3) :=
  ⟨State.still_mapTh s _ rfl rfl rfl rfl rfl rfl rfl rfl rfl rfl rfl rfl rfl, by simp⟩

section
variable {t : Int} (h : 0 ≤ t ∧ t ≤ 4095)
include h
theorem target_toNat : ((BitVec.ofNat 12 t.toNat).toNat : Int) = t := by rw [BitVec.toNat_ofNat]; omega
theorem jump_pc (s : State) : ((s.jump (BitVec.ofNat 12 t.toNat)).th.pc.toNat : Int) = t := by
  rw [State.jump_th]
  simp [Thread.transfer, Thread.goto]
  omega
/-- The loop's state after a transfer: ended when the target is outside its body (R207). -/
theorem jump_loop (s : State) : (s.jump (BitVec.ofNat 12 t.toNat)).th.loop =
    if s.th.loop.active && (decide (t < s.th.loop.start.toNat) || decide (s.th.loop.last.toNat < t)) then
      { s.th.loop with active := false, count := 0 } else s.th.loop := by
  have ht := target_toNat h
  rw [State.jump_th]
  change ((s.th.transfer _).loop) = _
  rw [Thread.transfer_loop, Thread.goto]
  have : decide (s.th.loop.start.toNat ≤ (BitVec.ofNat 12 t.toNat).toNat ∧ (BitVec.ofNat 12 t.toNat).toNat ≤ s.th.loop.last.toNat) =
    !(decide (t < s.th.loop.start.toNat) || decide (s.th.loop.last.toNat < t)) := by
    rw [Bool.eq_iff_iff]; simp; omega
  simp only [this, Bool.not_not]
end

/-- A call with room in the return store goes to its target (R204). -/
theorem calling_room {s : State} (x : BitVec 12) (hr : s.th.rstore.length < 8) :
    calling x s = .next ((s.mapTh (·.pushRet s.th.rstore)).jump x) := by
  unfold calling
  split
  · rw [if_pos hr]
  next hnil => rw [hnil]

/-- Settles O12: a target inside words 0 to 4095 is gone to, any other traps, and a BR not taken only advances. -/
theorem branchesAndJumpsTransferOrTrap : Obligations.BranchesAndJumpsTransferOrTrap := by
  unfold Obligations.BranchesAndJumpsTransferOrTrap
  intro s p neg hint o o' a pc beyond goes
  have hbeyond {i : Instr} {t : Int} {k : BitVec 12 → Out} (he : exec i s = transferTo t s k) : beyond i t := fun ht =>
    ⟨he.trans (transferTo_out t s k ht), keeps_trapWith _ _ _ _ _ _ _⟩
  have hgoes {i : Instr} {t : Int} (he : exec i s = transferTo t s fun x => .next (s.jump x)) : goes i t := by
    refine ⟨fun ht => ⟨he.trans (transferTo_eq t s _ ht), jump_pc ht s, ?_⟩, hbeyond he⟩
    intro l
    have hl := jump_loop ht s
    split
    · rw [if_pos ‹_›] at hl; exact hl
    · rw [if_neg ‹_›] at hl; exact hl
  refine ⟨fun hp => ?_, fun hp => hgoes ?_, hgoes rfl, hgoes rfl,
    hbeyond (k := fun x => calling x s) rfl, hbeyond (k := fun x => calling x s) rfl, fun ht hr => ?_⟩
  · rw [exec, execBr, if_neg (by simp [hp])]
  · rw [exec, execBr, if_pos (by simpa using hp)]; rfl
  · refine ⟨_, ?_, jump_pc ht (s.mapTh (·.pushRet s.th.rstore))⟩
    rw [← calling_room _ hr]
    exact transferTo_eq _ s (fun x => calling x s) ht

end Sys2Proof.Machine

/-! ### What decodes is well formed (O57) -/

namespace Sys2Proof

/-- An answer of the decoder is well formed and has words. -/
def Sound (r : Except DecodeErr Instr) : Prop := ∀ i, r = .ok i → i.wf = true ∧ encode i ≠ []

theorem sound_error {e : DecodeErr} : Sound (.error e) := fun _ h => nomatch h
theorem sound_fin {ok : Bool} {i : Instr} (h : encode i ≠ []) : Sound (fin ok i) := by
  intro j hj
  unfold fin at hj
  split at hj
  next hok => cases hj; exact ⟨(Bool.and_eq_true_iff.mp hok).2, h⟩
  next => cases hj
theorem sound_ite {c : Prop} [Decidable c] {r q : Except DecodeErr Instr} (hr : Sound r) (hq : Sound q) : Sound (if c then r else q) := by
  split
  · exact hr
  · exact hq

/-! The encodings whose shape depends on an operand. -/
section
variable {maj : BitVec 6} {fn : BitVec 9} {gd : Guard} {d a b c e : BitVec 5} {m : BitVec 16} {i : BitVec 32}

theorem aluInstr_words {op : AluOp} : encode (aluInstr op d a b) ≠ [] := by cases op <;> exact List.cons_ne_nil _ _
theorem fpInstr_words {op : FpOp} {f : BitVec 2} : encode (fpInstr op f d a b) ≠ [] := by cases op <;> exact List.cons_ne_nil _ _
theorem encFpX_words {code : BitVec 6} {x : FpX} {f : BitVec 2} {l : RegLit} : encFpX code x f d a l c ≠ [] := by
  cases l <;> exact List.cons_ne_nil _ _
theorem encSrc2_words {s : Src2} : encSrc2 fn gd d a s c ≠ [] := by cases s <;> exact List.cons_ne_nil _ _
theorem encMode_words {md : AddrMode} : encMode fn maj gd d a md ≠ [] := by cases md <;> exact List.cons_ne_nil _ _
theorem encDevice_words {t : Target} {off : DevOff} : encDevice maj fn gd t off d a b c ≠ [] := by
  cases off <;> exact List.cons_ne_nil _ _
theorem amoInstr_words {op : AmoOp} {v : AmoArgs} : encode (amoInstr op v c) ≠ [] := by cases op <;> exact encDevice_words
theorem encRng_words {vd : VReg} {l : RegLit} : encRng fn gd vd a b e l m i ≠ [] := by cases l <;> exact List.cons_ne_nil _ _
theorem encVec2_words {x : Option VX} {s : VSrc} : encVec2 maj fn x d a s ≠ [] := by cases x <;> cases s <;> exact List.cons_ne_nil _ _
theorem encVec1_words {x : Option VX} : encVec1 maj fn x d a b ≠ [] := by cases x <;> exact List.cons_ne_nil _ _
theorem encIdx_words {g : Guard} {n : VIdx} : encIdx fn (some g) d a n ≠ [] := by cases n <;> exact List.cons_ne_nil _ _
theorem vec1Instr_words {maj fn : Nat} {x : Option VX} {vd va : VReg} {j : Instr} (h : vec1Instr maj fn x vd va = some j) :
    encode j ≠ [] := by
  unfold vec1Instr at h
  split at h <;> cases h <;> exact encVec1_words
theorem vec2Instr_words {maj fn : Nat} {x : Option VX} {va : VReg} {s : VSrc} {p : Bool × Instr} (h : vec2Instr maj fn x d va s = some p) :
    encode p.2 ≠ [] := by
  unfold vec2Instr at h
  dsimp only at h
  split at h <;> cases h <;> exact encVec2_words
end

/-! The sub-decoders of one word, each by its arms: an instruction of words, or a reason. -/
section
variable {fn : BitVec 9} {d a b : BitVec 5} {i : BitVec 14} {l : Option Word}

theorem sound_decodeShiftImm : Sound (decodeShiftImm d a i) := by
  unfold decodeShiftImm
  refine sound_fin ?_
  (repeat' split) <;> exact List.cons_ne_nil _ _
theorem sound_decodeCmpImm : Sound (decodeCmpImm d a i) := by
  unfold decodeCmpImm
  dsimp only
  split
  any_goals with_reducible exact sound_error
  all_goals exact sound_fin (List.cons_ne_nil _ _)
theorem sound_decodePred : Sound (decodePred fn d a b) := by
  unfold decodePred
  split
  any_goals with_reducible exact sound_error
  all_goals exact sound_fin (List.cons_ne_nil _ _)
theorem sound_decodeJump : Sound (decodeJump fn d a b) := by
  unfold decodeJump
  split
  any_goals with_reducible exact sound_error
  all_goals exact sound_fin (List.cons_ne_nil _ _)
theorem sound_decodeCsr : Sound (decodeCsr d a i) := by
  unfold decodeCsr
  dsimp only
  split <;> exact sound_fin (List.cons_ne_nil _ _)
theorem sound_decodeTag : Sound (decodeTag fn d a b l) := by
  unfold decodeTag
  generalize fn.toNat = n
  match n, l with
  | 0, none | 0, some _ | 1, none | 1, some _ | 2, none | 2, some _ | 3, none | 3, some _ | 4, none | 4, some _ =>
    exact sound_fin (List.cons_ne_nil _ _)
  | _ + 5, none | _ + 5, some _ => exact sound_error
theorem sound_decodeSys : Sound (decodeSys fn d a b) := by
  unfold decodeSys
  split
  any_goals with_reducible exact sound_error
  all_goals exact sound_fin (List.cons_ne_nil _ _)
theorem sound_decodeVecR {maj : Nat} : Sound (decodeVecR maj fn d a b) := by
  unfold decodeVecR
  dsimp only
  split
  any_goals with_reducible exact sound_error
  all_goals exact sound_fin (List.cons_ne_nil _ _)
end

theorem sound_decodeShort {w : IWord} {l : Option Word} : Sound (decodeShort w l) := by
  unfold decodeShort
  dsimp only
  split
  any_goals with_reducible exact sound_error
  any_goals
    with_reducible refine sound_fin ?_
    exact List.cons_ne_nil _ _
  · split
    · exact sound_fin aluInstr_words
    · exact sound_ite sound_error sound_error
  · exact sound_decodeShiftImm
  · exact sound_decodeCmpImm
  · split
    · exact sound_ite sound_error (sound_fin fpInstr_words)
    · exact sound_ite sound_error sound_error
  · split
    · exact sound_fin (List.cons_ne_nil _ _)
    · exact sound_fin (List.cons_ne_nil _ _)
    · exact sound_error
  · exact sound_decodeJump
  · exact sound_decodePred
  · exact sound_ite (sound_fin (List.cons_ne_nil _ _)) (sound_ite (sound_fin (List.cons_ne_nil _ _)) sound_error)
  · exact sound_decodeCsr
  · exact sound_decodeTag
  · exact sound_ite (sound_fin (List.cons_ne_nil _ _)) (sound_ite (sound_fin (List.cons_ne_nil _ _)) sound_error)
  · exact sound_decodeSys
  · split
    any_goals with_reducible exact sound_error
    all_goals exact sound_fin (List.cons_ne_nil _ _)
  · exact sound_decodeVecR

/-! The sub-decoders of the X forms. -/
section
variable {maj : Nat} {x : XF}

theorem sound_decodeFpX : Sound (decodeFpX x) := by
  unfold decodeFpX
  refine sound_ite sound_error ?_
  split
  · split
    any_goals exact sound_fin encFpX_words
    · split
      · exact sound_ite sound_error (sound_fin encFpX_words)
      · exact sound_error
  · exact sound_error
theorem sound_decodeDev : Sound (decodeDev x) := by
  unfold decodeDev
  refine sound_ite sound_error ?_
  split
  · exact sound_error
  · dsimp only
    split
    · exact sound_fin encDevice_words
    · exact sound_fin encDevice_words
    all_goals
      split
      · exact sound_fin encDevice_words
      · exact sound_error
theorem sound_decodeAmo : Sound (decodeAmo x) := by
  unfold decodeAmo
  split
  · exact sound_error
  · refine sound_ite sound_error ?_
    split
    · exact sound_fin amoInstr_words
    · exact sound_error
theorem sound_decodeWaitv : Sound (decodeWaitv x) := by
  unfold decodeWaitv
  refine sound_ite sound_error ?_
  split
  · exact sound_fin encDevice_words
  · exact sound_error
theorem sound_decodeMsg : Sound (decodeMsg x) := by
  unfold decodeMsg
  dsimp only
  generalize x.fn.toNat = n
  generalize x.lit = l
  match n, l with
  | 0, none | 1, none | 1, some _ | 2, none | 3, none => exact sound_fin (List.cons_ne_nil _ _)
  | 0, some _ | 2, some _ | 3, some _ | _ + 4, none | _ + 4, some _ => exact sound_error
theorem sound_decodeCopy : Sound (decodeCopy x) := by
  unfold decodeCopy
  dsimp only
  split
  any_goals
    with_reducible refine sound_fin ?_
    exact List.cons_ne_nil _ _
  · exact sound_ite sound_error sound_error
theorem sound_decodeSysX : Sound (decodeSysX x) := by
  unfold decodeSysX
  dsimp only
  split
  any_goals with_reducible exact sound_error
  all_goals exact sound_fin (List.cons_ne_nil _ _)
theorem sound_decodeVecX : Sound (decodeVecX maj x) := by
  unfold decodeVecX
  dsimp only
  split
  · split
    · split
      next h => exact sound_fin (vec1Instr_words h)
      · exact sound_error
    · exact sound_error
  · split
    · split
      · split
        next h => exact sound_fin (vec2Instr_words h)
        · exact sound_error
      · exact sound_error
    · split
      any_goals with_reducible exact sound_error
      all_goals exact sound_fin (List.cons_ne_nil _ _)
theorem sound_decodeVecCvt : Sound (decodeVecCvt x) := by
  unfold decodeVecCvt
  refine sound_ite sound_error ?_
  split
  · dsimp only
    split <;> exact sound_fin (List.cons_ne_nil _ _)
  · exact sound_error
theorem sound_decodeVecMem : Sound (decodeVecMem x) := by
  unfold decodeVecMem
  refine sound_ite sound_error ?_
  split
  · exact sound_error
  · exact sound_ite (sound_fin (List.cons_ne_nil _ _)) (sound_fin (List.cons_ne_nil _ _))
theorem sound_decodeVecRng : Sound (decodeVecRng x) := by
  unfold decodeVecRng
  refine sound_ite sound_error ?_
  dsimp only
  split
  · exact sound_error
  · split
    · exact sound_fin encRng_words
    all_goals
      split
      · exact sound_fin encRng_words
      · exact sound_error
theorem sound_decodeVecMove : Sound (decodeVecMove maj x) := by
  unfold decodeVecMove
  dsimp only
  split
  any_goals with_reducible exact sound_error
  any_goals
    with_reducible refine sound_fin ?_
    exact List.cons_ne_nil _ _
  · split
    · exact sound_fin (List.cons_ne_nil _ _)
    · exact sound_error
  · split
    · exact sound_fin encIdx_words
    · exact sound_error
  · split
    · exact sound_fin encIdx_words
    · exact sound_error
  · split
    · exact sound_fin (List.cons_ne_nil _ _)
    · exact sound_error
theorem sound_decodeMat : Sound (decodeMat maj x) := by
  unfold decodeMat
  dsimp only
  split
  any_goals with_reducible exact sound_error
  any_goals
    with_reducible refine sound_fin ?_
    exact List.cons_ne_nil _ _
  · split
    · exact sound_fin (List.cons_ne_nil _ _)
    · exact sound_error
theorem sound_decodeTree : Sound (decodeTree x) := by
  unfold decodeTree
  dsimp only
  split
  any_goals with_reducible exact sound_error
  any_goals
    with_reducible refine sound_fin ?_
    exact List.cons_ne_nil _ _
  · split
    · exact sound_fin (List.cons_ne_nil _ _)
    · exact sound_error
  · refine sound_ite (sound_fin (List.cons_ne_nil _ _)) (sound_ite (sound_fin (List.cons_ne_nil _ _)) (sound_ite ?_ sound_error))
    split
    · exact sound_fin (List.cons_ne_nil _ _)
    · exact sound_error

theorem sound_decodeX : Sound (decodeX maj x) := by
  unfold decodeX
  dsimp only
  split
  · refine sound_ite ?_ (sound_ite sound_error sound_error)
    split
    · exact sound_error
    · refine sound_ite (sound_fin encSrc2_words) ?_
      split
      · exact sound_fin encSrc2_words
      · exact sound_error
  · exact sound_decodeFpX
  · split
    · exact sound_fin (List.cons_ne_nil _ _)
    · exact sound_error
    · exact sound_error
  · refine sound_ite sound_error ?_
    split
    · exact sound_fin encMode_words
    · exact sound_error
  · refine sound_ite sound_error ?_
    split
    · exact sound_fin encMode_words
    · exact sound_error
  · exact sound_decodeDev
  · exact sound_decodeAmo
  · exact sound_decodeWaitv
  · exact sound_decodeMsg
  · split
    · exact sound_fin (List.cons_ne_nil _ _)
    · exact sound_fin (List.cons_ne_nil _ _)
    · exact sound_error
  · exact sound_decodeCopy
  · exact sound_decodeSysX
  iterate 4 · exact sound_decodeVecX
  · exact sound_decodeVecCvt
  · exact sound_decodeVecMem
  · exact sound_decodeVecRng
  iterate 2 · exact sound_decodeVecMove
  · exact sound_decodeTree
  · exact sound_decodeMat
end

theorem sound_decode {w0 w1 w2 w3 w4 : IWord} : Sound (decode w0 w1 w2 w3 w4) := by
  unfold decode
  exact sound_ite sound_error (sound_ite sound_error (sound_ite sound_decodeShort (sound_ite sound_decodeShort sound_decodeX)))

end Sys2Proof

namespace Sys2Proof.Machine

/-- Settles O57: every answer of the decoder passes through `fin`, which asks for a well-formed instruction; the worked words
are decoded by evaluation. -/
theorem wordsDecodeAsTheChaptersWriteThem : Obligations.WordsDecodeAsTheChaptersWriteThem := by
  unfold Obligations.WordsDecodeAsTheChaptersWriteThem
  refine ⟨fun ws i h => sound_decode i h, ?_⟩
  decide +kernel

end Sys2Proof.Machine

/-! ### What an instruction is licensed to write (O36)

`Licence` says what a thread instruction may write, `State.Within` that a state has written no more, and `Framed` that an outcome has. -/

namespace Sys2Proof.Machine

/-! What most operations of a state leave: every register, tile and unit that O36 names. -/

/-- The registers and stores of a tile that traffic, stores and operations on their way leave as they are. -/
def Tile.lasting (t : Tile) := (t.threads, t.r.treecfga, t.r.cellmode, t.r.timer, t.acc, t.cst, t.knots, t.uprog, t.pr)
/-- What of a state traffic, stores and operations on their way leave as it is. -/
def State.lasting (s : State) := (s.tile.lasting, s.tiles, s.foc, s.tid, s.ports, s.galleries, s.boot, s.halls, s.fields)

theorem State.lasting_tile {s t : State} (h : t.lasting = s.lasting) : t.tile.lasting = s.tile.lasting := congrArg (·.1) h
theorem State.lasting_foc {s t : State} (h : t.lasting = s.lasting) : t.foc = s.foc := congrArg (·.2.2.1) h

theorem Tile.count_lasting (t : Tile) (e : BitVec 8) (n : Word) : (t.count e n).lasting = t.lasting := by rw [Tile.count_eq]; rfl
theorem Tile.pushReport_lasting (t : Tile) (d : Option Nat) (ws : List Word) : (t.pushReport d ws).lasting = t.lasting := by
  unfold Tile.pushReport
  split
  · rfl
  · exact Tile.count_lasting t _ _
theorem Tile.lateDecr_lasting (t : Tile) : t.lateDecr.lasting = t.lasting := Tile.count_lasting t _ _

section
variable {s : State}

theorem State.withTile_lasting {t : Tile} (h : t.lasting = s.tile.lasting) : ({ s with tile := t } : State).lasting = s.lasting := by
  unfold State.lasting
  rw [h]
theorem State.mapTile_lasting {f : Tile → Tile} (h : (f s.tile).lasting = s.tile.lasting) : (s.mapTile f).lasting = s.lasting :=
  State.withTile_lasting h
theorem State.setTileAt_lasting {c : Coord} {t : Tile} (hc : c = s.foc) (h : t.lasting = s.tile.lasting) :
    (s.setTileAt c t).lasting = s.lasting := by
  subst hc
  rw [State.setTileAt_foc]
  exact State.withTile_lasting h
theorem State.mapTileAt_lasting {c : Coord} {f : Tile → Tile} (hc : c = s.foc) (h : (f s.tile).lasting = s.tile.lasting) :
    (s.mapTileAt c f).lasting = s.lasting := by
  subst hc
  rw [State.mapTileAt_foc]
  exact State.mapTile_lasting h
theorem State.push_lasting {c : Coord} {i : Inj} (hc : c = s.foc) : (s.push c i).lasting = s.lasting := State.mapTileAt_lasting hc rfl
theorem State.enqueue_lasting {e : Engine} {op : EOp} {n : Nat} {c : Bool} : (s.enqueue e op n c).lasting = s.lasting := rfl
theorem State.feedUnions_lasting {c : Coord} {f : Flags} : (s.feedUnions c f).lasting = s.lasting := by
  unfold State.feedUnions
  split
  · rfl
  · dsimp only
    split <;> rfl

/-! Stores and records. -/

theorem State.poison_lasting {k : Nat} : (s.poison k).lasting = s.lasting := by
  obtain ⟨de, h⟩ := s.poison_eq k
  rw [h]; rfl
theorem State.markBad_lasting {k n : Nat} : (s.markBad k n).lasting = s.lasting := by
  obtain ⟨de, h⟩ := s.markBad_eq k n
  rw [h]; rfl
theorem State.storeChecked_lasting {k n : Nat} {v : Word} : (s.storeChecked k n v).lasting = s.lasting := by
  unfold State.storeChecked
  dsimp only
  split
  · split
    · rfl
    · exact State.poison_lasting
  · rfl
theorem State.notify_lasting {c : Coord} {a n : Nat} (hc : c = s.foc) : (s.notify c a n).lasting = s.lasting := by
  have ht : s.tileAt c = s.tile := hc ▸ State.tileAt_foc s
  unfold State.notify
  dsimp only
  rw [ht]
  split
  · exact State.setTileAt_lasting hc rfl
  · split
    · rfl
    · exact State.setTileAt_lasting hc rfl
theorem State.tileStore_lasting {c : Coord} {a n : Nat} {v : Word} (hc : c = s.foc) : (s.tileStore c a n v).lasting = s.lasting :=
  (State.notify_lasting (hc.trans (State.lasting_foc State.storeChecked_lasting).symm)).trans State.storeChecked_lasting
theorem State.homeStore_lasting {c : Coord} {a n : Nat} {v : Word} (hc : c = s.foc) : (s.homeStore c a n v).lasting = s.lasting := by
  have ht : s.tileAt c = s.tile := hc ▸ State.tileAt_foc s
  unfold State.homeStore
  dsimp only
  rw [ht]
  split
  · exact State.setTileAt_lasting hc rfl
  · exact State.tileStore_lasting hc
theorem State.queueRecord_lasting {c : Coord} {a : Nat} {w : Word} (hc : c = s.foc) : (s.queueRecord c a w).lasting = s.lasting := by
  have hst (v : Word) := State.tileStore_lasting (s := s) (a := a) (n := 8) (v := v) hc
  have hfoc (v : Word) := hc.trans (State.lasting_foc (hst v)).symm
  unfold State.queueRecord
  dsimp only
  split
  · exact (State.mapTileAt_lasting (hfoc _) rfl).trans (hst _)
  · split
    · next b _ =>
      have hhome := State.homeStore_lasting (a := b) (n := 2) (v := BitVec.ofNat 64 (a / 16))
        (hfoc (recOvfTo true (recCountTo (recRanTo false (recQdTo true (recCountTo w 0))) 0xFFFF)))
      exact (State.mapTileAt_lasting ((hfoc _).trans (State.lasting_foc hhome).symm) rfl).trans (hhome.trans (hst _))
    · exact (State.mapTileAt_lasting (hfoc _) rfl).trans (hst _)
theorem State.decrement_lasting {a : Word} {d : Nat} : (s.decrement s.foc a d).lasting = s.lasting := by
  rcases s.decrement_foc_cases a d with ⟨c, h⟩ | h | h | ⟨-, -, -, h | h⟩ <;> rw [h]
  · exact State.withTile_lasting (Tile.pushReport_lasting _ _ _)
  · obtain ⟨de, hp⟩ := s.poison_eq (s.pa a.toNat)
    rw [hp]
    exact State.withTile_lasting (s := { s with desc := de }) (Tile.pushReport_lasting _ _ _)
  · exact State.withTile_lasting (Tile.lateDecr_lasting _)
  · exact State.tileStore_lasting rfl
  · exact State.queueRecord_lasting rfl
theorem State.withRecord_lasting {k : Nat} {w0 w1 : Word} : (s.withRecord k w0 w1).lasting = s.lasting := by
  have h := State.tileStore_lasting (s := s) (c := s.foc) (a := k) (n := 8) (v := w0) rfl
  exact (State.tileStore_lasting (State.lasting_foc h).symm).trans h
theorem State.csetRecord_lasting {k : Nat} {w0 w1 : Word} : (s.csetRecord k w0 w1).lasting = s.lasting := by
  unfold State.csetRecord
  split
  · exact (State.queueRecord_lasting (State.lasting_foc State.withRecord_lasting).symm).trans State.withRecord_lasting
  · exact State.withRecord_lasting

/-! Messages. -/

theorem foldl_lasting {α : Type} (f : State → α → State) (h : ∀ s x, (f s x).lasting = s.lasting) (l : List α) (s : State) :
    (l.foldl f s).lasting = s.lasting :=
  foldl_rel (fun s t : State => t.lasting = s.lasting) (fun _ => rfl) (fun h k => k.trans h) f h l s

theorem State.learnAt_lasting {c : Coord} {f : Flight} (hc : c = s.foc) : (s.learnAt c f).lasting = s.lasting := by
  unfold State.learnAt
  split
  · rfl
  · exact State.mapTileAt_lasting hc rfl
theorem State.send_lasting {m : Msg} {vc : BitVec 4} {c : Coord} {d : Dest} {n : BitVec 32} {name : Option (BitVec 32)} {hall : BitVec 6}
    {sys : Bool} (hc : c = s.foc) : (s.send m vc c d n name hall sys).lasting = s.lasting := by
  unfold State.send
  dsimp only
  split
  · rfl
  · refine (State.learnAt_lasting ?_).trans rfl
    exact hc
theorem State.discardReport_lasting {f : Flight} {c : BitVec 8} {w : Word} (hf : f.pos = s.foc) :
    (s.discardReport f c w).lasting = s.lasting := by
  unfold State.discardReport
  dsimp only
  split
  · rfl
  · exact State.mapTileAt_lasting hf (Tile.pushReport_lasting _ _ _)
/-- A message that asks nothing is discarded with a report alone, or with an abort to a member of a gang. -/
theorem State.discard_lasting {f : Flight} {c : BitVec 8} (hf : f.pos = s.foc) (hm : ∀ r, f.msg ≠ .req r) :
    (s.discard f c).lasting = s.lasting := by
  have h := State.discardReport_lasting (c := c) (w := 0) hf
  unfold State.discard
  dsimp only
  split
  · next r hr => exact absurd hr (hm r)
  · exact (State.send_lasting (hf.trans (State.lasting_foc h).symm)).trans h
  · exact h
theorem State.seekAt_lasting {c : Coord} {f : Flight} {m : Msg} {n : BitVec 32} {came : Option Coord} (hc : c = s.foc) :
    (s.seekAt c f m n came).lasting = s.lasting := by
  unfold State.seekAt
  dsimp only
  split
  · refine (State.send_lasting ?_).trans rfl
    exact hc
  · refine (foldl_lasting _ ?_ _ _).trans ?_
    · exact fun _ _ => rfl
    split
    · rfl
    · exact State.learnAt_lasting hc
theorem State.launchMsg_lasting {i : Inj} {d : Dest} {n : Option (BitVec 32)} : (s.launchMsg i d n).lasting = s.lasting :=
  State.send_lasting rfl
theorem State.publish_lasting {w : Nat} : (s.publish w).lasting = s.lasting := by
  refine (foldl_lasting _ ?_ _ _).trans rfl
  exact fun _ _ => rfl
end

end Sys2Proof.Machine

namespace Sys2Proof.Machine

/-- What a thread instruction may write: general and predicate registers, other threads that a tag wakes, control registers, RSP and the
return store, FFLAGS, and the token buckets. -/
structure Licence where
  g : List GReg
  p : List PReg
  wakes : Bool
  csr : Bool
  ret : Bool
  flags : Bool
  offers : Bool

/-- The licence of each instruction, from the lists of its destinations. -/
def licence (i : Instr) : Licence := ⟨i.gWrites, i.pWrites, i.copies, i.writesCsr, i.usesRet, i.isFp || i.isFpAmo, i.offers⟩

/-! ### Threads -/

/-- The registers of a thread but SRSEQ. -/
def Thread.registers (t : Thread) :=
  (t.g, t.p, t.v, t.vtag, t.m, (t.rmode, t.tcm, t.slim, t.rsbase, t.rslim), t.rsp, t.rstore, t.fflags)

/-- Thread k has no register but those of the licence other than in h. -/
structure Thread.Within (L : Licence) (h k : Thread) : Prop where
  gr : ∀ q, q ∉ L.g → k.gr q = h.gr q
  pr : ∀ q, q ∉ L.p → k.pr q = h.pr q
  vec : (k.v, k.vtag, k.m) = (h.v, h.vtag, h.m)
  csr : L.csr = false → (k.rmode, k.tcm, k.slim, k.rsbase, k.rslim) = (h.rmode, h.tcm, h.slim, h.rsbase, h.rslim)
  rsp : L.csr = false → L.ret = false → k.rsp = h.rsp
  rstore : L.ret = false → k.rstore = h.rstore
  fflags : L.csr = false → L.flags = false → k.fflags = h.fflags

namespace Thread.Within
variable {L : Licence} {h k l : Thread}

theorem trans (a : h.Within L k) (b : k.Within L l) : h.Within L l where
  gr q hq := (b.gr q hq).trans (a.gr q hq)
  pr q hq := (b.pr q hq).trans (a.pr q hq)
  vec := b.vec.trans a.vec
  csr c := (b.csr c).trans (a.csr c)
  rsp c r := (b.rsp c r).trans (a.rsp c r)
  rstore r := (b.rstore r).trans (a.rstore r)
  fflags c f := (b.fflags c f).trans (a.fflags c f)
theorem of_registers (e : k.registers = h.registers) : h.Within L k := by
  simp only [Thread.registers, Prod.mk.injEq] at e
  obtain ⟨hg, hp, hv, hvt, hm, ⟨h1, h2, h3, h4, h5⟩, hrsp, hrs, hff⟩ := e
  exact ⟨fun q _ => Thread.gr_congr k h hg q, fun q _ => Thread.pr_congr k h hp q, by rw [hv, hvt, hm], fun _ => by rw [h1, h2, h3, h4, h5],
    fun _ _ => hrsp, fun _ => hrs, fun _ _ => hff⟩
theorem setG {d : GReg} (hd : d ∈ L.g) (w : Word) : h.Within L (h.setG d w) where
  gr q hq := Thread.gr_setG_other _ _ _ _ fun e => hq (e ▸ hd)
  pr q _ := Thread.pr_congr _ _ (by simp) q
  vec := by simp
  csr _ := by simp
  rsp _ _ := by simp
  rstore _ := by simp
  fflags _ _ := by simp
theorem setP {d : PReg} (hd : d ∈ L.p) (b : Bool) : h.Within L (h.setP d b) where
  gr q _ := Thread.gr_congr _ _ (by simp) q
  pr q hq := Thread.pr_setP_other _ _ _ _ fun e => hq (e ▸ hd)
  vec := by simp
  csr _ := by simp
  rsp _ _ := by simp
  rstore _ := by simp
  fflags _ _ := by simp
theorem setFlags {w : Word} (hw : L.flags = false → w = h.fflags) : h.Within L { h with fflags := w } :=
  ⟨fun _ _ => rfl, fun _ _ => rfl, rfl, fun _ => rfl, fun _ _ => rfl, fun _ => rfl, fun _ hf => hw hf⟩
theorem setRet {w : Word} {l : List (BitVec 12)} (hr : L.ret = true) : h.Within L { h with rsp := w, rstore := l } where
  gr _ _ := rfl
  pr _ _ := rfl
  vec := rfl
  csr _ := rfl
  rsp _ hf := absurd (hf.symm.trans hr) Bool.false_ne_true
  rstore hf := absurd (hf.symm.trans hr) Bool.false_ne_true
  fflags _ _ := rfl
theorem putCsr {n : Nat} {w : Word} (hc : L.csr = true) : h.Within L (h.putCsr n w) where
  gr _ _ := by unfold Thread.putCsr; split <;> rfl
  pr _ _ := by unfold Thread.putCsr; split <;> rfl
  vec := by unfold Thread.putCsr; split <;> rfl
  csr hf := absurd (hf.symm.trans hc) Bool.false_ne_true
  rsp hf := absurd (hf.symm.trans hc) Bool.false_ne_true
  rstore _ := by unfold Thread.putCsr; split <;> rfl
  fflags hf := absurd (hf.symm.trans hc) Bool.false_ne_true
end Thread.Within

theorem Thread.next_registers (t : Thread) (n : Nat) : (t.next n).registers = t.registers := by
  unfold Thread.next
  dsimp only
  (repeat' split) <;> rfl
theorem Thread.stepped_registers (t : Thread) : t.stepped.registers = t.registers := by
  unfold Thread.stepped
  split <;> rfl
theorem Thread.advance_registers (t : Thread) (n : Nat) : (t.advance n).registers = t.registers :=
  (Thread.stepped_registers _).trans (Thread.next_registers t n)
theorem Thread.transfer_registers (t : Thread) (x : BitVec 12) : (t.transfer x).registers = t.registers := Thread.stepped_registers _
theorem Thread.finish_registers (t : Thread) : t.finish.registers = t.registers := rfl
theorem Thread.wtagWake_registers (t : Thread) (w : Word) : (t.wtagWake w).registers = t.registers := by
  unfold Thread.wtagWake
  split
  · split
    · exact Thread.advance_registers _ _
    · rfl
  · rfl
theorem Thread.wtagWake_of_ne (t : Thread) (w : Word) (h : t.state ≠ .wtag) : t.wtagWake w = t := by
  unfold Thread.wtagWake
  split
  next hs _ => exact absurd hs h
  next => rfl

/-! ### Tiles -/

/-- Tile u has nothing but what its thread i may write other than in t. -/
structure Tile.Within (L : Licence) (i : Tid) (t u : Tile) : Prop where
  own : (t.th i).Within L (u.th i)
  others : ∀ j, j ≠ i → L.wakes = false ∨ (t.th j).state ≠ .wtag → u.th j = t.th j
  registers : ∀ j, j ≠ i → (u.th j).registers = (t.th j).registers
  csr : L.csr = false → (u.r.treecfga, u.r.cellmode, u.r.timer) = (t.r.treecfga, t.r.cellmode, t.r.timer)
  stores : (u.acc, u.cst, u.knots, u.uprog) = (t.acc, t.cst, t.knots, t.uprog)
  buckets : u.pr = { t.pr with toke := u.pr.toke, tokm := u.pr.tokm }
  priv : L.offers = false → u.pr = t.pr

namespace Tile.Within
variable {L : Licence} {i : Tid} {t u w : Tile}

theorem trans (a : t.Within L i u) (b : u.Within L i w) : t.Within L i w where
  own := a.own.trans b.own
  others j hj hs := (b.others j hj (hs.imp id fun h => by rwa [a.others j hj (.inr h)])).trans (a.others j hj hs)
  registers j hj := (b.registers j hj).trans (a.registers j hj)
  csr c := (b.csr c).trans (a.csr c)
  stores := b.stores.trans a.stores
  buckets := by rw [b.buckets, a.buckets]
  priv o := (b.priv o).trans (a.priv o)
theorem of_lasting (e : u.lasting = t.lasting) : t.Within L i u := by
  simp only [Tile.lasting, Prod.mk.injEq] at e
  obtain ⟨hth, h1, h2, h3, h4, h5, h6, h7, hpr⟩ := e
  have hj (j : Tid) : u.th j = t.th j := by unfold Tile.th; rw [hth]
  exact ⟨.of_registers (congrArg _ (hj i)), fun j _ _ => hj j, fun j _ => congrArg _ (hj j), fun _ => by rw [h1, h2, h3],
    by rw [h4, h5, h6, h7], by rw [hpr], fun _ => hpr⟩
theorem setTh {h : Thread} (hh : (t.th i).Within L h) : t.Within L i (t.setTh i h) := by
  have other (j : Tid) (hj : j ≠ i) : (t.setTh i h).th j = t.th j := (Tile.setTh_th t i j h).trans (if_neg (Ne.symm hj))
  refine ⟨?_, fun j hj _ => other j hj, fun j hj => congrArg _ (other j hj), fun _ => rfl, rfl, rfl, fun _ => rfl⟩
  rwa [Tile.setTh_th, if_pos rfl]
theorem setBucket {edge : Bool} {x : Word} (ho : L.offers = true) : t.Within L i (t.setBucket edge x) := by
  refine ⟨.of_registers rfl, fun _ _ _ => rfl, fun _ _ => rfl, fun _ => rfl, rfl, ?_, fun h => absurd (h.symm.trans ho) Bool.false_ne_true⟩
  unfold Tile.setBucket
  cases edge <;> rfl
theorem wtagWakes (hw : L.wakes = true) : t.Within L i t.wtagWakes := by
  have hth (j : Tid) : t.wtagWakes.th j = (t.th j).wtagWake t.r.tags := Tile.wtagWakes_th t j
  have hregs (j : Tid) : (t.wtagWakes.th j).registers = (t.th j).registers := by rw [hth, Thread.wtagWake_registers]
  refine ⟨.of_registers (hregs i), fun j _ hs => ?_, fun j _ => hregs j, fun _ => ?_, ?_, ?_, fun _ => ?_⟩
  · rcases hs with hs | hs
    · exact absurd (hs.symm.trans hw) Bool.false_ne_true
    · rw [hth, Thread.wtagWake_of_ne _ _ hs]
  all_goals rw [Tile.wtagWakes_eq]
end Tile.Within

/-! ### States -/

/-- State t has nothing but what the focus thread of s may write other than in s, as far as O36 goes. -/
structure State.Within (L : Licence) (s t : State) : Prop where
  tile : s.tile.Within L s.tid t.tile
  units : (t.tiles, t.foc, t.tid, t.ports, t.galleries, t.boot, t.halls) = (s.tiles, s.foc, s.tid, s.ports, s.galleries, s.boot, s.halls)
  field : ∀ f, t.field f = { s.field f with lcyc := (t.field f).lcyc, phase := (t.field f).phase, cyclesRun := (t.field f).cyclesRun }

namespace State.Within
variable {L : Licence} {s t u : State}

theorem tid (a : s.Within L t) : t.tid = s.tid := congrArg (·.2.2.1) a.units
theorem foc (a : s.Within L t) : t.foc = s.foc := congrArg (·.2.1) a.units
theorem trans (a : s.Within L t) (b : t.Within L u) : s.Within L u where
  tile := a.tile.trans (a.tid ▸ b.tile)
  units := b.units.trans a.units
  field f := by rw [b.field, a.field]
theorem of_lasting (e : t.lasting = s.lasting) : s.Within L t := by
  have htile := State.lasting_tile e
  simp only [State.lasting, Prod.mk.injEq] at e
  obtain ⟨-, h1, h2, h3, h4, h5, h6, h7, hf⟩ := e
  exact ⟨.of_lasting htile, by rw [h1, h2, h3, h4, h5, h6, h7], fun f => by unfold State.field; rw [hf]⟩
theorem refl : s.Within L s := of_lasting rfl
theorem mapTile {f : Tile → Tile} (h : s.tile.Within L s.tid (f s.tile)) : s.Within L (s.mapTile f) := ⟨h, rfl, fun _ => rfl⟩
theorem setTh {h : Thread} (hh : s.th.Within L h) : s.Within L (s.setTh h) := ⟨.setTh hh, rfl, fun _ => rfl⟩
theorem setField (f : Nat) : s.Within L (s.setField f (s.field f).cycle) := by
  refine ⟨.of_lasting rfl, rfl, fun g => ?_⟩
  rw [State.field_setField]
  split
  · next e => subst e; rfl
  · rfl

/-! Each operation after which the focus thread has kept within its licence. -/
section
variable (a : s.Within L t)
include a

theorem same (e : u.lasting = t.lasting) : s.Within L u := a.trans (of_lasting e)
theorem mapTh {f : Thread → Thread} (h : t.th.Within L (f t.th)) : s.Within L (t.mapTh f) := a.trans (setTh h)
theorem mark {f : Thread → Thread} (h : (f t.th).registers = t.th.registers) : s.Within L (t.mapTh f) := a.mapTh (.of_registers h)
theorem count {e : BitVec 8} {n : Word} : s.Within L (t.mapTile (·.count e n)) := a.same (State.mapTile_lasting (Tile.count_lasting _ _ _))
theorem cycle : s.Within L t.cycle := by
  unfold State.cycle
  refine mark (count (a.trans (setField _))) ?_
  rfl
theorem retired : s.Within L t.retired := a.count.cycle
theorem retire {n : Nat} : s.Within L (t.retire n) := (a.mark (Thread.advance_registers _ n)).retired
theorem jump {x : BitVec 12} : s.Within L (t.jump x) := (a.mark (Thread.transfer_registers _ x)).retired
theorem stall : s.Within L t.stall := a.cycle.mark rfl
theorem stallEach {e : BitVec 8} : s.Within L (t.stallEach e) := a.count.stall
theorem stallOn {e : BitVec 8} : s.Within L (t.stallOn e) := by
  unfold State.stallOn
  split
  · exact a.stall
  · exact (a.count.mark rfl).stall
theorem stallTurn : s.Within L t.stallTurn := by
  unfold State.stallTurn
  split
  · exact a.stall
  · exact ((a.same (u := { t with nextSeq := t.nextSeq + 1 }) rfl).mark rfl).stall
theorem trapWith {c : BitVec 8} {w b0 b1 b2 b3 : Word} : s.Within L (t.trapWith c w b0 b1 b2 b3) := a.mark rfl
theorem setG {d : GReg} (hd : d ∈ L.g) {w : Word} : s.Within L (t.setG d w) := a.trans (setTh (.setG hd w))
theorem setP {d : PReg} (hd : d ∈ L.p) {b : Bool} : s.Within L (t.setP d b) := a.trans (setTh (.setP hd b))
theorem bumpSr {m : Option RMode} : s.Within L (Machine.bumpSr m t) := by
  unfold Machine.bumpSr
  split
  · exact a.mark rfl
  · exact a
theorem xPost {d : GReg} {m : AddrMode} (hd : ∀ i, m = .post i → d ∈ L.g) : s.Within L (Machine.xPost t d m) := by
  cases m with
  | post i => exact a.setG (hd i rfl)
  | off _ | idx _ => exact a
theorem request {k : ReqKind} {pk : PendKind} {sp : BitVec 16} {off : Word} : s.Within L (t.request k pk sp off) := by
  unfold State.request
  exact ((a.same (u := { t with nextId := t.nextId + 1 }) rfl).mark rfl).same (State.push_lasting rfl)
theorem enqueue {e : Engine} {op : EOp} {n : Nat} {c : Bool} : s.Within L (t.enqueue e op n c) := a.same State.enqueue_lasting
theorem markBad {k n : Nat} : s.Within L (t.markBad k n) := a.same State.markBad_lasting
theorem tileStore {k n : Nat} {v : Word} : s.Within L (t.tileStore t.foc k n v) := a.same (State.tileStore_lasting rfl)
theorem orFlags {f : Flags} (hf : L.flags = false → f = 0) : s.Within L (t.orFlags t.foc t.tid f) := by
  unfold State.orFlags
  rw [State.mapTileAt_foc]
  refine State.Within.same ?_ State.feedUnions_lasting
  refine a.trans (mapTile (.setTh (.setFlags fun h => ?_)))
  rw [hf h]
  exact BitVec.or_zero
theorem orFlagsLate {f : Flags} (hf : L.flags = false → f = 0) : s.Within L (t.orFlagsLate t.foc t.tid f) := by
  have h := a.orFlags hf
  exact h.same (State.mapTileAt_lasting (a.foc.trans h.foc.symm) rfl)
end

end State.Within

end Sys2Proof.Machine

/-! ### Messages to the port, and the end of a handler (O36) -/

namespace Sys2Proof.Machine

/-- A message that an instruction of the focus thread offers: its thread is past the instruction once it has entered, and it asks for
nothing. -/
structure State.Offers (s : State) (i : Inj) : Prop where
  tid : i.tid = some s.tid
  entered : (∃ n, i.entered = .sent n) ∨ ∃ n, i.entered = .fwd n
  msg : ∀ r, i.msg ≠ .req r

theorem stamped_asks_nothing {s : State} {i : Inj} (h : s.Offers i) (t : Tile) (r : Req) :
    (match i.msg with
      | .packet p => Msg.packet (stampPacket t p)
      | m => m) ≠ .req r := by
  intro e
  split at e
  · exact Msg.noConfusion e
  · exact h.msg r e

/-- The message that the port picks is the one that stands there. -/
theorem State.injPick_get {s : State} {k : Nat} {i : Inj} (h : s.injPick = some (k, i)) : s.tile.inj[k]? = some i := by
  obtain ⟨x, -, hx⟩ := List.exists_of_findSome?_eq_some h
  obtain ⟨j, hj, hc⟩ := Option.bind_eq_some_iff.mp hx
  split at hc
  · cases hc; exact hj
  · cases hc
/-- The last message at the port after a push is the one pushed. -/
theorem State.injPick_pushed {s : State} {i j : Inj} {k : Nat} (h : (s.push s.foc i).injPick = some (k, j))
    (hk : k + 1 = (s.push s.foc i).tile.inj.length) : j = i := by
  have hget := State.injPick_get h
  rw [State.push_foc, State.mapTile_tile] at hget hk
  simp only [List.length_append, List.length_singleton, Nat.add_right_cancel_iff] at hk
  simpa [hk] using hget.symm

theorem Tile.Within.entered {L : Licence} {t : Tile} {x : Tid} {i : Inj} (ht : i.tid = some x)
    (he : (∃ n, i.entered = .sent n) ∨ ∃ n, i.entered = .fwd n) : t.Within L x (t.entered i) := by
  have past {h : Thread} (hh : h.registers = (t.th x).registers) : t.Within L x ((t.setTh x h).count 0x02 1) :=
    (Tile.Within.setTh (.of_registers hh)).trans (.of_lasting (Tile.count_lasting _ _ _))
  rcases he with ⟨n, he⟩ | ⟨n, he⟩
  · have e : t.entered i = (t.mapTh x (·.advance n)).count 0x02 1 := by simp only [Tile.entered, ht, he]
    rw [e]
    exact past (Thread.advance_registers _ n)
  · have e : t.entered i = (t.mapTh x fun h => ({ h with fwdUsed := true } : Thread).advance n).count 0x02 1 := by
      simp only [Tile.entered, ht, he]
    rw [e]
    exact past (Thread.advance_registers _ n)

namespace State.Within
variable {L : Licence} {s t : State} {i : Inj}

theorem charge (ho : L.offers = true) : s.Within L (s.charge i) := by
  unfold State.charge
  split
  · exact refl
  · exact mapTile (.setBucket ho)
theorem takeInj {k : Nat} (h : s.Offers i) : s.Within L (s.takeInj k i) := by
  refine mapTile (Tile.Within.trans (Tile.Within.of_lasting ?_) (.entered h.tid h.entered))
  rfl
theorem injectAt {k : Nat} (ho : L.offers = true) (h : s.Offers i) : s.Within L (s.injectAt k i) := by
  have paid : s.Within L (s.charge i) := charge ho
  have taken : s.Within L ((s.charge i).takeInj k i) := paid.trans (takeInj ⟨paid.tid ▸ h.tid, h.entered, h.msg⟩)
  have dropped : s.Within L (s.takeInj k i) := takeInj h
  unfold State.injectAt
  split
  · exact taken.same State.launchMsg_lasting
  · refine dropped.same (State.discard_lasting ?_ ?_)
    · exact dropped.foc.symm
    · exact stamped_asks_nothing h _
  · refine (taken.same (u := ((s.charge i).takeInj k i).mapTile _) (State.mapTile_lasting ?_)).same (State.seekAt_lasting ?_)
    · rfl
    · exact taken.foc.symm
/-- A message offered enters at once, charged to its bucket, or waits at the port (R229, R435). -/
theorem offer (ho : L.offers = true) (h : s.Offers i) : s.Within L (s.offer i) := by
  have pushed : s.Within L (s.push s.foc i) := of_lasting (State.push_lasting rfl)
  unfold State.offer
  dsimp only
  split
  · next k j hj =>
    split
    · next hk =>
      obtain rfl := State.injPick_pushed hj hk.1
      exact (pushed.trans (injectAt ho ⟨pushed.tid ▸ h.tid, h.entered, h.msg⟩)).cycle
    · exact pushed.stall
  · exact pushed.stall
theorem endHandler (a : s.Within L t) : s.Within L t.endHandler := by
  by_cases hp : ∃ c0 n, t.th.work = .packet c0 n
  · obtain ⟨c0, n, h⟩ := hp
    have ht : (t.refusedTile c0).lasting = t.tile.lasting := by
      obtain ⟨rs, k, p, e⟩ := t.refusedTile_eq c0
      rw [e]; rfl
    have freed : s.Within L { t with tile := (t.refusedTile c0).freeCells c0 } := a.same (State.withTile_lasting ht)
    have fires : s.Within L { t with tile := { t.refusedTile c0 with inj := (t.refusedTile c0).inj ++ markLast (t.firingsOf c0) c0 } } :=
      a.same (State.withTile_lasting ht)
    rw [State.endHandler_packet t c0 n h]
    split
    · exact freed.retired.mark (Thread.finish_registers _)
    · exact fires.stall
  · rw [State.endHandler_plain t fun c0 n h => hp ⟨c0, n, h⟩]
    exact a.retired.mark (Thread.finish_registers _)
end State.Within

theorem State.offers_packet {s : State} {named : Bool} {vc : BitVec 4} {dest : BitVec 32} {nsucc : BitVec 3} {narrow tcm : Bool}
    {entry : BitVec 10} {len : BitVec 4} {tag : BitVec 32} {ws : List Word} {e : Entered}
    (he : (∃ n, e = .sent n) ∨ ∃ n, e = .fwd n) : s.Offers (s.packetOf named vc dest nsucc narrow tcm entry len tag ws e) :=
  ⟨rfl, he, fun _ h => Msg.noConfusion h⟩

/-! ### Outcomes within a licence -/

/-- Every next state of o has kept within the licence. -/
def Framed (L : Licence) (s : State) (o : Out) : Prop := ∀ t, o = .next t → s.Within L t

section
variable {L : Licence} {s u : State}

theorem framed_next {t : State} (h : s.Within L t) : Framed L s (.next t) := fun _ e => Host.Outcome.next.inj e ▸ h
theorem framed_after {o : Out} (h : s.Within L u) (ho : Framed L u o) : Framed L s o := fun t e => h.trans (ho t e)
theorem framed_ite {c : Prop} [Decidable c] {a b : Out} (ha : Framed L s a) (hb : Framed L s b) : Framed L s (if c then a else b) := by
  split
  · exact ha
  · exact hb
theorem framed_retire {n : Nat} : Framed L s (.next (s.retire n)) := framed_next State.Within.refl.retire
theorem framed_stall : Framed L s (.next s.stall) := framed_next State.Within.refl.stall
theorem framed_full : Framed L s (.next (s.stallEach 0x08)) := framed_next State.Within.refl.stallEach
theorem framed_trapWith {c : BitVec 8} {w b0 b1 b2 b3 : Word} : Framed L s (.next (s.trapWith c w b0 b1 b2 b3)) :=
  framed_next State.Within.refl.trapWith
theorem framed_trap {c : BitVec 8} {w : Word} : Framed L s (.next (s.trap c w)) := framed_trapWith
theorem framed_illegal : Framed L s (.next s.trapIllegal) := framed_trapWith
theorem framed_damaged {k n : Nat} {c : BitVec 8} {w : Word} : Framed L s (.next ((s.markBad k n).trap c w)) :=
  framed_next State.Within.refl.markBad.trapWith
theorem framed_setG {d : GReg} (hd : d ∈ L.g) {w : Word} {n : Nat} : Framed L s (.next ((s.setG d w).retire n)) :=
  framed_next (State.Within.refl.setG hd).retire
theorem framed_setP {d : PReg} (hd : d ∈ L.p) {b : Bool} {n : Nat} : Framed L s (.next ((s.setP d b).retire n)) :=
  framed_next (State.Within.refl.setP hd).retire

/-! Guards, waits and checks. -/

theorem framed_guarded {gd : Guard} {n : Nat} {k : State → Out} (h : Framed L s (k s)) : Framed L s (guarded gd n s k) :=
  framed_ite h framed_retire
theorem framed_whenReady {c : Bool} {k : State → Out} (h : Framed L s (k s)) : Framed L s (whenReady c s k) := framed_ite h framed_stall
theorem framed_inTurn {a : Nat} {k : State → Out} (h : Framed L s (k s)) : Framed L s (inTurn a s k) :=
  framed_ite h (framed_next State.Within.refl.stallTurn)
theorem framed_localAddr {ea : Int} {n : Nat} {ok : Nat → Bool} {k : Nat → Out} (h : ∀ a, Framed L s (k a)) :
    Framed L s (localAddr s ea n ok k) := framed_ite framed_trap (framed_ite framed_trap (framed_ite framed_trap (h _)))
theorem framed_checkedAddr {ea : Int} {n : Nat} {l : Bool} {ok : Nat → Bool} {k : Nat → Out} (h : ∀ a, Framed L s (k a)) :
    Framed L s (checkedAddr s ea n l ok k) := framed_localAddr fun a => framed_ite framed_trap (h a)
theorem framed_loading {ea : Int} {n : Nat} {k : Word → Out} (h : ∀ w, Framed L s (k w)) : Framed L s (loading s ea n k) :=
  framed_checkedAddr fun _ => framed_ite framed_stall (framed_ite framed_damaged (h _))
theorem framed_storing {ea : Int} {n : Nat} {v : Word} {k : State → Out} (h : ∀ u, s.Within L u → Framed L s (k u)) :
    Framed L s (storing s ea n v k) := framed_checkedAddr fun _ => framed_ite framed_stall (h _ State.Within.refl.tileStore)
theorem framed_deviceAccess {tgt2 : Bool} {sp : BitVec 16} {off : Int} {n : Nat} {k : Word → Out} (h : ∀ w, Framed L s (k w)) :
    Framed L s (deviceAccess s tgt2 sp off n k) := by
  unfold deviceAccess
  split
  · exact framed_trap
  · exact h _
theorem framed_deviceRange {sp : BitVec 16} {a : Word} {n : Nat} {k : Word → Out} (h : ∀ w, Framed L s (k w)) :
    Framed L s (deviceRange sp a n s k) := by
  unfold deviceRange
  split
  · exact framed_trap
  · exact h _
theorem framed_recordAddr {ea : Int} {k : Nat → Out} (h : ∀ a, Framed L s (k a)) : Framed L s (recordAddr s ea k) :=
  framed_ite framed_trap (framed_ite framed_trap (framed_ite framed_trap (framed_ite framed_stall (framed_ite framed_damaged (h _)))))
theorem framed_checks {cs : List (Bool × BitVec 8 × Word)} {k : Out} (h : Framed L s k) : Framed L s (checks s cs k) := by
  unfold checks
  split
  · exact framed_trap
  · exact h
theorem framed_transferTo {t : Int} {k : BitVec 12 → Out} (h : ∀ x, Framed L s (k x)) : Framed L s (transferTo t s k) :=
  framed_ite framed_trap (h _)
theorem framed_copyHead {tag : BitVec 6} {dsc : Option GReg} {k : Option Desc → Out} (h : ∀ d, Framed L s (k d)) :
    Framed L s (copyHead tag dsc s k) := by
  refine framed_ite framed_trap ?_
  split
  · exact h _
  · exact framed_ite (h _) framed_trap
theorem framed_localChecks {srcs dsts : List Word} {n : Nat} {k : Out} (h : Framed L s k) : Framed L s (localChecks srcs dsts n s k) := by
  unfold localChecks
  split
  · exact framed_trap
  · exact framed_trap
  · split
    · exact framed_trap
    · exact framed_trap
    · exact h
theorem framed_nodeHandle {a : Word} {k : Out} (h : Framed L s k) : Framed L s (nodeHandle s a k) := by
  unfold nodeHandle
  dsimp only
  split
  · exact framed_trapWith
  · exact framed_ite h framed_trapWith
theorem framed_edgeRef {a : Word} {k : Out} (h : Framed L s k) : Framed L s (edgeRef s a k) := by
  unfold edgeRef
  split
  · exact framed_trapWith
  · exact framed_ite framed_trapWith h
theorem framed_raising {f : Flags} {k : State → Out} (hf : L.flags = true) (h : ∀ u, s.Within L u → Framed L s (k u)) :
    Framed L s (raising f s k) :=
  framed_ite framed_trapWith (h _ (State.Within.refl.orFlags fun hn => absurd (hn.symm.trans hf) Bool.false_ne_true))
end

end Sys2Proof.Machine

/-! ### The operations that many instructions share, within a licence (O36) -/

namespace Sys2Proof.Machine

/-- Operations on signs and classes, which raise no flags (R197). -/
def quietFp : FpOp → Bool
  | .fneg | .fabs | .fsgnj | .fclass => true
  | _ => false

/-- The integer atomics raise no flags (R219). -/
theorem amoApply_flags {op : AmoOp} {n : Nat} {m x y : Word} (h : op ∉ [.fadd, .fmin, .fmax]) : (amoApply op n m x y).2 = 0 := by
  cases op with
  | fadd | fmin | fmax => exact absurd h (by decide)
  | _ => rfl
theorem State.amoAt_flags {s : State} {k n : Nat} {op : AmoOp} {x y : Word} {r : Word × Word × Flags} (h : s.amoAt k op n x y = some r)
    (hop : op ∉ [.fadd, .fmin, .fmax]) : r.2.2 = 0 := by
  unfold State.amoAt at h
  split at h
  · cases h
  · have h : some (s.load k n, (amoApply op n (s.load k n) x y).1, (amoApply op n (s.load k n) x y).2) = some r := h
    cases h
    exact amoApply_flags hop

theorem Thread.Within.punpk {L : Licence} {h : Thread} {w : Word} (hp : ∀ q : PReg, q ≠ 0 → q ∈ L.p) : h.Within L (h.punpk w) where
  gr _ _ := rfl
  pr q hq := by
    obtain rfl : q = 0 := Classical.byContradiction fun e => hq (hp q e)
    rfl
  vec := rfl
  csr _ := rfl
  rsp _ _ := rfl
  rstore _ := rfl
  fflags _ _ := rfl
theorem Tile.Within.setRegs {L : Licence} {i : Tid} {t : Tile} {r : TileRegs} (hc : L.csr = true) : t.Within L i { t with r := r } :=
  ⟨.of_registers rfl, fun _ _ _ => rfl, fun _ _ => rfl, fun h => absurd (h.symm.trans hc) Bool.false_ne_true, rfl, rfl, fun _ => rfl⟩

section
variable {L : Licence} {s : State}

/-! Scalar arithmetic. -/

theorem framed_aluG {op : AluOp} {d : GReg} {a b : Word} {n : Nat} (hd : d ∈ L.g) : Framed L s (aluG op d a b n s) :=
  framed_ite framed_trapWith (framed_setG hd)
theorem framed_fpWrite {m : Option RMode} {d : GReg} {w : Word} {fl : Flags} {n : Nat} (hf : L.flags = true) (hd : d ∈ L.g) :
    Framed L s (fpWrite m d w fl n s) := framed_raising hf fun _ h => framed_next (h.bumpSr.setG hd).retire
theorem framed_fpu {op : FpOp} {m : Option RMode} {f : BitVec 2} {d : GReg} {a b : Word} {n : Nat}
    (hf : quietFp op = false → L.flags = true) (hd : op.isCmp = false → d ∈ L.g) (hp : op.isCmp = true → d.setWidth 3 ∈ L.p) :
    Framed L s (fpu op m f d a b n s) := by
  unfold fpu
  dsimp only
  cases op with
  | fadd | fsub | fmul | fdiv | fsqrt => exact framed_fpWrite (hf rfl) (hd rfl)
  | fmin | fmax => exact framed_raising (hf rfl) fun _ h => framed_next (h.setG (hd rfl)).retire
  | feq | flt | fle | funord => exact framed_raising (hf rfl) fun _ h => framed_next (h.setP (hp rfl)).retire
  | fneg | fabs | fsgnj | fclass => exact framed_setG (hd rfl)
theorem framed_fpuFma {p c : Bool} {x : FpX} {f : BitVec 2} {d a : GReg} {b : RegLit} {e : GReg} (hf : L.flags = true) (hd : d ∈ L.g) :
    Framed L s (fpuFma p c x f d a b e s) := by
  unfold fpuFma
  exact framed_guarded (framed_fpWrite hf hd)
theorem framed_fcvt {m : Option RMode} {u v : FpCode} {d : GReg} {w : Word} {n : Nat} (hf : L.flags = true) (hd : d ∈ L.g) :
    Framed L s (fcvt m u v d w n s) := by
  unfold fcvt
  dsimp only
  split
  · exact framed_fpWrite hf hd
  · exact framed_fpWrite hf hd
theorem framed_fround {m : Option RMode} {v : FpCode} {d : GReg} {w : Word} {n : Nat} (hf : L.flags = true) (hd : d ∈ L.g) :
    Framed L s (fround m v d w n s) := framed_fpWrite hf hd

/-! Transfers, and the stack. -/

theorem framed_jump {x : BitVec 12} : Framed L s (.next (s.jump x)) := framed_next State.Within.refl.jump
theorem framed_calling {x : BitVec 12} (hr : L.ret = true) : Framed L s (calling x s) := by
  unfold calling
  split
  · refine framed_ite (framed_next ?_) (framed_ite framed_trapWith (framed_storing fun u hu => framed_next ?_))
    · exact (State.Within.refl.mapTh (.setRet hr)).jump
    · exact (hu.mapTh (.setRet hr)).jump
  · exact framed_next (State.Within.refl.mapTh (.setRet hr)).jump
theorem framed_ret (hr : L.ret = true) : Framed L s (execRet s) := by
  unfold execRet
  split
  · exact framed_next (State.Within.refl.mapTh (.setRet hr)).jump
  · exact framed_ite framed_trapWith (framed_loading fun _ => framed_next (State.Within.refl.mapTh (.setRet hr)).jump)
theorem framed_loop {a : GReg} {n : BitVec 10} : Framed L s (execLoop a n s) := by
  unfold execLoop
  dsimp only
  refine framed_ite framed_illegal (framed_ite framed_trap (framed_ite framed_retire (framed_next ?_)))
  exact (State.Within.refl.mapTh (.of_registers rfl)).retired
theorem framed_stackMove {m : BitVec 14} {new : Int} {l : Word} {bad : Bool} (hd : (31 : GReg) ∈ L.g) :
    Framed L s (stackMove m new l bad s) := framed_ite framed_trapWith (framed_ite framed_trapWith (framed_setG hd))

/-! Control registers. -/

theorem framed_csrr {d : GReg} {c : BitVec 12} (hd : d ∈ L.g) : Framed L s (execCsrr d c s) := by
  unfold execCsrr
  split
  · exact framed_setG hd
  · exact framed_illegal
theorem framed_csrWrite {d : GReg} {n : Nat} {w m : Word} (hc : L.csr = true) (hd : d ∈ L.g) : Framed L s (csrWrite d n w m s) := by
  have put {r : TileRegs} {old : Word} : Framed L s (.next (((s.mapTile fun t => { t with r := r }).setG d old).retire 1)) :=
    framed_next ((State.Within.mapTile (.setRegs hc)).setG hd).retire
  unfold csrWrite
  split
  · split
    · exact framed_illegal
    · refine framed_ite (framed_setG hd) (framed_ite (framed_next ?_) (framed_ite (framed_ite framed_illegal (framed_whenReady put)) put))
      refine State.Within.retire (State.Within.setG ?_ hd)
      split
      · exact (State.Within.refl.mapTh (.putCsr hc)).same State.feedUnions_lasting
      · exact State.Within.refl.mapTh (.putCsr hc)
  · exact framed_trap
  · exact framed_illegal

/-! Requests. -/

theorem framed_remoteLoad {x : DevArgs} {t : Bool} {sp : State → BitVec 16} : Framed L s (remoteLoad x t sp s) := by
  unfold remoteLoad
  exact framed_guarded (framed_deviceAccess fun _ => framed_whenReady (framed_next (State.Within.refl.request.mark rfl).retire))
theorem framed_remoteStore {x : DevArgs} {t : Bool} {sp : State → BitVec 16} : Framed L s (remoteStore x t sp s) := by
  unfold remoteStore
  exact framed_guarded (framed_deviceAccess fun _ => framed_whenReady (framed_next (State.Within.refl.request.mark rfl).retire))
theorem Thread.addAmo_registers (t : Thread) (d : GReg) : (t.addAmo d).registers = t.registers := by
  unfold Thread.addAmo
  split <;> rfl
theorem framed_amo {op : AmoOp} {x : AmoArgs} {c : GReg} (hf : L.flags = false → op ∉ [.fadd, .fmin, .fmax]) :
    Framed L s (amo op x c s) := by
  have remote {k : ReqKind} {pk : PendKind} {sp : BitVec 16} {off : Word} {n : Nat} :
      Framed L s (.next (((s.request k pk sp off).mapTh (·.addAmo x.d)).retire n)) :=
    framed_next (State.Within.refl.request.mark (Thread.addAmo_registers _ _)).retire
  unfold amo
  refine framed_guarded ?_
  cases x.tgt with
  | glob | ext => exact framed_deviceAccess fun _ => framed_whenReady remote
  | loc =>
    refine framed_checkedAddr fun a => framed_whenReady (framed_inTurn ?_)
    have queued {w : List WEntry} : s.Within L { s with nextId := s.nextId + 1, tile := { s.tile with wq := w } } := .of_lasting rfl
    refine framed_ite (framed_next ?_) (framed_next ?_)
    · refine State.Within.retire (State.Within.mark queued ?_)
      exact Thread.addAmo_registers _ _
    · refine State.Within.retire (State.Within.orFlagsLate queued fun hn => ?_)
      split
      next h => exact State.amoAt_flags h (hf hn)
      next => rfl
theorem framed_waitv {x : AmoArgs} {c : GReg} : Framed L s (execWaitv x c s) := by
  unfold execWaitv
  refine framed_guarded ?_
  cases x.tgt with
  | glob | ext =>
    exact framed_deviceAccess fun _ => framed_whenReady (framed_next (State.Within.refl.request.cycle.mark rfl))
  | loc =>
    refine framed_localAddr fun _ => framed_next (State.Within.mark (State.Within.cycle (State.Within.mark ?_ ?_)) ?_)
    · exact .of_lasting rfl
    · rfl
    · rfl

/-! Tags. -/

theorem framed_wtag {all : Bool} {m : Word} {n : Nat} : Framed L s (wtag all m n s) :=
  framed_ite framed_trap (framed_ite framed_retire (framed_next (State.Within.refl.cycle.mark rfl)))
theorem framed_ftag {c : Bool} {d : GReg} {m : Word} {n : Nat} (hd : d ∈ L.g) : Framed L s (ftag c d m n s) := by
  refine framed_next (State.Within.retire (State.Within.setG ?_ hd))
  dsimp only
  split
  · exact .of_lasting rfl
  · exact .refl
theorem framed_tclr {m : Word} {n : Nat} : Framed L s (tclr m n s) :=
  framed_next (State.Within.retire (State.Within.of_lasting (State.mapTile_lasting rfl)))
theorem framed_softTrap {c : BitVec 8} {a b d : Word} {n : Nat} : Framed L s (softTrap c a b d n s) :=
  framed_next (State.Within.refl.trapWith.mark rfl)

/-! Operations that enter an engine's queue. -/

theorem framed_issueVec {gd : Guard} {o : VecOp} {n adv : Nat} : Framed L s (issueVec gd o n adv s) :=
  framed_guarded (framed_ite (framed_next ((State.Within.refl.enqueue.mark rfl).mark rfl).retire) framed_full)
theorem framed_vred {o : RedVOp} {x : Option VX} {d a : VReg} : Framed L s (vred o x d a s) := by
  unfold vred
  exact framed_guarded (framed_ite framed_stall framed_issueVec)
theorem framed_vmemIssue {st : Bool} {x : Option VMemX} {a b : GReg} {k : Nat → Option Desc → VecOp} :
    Framed L s (vmemIssue st x a b s k) := by
  unfold vmemIssue
  exact framed_guarded (framed_ite framed_trap (framed_ite framed_trap (framed_ite framed_trap (framed_ite framed_trap framed_issueVec))))
theorem framed_vecReturn {x : Option Guard} {d : GReg} {v : State → Word} (hd : d ∈ L.g) : Framed L s (vecReturn x d v s) :=
  framed_guarded (framed_ite (framed_next State.Within.refl.stallOn) (framed_setG hd))
theorem framed_issueTop {e : Engine} {op : EOp} {n : Nat} : Framed L s (issueTop e op n s) :=
  framed_ite (framed_next (State.Within.refl.enqueue.mark rfl).retire) framed_full
theorem framed_issueCop {e : Engine} {op : CopOp} {n : Nat} {c : Bool} {adv : Nat} : Framed L s (issueCop e op n c adv s) := by
  have entered : s.Within L ((s.enqueue e (.cop op) n c).mapTile (·.tagIssue op.tag)) := .of_lasting rfl
  unfold issueCop
  refine framed_whenReady (framed_ite (framed_next (State.Within.retire (entered.mark ?_))) framed_full)
  rfl
theorem framed_startCopy {tag : BitVec 6} {k : CopyKind} {n : Nat} {d : Option Desc} (hw : L.wakes = true) :
    Framed L s (startCopy tag k n d s) := by
  unfold startCopy
  refine framed_whenReady (framed_ite (framed_next (State.Within.retire (State.Within.mapTile ?_))) (framed_after ?_ framed_issueCop))
  · exact Tile.Within.trans (u := (s.tile.tagIssue tag).tagDone tag) (.of_lasting rfl) (.wtagWakes hw)
  · exact .of_lasting rfl
theorem framed_issueRet {o : TreeOp} {n : Nat} : Framed L s (issueRet o n s) :=
  framed_ite framed_stall (framed_ite (framed_next (State.Within.refl.enqueue.mark rfl).stallOn) framed_full)
theorem framed_stream {x : StreamArgs} {p0 np rows : Nat} {k : Nat → Nat → MatOp} : Framed L s (stream x p0 np rows k s) := by
  unfold stream
  exact framed_guarded (framed_checks framed_issueTop)
theorem framed_tsel {d a b : GReg} {n : Nat} : Framed L s (tsel d a b n s) := framed_nodeHandle framed_issueRet
theorem framed_tleaf {gd : Guard} {d a b c e : GReg} : Framed L s (execTleaf gd d a b c e s) := by
  refine framed_guarded (framed_nodeHandle ?_)
  split
  · exact framed_trap
  · exact framed_whenReady (framed_ite (framed_next ((State.Within.refl.enqueue.mark rfl).mark rfl).retire) framed_full)

/-! Messages, records and the ends of handlers. -/

theorem framed_offer {i : Inj} (ho : L.offers = true) (h : s.Offers i) : Framed L s (.next (s.offer i)) := framed_next (.offer ho h)
theorem framed_send {gd : Guard} {a b c : GReg} {ctl : Ctl} (ho : L.offers = true) : Framed L s (execSend gd a b c ctl s) := by
  unfold execSend
  refine framed_guarded (framed_ite framed_trap (framed_ite framed_trap ?_))
  split
  · exact framed_trap
  · refine framed_ite framed_illegal (framed_ite framed_stall ?_)
    split
    · exact framed_damaged
    · exact framed_whenReady (framed_offer ho (State.offers_packet (.inl ⟨_, rfl⟩)))
theorem framed_sendi {gd : Guard} {a b c : GReg} {e : RegLit} {ctl : Ctl} (ho : L.offers = true) :
    Framed L s (execSendi gd a b c e ctl s) :=
  framed_guarded (framed_ite framed_trap (framed_ite framed_illegal
    (framed_whenReady (framed_offer ho (State.offers_packet (.inl ⟨_, rfl⟩))))))
theorem framed_fwd {gd : Guard} {a : GReg} {named : Bool} {vc : BitVec 3} {e : BitVec 10} (ho : L.offers = true) :
    Framed L s (execFwd gd a named vc e s) := by
  unfold execFwd
  refine framed_guarded ?_
  dsimp only
  split
  · exact framed_ite framed_illegal (framed_whenReady (framed_offer ho (State.offers_packet (.inr ⟨_, rfl⟩))))
  · exact framed_illegal
theorem framed_post {gd : Guard} {a b : GReg} {named : Bool} {vc : BitVec 4} {n : BitVec 8} (ho : L.offers = true) :
    Framed L s (execPost gd a b named vc n s) :=
  framed_guarded (framed_ite framed_trap (framed_ite framed_illegal
    (framed_whenReady (framed_offer ho ⟨rfl, .inl ⟨_, rfl⟩, fun _ h => Msg.noConfusion h⟩))))
theorem framed_scall {gd : Guard} {d a b : GReg} {len : BitVec 2} {e : BitVec 10} (hd : d ∈ L.g) :
    Framed L s (execScall gd d a b len e s) := by
  unfold execScall
  refine framed_guarded ?_
  split
  · have waited : s.Within L (s.mapTh fun t => { t with wait := .none }) := .mark .refl rfl
    exact framed_ite (framed_next waited.trapWith) (framed_next (waited.setG hd).retire)
  · exact framed_stall
  · refine framed_ite framed_trap (framed_ite framed_trap (framed_ite framed_trap ?_))
    split
    · exact framed_trap
    · refine framed_ite framed_stall ?_
      split
      · exact framed_damaged
      · have pushed {m : Inj} : s.Within L (s.push s.foc m) := .of_lasting (State.push_lasting rfl)
        refine framed_whenReady ?_
        exact framed_ite framed_trap (framed_next (pushed.mark rfl).stall)
theorem framed_cset {gd : Guard} {p : PReg} {a b c : GReg} {i : BitVec 32} (hp : p ∈ L.p) : Framed L s (execCset gd p a b c i s) := by
  by_cases hg : guardHolds gd s.th = true
  · rw [execCset_on gd p a b c i s hg]
    exact framed_recordAddr fun k => framed_inTurn (framed_ite (framed_setP hp)
      (framed_next ((State.Within.of_lasting State.csetRecord_lasting).setP hp).retire))
  · rw [execCset, guarded_off _ _ (by simpa using hg)]
    exact framed_retire
theorem framed_yielding {a : Word} : Framed L s (yielding a s) :=
  framed_ite framed_trap (framed_ite framed_trap (framed_whenReady (framed_inTurn
    (framed_next (State.Within.endHandler (.of_lasting State.decrement_lasting))))))
end

end Sys2Proof.Machine

/-! ### No thread instruction changes a register but its own destinations (O36) -/

namespace Sys2Proof.Machine

/-- PUNPK writes every predicate register but p0 (R201). -/
theorem mem_punpk_writes : ∀ q : PReg, q ≠ 0 → q ∈ ([1, 2, 3, 4, 5, 6, 7] : List PReg) := by decide

section
variable {s : State}

/-- A thread instruction writes what it is licensed to write alone (R176, R201, R213). -/
theorem exec_framed {i : Instr} (hf : i.fetched = true) : Framed (licence i) s (exec i s) := by
  cases i with
  | add d | sub d | and d | or d | xor d | andn d | sll d | srl d | sra d | rol d | ror d | min d | max d | minu d | maxu d | mul d | mulh d
  | mulhu d | mulhsu d | div d | divu d | rem d | remu d | addsat d | subsat d | clz d | ctz d | popc d | sextB d | sextH d | sextW d
  | zextB d | zextH d | zextW d | addi d | andi d | ori d | xori d | addiLiteral d | andiLiteral d | oriLiteral d | xoriLiteral d | slli d
  | srli d | srai d | rori d => rw [exec]; exact framed_aluG (List.mem_singleton_self d)
  | cmpEq d | cmpNe d | cmpLt d | cmpGe d | cmpLtu d | cmpGeu d | tst d | cmpiEq d | cmpiNe d | cmpiLt d | cmpiGe d | cmpiLtu d | cmpiGeu d
  | cmpiTst d | pand d | por d | pxor d | pandn d | pnot d => rw [exec]; exact framed_setP (List.mem_singleton_self d)
  | sel _ d => rw [exec]; exact framed_guarded (framed_setG (List.mem_singleton_self d))
  | integerAluXForm op gd d a b =>
    rw [exec]
    refine framed_guarded ?_
    split
    next h => exact framed_setP (by simp [licence, Instr.pWrites, h])
    next h => exact framed_aluG (by simp [licence, Instr.gWrites, h])
  | li d | liLiteral d | ppack d => rw [exec]; exact framed_setG (List.mem_singleton_self d)
  | fadd _ d | fsub _ d | fmul _ d | fdiv _ d | fsqrt _ d | fmin _ d | fmax _ d =>
    rw [exec]; exact framed_fpu (fun _ => rfl) (fun _ => List.mem_singleton_self d) Bool.noConfusion
  | fneg _ d | fabs _ d | fsgnj _ d | fclass _ d =>
    rw [exec]; exact framed_fpu Bool.noConfusion (fun _ => List.mem_singleton_self d) Bool.noConfusion
  | feq | flt | fle | funord =>
    rw [exec]; exact framed_fpu (fun _ => rfl) Bool.noConfusion fun _ => by simp [licence, Instr.pWrites]
  | fpAluXForm op =>
    rw [exec]
    refine framed_guarded (framed_fpu (fun _ => rfl) (fun h => ?_) fun h => ?_)
    · simp [licence, Instr.gWrites, h]
    · simp [licence, Instr.pWrites, h]
  | fma _ _ d | fms _ _ d | fnma _ _ d => rw [exec]; exact framed_fpuFma rfl (List.mem_singleton_self d)
  | fcvt _ _ d => rw [exec]; exact framed_fcvt rfl (List.mem_singleton_self d)
  | fround _ d => rw [exec]; exact framed_fround rfl (List.mem_singleton_self d)
  | fpConvertXForm _ _ _ _ d =>
    rw [exec]
    exact framed_guarded (framed_ite (framed_fround rfl (List.mem_singleton_self d)) (framed_fcvt rfl (List.mem_singleton_self d)))
  | br => rw [exec]; exact framed_ite (framed_transferTo fun _ => framed_jump) framed_retire
  | jmp | jmpr => rw [exec]; exact framed_transferTo fun _ => framed_jump
  | call | callr => rw [exec]; exact framed_transferTo fun _ => framed_calling rfl
  | ret => rw [exec]; exact framed_ret rfl
  | loop => rw [exec]; exact framed_loop
  | punpk =>
    rw [exec]
    exact framed_next (State.Within.refl.mapTh (.punpk mem_punpk_writes)).retire
  | ld _ d => rw [exec]; exact framed_loading fun _ => framed_setG (List.mem_singleton_self d)
  | ldXForm _ _ d a m =>
    rw [exec]
    refine framed_guarded (framed_loading fun _ => framed_next ((State.Within.refl.setG ?_).xPost ?_).retire)
    · cases m <;> simp [licence, Instr.gWrites]
    · rintro i rfl; simp [licence, Instr.gWrites]
  | st => rw [exec]; exact framed_storing fun _ h => framed_next h.retire
  | stXForm _ _ _ a m =>
    rw [exec]
    refine framed_guarded (framed_storing fun _ h => framed_next (h.xPost ?_).retire)
    rintro i rfl; simp [licence, Instr.gWrites]
  | ldg | ldx => rw [exec]; exact framed_remoteLoad
  | stg | stx => rw [exec]; exact framed_remoteStore
  | amoAdd | amoAnd | amoOr | amoXor | amoSwap | amoCas | amoMin | amoMax | amoMinu | amoMaxu =>
    rw [exec]; exact framed_amo fun _ => by decide
  | amoFadd | amoFmin | amoFmax => rw [exec]; exact framed_amo Bool.noConfusion
  | waitv => rw [exec]; exact framed_waitv
  | alloc | free => rw [exec]; exact framed_stackMove (List.mem_singleton_self _)
  | csrr d => rw [exec]; exact framed_csrr (List.mem_singleton_self d)
  | csrw d => rw [exec]; exact framed_csrWrite rfl (List.mem_singleton_self d)
  | csrs d | csrc d =>
    rw [exec]; exact framed_ite (framed_csrr (List.mem_singleton_self d)) (framed_csrWrite rfl (List.mem_singleton_self d))
  | waitc => rw [exec, execWaitc]; exact framed_whenReady framed_retire
  | fence | loopf => rw [exec]; exact framed_whenReady framed_retire
  | send => rw [exec]; exact framed_send rfl
  | sendi => rw [exec]; exact framed_sendi rfl
  | fwd => rw [exec]; exact framed_fwd rfl
  | post => rw [exec]; exact framed_post rfl
  | cset _ p => rw [exec]; exact framed_cset (List.mem_singleton_self p)
  | cread _ d => rw [exec]; exact framed_guarded (framed_recordAddr fun _ => framed_setG (List.mem_singleton_self d))
  | cpy => rw [exec]; exact framed_guarded (framed_copyHead fun _ => framed_localChecks (framed_startCopy rfl))
  | cpyxG | cpyxP =>
    rw [exec]; exact framed_guarded (framed_copyHead fun _ => framed_localChecks (framed_deviceRange fun _ => framed_startCopy rfl))
  | publ =>
    rw [exec]
    exact framed_guarded (framed_ite framed_illegal (framed_whenReady (framed_next (State.Within.of_lasting State.publish_lasting).retire)))
  | wtagAny | wtagAll | wtagAnyLiteral | wtagAllLiteral => rw [exec]; exact framed_wtag
  | ftag d | ftagC d | ftagLiteral d | ftagCLiteral d => rw [exec]; exact framed_ftag (List.mem_singleton_self d)
  | tclr | tclrLiteral => rw [exec]; exact framed_tclr
  | done => rw [exec]; exact framed_whenReady (framed_next State.Within.refl.endHandler)
  | doneXForm => rw [exec]; exact framed_guarded (framed_whenReady (framed_next State.Within.refl.endHandler))
  | yield => rw [exec]; exact framed_yielding
  | yieldXForm => rw [exec]; exact framed_guarded framed_yielding
  | halt => rw [exec]; exact framed_next (State.Within.refl.mark rfl)
  | brk => rw [exec]; exact framed_softTrap
  | brkXForm | trap => rw [exec]; exact framed_guarded framed_softTrap
  | redpin d => rw [exec]; exact framed_next ((State.Within.refl.mark rfl).setG (List.mem_singleton_self d)).retire
  | perf d => rw [exec]; exact framed_next (State.Within.refl.count.setG (List.mem_singleton_self d)).retire
  | scall _ d => rw [exec]; exact framed_scall (List.mem_singleton_self d)
  | vadd | vsub | vadds | vsubs | vmul | vmulh | vmin | vmax | vand | vor | vxor | vsll | vsrl | vsra | vabs | vcmpEq | vcmpNe | vcmpLt
  | vcmpLe | vfadd | vfsub | vfmul | vfdiv | vfsqrt | vfmin | vfmax | vfneg | vfabs | vfcmpEq | vfcmpLt | vfcmpLe | vfcmpUnord | vfma
  | vfms | vfnma | vcvt | vqnt | vdqnt | vperm | vslup | vsldn | vrev | vrng | vsrnd | vdrop | vins | vbcast | vmov | mand | mor | mxor
  | mandn | mnot | mset => rw [exec]; exact framed_issueVec
  | vrsum | vrmax | vrmin => rw [exec]; exact framed_vred
  | vld | vst => rw [exec]; exact framed_vmemIssue
  | vopt => rw [exec, execVopt]; exact framed_guarded (framed_ite framed_trap (framed_ite framed_trap framed_issueVec))
  | vext _ d => rw [exec]; exact framed_ite framed_trap (framed_vecReturn (List.mem_singleton_self d))
  | vtag _ d | mpop _ d | mget _ d => rw [exec]; exact framed_vecReturn (List.mem_singleton_self d)
  | vsett => rw [exec]; exact framed_guarded (framed_ite framed_trap framed_issueVec)
  | mldb | mldbS | mprog | acz | mgang => rw [exec]; exact framed_guarded (framed_checks framed_issueTop)
  | mknot => rw [exec, execMknot]; exact framed_guarded (framed_checks framed_issueTop)
  | mspld => rw [exec, execMspld]; exact framed_guarded (framed_checks framed_issueTop)
  | mrefine => rw [exec, execMrefine]; exact framed_guarded (framed_checks framed_issueTop)
  | mstb => rw [exec]; exact framed_guarded (framed_checks framed_issueCop)
  | acld => rw [exec, execAcld]; exact framed_guarded (framed_checks framed_issueCop)
  | acst => rw [exec, execAcst]; exact framed_guarded (framed_checks framed_issueCop)
  | acmv => rw [exec, execAcmv]; exact framed_guarded (framed_checks framed_issueCop)
  | msgrad => rw [exec, execMsgrad]; exact framed_guarded (framed_checks framed_issueCop)
  | mmac | mmact | mrec | mspl => rw [exec]; exact framed_stream
  | tsel => rw [exec]; exact framed_tsel
  | tselXForm => rw [exec]; exact framed_guarded framed_tsel
  | tnew => rw [exec]; exact framed_guarded (framed_ite framed_trapWith (framed_ite framed_illegal framed_issueRet))
  | texp =>
    rw [exec]
    exact framed_guarded (framed_nodeHandle (framed_ite framed_illegal (framed_ite framed_trap (framed_ite framed_trap framed_issueTop))))
  | tnewLink | tback | tabortXForm | tfreeKeep => rw [exec]; exact framed_guarded (framed_edgeRef framed_issueTop)
  | tabort => rw [exec]; exact framed_edgeRef framed_issueTop
  | troot => rw [exec]; exact framed_nodeHandle framed_issueTop
  | trootXForm | tfree | tfreeInit => rw [exec]; exact framed_guarded (framed_nodeHandle framed_issueTop)
  | tstat => rw [exec]; exact framed_guarded (framed_nodeHandle framed_issueRet)
  | tleaf => rw [exec]; exact framed_tleaf
  | _ => exact absurd hf Bool.false_ne_true
end

/-- Settles O36: each instruction keeps within its licence (`exec_framed`), which says what O36 does. -/
theorem threadInstructionsWriteOnlyTheirDestinations : Obligations.ThreadInstructionsWriteOnlyTheirDestinations := by
  unfold Obligations.ThreadInstructionsWriteOnlyTheirDestinations
  intro i s t hf hx
  obtain ⟨⟨own, others, registers, csr, stores, buckets, priv⟩, units, field⟩ := exec_framed hf t hx
  obtain ⟨gr, pr, vec, csrs, rsp, rstore, fflags⟩ := own
  simp only [Prod.mk.injEq] at vec csrs csr stores units
  obtain ⟨hv, hvtag, hm⟩ := vec
  obtain ⟨hacc, hcst, hknots, huprog⟩ := stores
  obtain ⟨htiles, hfoc, htid, hports, hgalleries, hboot, hhalls⟩ := units
  have own_th : t.tile.th s.tid = t.th := by rw [← htid]; rfl
  rw [own_th] at gr pr hv hvtag hm csrs rsp rstore fflags
  refine ⟨gr, pr, hv, hvtag, hm, others, fun j hj => ?_, fun hc => ?_, rsp, rstore, fun hc h1 h2 => fflags hc ?_, hacc, hcst, hknots,
    huprog, buckets, priv, htiles, hfoc, htid, hports, hgalleries, hboot, hhalls, field⟩
  · have h := registers j hj
    simp only [Thread.registers, Prod.mk.injEq] at h
    obtain ⟨hg, hp, hv, -⟩ := h
    exact ⟨hg, hp, hv⟩
  · obtain ⟨h1, h2, h3, h4, h5⟩ := csrs hc
    obtain ⟨h6, h7, h8⟩ := csr hc
    exact ⟨h1, h2, h3, h4, h5, h6, h7, h8⟩
  · simp [licence, h1, h2]

end Sys2Proof.Machine
